-- ==== Sys2Proof/Word.lean ====
section
/-!
DEFINITION. The word types of the KD-64: 64-bit general registers, bytes, halfwords, 512-bit vector registers and 16-bit masks,
and the sparse tables that hold register files and units. Only the types stand here; their operations are under Machine/.
-/

namespace Sys2Proof

/-- A general register, an address register or a special register (R101, R105, R106). -/
abbrev Word := BitVec 64

/-- The smallest addressable unit of every space (R3). -/
abbrev Byte := BitVec 8

/-- A vector register: 16 lanes of 32 bits, lane i in bits [32i+31:32i] (R105). -/
abbrev Vec := BitVec 512

/-- One lane of a vector register. -/
abbrev Lane := BitVec 32

/-- A mask register: bit i governs lane i (R105). -/
abbrev Mask := BitVec 16

/-- A sparse table: keys strictly rising, no entry equal to what an absent key reads as. -/
abbrev Tab (α : Type) := List (Nat × α)

end Sys2Proof
end

