-- ==== Sys2Proof/Packet.lean ====
section
/-!
DEFINITION. What machine events carry: the mailbox message of Table 16.3, a training pattern and a management write.
-/

namespace Sys2Proof

/-- A mailbox message (Table 16.3). -/
structure Message where
  kind : Nat
  flags : Nat
  source : Nat
  ctx : Nat
  unit : Nat
  detail : Nat
  value : Word
  location : Word
  item : Nat
  ticket : Nat
  deriving DecidableEq, Repr, Inhabited

/-- A training pattern of the partner of a link, with the lanes that are faulted there (R274, R355). -/
structure Pattern where
  link : Nat
  faulted : Nat
  deriving DecidableEq, Repr, Inhabited

/-- A value written to a package's copy of a management register (Table 18.4). -/
structure PkgWrite where
  pkg : Nat
  value : Word
  deriving DecidableEq, Repr, Inhabited

end Sys2Proof
end

