-- ==== Sys2Proof/Syntax.lean ====
section
/-!
DEFINITION. The instruction set of the KD-64 as ONE inductive: one constructor per row of spec/opcode_table.json.
The 294 encoded rows carry the operand fields of chapter 5 (Tables 5.1 to 5.8; the stall count S of R79 is not an
operand: the decoder hands it on beside the instruction), the 11 stream commands those of Table 12.1, and the 99 event rows
name the object the machine event is about. Register fields keep their encoded width; what each field names is said by its meaning.
-/
namespace Sys2Proof

/-- One constructor per row of the opcode table. Fields stand from the least significant bit of the word up. -/
inductive Instr where
  -- Machine events: rows with no instruction word
  | mmaLatch (k : Nat) (o : Nat) (id : Nat)
  | mmaPass (k : Nat) (o : Nat) (id : Nat) (p : Nat)
  | mmaRowsFinal (k : Nat) (o : Nat) (id : Nat) (p : Nat)
  | mzeroExecute (k : Nat) (o : Nat) (id : Nat)
  | mwrExecute (k : Nat) (o : Nat) (id : Nat)
  | mstaExecute (k : Nat) (o : Nat) (id : Nat)
  | mstaEnd (k : Nat) (o : Nat) (id : Nat)
  | copyEnd (k : Nat) (t : Nat)
  | translationWalkDone (d : Nat) (kind : Nat) (id : Nat)
  | getLand (x : Nat)
  | streamProgramStart (key : Nat)
  | sepollSample (k : Nat) (t : Nat) (h : Nat) (rd : Nat)
  | streamMoveLand (key : Nat) (k : Nat) (w : Nat) (bytes : List (Nat × BitVec 8))
  | windowCounterIncrement (k : Nat) (w : Nat) (key : Nat)
  | streamListStart (lid : Nat)
  | arrivalBellDone (lid : Nat) (lvl : Nat) (inst : Nat)
  | writeHalf (lid : Nat) (lvl : Nat) (inst : Nat)
  | bellRelease (lid : Nat) (lvl : Nat) (inst : Nat)
  | barrierGenerationComplete (g : Nat) (id : Nat)
  | kmintDone (k : Nat) (t : Nat) (rd : Nat) (key : BitVec 64)
  | krevEffect (k : Nat) (t : Nat) (rd : Nat) (key : BitVec 32)
  | csetDone (k : Nat) (t : Nat) (rd : Nat) (v : BitVec 64)
  | cfreeDone (k : Nat) (t : Nat) (rd : Nat) (c : Nat)
  | bucketOpen (c : Nat) (seq : Nat)
  | bucketComplete (c : Nat) (seq : Nat)
  | bucketTimeout (c : Nat) (seq : Nat)
  | collectiveDelivery (c : Nat) (k : Nat) (w : Nat) (base : Nat) (seq : Nat) (bytes : List (BitVec 8))
  | planFiring (plan : Nat) (seq : Nat)
  | frameReceive (p : Nat) (l : Nat) (bytes : List (BitVec 8))
  | ackTimeout (p : Nat) (l : Nat) (since : Nat)
  | replayRequestTimeout (p : Nat) (l : Nat) (seq : Nat)
  | laneFault (p : Nat) (l : Nat) (lane : Nat)
  | trainDone (p : Nat) (l : Nat) (lanes : Nat) (last : Nat)
  | trainTimeout (p : Nat) (l : Nat) (since : Nat)
  | e2eStatus (x : Nat) (st : Nat) (bytes : List (BitVec 8))
  | e2eTimeout (x : Nat)
  | vcEscape (p : Nat) (l : Nat) (seq : Nat)
  | bufferRepair (p : Nat) (port : Nat) (c : Nat)
  | keyCheck (src : Nat) (op : Nat) (key : BitVec 32) (off : Nat) (n : Nat) (tag : Nat) (bytes : List (BitVec 8))
  | hbmWriteMatch (p : Nat) (a : Nat)
  | selection (p : Nat)
  | launchEntry (p : Nat) (q : Nat)
  | planEntry (p : Nat) (q : Nat)
  | collEntry (p : Nat) (q : Nat)
  | sealEntry (p : Nat) (q : Nat)
  | waitevEntry (p : Nat) (q : Nat)
  | sigevEntry (p : Nat) (q : Nat)
  | killEntry (p : Nat) (q : Nat)
  | killQuiesced (lid : Nat)
  | textLoad (lid : Nat)
  | startBroadcast (lid : Nat)
  | firstFetch (lid : Nat)
  | watchdogExpiry (lid : Nat) (since : Nat)
  | lineRefill (k : Nat) (t : Nat) (line : Nat)
  | fillerFetch (k : Nat) (line : Nat)
  | tickArrival (k : Nat) (mask : Nat)
  | tickTaken (k : Nat) (t : Nat)
  | threadPark (k : Nat) (t : Nat) (since : Nat)
  | swaitExpiry (k : Nat) (t : Nat) (upto : Nat)
  | idleWake (k : Nat) (t : Nat) (since : Nat)
  | mailboxArrival (d : Nat) (msg : Message)
  | tileResume (k : Nat) (fill : Nat)
  | engineRetry (kind : Nat) (id : Nat)
  | gangStop (lid : Nat) (why : Nat)
  | contextSave (lid : Nat)
  | contextRestore (lid : Nat)
  | undoLogDrain (k : Nat) (share : Nat)
  | groupUndoDrain (g : Nat)
  | saveSeal (emergency : Nat)
  | emergencyTimeout (p : Nat) (since : Nat)
  | escrowAck (p : Nat) (x : Nat)
  | uncorrectableFault (unit : Nat) (index : Nat) (place : Nat)
  | rollbackDone (code : BitVec 32) (origin : BitVec 32)
  | tileRetire (k : Nat)
  | finalExchange (lid : Nat) (lvl : Nat) (inst : Nat)
  | completionReport (lid : Nat) (lvl : Nat) (inst : Nat)
  | completionCommit (lid : Nat)
  | launchComplete (lid : Nat)
  | completionAdd (lid : Nat)
  | completionAddDone (lid : Nat)
  | rampTick
  | telemetryTick
  | overtempWarning (p : Nat)
  | thermalShutdown (p : Nat)
  | coldReset
  | warmReset
  | repairLearned (d : Nat) (col : Nat)
  | repairCommit (d : Nat) (col : Nat)
  | boot (p : Nat) (image : List (BitVec 8)) (text : List (BitVec 8)) (lc : Nat) (nthr : Nat)
  | spdmRequest (p : Nat) (req : List (BitVec 8))
  | cxlMemAccess (p : Nat) (write : Bool) (a : Nat) (bytes : List (BitVec 8))
  | managementWrite (p : Nat) (off : Nat) (v : BitVec 64) (trusted : Bool)
  | mgLinkctl (p : Nat) (v : BitVec 64) (trusted : Bool)
  | mgBbctl (p : Nat) (v : BitVec 64) (trusted : Bool)
  | mgPod (v : PkgWrite) (trusted : Bool)
  | unassignedWord (w : BitVec 32)
  | trainingPatternArrival (p : Nat) (l : Pattern)
  | switchFailure (lvl : Nat) (index : Nat)
  | translationInvalidation (kind : Nat) (index : Nat) (ctx : Nat) (page : Nat)
  -- Stream commands (R223, Table 12.2)
  | scSeta (imm : BitVec 32) (h : BitVec 16) (z : BitVec 1) (g : BitVec 2) (f : BitVec 4)
  | scSetb (imm : BitVec 32) (h : BitVec 16) (kind : BitVec 3) (z : BitVec 1) (g : BitVec 2) (f : BitVec 4)
  | scMove (n : BitVec 20)
  | scMoveq (n : BitVec 20) (mode : BitVec 2) (f : BitVec 4)
  | scLoop (imm : BitVec 32) (z : BitVec 1) (g : BitVec 2) (f : BitVec 4)
  | scNext (t : BitVec 16) (f : BitVec 4)
  | scWaitp
  | scArrive
  | scBarr (imm : BitVec 32) (z : BitVec 1) (g : BitVec 2) (f : BitVec 4)
  | scJump (t : BitVec 16)
  | scEnd
  -- System and special-register words (R122–R127, R306)
  | nop
  | halt
  | trap (c : BitVec 12)
  | eret
  | mfsr (d : BitVec 5) (n : BitVec 12)
  | mtsr (a : BitVec 5) (n : BitVec 12)
  | swait (a : BitVec 5)
  | wsave
  | wrest
  | mbxrd (d : BitVec 5) (w : BitVec 1)
  | mbxpost (a : BitVec 5)
  | xresume (a : BitVec 5)
  | gstop (a : BitVec 5)
  | gstopRelease (a : BitVec 5)
  | unpark (a : BitVec 5)
  | idle (a : BitVec 5)
  -- ALU (R109)
  | add (d : BitVec 5) (a : BitVec 5) (b : BitVec 5)
  | sub (d : BitVec 5) (a : BitVec 5) (b : BitVec 5)
  | addw (d : BitVec 5) (a : BitVec 5) (b : BitVec 5)
  | subw (d : BitVec 5) (a : BitVec 5) (b : BitVec 5)
  | and (d : BitVec 5) (a : BitVec 5) (b : BitVec 5)
  | or (d : BitVec 5) (a : BitVec 5) (b : BitVec 5)
  | xor (d : BitVec 5) (a : BitVec 5) (b : BitVec 5)
  | andn (d : BitVec 5) (a : BitVec 5) (b : BitVec 5)
  | sll (d : BitVec 5) (a : BitVec 5) (b : BitVec 5)
  | srl (d : BitVec 5) (a : BitVec 5) (b : BitVec 5)
  | sra (d : BitVec 5) (a : BitVec 5) (b : BitVec 5)
  | mul (d : BitVec 5) (a : BitVec 5) (b : BitVec 5)
  | mulw (d : BitVec 5) (a : BitVec 5) (b : BitVec 5)
  | mulh (d : BitVec 5) (a : BitVec 5) (b : BitVec 5)
  | mulhu (d : BitVec 5) (a : BitVec 5) (b : BitVec 5)
  | div (d : BitVec 5) (a : BitVec 5) (b : BitVec 5)
  | divu (d : BitVec 5) (a : BitVec 5) (b : BitVec 5)
  | rem (d : BitVec 5) (a : BitVec 5) (b : BitVec 5)
  | remu (d : BitVec 5) (a : BitVec 5) (b : BitVec 5)
  | min (d : BitVec 5) (a : BitVec 5) (b : BitVec 5)
  | max (d : BitVec 5) (a : BitVec 5) (b : BitVec 5)
  | minu (d : BitVec 5) (a : BitVec 5) (b : BitVec 5)
  | maxu (d : BitVec 5) (a : BitVec 5) (b : BitVec 5)
  | seq (d : BitVec 5) (a : BitVec 5) (b : BitVec 5)
  | slt (d : BitVec 5) (a : BitVec 5) (b : BitVec 5)
  | sltu (d : BitVec 5) (a : BitVec 5) (b : BitVec 5)
  | clz (d : BitVec 5) (a : BitVec 5)
  | ctz (d : BitVec 5) (a : BitVec 5)
  | popc (d : BitVec 5) (a : BitVec 5)
  | sextb (d : BitVec 5) (a : BitVec 5)
  | sexth (d : BitVec 5) (a : BitVec 5)
  | sextw (d : BitVec 5) (a : BitVec 5)
  | zextb (d : BitVec 5) (a : BitVec 5)
  | zexth (d : BitVec 5) (a : BitVec 5)
  | zextw (d : BitVec 5) (a : BitVec 5)
  -- Immediates and constants (R111, R112)
  | addi (d : BitVec 5) (a : BitVec 5) (i : BitVec 12)
  | andi (d : BitVec 5) (a : BitVec 5) (i : BitVec 12)
  | ori (d : BitVec 5) (a : BitVec 5) (i : BitVec 12)
  | xori (d : BitVec 5) (a : BitVec 5) (i : BitVec 12)
  | slti (d : BitVec 5) (a : BitVec 5) (i : BitVec 11)
  | sltiu (d : BitVec 5) (a : BitVec 5) (i : BitVec 11)
  | slli (d : BitVec 5) (a : BitVec 5) (h : BitVec 6)
  | srli (d : BitVec 5) (a : BitVec 5) (h : BitVec 6)
  | srai (d : BitVec 5) (a : BitVec 5) (h : BitVec 6)
  | ldi (d : BitVec 5) (i : BitVec 17)
  | ldih (d : BitVec 5) (i : BitVec 17)
  -- Bit fields and selects (R113, R114)
  | bfx (d : BitVec 5) (a : BitVec 5) (b : BitVec 5)
  | bfxu (d : BitVec 5) (a : BitVec 5) (b : BitVec 5)
  | bfi (d : BitVec 5) (a : BitVec 5) (b : BitVec 5)
  | csel (d : BitVec 5) (a : BitVec 5) (b : BitVec 5) (c : BitVec 5)
  | cseln (d : BitVec 5) (a : BitVec 5) (b : BitVec 5) (c : BitVec 5)
  -- Branches and jumps (R119–R121)
  | beq (a : BitVec 5) (b : BitVec 5) (n : BitVec 1) (o : BitVec 11)
  | bne (a : BitVec 5) (b : BitVec 5) (n : BitVec 1) (o : BitVec 11)
  | blt (a : BitVec 5) (b : BitVec 5) (n : BitVec 1) (o : BitVec 11)
  | bge (a : BitVec 5) (b : BitVec 5) (n : BitVec 1) (o : BitVec 11)
  | bltu (a : BitVec 5) (b : BitVec 5) (n : BitVec 1) (o : BitVec 11)
  | bgeu (a : BitVec 5) (b : BitVec 5) (n : BitVec 1) (o : BitVec 11)
  | jmp (j : BitVec 22)
  | call (j : BitVec 22)
  | jr (a : BitVec 5)
  | callr (a : BitVec 5)
  | ret
  -- Loop-nest unit (R129–R131)
  | lnset (a : BitVec 5) (j : BitVec 2)
  | lnco (k : BitVec 5) (a : BitVec 5) (j : BitVec 2)
  | lnbase (k : BitVec 5) (a : BitVec 5) (j : BitVec 2)
  | lnidx (a : BitVec 5) (j : BitVec 2)
  | loop (o : BitVec 15) (j : BitVec 2)
  -- Tile loads, stores and atomics (R183, R184)
  | ldtB (d : BitVec 5) (a : BitVec 5) (i : BitVec 9)
  | ldtBu (d : BitVec 5) (a : BitVec 5) (i : BitVec 9)
  | ldtH (d : BitVec 5) (a : BitVec 5) (i : BitVec 9)
  | ldtHu (d : BitVec 5) (a : BitVec 5) (i : BitVec 9)
  | ldtW (d : BitVec 5) (a : BitVec 5) (i : BitVec 9)
  | ldtWu (d : BitVec 5) (a : BitVec 5) (i : BitVec 9)
  | ldtD (d : BitVec 5) (a : BitVec 5) (i : BitVec 9)
  | ldtBAreg (d : BitVec 5) (k : BitVec 4)
  | ldtBuAreg (d : BitVec 5) (k : BitVec 4)
  | ldtHAreg (d : BitVec 5) (k : BitVec 4)
  | ldtHuAreg (d : BitVec 5) (k : BitVec 4)
  | ldtWAreg (d : BitVec 5) (k : BitVec 4)
  | ldtWuAreg (d : BitVec 5) (k : BitVec 4)
  | ldtDAreg (d : BitVec 5) (k : BitVec 4)
  | sttB (d : BitVec 5) (a : BitVec 5) (i : BitVec 9)
  | sttH (d : BitVec 5) (a : BitVec 5) (i : BitVec 9)
  | sttW (d : BitVec 5) (a : BitVec 5) (i : BitVec 9)
  | sttD (d : BitVec 5) (a : BitVec 5) (i : BitVec 9)
  | sttBAreg (d : BitVec 5) (k : BitVec 4)
  | sttHAreg (d : BitVec 5) (k : BitVec 4)
  | sttWAreg (d : BitVec 5) (k : BitVec 4)
  | sttDAreg (d : BitVec 5) (k : BitVec 4)
  | amtAdd (d : BitVec 5) (a : BitVec 5) (b : BitVec 5) (w : BitVec 1)
  | amtSwap (d : BitVec 5) (a : BitVec 5) (b : BitVec 5) (w : BitVec 1)
  | amtCas (d : BitVec 5) (a : BitVec 5) (b : BitVec 5) (w : BitVec 1)
  | amtMin (d : BitVec 5) (a : BitVec 5) (b : BitVec 5) (w : BitVec 1)
  | amtMax (d : BitVec 5) (a : BitVec 5) (b : BitVec 5) (w : BitVec 1)
  | amtAnd (d : BitVec 5) (a : BitVec 5) (b : BitVec 5) (w : BitVec 1)
  | amtOr (d : BitVec 5) (a : BitVec 5) (b : BitVec 5) (w : BitVec 1)
  | amtXor (d : BitVec 5) (a : BitVec 5) (b : BitVec 5) (w : BitVec 1)
  -- Vector memory, copies and fills (R185–R190)
  | vldt (d : BitVec 5) (a : BitVec 5) (o : BitVec 5) (m : BitVec 3)
  | vstt (d : BitVec 5) (a : BitVec 5) (o : BitVec 5) (m : BitVec 3)
  | vldts (d : BitVec 5) (a : BitVec 5) (b : BitVec 5) (m : BitVec 3)
  | vstts (d : BitVec 5) (a : BitVec 5) (b : BitVec 5) (m : BitVec 3)
  | vgath (d : BitVec 5) (a : BitVec 5) (b : BitVec 5) (m : BitVec 3)
  | vscat (d : BitVec 5) (a : BitVec 5) (b : BitVec 5) (m : BitVec 3)
  | copyb (d : BitVec 5) (a : BitVec 5) (c : BitVec 5)
  | fillb (d : BitVec 5) (a : BitVec 5) (c : BitVec 5)
  -- Vector arithmetic (R136–R151)
  | vaddF (d : BitVec 5) (a : BitVec 5) (b : BitVec 5) (m : BitVec 3)
  | vsubF (d : BitVec 5) (a : BitVec 5) (b : BitVec 5) (m : BitVec 3)
  | vmulF (d : BitVec 5) (a : BitVec 5) (b : BitVec 5) (m : BitVec 3)
  | vfmaF (d : BitVec 5) (a : BitVec 5) (b : BitVec 5) (m : BitVec 3)
  | vfmsF (d : BitVec 5) (a : BitVec 5) (b : BitVec 5) (m : BitVec 3)
  | vfnmaF (d : BitVec 5) (a : BitVec 5) (b : BitVec 5) (m : BitVec 3)
  | vminF (d : BitVec 5) (a : BitVec 5) (b : BitVec 5) (m : BitVec 3)
  | vmaxF (d : BitVec 5) (a : BitVec 5) (b : BitVec 5) (m : BitVec 3)
  | vabsF (d : BitVec 5) (a : BitVec 5) (m : BitVec 3)
  | vnegF (d : BitVec 5) (a : BitVec 5) (m : BitVec 3)
  | vrcpF (d : BitVec 5) (a : BitVec 5) (m : BitVec 3)
  | vrsqF (d : BitVec 5) (a : BitVec 5) (m : BitVec 3)
  | vsqrtF (d : BitVec 5) (a : BitVec 5) (m : BitVec 3)
  | vdivF (d : BitVec 5) (a : BitVec 5) (b : BitVec 5) (m : BitVec 3)
  | vexp2F (d : BitVec 5) (a : BitVec 5) (m : BitVec 3)
  | vlog2F (d : BitVec 5) (a : BitVec 5) (m : BitVec 3)
  | vaddI (d : BitVec 5) (a : BitVec 5) (b : BitVec 5) (m : BitVec 3)
  | vsubI (d : BitVec 5) (a : BitVec 5) (b : BitVec 5) (m : BitVec 3)
  | vmulI (d : BitVec 5) (a : BitVec 5) (b : BitVec 5) (m : BitVec 3)
  | vmulhI (d : BitVec 5) (a : BitVec 5) (b : BitVec 5) (m : BitVec 3)
  | vmulhuI (d : BitVec 5) (a : BitVec 5) (b : BitVec 5) (m : BitVec 3)
  | vminI (d : BitVec 5) (a : BitVec 5) (b : BitVec 5) (m : BitVec 3)
  | vmaxI (d : BitVec 5) (a : BitVec 5) (b : BitVec 5) (m : BitVec 3)
  | vminuI (d : BitVec 5) (a : BitVec 5) (b : BitVec 5) (m : BitVec 3)
  | vmaxuI (d : BitVec 5) (a : BitVec 5) (b : BitVec 5) (m : BitVec 3)
  | vabsI (d : BitVec 5) (a : BitVec 5) (m : BitVec 3)
  | vaddsI (d : BitVec 5) (a : BitVec 5) (b : BitVec 5) (m : BitVec 3)
  | vsubsI (d : BitVec 5) (a : BitVec 5) (b : BitVec 5) (m : BitVec 3)
  | vand (d : BitVec 5) (a : BitVec 5) (b : BitVec 5) (m : BitVec 3)
  | vor (d : BitVec 5) (a : BitVec 5) (b : BitVec 5) (m : BitVec 3)
  | vxor (d : BitVec 5) (a : BitVec 5) (b : BitVec 5) (m : BitVec 3)
  | vandn (d : BitVec 5) (a : BitVec 5) (b : BitVec 5) (m : BitVec 3)
  | vnot (d : BitVec 5) (a : BitVec 5) (m : BitVec 3)
  | vshlV (d : BitVec 5) (a : BitVec 5) (b : BitVec 5) (m : BitVec 3)
  | vshrV (d : BitVec 5) (a : BitVec 5) (b : BitVec 5) (m : BitVec 3)
  | vsraV (d : BitVec 5) (a : BitVec 5) (b : BitVec 5) (m : BitVec 3)
  | vshli (d : BitVec 5) (a : BitVec 5) (n : BitVec 5) (m : BitVec 3)
  | vshri (d : BitVec 5) (a : BitVec 5) (n : BitVec 5) (m : BitVec 3)
  | vsrai (d : BitVec 5) (a : BitVec 5) (n : BitVec 5) (m : BitVec 3)
  | vpopc (d : BitVec 5) (a : BitVec 5) (m : BitVec 3)
  | vclz (d : BitVec 5) (a : BitVec 5) (m : BitVec 3)
  | vcmpFEq (d : BitVec 5) (a : BitVec 5) (b : BitVec 5) (m : BitVec 3)
  | vcmpFNe (d : BitVec 5) (a : BitVec 5) (b : BitVec 5) (m : BitVec 3)
  | vcmpFLt (d : BitVec 5) (a : BitVec 5) (b : BitVec 5) (m : BitVec 3)
  | vcmpFLe (d : BitVec 5) (a : BitVec 5) (b : BitVec 5) (m : BitVec 3)
  | vcmpFUn (d : BitVec 5) (a : BitVec 5) (b : BitVec 5) (m : BitVec 3)
  | vcmpIEq (d : BitVec 5) (a : BitVec 5) (b : BitVec 5) (m : BitVec 3)
  | vcmpINe (d : BitVec 5) (a : BitVec 5) (b : BitVec 5) (m : BitVec 3)
  | vcmpILt (d : BitVec 5) (a : BitVec 5) (b : BitVec 5) (m : BitVec 3)
  | vcmpILe (d : BitVec 5) (a : BitVec 5) (b : BitVec 5) (m : BitVec 3)
  | vcmpILtu (d : BitVec 5) (a : BitVec 5) (b : BitVec 5) (m : BitVec 3)
  | vcmpILeu (d : BitVec 5) (a : BitVec 5) (b : BitVec 5) (m : BitVec 3)
  | vsel (d : BitVec 5) (a : BitVec 5) (b : BitVec 5) (m : BitVec 3)
  | vclass (d : BitVec 5) (a : BitVec 5) (m : BitVec 3)
  | vcvtFI (d : BitVec 5) (a : BitVec 5) (u : BitVec 1) (r : BitVec 2) (m : BitVec 3)
  | vcvtIF (d : BitVec 5) (a : BitVec 5) (u : BitVec 1) (r : BitVec 2) (m : BitVec 3)
  | vcvtBfF (d : BitVec 5) (a : BitVec 5) (h : BitVec 1) (r : BitVec 2) (m : BitVec 3)
  | vcvtFBf (d : BitVec 5) (a : BitVec 5) (h : BitVec 1) (m : BitVec 3)
  | vcvtHF (d : BitVec 5) (a : BitVec 5) (h : BitVec 1) (r : BitVec 2) (m : BitVec 3)
  | vcvtFH (d : BitVec 5) (a : BitVec 5) (h : BitVec 1) (m : BitVec 3)
  | vquant (d : BitVec 5) (a : BitVec 5) (b : BitVec 5) (m : BitVec 3)
  | vdeq (d : BitVec 5) (a : BitVec 5) (h : BitVec 1) (w : BitVec 1) (m : BitVec 3)
  | vpackI8 (d : BitVec 5) (a : BitVec 5) (q : BitVec 2) (u : BitVec 1) (m : BitVec 3)
  | vunpkI8 (d : BitVec 5) (a : BitVec 5) (q : BitVec 2) (u : BitVec 1) (m : BitVec 3)
  | vredaddF (d : BitVec 5) (a : BitVec 5) (m : BitVec 3)
  | vredaddI (d : BitVec 5) (a : BitVec 5) (m : BitVec 3)
  | vredmaxF (d : BitVec 5) (a : BitVec 5) (m : BitVec 3)
  | vredminF (d : BitVec 5) (a : BitVec 5) (m : BitVec 3)
  | vredmaxI (d : BitVec 5) (a : BitVec 5) (m : BitVec 3)
  | vamax (d : BitVec 5) (a : BitVec 5) (m : BitVec 3)
  | vscanI (d : BitVec 5) (a : BitVec 5) (m : BitVec 3)
  | vscanF (d : BitVec 5) (a : BitVec 5) (m : BitVec 3)
  -- Permutes and masks (R152, R153)
  | vperm (d : BitVec 5) (a : BitVec 5) (b : BitVec 5) (m : BitVec 3)
  | vbcast (d : BitVec 5) (a : BitVec 5) (m : BitVec 3)
  | vextr (d : BitVec 5) (a : BitVec 5) (n : BitVec 4)
  | vins (d : BitVec 5) (a : BitVec 5) (n : BitVec 4) (m : BitVec 3)
  | vcompr (d : BitVec 5) (a : BitVec 5) (m : BitVec 3)
  | vexpnd (d : BitVec 5) (a : BitVec 5) (m : BitVec 3)
  | vrot (d : BitVec 5) (a : BitVec 5) (n : BitVec 4) (m : BitVec 3)
  | viota (d : BitVec 5) (m : BitVec 3)
  | mand (d : BitVec 5) (a : BitVec 5) (b : BitVec 5)
  | mor (d : BitVec 5) (a : BitVec 5) (b : BitVec 5)
  | mxor (d : BitVec 5) (a : BitVec 5) (b : BitVec 5)
  | mnot (d : BitVec 5) (a : BitVec 5)
  | mpop (d : BitVec 5) (a : BitVec 5)
  | mfirst (d : BitVec 5) (a : BitVec 5)
  | mset (d : BitVec 5) (n : BitVec 5)
  | mget (d : BitVec 5) (a : BitVec 5) (n : BitVec 4)
  -- Matrix (R162–R170)
  | mmaBf (b : BitVec 1) (t : BitVec 1) (x : BitVec 1) (k : BitVec 9) (n : BitVec 5) (c : BitVec 3)
  | mmaH (b : BitVec 1) (t : BitVec 1) (x : BitVec 1) (k : BitVec 9) (n : BitVec 5) (c : BitVec 3)
  | mmaD8 (b : BitVec 1) (t : BitVec 1) (x : BitVec 1) (k : BitVec 9) (n : BitVec 5) (c : BitVec 3)
  | mmaI8 (b : BitVec 1) (t : BitVec 1) (x : BitVec 1) (k : BitVec 9) (n : BitVec 5) (c : BitVec 3)
  | mzero (c : BitVec 3)
  | mrd (r : BitVec 4) (d : BitVec 5) (c : BitVec 3)
  | mwr (r : BitVec 4) (v : BitVec 5) (c : BitVec 3)
  | mwm (d : BitVec 5) (c : BitVec 3)
  | msta (i : BitVec 1) (k : BitVec 9) (n : BitVec 5) (c : BitVec 3)
  | mwait (q : BitVec 1) (c : BitVec 3)
  | mscale (m : BitVec 4) (a : BitVec 5)
  | mmask (a : BitVec 5)
  -- Gets, deposits, block deposits and level atomics (R203–R212)
  | getg (t : BitVec 5) (a : BitVec 5) (l : BitVec 5) (v : BitVec 1)
  | gets (t : BitVec 5) (a : BitVec 5) (l : BitVec 5) (v : BitVec 1)
  | getm (t : BitVec 5) (a : BitVec 5) (l : BitVec 5) (v : BitVec 1)
  | geth (t : BitVec 5) (a : BitVec 5) (l : BitVec 5) (v : BitVec 1)
  | getr (t : BitVec 5) (a : BitVec 5) (l : BitVec 5) (v : BitVec 1)
  | gett (t : BitVec 5) (a : BitVec 5) (l : BitVec 5)
  | depg (t : BitVec 5) (a : BitVec 5) (l : BitVec 5)
  | deps (t : BitVec 5) (a : BitVec 5) (l : BitVec 5)
  | depm (t : BitVec 5) (a : BitVec 5) (l : BitVec 5)
  | deph (t : BitVec 5) (a : BitVec 5) (l : BitVec 5)
  | depr (t : BitVec 5) (a : BitVec 5) (l : BitVec 5)
  | dept (t : BitVec 5) (a : BitVec 5) (l : BitVec 5)
  | depa (t : BitVec 5) (a : BitVec 5) (l : BitVec 5)
  | depbG (t : BitVec 5) (a : BitVec 5) (l : BitVec 5)
  | depbS (t : BitVec 5) (a : BitVec 5) (l : BitVec 5)
  | depbM (t : BitVec 5) (a : BitVec 5) (l : BitVec 5)
  | depbH (t : BitVec 5) (a : BitVec 5) (l : BitVec 5)
  | depbR (t : BitVec 5) (a : BitVec 5) (l : BitVec 5)
  | depbT (t : BitVec 5) (a : BitVec 5) (l : BitVec 5)
  | amogAdd (t : BitVec 5) (a : BitVec 5) (v : BitVec 5)
  | amomAdd (t : BitVec 5) (a : BitVec 5) (v : BitVec 5)
  | amorAdd (t : BitVec 5) (a : BitVec 5) (v : BitVec 5)
  | amogMin (t : BitVec 5) (a : BitVec 5) (v : BitVec 5)
  | amomMin (t : BitVec 5) (a : BitVec 5) (v : BitVec 5)
  | amorMin (t : BitVec 5) (a : BitVec 5) (v : BitVec 5)
  | amogMax (t : BitVec 5) (a : BitVec 5) (v : BitVec 5)
  | amomMax (t : BitVec 5) (a : BitVec 5) (v : BitVec 5)
  | amorMax (t : BitVec 5) (a : BitVec 5) (v : BitVec 5)
  | amogSwap (t : BitVec 5) (a : BitVec 5) (v : BitVec 5)
  | amomSwap (t : BitVec 5) (a : BitVec 5) (v : BitVec 5)
  | amorSwap (t : BitVec 5) (a : BitVec 5) (v : BitVec 5)
  | amogCas (t : BitVec 5) (a : BitVec 5) (v : BitVec 5)
  | amomCas (t : BitVec 5) (a : BitVec 5) (v : BitVec 5)
  | amorCas (t : BitVec 5) (a : BitVec 5) (v : BitVec 5)
  -- Batches, fences, stream engines and windows (R214–R217, R231–R236)
  | bseal
  | bwait (d : BitVec 5) (a : BitVec 5)
  | xfence (a : BitVec 5) (b : BitVec 5)
  | sestart (a : BitVec 5) (b : BitVec 5)
  | sestop (a : BitVec 5)
  | sepoll (d : BitVec 5) (a : BitVec 5)
  | wdef (a : BitVec 5) (b : BitVec 5)
  | waita (d : BitVec 5) (a : BitVec 5) (w : BitVec 4)
  | rela (a : BitVec 5) (w : BitVec 4)
  -- Synchronisation (R244–R257)
  | sync (d : BitVec 5) (a : BitVec 5) (p : BitVec 4) (l : BitVec 3)
  | abort (a : BitVec 5)
  | aclr
  | seal (d : BitVec 5)
  | bara (a : BitVec 5) (i : BitVec 3)
  | barw (i : BitVec 3)
  | tsync
  -- Fabric (R280–R293)
  | kmint (d : BitVec 5) (a : BitVec 5) (b : BitVec 5)
  | krev (d : BitVec 5) (a : BitVec 5)
  | cset (d : BitVec 5) (a : BitVec 5) (b : BitVec 5)
  | cfree (d : BitVec 5) (a : BitVec 5)
  | cfire (a : BitVec 5)
  | mlred (k : BitVec 5) (a : BitVec 5) (b : BitVec 5) (w : BitVec 1) (x : BitVec 1)
  | mcast (a : BitVec 5) (b : BitVec 5)
  -- 16-bit words (R80, Table 5.2)
  | vmov16 (d : BitVec 5) (v : BitVec 5) (m : BitVec 1)
  | vaddF16 (d : BitVec 5) (v : BitVec 5) (m : BitVec 1)
  | vsubF16 (d : BitVec 5) (v : BitVec 5) (m : BitVec 1)
  | vmulF16 (d : BitVec 5) (v : BitVec 5) (m : BitVec 1)
  | vfmac16 (d : BitVec 5) (v : BitVec 5) (m : BitVec 1)
  | vmaxF16 (d : BitVec 5) (v : BitVec 5) (m : BitVec 1)
  | vminF16 (d : BitVec 5) (v : BitVec 5) (m : BitVec 1)
  | vaddI16 (d : BitVec 5) (v : BitVec 5) (m : BitVec 1)
  | vsubI16 (d : BitVec 5) (v : BitVec 5) (m : BitVec 1)
  | vmulI16 (d : BitVec 5) (v : BitVec 5) (m : BitVec 1)
  | vand16 (d : BitVec 5) (v : BitVec 5) (m : BitVec 1)
  | vor16 (d : BitVec 5) (v : BitVec 5) (m : BitVec 1)
  | vxor16 (d : BitVec 5) (v : BitVec 5) (m : BitVec 1)
  | vshlV16 (d : BitVec 5) (v : BitVec 5) (m : BitVec 1)
  | vshrV16 (d : BitVec 5) (v : BitVec 5) (m : BitVec 1)
  | vsraV16 (d : BitVec 5) (v : BitVec 5) (m : BitVec 1)
  deriving DecidableEq, Repr, Inhabited

end Sys2Proof
end

