-- ==== Sys2Proof/WellFormed.lean ====
section
/-!
DEFINITION. Which instructions are well formed: the operand limits of R82 and of the instruction entries that an operand field can
break although the table assigns the word (a register above its class, a reserved selector). A word whose instruction is not well
formed traps ILLEGAL (R82, R88): the decoder rejects it by name.
-/

namespace Sys2Proof

/-- R82 and the entries' own operand limits, one arm per constructor. -/
def Instr.wellFormed : Instr → Bool
  | .nop => true
  | .halt => true
  | .trap _ => true
  | .eret => true
  | .mfsr _ _ => true
  | .mtsr _ _ => true
  | .swait _ => true
  | .wsave => true
  | .wrest => true
  | .mbxrd _ _ => true
  | .mbxpost _ => true
  | .xresume _ => true
  | .gstop _ => true
  | .gstopRelease _ => true
  | .unpark _ => true
  | .idle _ => true
  | .add _ _ _ => true
  | .sub _ _ _ => true
  | .addw _ _ _ => true
  | .subw _ _ _ => true
  | .and _ _ _ => true
  | .or _ _ _ => true
  | .xor _ _ _ => true
  | .andn _ _ _ => true
  | .sll _ _ _ => true
  | .srl _ _ _ => true
  | .sra _ _ _ => true
  | .mul _ _ _ => true
  | .mulw _ _ _ => true
  | .mulh _ _ _ => true
  | .mulhu _ _ _ => true
  | .div _ _ _ => true
  | .divu _ _ _ => true
  | .rem _ _ _ => true
  | .remu _ _ _ => true
  | .min _ _ _ => true
  | .max _ _ _ => true
  | .minu _ _ _ => true
  | .maxu _ _ _ => true
  | .seq _ _ _ => true
  | .slt _ _ _ => true
  | .sltu _ _ _ => true
  | .clz _ _ => true
  | .ctz _ _ => true
  | .popc _ _ => true
  | .sextb _ _ => true
  | .sexth _ _ => true
  | .sextw _ _ => true
  | .zextb _ _ => true
  | .zexth _ _ => true
  | .zextw _ _ => true
  | .addi _ _ _ => true
  | .andi _ _ _ => true
  | .ori _ _ _ => true
  | .xori _ _ _ => true
  | .slti _ _ _ => true
  | .sltiu _ _ _ => true
  | .slli _ _ _ => true
  | .srli _ _ _ => true
  | .srai _ _ _ => true
  | .ldi _ _ => true
  | .ldih _ _ => true
  | .bfx _ _ _ => true
  | .bfxu _ _ _ => true
  | .bfi _ _ _ => true
  | .csel _ _ _ _ => true
  | .cseln _ _ _ _ => true
  | .beq _ _ _ _ => true
  | .bne _ _ _ _ => true
  | .blt _ _ _ _ => true
  | .bge _ _ _ _ => true
  | .bltu _ _ _ _ => true
  | .bgeu _ _ _ _ => true
  | .jmp _ => true
  | .call _ => true
  | .jr _ => true
  | .callr _ => true
  | .ret => true
  | .lnset _ _ => true
  | .lnco k _ _ => decide (k.toNat ≤ 15)
  | .lnbase k _ _ => decide (k.toNat ≤ 15)
  | .lnidx _ _ => true
  | .loop _ _ => true
  | .ldtB _ _ _ => true
  | .ldtBu _ _ _ => true
  | .ldtH _ _ _ => true
  | .ldtHu _ _ _ => true
  | .ldtW _ _ _ => true
  | .ldtWu _ _ _ => true
  | .ldtD _ _ _ => true
  | .ldtBAreg _ _ => true
  | .ldtBuAreg _ _ => true
  | .ldtHAreg _ _ => true
  | .ldtHuAreg _ _ => true
  | .ldtWAreg _ _ => true
  | .ldtWuAreg _ _ => true
  | .ldtDAreg _ _ => true
  | .sttB _ _ _ => true
  | .sttH _ _ _ => true
  | .sttW _ _ _ => true
  | .sttD _ _ _ => true
  | .sttBAreg _ _ => true
  | .sttHAreg _ _ => true
  | .sttWAreg _ _ => true
  | .sttDAreg _ _ => true
  | .amtAdd _ _ _ _ => true
  | .amtSwap _ _ _ _ => true
  | .amtCas _ _ _ _ => true
  | .amtMin _ _ _ _ => true
  | .amtMax _ _ _ _ => true
  | .amtAnd _ _ _ _ => true
  | .amtOr _ _ _ _ => true
  | .amtXor _ _ _ _ => true
  | .vldt _ _ _ _ => true
  | .vstt _ _ _ _ => true
  | .vldts _ _ _ _ => true
  | .vstts _ _ _ _ => true
  | .vgath _ _ _ _ => true
  | .vscat _ _ _ _ => true
  | .copyb _ _ _ => true
  | .fillb _ _ _ => true
  | .vaddF _ _ _ _ => true
  | .vsubF _ _ _ _ => true
  | .vmulF _ _ _ _ => true
  | .vfmaF _ _ _ _ => true
  | .vfmsF _ _ _ _ => true
  | .vfnmaF _ _ _ _ => true
  | .vminF _ _ _ _ => true
  | .vmaxF _ _ _ _ => true
  | .vabsF _ _ _ => true
  | .vnegF _ _ _ => true
  | .vrcpF _ _ _ => true
  | .vrsqF _ _ _ => true
  | .vsqrtF _ _ _ => true
  | .vdivF _ _ _ _ => true
  | .vexp2F _ _ _ => true
  | .vlog2F _ _ _ => true
  | .vaddI _ _ _ _ => true
  | .vsubI _ _ _ _ => true
  | .vmulI _ _ _ _ => true
  | .vmulhI _ _ _ _ => true
  | .vmulhuI _ _ _ _ => true
  | .vminI _ _ _ _ => true
  | .vmaxI _ _ _ _ => true
  | .vminuI _ _ _ _ => true
  | .vmaxuI _ _ _ _ => true
  | .vabsI _ _ _ => true
  | .vaddsI _ _ _ _ => true
  | .vsubsI _ _ _ _ => true
  | .vand _ _ _ _ => true
  | .vor _ _ _ _ => true
  | .vxor _ _ _ _ => true
  | .vandn _ _ _ _ => true
  | .vnot _ _ _ => true
  | .vshlV _ _ _ _ => true
  | .vshrV _ _ _ _ => true
  | .vsraV _ _ _ _ => true
  | .vshli _ _ _ _ => true
  | .vshri _ _ _ _ => true
  | .vsrai _ _ _ _ => true
  | .vpopc _ _ _ => true
  | .vclz _ _ _ => true
  | .vcmpFEq d _ _ _ => decide (d.toNat ≤ 7)
  | .vcmpFNe d _ _ _ => decide (d.toNat ≤ 7)
  | .vcmpFLt d _ _ _ => decide (d.toNat ≤ 7)
  | .vcmpFLe d _ _ _ => decide (d.toNat ≤ 7)
  | .vcmpFUn d _ _ _ => decide (d.toNat ≤ 7)
  | .vcmpIEq d _ _ _ => decide (d.toNat ≤ 7)
  | .vcmpINe d _ _ _ => decide (d.toNat ≤ 7)
  | .vcmpILt d _ _ _ => decide (d.toNat ≤ 7)
  | .vcmpILe d _ _ _ => decide (d.toNat ≤ 7)
  | .vcmpILtu d _ _ _ => decide (d.toNat ≤ 7)
  | .vcmpILeu d _ _ _ => decide (d.toNat ≤ 7)
  | .vsel _ _ _ _ => true
  | .vclass _ _ _ => true
  | .vcvtFI _ _ _ _ _ => true
  | .vcvtIF _ _ _ _ _ => true
  | .vcvtBfF _ _ _ _ _ => true
  | .vcvtFBf _ _ _ _ => true
  | .vcvtHF _ _ _ _ _ => true
  | .vcvtFH _ _ _ _ => true
  | .vquant _ _ _ _ => true
  | .vdeq _ _ _ _ _ => true
  | .vpackI8 _ _ _ _ _ => true
  | .vunpkI8 _ _ _ _ _ => true
  | .vredaddF _ _ _ => true
  | .vredaddI _ _ _ => true
  | .vredmaxF _ _ _ => true
  | .vredminF _ _ _ => true
  | .vredmaxI _ _ _ => true
  | .vamax _ _ _ => true
  | .vscanI _ _ _ => true
  | .vscanF _ _ _ => true
  | .vperm _ _ _ _ => true
  | .vbcast _ _ _ => true
  | .vextr _ _ _ => true
  | .vins _ _ _ _ => true
  | .vcompr _ _ _ => true
  | .vexpnd _ _ _ => true
  | .vrot _ _ _ _ => true
  | .viota _ _ => true
  | .mand d a b => decide (d.toNat ≤ 7) && decide (a.toNat ≤ 7) && decide (b.toNat ≤ 7)
  | .mor d a b => decide (d.toNat ≤ 7) && decide (a.toNat ≤ 7) && decide (b.toNat ≤ 7)
  | .mxor d a b => decide (d.toNat ≤ 7) && decide (a.toNat ≤ 7) && decide (b.toNat ≤ 7)
  | .mnot d a => decide (d.toNat ≤ 7) && decide (a.toNat ≤ 7)
  | .mpop d a => decide (d.toNat ≤ 7) && decide (a.toNat ≤ 7)
  | .mfirst d a => decide (d.toNat ≤ 7) && decide (a.toNat ≤ 7)
  | .mset d n => decide (n.toNat ≤ 16) && decide (d.toNat ≤ 7)
  | .mget d a _ => decide (d.toNat ≤ 7) && decide (a.toNat ≤ 7)
  | .vmov16 _ _ _ => true
  | .vaddF16 _ _ _ => true
  | .vsubF16 _ _ _ => true
  | .vmulF16 _ _ _ => true
  | .vfmac16 _ _ _ => true
  | .vmaxF16 _ _ _ => true
  | .vminF16 _ _ _ => true
  | .vaddI16 _ _ _ => true
  | .vsubI16 _ _ _ => true
  | .vmulI16 _ _ _ => true
  | .vand16 _ _ _ => true
  | .vor16 _ _ _ => true
  | .vxor16 _ _ _ => true
  | .vshlV16 _ _ _ => true
  | .vshrV16 _ _ _ => true
  | .vsraV16 _ _ _ => true
  | .mmaBf b t x k n _ => !(t == 1#1 && b == 1#1) && !(b == 1#1 && n == 31#5) && (x == 0#1 || k == 0#9)
  | .mmaH b t x k n _ => !(t == 1#1 && b == 1#1) && !(b == 1#1 && n == 31#5) && (x == 0#1 || k == 0#9)
  | .mmaD8 b t x k n _ => !(t == 1#1 && b == 1#1) && !(b == 1#1 && n == 31#5) && (x == 0#1 || k == 0#9)
  | .mmaI8 b t x k n _ => !(t == 1#1 && b == 1#1) && !(b == 1#1 && n == 31#5) && (x == 0#1 || k == 0#9)
  | .mzero _ => true
  | .mrd _ _ _ => true
  | .mwr _ _ _ => true
  | .mwm _ _ => true
  | .msta _ _ _ _ => true
  | .mwait q c => q == 1#1 || c == 0#3
  | .mscale _ _ => true
  | .mmask _ => true
  | .getg _ _ _ _ => true
  | .gets _ _ _ _ => true
  | .getm _ _ _ _ => true
  | .geth _ _ _ _ => true
  | .getr _ _ _ _ => true
  | .gett _ _ _ => true
  | .depg _ _ _ => true
  | .deps _ _ _ => true
  | .depm _ _ _ => true
  | .deph _ _ _ => true
  | .depr _ _ _ => true
  | .dept _ _ _ => true
  | .depa _ _ _ => true
  | .depbG _ _ _ => true
  | .depbS _ _ _ => true
  | .depbM _ _ _ => true
  | .depbH _ _ _ => true
  | .depbR _ _ _ => true
  | .depbT _ _ _ => true
  | .amogAdd _ _ _ => true
  | .amomAdd _ _ _ => true
  | .amorAdd _ _ v => decide (v.toNat ≤ 29)
  | .amogMin _ _ _ => true
  | .amomMin _ _ _ => true
  | .amorMin _ _ v => decide (v.toNat ≤ 29)
  | .amogMax _ _ _ => true
  | .amomMax _ _ _ => true
  | .amorMax _ _ v => decide (v.toNat ≤ 29)
  | .amogSwap _ _ _ => true
  | .amomSwap _ _ _ => true
  | .amorSwap _ _ v => decide (v.toNat ≤ 29)
  | .amogCas _ _ v => decide (v.toNat ≤ 30)
  | .amomCas _ _ v => decide (v.toNat ≤ 30)
  | .amorCas _ _ v => decide (v.toNat ≤ 29)
  | .bseal => true
  | .bwait _ _ => true
  | .xfence a b => decide (a.toNat ≤ 4) && decide (b.toNat ≤ 4)
  | .sestart _ b => decide (b.toNat ≤ 28)
  | .sestop _ => true
  | .sepoll _ _ => true
  | .wdef _ _ => true
  | .waita _ _ _ => true
  | .rela _ _ => true
  | .sync _ a p l => decide (l.toNat ≤ 4) && decide (p.toNat ≤ 11) && (p != 0#4 || a == 0#5)
  | .abort _ => true
  | .aclr => true
  | .seal _ => true
  | .bara _ _ => true
  | .barw _ => true
  | .tsync => true
  | .kmint _ _ _ => true
  | .krev _ _ => true
  | .cset _ _ _ => true
  | .cfree _ _ => true
  | .cfire _ => true
  | .mlred _ _ _ _ _ => true
  | .mcast _ _ => true
  | .scSeta _ h _ _ f => decide (f.toNat ≤ 4) && (f == 0#4 || h == 0#16)
  | .scSetb _ h kind _ _ f => decide (f.toNat ≤ 4) && (f == 0#4 || (h == 0#16 && kind == 0#3)) && decide (kind.toNat ≤ 1) && (kind != 1#3 || h.extractLsb' 4 12 == 0#12)
  | .scMove n => decide (1 ≤ n.toNat) && decide (n.toNat ≤ 65536)
  | .scMoveq n _ _ => decide (1 ≤ n.toNat) && decide (n.toNat ≤ 65536)
  | .scLoop _ _ _ f => decide (f.toNat ≤ 3)
  | .scNext _ f => decide (f.toNat ≤ 3)
  | .scWaitp => true
  | .scArrive => true
  | .scBarr _ _ _ f => decide (1 ≤ f.toNat) && decide (f.toNat ≤ 4)
  | .scJump _ => true
  | .scEnd => true
  | .mmaLatch _ _ _ => true
  | .mmaPass _ _ _ _ => true
  | .mmaRowsFinal _ _ _ _ => true
  | .mzeroExecute _ _ _ => true
  | .mwrExecute _ _ _ => true
  | .mstaExecute _ _ _ => true
  | .mstaEnd _ _ _ => true
  | .copyEnd _ _ => true
  | .translationWalkDone _ _ _ => true
  | .getLand _ => true
  | .streamProgramStart _ => true
  | .sepollSample _ _ _ _ => true
  | .streamMoveLand _ _ _ _ => true
  | .windowCounterIncrement _ _ _ => true
  | .streamListStart _ => true
  | .arrivalBellDone _ _ _ => true
  | .writeHalf _ _ _ => true
  | .bellRelease _ _ _ => true
  | .barrierGenerationComplete _ _ => true
  | .kmintDone _ _ _ _ => true
  | .krevEffect _ _ _ _ => true
  | .csetDone _ _ _ _ => true
  | .cfreeDone _ _ _ _ => true
  | .bucketOpen _ _ => true
  | .bucketComplete _ _ => true
  | .bucketTimeout _ _ => true
  | .collectiveDelivery _ _ _ _ _ _ => true
  | .planFiring _ _ => true
  | .frameReceive _ _ _ => true
  | .ackTimeout _ _ _ => true
  | .replayRequestTimeout _ _ _ => true
  | .laneFault _ _ _ => true
  | .trainDone _ _ _ _ => true
  | .trainTimeout _ _ _ => true
  | .e2eStatus _ _ _ => true
  | .e2eTimeout _ => true
  | .vcEscape _ _ _ => true
  | .bufferRepair _ _ _ => true
  | .keyCheck _ _ _ _ _ _ _ => true
  | .hbmWriteMatch _ _ => true
  | .selection _ => true
  | .launchEntry _ _ => true
  | .planEntry _ _ => true
  | .collEntry _ _ => true
  | .sealEntry _ _ => true
  | .waitevEntry _ _ => true
  | .sigevEntry _ _ => true
  | .killEntry _ _ => true
  | .killQuiesced _ => true
  | .textLoad _ => true
  | .startBroadcast _ => true
  | .firstFetch _ => true
  | .watchdogExpiry _ _ => true
  | .lineRefill _ _ _ => true
  | .fillerFetch _ _ => true
  | .tickArrival _ _ => true
  | .tickTaken _ _ => true
  | .threadPark _ _ _ => true
  | .swaitExpiry _ _ _ => true
  | .idleWake _ _ _ => true
  | .mailboxArrival _ _ => true
  | .tileResume _ _ => true
  | .engineRetry _ _ => true
  | .gangStop _ _ => true
  | .contextSave _ => true
  | .contextRestore _ => true
  | .undoLogDrain _ _ => true
  | .groupUndoDrain _ => true
  | .saveSeal _ => true
  | .emergencyTimeout _ _ => true
  | .escrowAck _ _ => true
  | .uncorrectableFault _ _ _ => true
  | .rollbackDone _ _ => true
  | .tileRetire _ => true
  | .finalExchange _ _ _ => true
  | .completionReport _ _ _ => true
  | .completionCommit _ => true
  | .launchComplete _ => true
  | .completionAdd _ => true
  | .completionAddDone _ => true
  | .rampTick => true
  | .telemetryTick => true
  | .overtempWarning _ => true
  | .thermalShutdown _ => true
  | .coldReset => true
  | .warmReset => true
  | .repairLearned _ _ => true
  | .repairCommit _ _ => true
  | .boot _ _ _ _ _ => true
  | .spdmRequest _ _ => true
  | .cxlMemAccess _ _ _ _ => true
  | .managementWrite _ _ _ _ => true
  | .mgLinkctl _ _ _ => true
  | .mgBbctl _ _ _ => true
  | .mgPod _ _ => true
  | .unassignedWord _ => true
  | .trainingPatternArrival _ _ => true
  | .switchFailure _ _ => true
  | .translationInvalidation _ _ _ _ => true

end Sys2Proof
end

