-- ==== Sys2Proof/Decode.lean ====
section
/-!
DEFINITION. The decoder (total, rejecting by name) and after it the encoder, both written from the encoding tables of chapter 5
(Tables 5.1 to 5.8) and Table 12.1. The stall count S (R79) is returned beside the instruction.
-/

namespace Sys2Proof

/-- Why a word is not an instruction. Every one of these words traps ILLEGAL when it would issue (R88); a stream command word so
rejected is a program fault (R224). -/
inductive DecodeError where
  /-- Reserved major 0x26 or 0x2F to 0x3E, or major 0x3F (R83). -/
  | unassignedMajor
  /-- A selector value shown as — or left out of a table (R84 to R87). -/
  | unassignedFunction
  /-- A field that the instruction does not use is not 0 (R82). -/
  | fieldNotZero
  /-- A register above its class, or an operand limit of the entry broken (R82). -/
  | illFormed
  /-- Fewer bytes than the first halfword's length bit calls for (R78). -/
  | truncated
  /-- A stream command op 0x00 or 0x0C to 0x3F (R224). -/
  | unassignedCommand
  deriving DecidableEq, Repr

/-! Fields of a 32-bit word (Tables 5.1 and 5.3). -/

/-- Major opcode, bits [9:4]. -/
def major (w : BitVec 32) : BitVec 6 := w.extractLsb' 4 6
/-- Stall count, bits [3:1]. -/
def stallCount (w : BitVec 32) : BitVec 3 := w.extractLsb' 1 3
/-- fn7, bits [31:25], formats R and X. -/
def fn7 (w : BitVec 32) : BitVec 7 := w.extractLsb' 25 7
/-- rb, bits [24:20]. -/
def rb (w : BitVec 32) : BitVec 5 := w.extractLsb' 20 5
/-- ra, bits [19:15]; in format B the rb field. -/
def ra (w : BitVec 32) : BitVec 5 := w.extractLsb' 15 5
/-- rd, bits [14:10]; in format B the ra field. -/
def rd (w : BitVec 32) : BitVec 5 := w.extractLsb' 10 5
/-- Format B: rb, bits [19:15]. -/
def brb (w : BitVec 32) : BitVec 5 := w.extractLsb' 15 5
/-- Format B: ra, bits [14:10]. -/
def bra (w : BitVec 32) : BitVec 5 := w.extractLsb' 10 5
/-- imm12, bits [31:20], format I. -/
def imm12 (w : BitVec 32) : BitVec 12 := w.extractLsb' 20 12
/-- imm17, bits [31:15], format U. -/
def imm17 (w : BitVec 32) : BitVec 17 := w.extractLsb' 15 17
/-- off11, bits [31:21], format B. -/
def off11 (w : BitVec 32) : BitVec 11 := w.extractLsb' 21 11
/-- N, bit [20], format B. -/
def nBit (w : BitVec 32) : BitVec 1 := w.extractLsb' 20 1
/-- off22, bits [31:10], format J. -/
def off22 (w : BitVec 32) : BitVec 22 := w.extractLsb' 10 22
/-- off15, bits [24:10], LOOP (R131). -/
def off15 (w : BitVec 32) : BitVec 15 := w.extractLsb' 10 15
/-- imm9, bits [31:23], format T. -/
def imm9 (w : BitVec 32) : BitVec 9 := w.extractLsb' 23 9
/-- sz3, bits [22:20], format T. -/
def sz3 (w : BitVec 32) : BitVec 3 := w.extractLsb' 20 3
/-- mask3, bits [31:29], format V. -/
def mask3 (w : BitVec 32) : BitVec 3 := w.extractLsb' 29 3
/-- fn4, bits [28:25], format V. -/
def fn4 (w : BitVec 32) : BitVec 4 := w.extractLsb' 25 4
/-- acc3, bits [31:29], format M. -/
def acc3 (w : BitVec 32) : BitVec 3 := w.extractLsb' 29 3
/-- vidx5, bits [28:24], format M. -/
def vidx5 (w : BitVec 32) : BitVec 5 := w.extractLsb' 24 5
/-- bank9, bits [23:15], format M. -/
def bank9 (w : BitVec 32) : BitVec 9 := w.extractLsb' 15 9
/-- kf5, bits [14:10], format M. -/
def kf5 (w : BitVec 32) : BitVec 5 := w.extractLsb' 10 5

/-- R82: the instruction if every field it does not use is 0. -/
def need (c : Bool) (i : Instr) : Except DecodeError Instr :=
  if c then .ok i else .error .fieldNotZero

/-- Major 0x00 by fn5 (Table 5.5). -/
noncomputable def decodeSys (w : BitVec 32) : Except DecodeError Instr :=
  match ra w with
  | 0x0#5 => need (imm12 w == 0#12 && rd w == 0#5) .nop
  | 0x1#5 => need (imm12 w == 0#12 && rd w == 0#5) .halt
  | 0x2#5 => need (rd w == 0#5) (.trap (imm12 w))
  | 0x3#5 => need (imm12 w == 0#12 && rd w == 0#5) .eret
  | 0x4#5 => .ok (.mfsr (rd w) (imm12 w))
  | 0x5#5 => .ok (.mtsr (rd w) (imm12 w))
  | 0x6#5 => need (imm12 w == 0#12) (.swait (rd w))
  | 0x7#5 => need (imm12 w == 0#12 && rd w == 0#5) .wsave
  | 0x8#5 => need (imm12 w == 0#12 && rd w == 0#5) .wrest
  | 0x10#5 => need ((imm12 w).extractLsb' 1 11 == 0#11) (.mbxrd (rd w) ((imm12 w).extractLsb' 0 1))
  | 0x11#5 => need (imm12 w == 0#12) (.mbxpost (rd w))
  | 0x12#5 => need (imm12 w == 0#12) (.xresume (rd w))
  | 0x13#5 =>
    match (imm12 w).extractLsb' 0 1 with
    | 0x0#1 => need ((imm12 w).extractLsb' 1 11 == 0#11) (.gstop (rd w))
    | 0x1#1 => need ((imm12 w).extractLsb' 1 11 == 0#11) (.gstopRelease (rd w))
  | 0x14#5 => need (imm12 w == 0#12) (.unpark (rd w))
  | 0x15#5 => need (imm12 w == 0#12) (.idle (rd w))
  | _ => .error .unassignedFunction

/-- Major 0x01 by fn7 (Table 7.1). -/
noncomputable def decodeAlu (w : BitVec 32) : Except DecodeError Instr :=
  match fn7 w with
  | 0x0#7 => .ok (.add (rd w) (ra w) (rb w))
  | 0x1#7 => .ok (.sub (rd w) (ra w) (rb w))
  | 0x2#7 => .ok (.addw (rd w) (ra w) (rb w))
  | 0x3#7 => .ok (.subw (rd w) (ra w) (rb w))
  | 0x4#7 => .ok (.and (rd w) (ra w) (rb w))
  | 0x5#7 => .ok (.or (rd w) (ra w) (rb w))
  | 0x6#7 => .ok (.xor (rd w) (ra w) (rb w))
  | 0x7#7 => .ok (.andn (rd w) (ra w) (rb w))
  | 0x8#7 => .ok (.sll (rd w) (ra w) (rb w))
  | 0x9#7 => .ok (.srl (rd w) (ra w) (rb w))
  | 0xA#7 => .ok (.sra (rd w) (ra w) (rb w))
  | 0xB#7 => .ok (.mul (rd w) (ra w) (rb w))
  | 0xC#7 => .ok (.mulw (rd w) (ra w) (rb w))
  | 0xD#7 => .ok (.mulh (rd w) (ra w) (rb w))
  | 0xE#7 => .ok (.mulhu (rd w) (ra w) (rb w))
  | 0xF#7 => .ok (.div (rd w) (ra w) (rb w))
  | 0x10#7 => .ok (.divu (rd w) (ra w) (rb w))
  | 0x11#7 => .ok (.rem (rd w) (ra w) (rb w))
  | 0x12#7 => .ok (.remu (rd w) (ra w) (rb w))
  | 0x13#7 => .ok (.min (rd w) (ra w) (rb w))
  | 0x14#7 => .ok (.max (rd w) (ra w) (rb w))
  | 0x15#7 => .ok (.minu (rd w) (ra w) (rb w))
  | 0x16#7 => .ok (.maxu (rd w) (ra w) (rb w))
  | 0x17#7 => .ok (.seq (rd w) (ra w) (rb w))
  | 0x18#7 => .ok (.slt (rd w) (ra w) (rb w))
  | 0x19#7 => .ok (.sltu (rd w) (ra w) (rb w))
  | 0x1A#7 => need (rb w == 0#5) (.clz (rd w) (ra w))
  | 0x1B#7 => need (rb w == 0#5) (.ctz (rd w) (ra w))
  | 0x1C#7 => need (rb w == 0#5) (.popc (rd w) (ra w))
  | 0x1D#7 => need (rb w == 0#5) (.sextb (rd w) (ra w))
  | 0x1E#7 => need (rb w == 0#5) (.sexth (rd w) (ra w))
  | 0x1F#7 => need (rb w == 0#5) (.sextw (rd w) (ra w))
  | 0x20#7 => need (rb w == 0#5) (.zextb (rd w) (ra w))
  | 0x21#7 => need (rb w == 0#5) (.zexth (rd w) (ra w))
  | 0x22#7 => need (rb w == 0#5) (.zextw (rd w) (ra w))
  | _ => .error .unassignedFunction

/-- Major 0x06 by imm12[11]. -/
noncomputable def decodeCompareImm (w : BitVec 32) : Except DecodeError Instr :=
  match (imm12 w).extractLsb' 11 1 with
  | 0x0#1 => .ok (.slti (rd w) (ra w) ((imm12 w).extractLsb' 0 11))
  | 0x1#1 => .ok (.sltiu (rd w) (ra w) ((imm12 w).extractLsb' 0 11))

/-- Major 0x07 by imm12[11:6]. -/
noncomputable def decodeShiftImm (w : BitVec 32) : Except DecodeError Instr :=
  match (imm12 w).extractLsb' 6 6 with
  | 0x0#6 => .ok (.slli (rd w) (ra w) ((imm12 w).extractLsb' 0 6))
  | 0x1#6 => .ok (.srli (rd w) (ra w) ((imm12 w).extractLsb' 0 6))
  | 0x2#6 => .ok (.srai (rd w) (ra w) ((imm12 w).extractLsb' 0 6))
  | _ => .error .unassignedFunction

/-- Major 0x0A by fn7. -/
noncomputable def decodeBitField (w : BitVec 32) : Except DecodeError Instr :=
  match fn7 w with
  | 0x0#7 => .ok (.bfx (rd w) (ra w) (rb w))
  | 0x1#7 => .ok (.bfxu (rd w) (ra w) (rb w))
  | 0x2#7 => .ok (.bfi (rd w) (ra w) (rb w))
  | _ => .error .unassignedFunction

/-- Major 0x0B by fn7[6:5]. -/
noncomputable def decodeSelect (w : BitVec 32) : Except DecodeError Instr :=
  match (fn7 w).extractLsb' 5 2 with
  | 0x0#2 => .ok (.csel (rd w) (ra w) (rb w) ((fn7 w).extractLsb' 0 5))
  | 0x1#2 => .ok (.cseln (rd w) (ra w) (rb w) ((fn7 w).extractLsb' 0 5))
  | _ => .error .unassignedFunction

/-- Major 0x14 by fn7. -/
noncomputable def decodeJumpReg (w : BitVec 32) : Except DecodeError Instr :=
  match fn7 w with
  | 0x0#7 => need (rb w == 0#5 && rd w == 0#5) (.jr (ra w))
  | 0x1#7 => need (rb w == 0#5 && rd w == 0#5) (.callr (ra w))
  | 0x2#7 => need (rb w == 0#5 && ra w == 0#5 && rd w == 0#5) .ret
  | _ => .error .unassignedFunction

/-- Major 0x15 by fn7[6:4]; fn7[3:2] must be 0. -/
noncomputable def decodeLoopNest (w : BitVec 32) : Except DecodeError Instr :=
  match (fn7 w).extractLsb' 4 3 with
  | 0x0#3 => need ((fn7 w).extractLsb' 2 2 == 0#2 && rb w == 0#5 && rd w == 0#5) (.lnset (ra w) ((fn7 w).extractLsb' 0 2))
  | 0x1#3 => need ((fn7 w).extractLsb' 2 2 == 0#2 && rb w == 0#5) (.lnco (rd w) (ra w) ((fn7 w).extractLsb' 0 2))
  | 0x2#3 => need ((fn7 w).extractLsb' 2 2 == 0#2 && rb w == 0#5) (.lnbase (rd w) (ra w) ((fn7 w).extractLsb' 0 2))
  | 0x3#3 => need ((fn7 w).extractLsb' 2 2 == 0#2 && rb w == 0#5 && rd w == 0#5) (.lnidx (ra w) ((fn7 w).extractLsb' 0 2))
  | 0x4#3 => need ((fn7 w).extractLsb' 2 2 == 0#2) (.loop (off15 w) ((fn7 w).extractLsb' 0 2))
  | _ => .error .unassignedFunction

/-- Major 0x16 by sz3; under sz3 = 7 the size code stands in imm9[2:0]. -/
noncomputable def decodeTileLoad (w : BitVec 32) : Except DecodeError Instr :=
  match sz3 w with
  | 0x0#3 => .ok (.ldtB (rd w) (ra w) (imm9 w))
  | 0x1#3 => .ok (.ldtBu (rd w) (ra w) (imm9 w))
  | 0x2#3 => .ok (.ldtH (rd w) (ra w) (imm9 w))
  | 0x3#3 => .ok (.ldtHu (rd w) (ra w) (imm9 w))
  | 0x4#3 => .ok (.ldtW (rd w) (ra w) (imm9 w))
  | 0x5#3 => .ok (.ldtWu (rd w) (ra w) (imm9 w))
  | 0x6#3 => .ok (.ldtD (rd w) (ra w) (imm9 w))
  | 0x7#3 =>
    match (imm9 w).extractLsb' 0 3 with
    | 0x0#3 => need ((imm9 w).extractLsb' 3 6 == 0#6 && (ra w).extractLsb' 4 1 == 0#1) (.ldtBAreg (rd w) ((ra w).extractLsb' 0 4))
    | 0x1#3 => need ((imm9 w).extractLsb' 3 6 == 0#6 && (ra w).extractLsb' 4 1 == 0#1) (.ldtBuAreg (rd w) ((ra w).extractLsb' 0 4))
    | 0x2#3 => need ((imm9 w).extractLsb' 3 6 == 0#6 && (ra w).extractLsb' 4 1 == 0#1) (.ldtHAreg (rd w) ((ra w).extractLsb' 0 4))
    | 0x3#3 => need ((imm9 w).extractLsb' 3 6 == 0#6 && (ra w).extractLsb' 4 1 == 0#1) (.ldtHuAreg (rd w) ((ra w).extractLsb' 0 4))
    | 0x4#3 => need ((imm9 w).extractLsb' 3 6 == 0#6 && (ra w).extractLsb' 4 1 == 0#1) (.ldtWAreg (rd w) ((ra w).extractLsb' 0 4))
    | 0x5#3 => need ((imm9 w).extractLsb' 3 6 == 0#6 && (ra w).extractLsb' 4 1 == 0#1) (.ldtWuAreg (rd w) ((ra w).extractLsb' 0 4))
    | 0x6#3 => need ((imm9 w).extractLsb' 3 6 == 0#6 && (ra w).extractLsb' 4 1 == 0#1) (.ldtDAreg (rd w) ((ra w).extractLsb' 0 4))
    | _ => .error .unassignedFunction

/-- Major 0x17 by sz3. -/
noncomputable def decodeTileStore (w : BitVec 32) : Except DecodeError Instr :=
  match sz3 w with
  | 0x0#3 => .ok (.sttB (rd w) (ra w) (imm9 w))
  | 0x2#3 => .ok (.sttH (rd w) (ra w) (imm9 w))
  | 0x4#3 => .ok (.sttW (rd w) (ra w) (imm9 w))
  | 0x6#3 => .ok (.sttD (rd w) (ra w) (imm9 w))
  | 0x7#3 =>
    match (imm9 w).extractLsb' 0 3 with
    | 0x0#3 => need ((imm9 w).extractLsb' 3 6 == 0#6 && (ra w).extractLsb' 4 1 == 0#1) (.sttBAreg (rd w) ((ra w).extractLsb' 0 4))
    | 0x2#3 => need ((imm9 w).extractLsb' 3 6 == 0#6 && (ra w).extractLsb' 4 1 == 0#1) (.sttHAreg (rd w) ((ra w).extractLsb' 0 4))
    | 0x4#3 => need ((imm9 w).extractLsb' 3 6 == 0#6 && (ra w).extractLsb' 4 1 == 0#1) (.sttWAreg (rd w) ((ra w).extractLsb' 0 4))
    | 0x6#3 => need ((imm9 w).extractLsb' 3 6 == 0#6 && (ra w).extractLsb' 4 1 == 0#1) (.sttDAreg (rd w) ((ra w).extractLsb' 0 4))
    | _ => .error .unassignedFunction
  | _ => .error .unassignedFunction

/-- Major 0x18 by fn7[2:0]. -/
noncomputable def decodeTileAtomic (w : BitVec 32) : Except DecodeError Instr :=
  match (fn7 w).extractLsb' 0 3 with
  | 0x0#3 => need ((fn7 w).extractLsb' 4 3 == 0#3) (.amtAdd (rd w) (ra w) (rb w) ((fn7 w).extractLsb' 3 1))
  | 0x1#3 => need ((fn7 w).extractLsb' 4 3 == 0#3) (.amtSwap (rd w) (ra w) (rb w) ((fn7 w).extractLsb' 3 1))
  | 0x2#3 => need ((fn7 w).extractLsb' 4 3 == 0#3) (.amtCas (rd w) (ra w) (rb w) ((fn7 w).extractLsb' 3 1))
  | 0x3#3 => need ((fn7 w).extractLsb' 4 3 == 0#3) (.amtMin (rd w) (ra w) (rb w) ((fn7 w).extractLsb' 3 1))
  | 0x4#3 => need ((fn7 w).extractLsb' 4 3 == 0#3) (.amtMax (rd w) (ra w) (rb w) ((fn7 w).extractLsb' 3 1))
  | 0x5#3 => need ((fn7 w).extractLsb' 4 3 == 0#3) (.amtAnd (rd w) (ra w) (rb w) ((fn7 w).extractLsb' 3 1))
  | 0x6#3 => need ((fn7 w).extractLsb' 4 3 == 0#3) (.amtOr (rd w) (ra w) (rb w) ((fn7 w).extractLsb' 3 1))
  | _ => need ((fn7 w).extractLsb' 4 3 == 0#3) (.amtXor (rd w) (ra w) (rb w) ((fn7 w).extractLsb' 3 1))

/-- Major 0x19 by fn4 (Table 5.6). -/
noncomputable def decodeVecMem (w : BitVec 32) : Except DecodeError Instr :=
  match fn4 w with
  | 0x0#4 => .ok (.vldt (rd w) (ra w) (rb w) (mask3 w))
  | 0x1#4 => .ok (.vstt (rd w) (ra w) (rb w) (mask3 w))
  | 0x2#4 => .ok (.vldts (rd w) (ra w) (rb w) (mask3 w))
  | 0x3#4 => .ok (.vstts (rd w) (ra w) (rb w) (mask3 w))
  | _ => .error .unassignedFunction

/-- Major 0x1A by fn4 (Table 5.6). -/
noncomputable def decodeGatherCopy (w : BitVec 32) : Except DecodeError Instr :=
  match fn4 w with
  | 0x0#4 => .ok (.vgath (rd w) (ra w) (rb w) (mask3 w))
  | 0x1#4 => .ok (.vscat (rd w) (ra w) (rb w) (mask3 w))
  | 0x2#4 => need (mask3 w == 0#3) (.copyb (rd w) (ra w) (rb w))
  | 0x3#4 => need (mask3 w == 0#3) (.fillb (rd w) (ra w) (rb w))
  | _ => .error .unassignedFunction

/-- Major 0x1B by fn4 (Table 5.6). -/
noncomputable def decodeVecFloat (w : BitVec 32) : Except DecodeError Instr :=
  match fn4 w with
  | 0x0#4 => .ok (.vaddF (rd w) (ra w) (rb w) (mask3 w))
  | 0x1#4 => .ok (.vsubF (rd w) (ra w) (rb w) (mask3 w))
  | 0x2#4 => .ok (.vmulF (rd w) (ra w) (rb w) (mask3 w))
  | 0x3#4 => .ok (.vfmaF (rd w) (ra w) (rb w) (mask3 w))
  | 0x4#4 => .ok (.vfmsF (rd w) (ra w) (rb w) (mask3 w))
  | 0x5#4 => .ok (.vfnmaF (rd w) (ra w) (rb w) (mask3 w))
  | 0x6#4 => .ok (.vminF (rd w) (ra w) (rb w) (mask3 w))
  | 0x7#4 => .ok (.vmaxF (rd w) (ra w) (rb w) (mask3 w))
  | 0x8#4 => need (rb w == 0#5) (.vabsF (rd w) (ra w) (mask3 w))
  | 0x9#4 => need (rb w == 0#5) (.vnegF (rd w) (ra w) (mask3 w))
  | 0xA#4 => need (rb w == 0#5) (.vrcpF (rd w) (ra w) (mask3 w))
  | 0xB#4 => need (rb w == 0#5) (.vrsqF (rd w) (ra w) (mask3 w))
  | 0xC#4 => need (rb w == 0#5) (.vsqrtF (rd w) (ra w) (mask3 w))
  | 0xD#4 => .ok (.vdivF (rd w) (ra w) (rb w) (mask3 w))
  | 0xE#4 => need (rb w == 0#5) (.vexp2F (rd w) (ra w) (mask3 w))
  | _ => need (rb w == 0#5) (.vlog2F (rd w) (ra w) (mask3 w))

/-- Major 0x1C by fn4 (Table 5.6). -/
noncomputable def decodeVecInt (w : BitVec 32) : Except DecodeError Instr :=
  match fn4 w with
  | 0x0#4 => .ok (.vaddI (rd w) (ra w) (rb w) (mask3 w))
  | 0x1#4 => .ok (.vsubI (rd w) (ra w) (rb w) (mask3 w))
  | 0x2#4 => .ok (.vmulI (rd w) (ra w) (rb w) (mask3 w))
  | 0x3#4 => .ok (.vmulhI (rd w) (ra w) (rb w) (mask3 w))
  | 0x4#4 => .ok (.vmulhuI (rd w) (ra w) (rb w) (mask3 w))
  | 0x5#4 => .ok (.vminI (rd w) (ra w) (rb w) (mask3 w))
  | 0x6#4 => .ok (.vmaxI (rd w) (ra w) (rb w) (mask3 w))
  | 0x7#4 => .ok (.vminuI (rd w) (ra w) (rb w) (mask3 w))
  | 0x8#4 => .ok (.vmaxuI (rd w) (ra w) (rb w) (mask3 w))
  | 0x9#4 => need (rb w == 0#5) (.vabsI (rd w) (ra w) (mask3 w))
  | 0xA#4 => .ok (.vaddsI (rd w) (ra w) (rb w) (mask3 w))
  | 0xB#4 => .ok (.vsubsI (rd w) (ra w) (rb w) (mask3 w))
  | _ => .error .unassignedFunction

/-- Major 0x1D by fn4 (Table 5.6). -/
noncomputable def decodeVecLogic (w : BitVec 32) : Except DecodeError Instr :=
  match fn4 w with
  | 0x0#4 => .ok (.vand (rd w) (ra w) (rb w) (mask3 w))
  | 0x1#4 => .ok (.vor (rd w) (ra w) (rb w) (mask3 w))
  | 0x2#4 => .ok (.vxor (rd w) (ra w) (rb w) (mask3 w))
  | 0x3#4 => .ok (.vandn (rd w) (ra w) (rb w) (mask3 w))
  | 0x4#4 => need (rb w == 0#5) (.vnot (rd w) (ra w) (mask3 w))
  | 0x5#4 => .ok (.vshlV (rd w) (ra w) (rb w) (mask3 w))
  | 0x6#4 => .ok (.vshrV (rd w) (ra w) (rb w) (mask3 w))
  | 0x7#4 => .ok (.vsraV (rd w) (ra w) (rb w) (mask3 w))
  | 0x8#4 => .ok (.vshli (rd w) (ra w) (rb w) (mask3 w))
  | 0x9#4 => .ok (.vshri (rd w) (ra w) (rb w) (mask3 w))
  | 0xA#4 => .ok (.vsrai (rd w) (ra w) (rb w) (mask3 w))
  | 0xB#4 => need (rb w == 0#5) (.vpopc (rd w) (ra w) (mask3 w))
  | 0xC#4 => need (rb w == 0#5) (.vclz (rd w) (ra w) (mask3 w))
  | _ => .error .unassignedFunction

/-- Major 0x1E by fn4 (Table 5.6). -/
noncomputable def decodeVecCompare (w : BitVec 32) : Except DecodeError Instr :=
  match fn4 w with
  | 0x0#4 => .ok (.vcmpFEq (rd w) (ra w) (rb w) (mask3 w))
  | 0x1#4 => .ok (.vcmpFNe (rd w) (ra w) (rb w) (mask3 w))
  | 0x2#4 => .ok (.vcmpFLt (rd w) (ra w) (rb w) (mask3 w))
  | 0x3#4 => .ok (.vcmpFLe (rd w) (ra w) (rb w) (mask3 w))
  | 0x4#4 => .ok (.vcmpFUn (rd w) (ra w) (rb w) (mask3 w))
  | 0x5#4 => .ok (.vcmpIEq (rd w) (ra w) (rb w) (mask3 w))
  | 0x6#4 => .ok (.vcmpINe (rd w) (ra w) (rb w) (mask3 w))
  | 0x7#4 => .ok (.vcmpILt (rd w) (ra w) (rb w) (mask3 w))
  | 0x8#4 => .ok (.vcmpILe (rd w) (ra w) (rb w) (mask3 w))
  | 0x9#4 => .ok (.vcmpILtu (rd w) (ra w) (rb w) (mask3 w))
  | 0xA#4 => .ok (.vcmpILeu (rd w) (ra w) (rb w) (mask3 w))
  | 0xB#4 => .ok (.vsel (rd w) (ra w) (rb w) (mask3 w))
  | 0xC#4 => need (rb w == 0#5) (.vclass (rd w) (ra w) (mask3 w))
  | _ => .error .unassignedFunction

/-- Major 0x1F by fn4 (Table 5.6). -/
noncomputable def decodeVecConvert (w : BitVec 32) : Except DecodeError Instr :=
  match fn4 w with
  | 0x0#4 => need ((rb w).extractLsb' 3 2 == 0#2) (.vcvtFI (rd w) (ra w) ((rb w).extractLsb' 0 1) ((rb w).extractLsb' 1 2) (mask3 w))
  | 0x1#4 => need ((rb w).extractLsb' 3 2 == 0#2) (.vcvtIF (rd w) (ra w) ((rb w).extractLsb' 0 1) ((rb w).extractLsb' 1 2) (mask3 w))
  | 0x2#4 => need ((rb w).extractLsb' 3 2 == 0#2) (.vcvtBfF (rd w) (ra w) ((rb w).extractLsb' 0 1) ((rb w).extractLsb' 1 2) (mask3 w))
  | 0x3#4 => need ((rb w).extractLsb' 1 4 == 0#4) (.vcvtFBf (rd w) (ra w) ((rb w).extractLsb' 0 1) (mask3 w))
  | 0x4#4 => need ((rb w).extractLsb' 3 2 == 0#2) (.vcvtHF (rd w) (ra w) ((rb w).extractLsb' 0 1) ((rb w).extractLsb' 1 2) (mask3 w))
  | 0x5#4 => need ((rb w).extractLsb' 1 4 == 0#4) (.vcvtFH (rd w) (ra w) ((rb w).extractLsb' 0 1) (mask3 w))
  | 0x6#4 => .ok (.vquant (rd w) (ra w) (rb w) (mask3 w))
  | 0x7#4 => need ((rb w).extractLsb' 2 3 == 0#3) (.vdeq (rd w) (ra w) ((rb w).extractLsb' 0 1) ((rb w).extractLsb' 1 1) (mask3 w))
  | 0x8#4 => need ((rb w).extractLsb' 3 2 == 0#2) (.vpackI8 (rd w) (ra w) ((rb w).extractLsb' 0 2) ((rb w).extractLsb' 2 1) (mask3 w))
  | 0x9#4 => need ((rb w).extractLsb' 3 2 == 0#2) (.vunpkI8 (rd w) (ra w) ((rb w).extractLsb' 0 2) ((rb w).extractLsb' 2 1) (mask3 w))
  | _ => .error .unassignedFunction

/-- Major 0x20 by fn4 (Table 5.6). -/
noncomputable def decodeVecReduce (w : BitVec 32) : Except DecodeError Instr :=
  match fn4 w with
  | 0x0#4 => need (rb w == 0#5) (.vredaddF (rd w) (ra w) (mask3 w))
  | 0x1#4 => need (rb w == 0#5) (.vredaddI (rd w) (ra w) (mask3 w))
  | 0x2#4 => need (rb w == 0#5) (.vredmaxF (rd w) (ra w) (mask3 w))
  | 0x3#4 => need (rb w == 0#5) (.vredminF (rd w) (ra w) (mask3 w))
  | 0x4#4 => need (rb w == 0#5) (.vredmaxI (rd w) (ra w) (mask3 w))
  | 0x5#4 => need (rb w == 0#5) (.vamax (rd w) (ra w) (mask3 w))
  | 0x6#4 => need (rb w == 0#5) (.vscanI (rd w) (ra w) (mask3 w))
  | 0x7#4 => need (rb w == 0#5) (.vscanF (rd w) (ra w) (mask3 w))
  | _ => .error .unassignedFunction

/-- Major 0x21 by fn4 (Table 5.6). -/
noncomputable def decodeVecPermute (w : BitVec 32) : Except DecodeError Instr :=
  match fn4 w with
  | 0x0#4 => .ok (.vperm (rd w) (ra w) (rb w) (mask3 w))
  | 0x1#4 => need (rb w == 0#5) (.vbcast (rd w) (ra w) (mask3 w))
  | 0x2#4 => need (mask3 w == 0#3 && (rb w).extractLsb' 4 1 == 0#1) (.vextr (rd w) (ra w) ((rb w).extractLsb' 0 4))
  | 0x3#4 => need ((rb w).extractLsb' 4 1 == 0#1) (.vins (rd w) (ra w) ((rb w).extractLsb' 0 4) (mask3 w))
  | 0x4#4 => need (rb w == 0#5) (.vcompr (rd w) (ra w) (mask3 w))
  | 0x5#4 => need (rb w == 0#5) (.vexpnd (rd w) (ra w) (mask3 w))
  | 0x6#4 => need ((rb w).extractLsb' 4 1 == 0#1) (.vrot (rd w) (ra w) ((rb w).extractLsb' 0 4) (mask3 w))
  | 0x7#4 => need (rb w == 0#5 && ra w == 0#5) (.viota (rd w) (mask3 w))
  | _ => .error .unassignedFunction

/-- Major 0x22 by fn4 (Table 5.6). -/
noncomputable def decodeMask (w : BitVec 32) : Except DecodeError Instr :=
  match fn4 w with
  | 0x0#4 => need (mask3 w == 0#3) (.mand (rd w) (ra w) (rb w))
  | 0x1#4 => need (mask3 w == 0#3) (.mor (rd w) (ra w) (rb w))
  | 0x2#4 => need (mask3 w == 0#3) (.mxor (rd w) (ra w) (rb w))
  | 0x3#4 => need (mask3 w == 0#3 && rb w == 0#5) (.mnot (rd w) (ra w))
  | 0x4#4 => need (mask3 w == 0#3 && rb w == 0#5) (.mpop (rd w) (ra w))
  | 0x5#4 => need (mask3 w == 0#3 && rb w == 0#5) (.mfirst (rd w) (ra w))
  | 0x6#4 => need (mask3 w == 0#3 && rb w == 0#5) (.mset (rd w) (ra w))
  | 0x7#4 => need (mask3 w == 0#3 && (rb w).extractLsb' 4 1 == 0#1) (.mget (rd w) (ra w) ((rb w).extractLsb' 0 4))
  | _ => .error .unassignedFunction

/-- Major 0x23 by kf5 (Table 5.7). -/
noncomputable def decodeMma (w : BitVec 32) : Except DecodeError Instr :=
  match (kf5 w).extractLsb' 3 2 with
  | 0x0#2 => .ok (.mmaBf ((kf5 w).extractLsb' 0 1) ((kf5 w).extractLsb' 1 1) ((kf5 w).extractLsb' 2 1) (bank9 w) (vidx5 w) (acc3 w))
  | 0x1#2 => .ok (.mmaH ((kf5 w).extractLsb' 0 1) ((kf5 w).extractLsb' 1 1) ((kf5 w).extractLsb' 2 1) (bank9 w) (vidx5 w) (acc3 w))
  | 0x2#2 => .ok (.mmaD8 ((kf5 w).extractLsb' 0 1) ((kf5 w).extractLsb' 1 1) ((kf5 w).extractLsb' 2 1) (bank9 w) (vidx5 w) (acc3 w))
  | 0x3#2 => .ok (.mmaI8 ((kf5 w).extractLsb' 0 1) ((kf5 w).extractLsb' 1 1) ((kf5 w).extractLsb' 2 1) (bank9 w) (vidx5 w) (acc3 w))

/-- Major 0x24 by kf5 (Table 5.7). -/
noncomputable def decodeAccumulator (w : BitVec 32) : Except DecodeError Instr :=
  match (kf5 w).extractLsb' 2 3 with
  | 0x0#3 => need (vidx5 w == 0#5 && bank9 w == 0#9 && (kf5 w).extractLsb' 0 2 == 0#2) (.mzero (acc3 w))
  | 0x1#3 => need ((bank9 w).extractLsb' 4 5 == 0#5 && (kf5 w).extractLsb' 0 2 == 0#2) (.mrd ((bank9 w).extractLsb' 0 4) (vidx5 w) (acc3 w))
  | 0x2#3 => need ((bank9 w).extractLsb' 4 5 == 0#5 && (kf5 w).extractLsb' 0 2 == 0#2) (.mwr ((bank9 w).extractLsb' 0 4) (vidx5 w) (acc3 w))
  | 0x3#3 => need (bank9 w == 0#9 && (kf5 w).extractLsb' 0 2 == 0#2) (.mwm (vidx5 w) (acc3 w))
  | 0x4#3 => need ((kf5 w).extractLsb' 1 1 == 0#1) (.msta ((kf5 w).extractLsb' 0 1) (bank9 w) (vidx5 w) (acc3 w))
  | 0x5#3 => need (vidx5 w == 0#5 && bank9 w == 0#9 && (kf5 w).extractLsb' 1 1 == 0#1) (.mwait ((kf5 w).extractLsb' 0 1) (acc3 w))
  | _ => .error .unassignedFunction

/-- Major 0x25 by kf5 (Table 5.7). -/
noncomputable def decodeMatrixConfig (w : BitVec 32) : Except DecodeError Instr :=
  match kf5 w with
  | 0x0#5 => need (acc3 w == 0#3 && (bank9 w).extractLsb' 4 5 == 0#5) (.mscale ((bank9 w).extractLsb' 0 4) (vidx5 w))
  | 0x1#5 => need (acc3 w == 0#3 && bank9 w == 0#9) (.mmask (vidx5 w))
  | _ => .error .unassignedFunction

/-- Major 0x27 (Table 5.8). -/
noncomputable def decodeGet (w : BitVec 32) : Except DecodeError Instr :=
  match (fn7 w).extractLsb' 0 3 with
  | 0x0#3 => need ((fn7 w).extractLsb' 4 3 == 0#3) (.getg (rd w) (ra w) (rb w) ((fn7 w).extractLsb' 3 1))
  | 0x1#3 => need ((fn7 w).extractLsb' 4 3 == 0#3) (.gets (rd w) (ra w) (rb w) ((fn7 w).extractLsb' 3 1))
  | 0x2#3 => need ((fn7 w).extractLsb' 4 3 == 0#3) (.getm (rd w) (ra w) (rb w) ((fn7 w).extractLsb' 3 1))
  | 0x3#3 => need ((fn7 w).extractLsb' 4 3 == 0#3) (.geth (rd w) (ra w) (rb w) ((fn7 w).extractLsb' 3 1))
  | 0x4#3 => need ((fn7 w).extractLsb' 4 3 == 0#3) (.getr (rd w) (ra w) (rb w) ((fn7 w).extractLsb' 3 1))
  | 0x5#3 => need ((fn7 w).extractLsb' 3 4 == 0#4) (.gett (rd w) (ra w) (rb w))
  | _ => .error .unassignedFunction

/-- Major 0x28 (Table 5.8). -/
noncomputable def decodeDeposit (w : BitVec 32) : Except DecodeError Instr :=
  match (fn7 w).extractLsb' 0 3 with
  | 0x0#3 => need ((fn7 w).extractLsb' 3 4 == 0#4) (.depg (rd w) (ra w) (rb w))
  | 0x1#3 => need ((fn7 w).extractLsb' 3 4 == 0#4) (.deps (rd w) (ra w) (rb w))
  | 0x2#3 => need ((fn7 w).extractLsb' 3 4 == 0#4) (.depm (rd w) (ra w) (rb w))
  | 0x3#3 => need ((fn7 w).extractLsb' 3 4 == 0#4) (.deph (rd w) (ra w) (rb w))
  | 0x4#3 => need ((fn7 w).extractLsb' 3 4 == 0#4) (.depr (rd w) (ra w) (rb w))
  | 0x5#3 => need ((fn7 w).extractLsb' 3 4 == 0#4) (.dept (rd w) (ra w) (rb w))
  | 0x6#3 => need ((fn7 w).extractLsb' 3 4 == 0#4) (.depa (rd w) (ra w) (rb w))
  | _ => .error .unassignedFunction

/-- Major 0x29 (Table 5.8). -/
noncomputable def decodeBlockDeposit (w : BitVec 32) : Except DecodeError Instr :=
  match (fn7 w).extractLsb' 0 3 with
  | 0x0#3 => need ((fn7 w).extractLsb' 3 4 == 0#4) (.depbG (rd w) (ra w) (rb w))
  | 0x1#3 => need ((fn7 w).extractLsb' 3 4 == 0#4) (.depbS (rd w) (ra w) (rb w))
  | 0x2#3 => need ((fn7 w).extractLsb' 3 4 == 0#4) (.depbM (rd w) (ra w) (rb w))
  | 0x3#3 => need ((fn7 w).extractLsb' 3 4 == 0#4) (.depbH (rd w) (ra w) (rb w))
  | 0x4#3 => need ((fn7 w).extractLsb' 3 4 == 0#4) (.depbR (rd w) (ra w) (rb w))
  | 0x5#3 => need ((fn7 w).extractLsb' 3 4 == 0#4) (.depbT (rd w) (ra w) (rb w))
  | _ => .error .unassignedFunction

/-- Major 0x2A (Table 5.8). -/
noncomputable def decodeLevelAtomic (w : BitVec 32) : Except DecodeError Instr :=
  match (fn7 w).extractLsb' 0 5 with
  | 0x0#5 => need ((fn7 w).extractLsb' 5 2 == 0#2) (.amogAdd (rd w) (ra w) (rb w))
  | 0x1#5 => need ((fn7 w).extractLsb' 5 2 == 0#2) (.amomAdd (rd w) (ra w) (rb w))
  | 0x2#5 => need ((fn7 w).extractLsb' 5 2 == 0#2) (.amorAdd (rd w) (ra w) (rb w))
  | 0x4#5 => need ((fn7 w).extractLsb' 5 2 == 0#2) (.amogMin (rd w) (ra w) (rb w))
  | 0x5#5 => need ((fn7 w).extractLsb' 5 2 == 0#2) (.amomMin (rd w) (ra w) (rb w))
  | 0x6#5 => need ((fn7 w).extractLsb' 5 2 == 0#2) (.amorMin (rd w) (ra w) (rb w))
  | 0x8#5 => need ((fn7 w).extractLsb' 5 2 == 0#2) (.amogMax (rd w) (ra w) (rb w))
  | 0x9#5 => need ((fn7 w).extractLsb' 5 2 == 0#2) (.amomMax (rd w) (ra w) (rb w))
  | 0xA#5 => need ((fn7 w).extractLsb' 5 2 == 0#2) (.amorMax (rd w) (ra w) (rb w))
  | 0xC#5 => need ((fn7 w).extractLsb' 5 2 == 0#2) (.amogSwap (rd w) (ra w) (rb w))
  | 0xD#5 => need ((fn7 w).extractLsb' 5 2 == 0#2) (.amomSwap (rd w) (ra w) (rb w))
  | 0xE#5 => need ((fn7 w).extractLsb' 5 2 == 0#2) (.amorSwap (rd w) (ra w) (rb w))
  | 0x10#5 => need ((fn7 w).extractLsb' 5 2 == 0#2) (.amogCas (rd w) (ra w) (rb w))
  | 0x11#5 => need ((fn7 w).extractLsb' 5 2 == 0#2) (.amomCas (rd w) (ra w) (rb w))
  | 0x12#5 => need ((fn7 w).extractLsb' 5 2 == 0#2) (.amorCas (rd w) (ra w) (rb w))
  | _ => .error .unassignedFunction

/-- Major 0x2B (Table 5.8). -/
noncomputable def decodeBatch (w : BitVec 32) : Except DecodeError Instr :=
  match fn7 w with
  | 0x0#7 => need (rb w == 0#5 && ra w == 0#5 && rd w == 0#5) .bseal
  | 0x1#7 => need (rb w == 0#5) (.bwait (rd w) (ra w))
  | 0x2#7 => need (rd w == 0#5) (.xfence (ra w) (rb w))
  | _ => .error .unassignedFunction

/-- Major 0x2C (Table 5.8). -/
noncomputable def decodeStream (w : BitVec 32) : Except DecodeError Instr :=
  match fn7 w with
  | 0x0#7 => need (rd w == 0#5) (.sestart (ra w) (rb w))
  | 0x1#7 => need (rb w == 0#5 && rd w == 0#5) (.sestop (ra w))
  | 0x2#7 => need (rb w == 0#5) (.sepoll (rd w) (ra w))
  | 0x3#7 => need (rd w == 0#5) (.wdef (ra w) (rb w))
  | 0x4#7 => need ((rb w).extractLsb' 4 1 == 0#1) (.waita (rd w) (ra w) ((rb w).extractLsb' 0 4))
  | 0x5#7 => need ((rb w).extractLsb' 4 1 == 0#1 && rd w == 0#5) (.rela (ra w) ((rb w).extractLsb' 0 4))
  | _ => .error .unassignedFunction

/-- Major 0x2D (Table 5.8). -/
noncomputable def decodeSync (w : BitVec 32) : Except DecodeError Instr :=
  match (fn7 w).extractLsb' 4 3 with
  | 0x0#3 => need (rb w == 0#5) (.sync (rd w) (ra w) ((fn7 w).extractLsb' 0 4) ((fn7 w).extractLsb' 4 3))
  | 0x1#3 => need (rb w == 0#5) (.sync (rd w) (ra w) ((fn7 w).extractLsb' 0 4) ((fn7 w).extractLsb' 4 3))
  | 0x2#3 => need (rb w == 0#5) (.sync (rd w) (ra w) ((fn7 w).extractLsb' 0 4) ((fn7 w).extractLsb' 4 3))
  | 0x3#3 => need (rb w == 0#5) (.sync (rd w) (ra w) ((fn7 w).extractLsb' 0 4) ((fn7 w).extractLsb' 4 3))
  | 0x4#3 => need (rb w == 0#5) (.sync (rd w) (ra w) ((fn7 w).extractLsb' 0 4) ((fn7 w).extractLsb' 4 3))
  | 0x5#3 =>
    match (fn7 w).extractLsb' 0 4 with
    | 0x0#4 => need (rb w == 0#5 && rd w == 0#5) (.abort (ra w))
    | 0x1#4 => need (rb w == 0#5 && ra w == 0#5 && rd w == 0#5) .aclr
    | 0x2#4 => need (rb w == 0#5 && ra w == 0#5) (.seal (rd w))
    | 0x3#4 => need ((rb w).extractLsb' 3 2 == 0#2 && rd w == 0#5) (.bara (ra w) ((rb w).extractLsb' 0 3))
    | 0x4#4 => need ((rb w).extractLsb' 3 2 == 0#2 && ra w == 0#5 && rd w == 0#5) (.barw ((rb w).extractLsb' 0 3))
    | 0x5#4 => need (rb w == 0#5 && ra w == 0#5 && rd w == 0#5) .tsync
    | _ => .error .unassignedFunction
  | _ => .error .unassignedFunction

/-- Major 0x2E (Table 5.8). -/
noncomputable def decodeFabric (w : BitVec 32) : Except DecodeError Instr :=
  match (fn7 w).extractLsb' 0 3 with
  | 0x0#3 => need ((fn7 w).extractLsb' 3 4 == 0#4) (.kmint (rd w) (ra w) (rb w))
  | 0x1#3 => need ((fn7 w).extractLsb' 3 4 == 0#4 && rb w == 0#5) (.krev (rd w) (ra w))
  | 0x2#3 => need ((fn7 w).extractLsb' 3 4 == 0#4) (.cset (rd w) (ra w) (rb w))
  | 0x3#3 => need ((fn7 w).extractLsb' 3 4 == 0#4 && rb w == 0#5) (.cfree (rd w) (ra w))
  | 0x4#3 => need ((fn7 w).extractLsb' 3 4 == 0#4 && rb w == 0#5 && rd w == 0#5) (.cfire (ra w))
  | 0x5#3 => need ((fn7 w).extractLsb' 5 2 == 0#2) (.mlred (rd w) (ra w) (rb w) ((fn7 w).extractLsb' 3 1) ((fn7 w).extractLsb' 4 1))
  | 0x6#3 => need ((fn7 w).extractLsb' 3 4 == 0#4 && rd w == 0#5) (.mcast (ra w) (rb w))
  | _ => .error .unassignedFunction

/-- The instruction of a 32-bit word by its major opcode (Table 5.4, R88). -/
noncomputable def decodeOperands (w : BitVec 32) : Except DecodeError Instr :=
  match major w with
  | 0x0#6 => decodeSys w
  | 0x1#6 => decodeAlu w
  | 0x2#6 => .ok (.addi (rd w) (ra w) (imm12 w))
  | 0x3#6 => .ok (.andi (rd w) (ra w) (imm12 w))
  | 0x4#6 => .ok (.ori (rd w) (ra w) (imm12 w))
  | 0x5#6 => .ok (.xori (rd w) (ra w) (imm12 w))
  | 0x6#6 => decodeCompareImm w
  | 0x7#6 => decodeShiftImm w
  | 0x8#6 => .ok (.ldi (rd w) (imm17 w))
  | 0x9#6 => .ok (.ldih (rd w) (imm17 w))
  | 0xA#6 => decodeBitField w
  | 0xB#6 => decodeSelect w
  | 0xC#6 => .ok (.beq (bra w) (brb w) (nBit w) (off11 w))
  | 0xD#6 => .ok (.bne (bra w) (brb w) (nBit w) (off11 w))
  | 0xE#6 => .ok (.blt (bra w) (brb w) (nBit w) (off11 w))
  | 0xF#6 => .ok (.bge (bra w) (brb w) (nBit w) (off11 w))
  | 0x10#6 => .ok (.bltu (bra w) (brb w) (nBit w) (off11 w))
  | 0x11#6 => .ok (.bgeu (bra w) (brb w) (nBit w) (off11 w))
  | 0x12#6 => .ok (.jmp (off22 w))
  | 0x13#6 => .ok (.call (off22 w))
  | 0x14#6 => decodeJumpReg w
  | 0x15#6 => decodeLoopNest w
  | 0x16#6 => decodeTileLoad w
  | 0x17#6 => decodeTileStore w
  | 0x18#6 => decodeTileAtomic w
  | 0x19#6 => decodeVecMem w
  | 0x1A#6 => decodeGatherCopy w
  | 0x1B#6 => decodeVecFloat w
  | 0x1C#6 => decodeVecInt w
  | 0x1D#6 => decodeVecLogic w
  | 0x1E#6 => decodeVecCompare w
  | 0x1F#6 => decodeVecConvert w
  | 0x20#6 => decodeVecReduce w
  | 0x21#6 => decodeVecPermute w
  | 0x22#6 => decodeMask w
  | 0x23#6 => decodeMma w
  | 0x24#6 => decodeAccumulator w
  | 0x25#6 => decodeMatrixConfig w
  | 0x27#6 => decodeGet w
  | 0x28#6 => decodeDeposit w
  | 0x29#6 => decodeBlockDeposit w
  | 0x2A#6 => decodeLevelAtomic w
  | 0x2B#6 => decodeBatch w
  | 0x2C#6 => decodeStream w
  | 0x2D#6 => decodeSync w
  | 0x2E#6 => decodeFabric w
  | _ => .error .unassignedMajor

/-- R80, Table 5.2: every 16-bit word is an instruction. -/
noncomputable def decode16 (h : BitVec 16) : Instr :=
  match h.extractLsb' 1 4 with
  | 0x0#4 => .vmov16 (h.extractLsb' 5 5) (h.extractLsb' 10 5) (h.extractLsb' 15 1)
  | 0x1#4 => .vaddF16 (h.extractLsb' 5 5) (h.extractLsb' 10 5) (h.extractLsb' 15 1)
  | 0x2#4 => .vsubF16 (h.extractLsb' 5 5) (h.extractLsb' 10 5) (h.extractLsb' 15 1)
  | 0x3#4 => .vmulF16 (h.extractLsb' 5 5) (h.extractLsb' 10 5) (h.extractLsb' 15 1)
  | 0x4#4 => .vfmac16 (h.extractLsb' 5 5) (h.extractLsb' 10 5) (h.extractLsb' 15 1)
  | 0x5#4 => .vmaxF16 (h.extractLsb' 5 5) (h.extractLsb' 10 5) (h.extractLsb' 15 1)
  | 0x6#4 => .vminF16 (h.extractLsb' 5 5) (h.extractLsb' 10 5) (h.extractLsb' 15 1)
  | 0x7#4 => .vaddI16 (h.extractLsb' 5 5) (h.extractLsb' 10 5) (h.extractLsb' 15 1)
  | 0x8#4 => .vsubI16 (h.extractLsb' 5 5) (h.extractLsb' 10 5) (h.extractLsb' 15 1)
  | 0x9#4 => .vmulI16 (h.extractLsb' 5 5) (h.extractLsb' 10 5) (h.extractLsb' 15 1)
  | 0xA#4 => .vand16 (h.extractLsb' 5 5) (h.extractLsb' 10 5) (h.extractLsb' 15 1)
  | 0xB#4 => .vor16 (h.extractLsb' 5 5) (h.extractLsb' 10 5) (h.extractLsb' 15 1)
  | 0xC#4 => .vxor16 (h.extractLsb' 5 5) (h.extractLsb' 10 5) (h.extractLsb' 15 1)
  | 0xD#4 => .vshlV16 (h.extractLsb' 5 5) (h.extractLsb' 10 5) (h.extractLsb' 15 1)
  | 0xE#4 => .vshrV16 (h.extractLsb' 5 5) (h.extractLsb' 10 5) (h.extractLsb' 15 1)
  | _ => .vsraV16 (h.extractLsb' 5 5) (h.extractLsb' 10 5) (h.extractLsb' 15 1)

/-- A 32-bit word: its instruction and stall count, or the name of what rejects it (R82, R88). -/
noncomputable def decode32 (w : BitVec 32) : Except DecodeError (Instr × BitVec 3) :=
  if w.extractLsb' 0 1 == 0#1 then .error .truncated
  else match decodeOperands w with
    | .error e => .error e
    | .ok i => if i.wellFormed then .ok (i, stallCount w) else .error .illFormed

/-- The instruction at the head of a byte list, its stall count and the bytes that follow (R78: bit 0 of the first halfword gives
the length; R3: little-endian). -/
noncomputable def decodeBytes : List Byte → Except DecodeError (Instr × BitVec 3 × List Byte)
  | b0 :: b1 :: rest =>
    if b0.extractLsb' 0 1 == 0#1 then .ok (decode16 (b1 ++ b0), 0#3, rest)
    else match rest with
      | b2 :: b3 :: rest' =>
        match decode32 (b3 ++ b2 ++ b1 ++ b0) with
        | .ok (i, s) => .ok (i, s, rest')
        | .error e => .error e
      | _ => .error .truncated
  | _ => .error .truncated

/-- The value of a command word's fields if its unused fields are 0 (R222). -/
def needCommand (c : Bool) (i : Instr) : Except DecodeError Instr :=
  if c then (if i.wellFormed then .ok i else .error .illFormed) else .error .fieldNotZero

/-- A 64-bit stream command word (Tables 12.1 and 12.2, R224). -/
def decodeCommand (w : BitVec 64) : Except DecodeError Instr :=
  let f := w.extractLsb' 54 4
  let g := w.extractLsb' 52 2
  let z := w.extractLsb' 51 1
  let kind := w.extractLsb' 48 3
  let h := w.extractLsb' 32 16
  let imm := w.extractLsb' 0 32
  match w.extractLsb' 58 6 with
  | 0x01#6 => needCommand (kind == 0#3) (.scSeta imm h z g f)
  | 0x02#6 => needCommand true (.scSetb imm h kind z g f)
  | 0x03#6 => needCommand (f == 0#4 && g == 0#2 && z == 0#1 && kind == 0#3 && h == 0#16 && w.extractLsb' 20 12 == 0#12) (.scMove (w.extractLsb' 0 20))
  | 0x04#6 => needCommand (g == 0#2 && z == 0#1 && kind == 0#3 && w.extractLsb' 34 14 == 0#14 && w.extractLsb' 20 12 == 0#12)
      (.scMoveq (w.extractLsb' 0 20) (w.extractLsb' 32 2) f)
  | 0x05#6 => needCommand (kind == 0#3 && h == 0#16) (.scLoop imm z g f)
  | 0x06#6 => needCommand (g == 0#2 && z == 0#1 && kind == 0#3 && h == 0#16 && w.extractLsb' 16 16 == 0#16) (.scNext (w.extractLsb' 0 16) f)
  | 0x07#6 => needCommand (w.extractLsb' 0 58 == 0#58) .scWaitp
  | 0x08#6 => needCommand (w.extractLsb' 0 58 == 0#58) .scArrive
  | 0x09#6 => needCommand (kind == 0#3 && h == 0#16) (.scBarr imm z g f)
  | 0x0A#6 => needCommand (f == 0#4 && g == 0#2 && z == 0#1 && kind == 0#3 && h == 0#16 && w.extractLsb' 16 16 == 0#16) (.scJump (w.extractLsb' 0 16))
  | 0x0B#6 => needCommand (w.extractLsb' 0 58 == 0#58) .scEnd
  | _ => .error .unassignedCommand

/-! The encoder. -/

/-- Formats R and X: fn7, rb, ra, rd (Table 5.3). -/
def packR (f : BitVec 7) (b a d : BitVec 5) (mj : BitVec 6) (s : BitVec 3) : BitVec 32 := f ++ b ++ a ++ d ++ mj ++ s ++ 1#1
/-- Format I: imm12, ra, rd. -/
def packI (i : BitVec 12) (a d : BitVec 5) (mj : BitVec 6) (s : BitVec 3) : BitVec 32 := i ++ a ++ d ++ mj ++ s ++ 1#1
/-- Format U: imm17, rd. -/
def packU (i : BitVec 17) (d : BitVec 5) (mj : BitVec 6) (s : BitVec 3) : BitVec 32 := i ++ d ++ mj ++ s ++ 1#1
/-- Format B: off11, N, rb, ra. -/
def packB (o : BitVec 11) (n : BitVec 1) (b a : BitVec 5) (mj : BitVec 6) (s : BitVec 3) : BitVec 32 := o ++ n ++ b ++ a ++ mj ++ s ++ 1#1
/-- Format J: off22. -/
def packJ (o : BitVec 22) (mj : BitVec 6) (s : BitVec 3) : BitVec 32 := o ++ mj ++ s ++ 1#1
/-- LOOP: fn7 and off15 (R129). -/
def packL (f : BitVec 7) (o : BitVec 15) (mj : BitVec 6) (s : BitVec 3) : BitVec 32 := f ++ o ++ mj ++ s ++ 1#1
/-- Format T: imm9, sz3, ra, rd. -/
def packT (i : BitVec 9) (z : BitVec 3) (a d : BitVec 5) (mj : BitVec 6) (s : BitVec 3) : BitVec 32 := i ++ z ++ a ++ d ++ mj ++ s ++ 1#1
/-- Format V: mask3, fn4, vb, va, vd. -/
def packV (m : BitVec 3) (f : BitVec 4) (b a d : BitVec 5) (mj : BitVec 6) (s : BitVec 3) : BitVec 32 := m ++ f ++ b ++ a ++ d ++ mj ++ s ++ 1#1
/-- Format M: acc3, vidx5, bank9, kf5. -/
def packM (c : BitVec 3) (v : BitVec 5) (k : BitVec 9) (f : BitVec 5) (mj : BitVec 6) (s : BitVec 3) : BitVec 32 := c ++ v ++ k ++ f ++ mj ++ s ++ 1#1
/-- A stream command word (Table 12.1). -/
def packC (op : BitVec 6) (f : BitVec 4) (g : BitVec 2) (z : BitVec 1) (kind : BitVec 3) (h : BitVec 16) (imm : BitVec 32) : BitVec 64 :=
  op ++ f ++ g ++ z ++ kind ++ h ++ imm

/-- The 32-bit word of an instruction with stall count `s`, from the encoding tables of chapter 5; `none` for an instruction with no 32-bit word. -/
def encode32 (i : Instr) (s : BitVec 3) : Option (BitVec 32) :=
  match i with
  | .nop => some (packI 0x0#12 0x0#5 0x0#5 0x0#6 s)
  | .halt => some (packI 0x0#12 0x1#5 0x0#5 0x0#6 s)
  | .trap c => some (packI c 0x2#5 0x0#5 0x0#6 s)
  | .eret => some (packI 0x0#12 0x3#5 0x0#5 0x0#6 s)
  | .mfsr d n => some (packI n 0x4#5 d 0x0#6 s)
  | .mtsr a n => some (packI n 0x5#5 a 0x0#6 s)
  | .swait a => some (packI 0x0#12 0x6#5 a 0x0#6 s)
  | .wsave => some (packI 0x0#12 0x7#5 0x0#5 0x0#6 s)
  | .wrest => some (packI 0x0#12 0x8#5 0x0#5 0x0#6 s)
  | .mbxrd d w => some (packI (0x0#11 ++ w) 0x10#5 d 0x0#6 s)
  | .mbxpost a => some (packI 0x0#12 0x11#5 a 0x0#6 s)
  | .xresume a => some (packI 0x0#12 0x12#5 a 0x0#6 s)
  | .gstop a => some (packI 0x0#12 0x13#5 a 0x0#6 s)
  | .gstopRelease a => some (packI 0x1#12 0x13#5 a 0x0#6 s)
  | .unpark a => some (packI 0x0#12 0x14#5 a 0x0#6 s)
  | .idle a => some (packI 0x0#12 0x15#5 a 0x0#6 s)
  | .add d a b => some (packR 0x0#7 b a d 0x1#6 s)
  | .sub d a b => some (packR 0x1#7 b a d 0x1#6 s)
  | .addw d a b => some (packR 0x2#7 b a d 0x1#6 s)
  | .subw d a b => some (packR 0x3#7 b a d 0x1#6 s)
  | .and d a b => some (packR 0x4#7 b a d 0x1#6 s)
  | .or d a b => some (packR 0x5#7 b a d 0x1#6 s)
  | .xor d a b => some (packR 0x6#7 b a d 0x1#6 s)
  | .andn d a b => some (packR 0x7#7 b a d 0x1#6 s)
  | .sll d a b => some (packR 0x8#7 b a d 0x1#6 s)
  | .srl d a b => some (packR 0x9#7 b a d 0x1#6 s)
  | .sra d a b => some (packR 0xA#7 b a d 0x1#6 s)
  | .mul d a b => some (packR 0xB#7 b a d 0x1#6 s)
  | .mulw d a b => some (packR 0xC#7 b a d 0x1#6 s)
  | .mulh d a b => some (packR 0xD#7 b a d 0x1#6 s)
  | .mulhu d a b => some (packR 0xE#7 b a d 0x1#6 s)
  | .div d a b => some (packR 0xF#7 b a d 0x1#6 s)
  | .divu d a b => some (packR 0x10#7 b a d 0x1#6 s)
  | .rem d a b => some (packR 0x11#7 b a d 0x1#6 s)
  | .remu d a b => some (packR 0x12#7 b a d 0x1#6 s)
  | .min d a b => some (packR 0x13#7 b a d 0x1#6 s)
  | .max d a b => some (packR 0x14#7 b a d 0x1#6 s)
  | .minu d a b => some (packR 0x15#7 b a d 0x1#6 s)
  | .maxu d a b => some (packR 0x16#7 b a d 0x1#6 s)
  | .seq d a b => some (packR 0x17#7 b a d 0x1#6 s)
  | .slt d a b => some (packR 0x18#7 b a d 0x1#6 s)
  | .sltu d a b => some (packR 0x19#7 b a d 0x1#6 s)
  | .clz d a => some (packR 0x1A#7 0x0#5 a d 0x1#6 s)
  | .ctz d a => some (packR 0x1B#7 0x0#5 a d 0x1#6 s)
  | .popc d a => some (packR 0x1C#7 0x0#5 a d 0x1#6 s)
  | .sextb d a => some (packR 0x1D#7 0x0#5 a d 0x1#6 s)
  | .sexth d a => some (packR 0x1E#7 0x0#5 a d 0x1#6 s)
  | .sextw d a => some (packR 0x1F#7 0x0#5 a d 0x1#6 s)
  | .zextb d a => some (packR 0x20#7 0x0#5 a d 0x1#6 s)
  | .zexth d a => some (packR 0x21#7 0x0#5 a d 0x1#6 s)
  | .zextw d a => some (packR 0x22#7 0x0#5 a d 0x1#6 s)
  | .addi d a i => some (packI i a d 0x2#6 s)
  | .andi d a i => some (packI i a d 0x3#6 s)
  | .ori d a i => some (packI i a d 0x4#6 s)
  | .xori d a i => some (packI i a d 0x5#6 s)
  | .slti d a i => some (packI (0x0#1 ++ i) a d 0x6#6 s)
  | .sltiu d a i => some (packI (0x1#1 ++ i) a d 0x6#6 s)
  | .slli d a h => some (packI (0x0#6 ++ h) a d 0x7#6 s)
  | .srli d a h => some (packI (0x1#6 ++ h) a d 0x7#6 s)
  | .srai d a h => some (packI (0x2#6 ++ h) a d 0x7#6 s)
  | .ldi d i => some (packU i d 0x8#6 s)
  | .ldih d i => some (packU i d 0x9#6 s)
  | .bfx d a b => some (packR 0x0#7 b a d 0xA#6 s)
  | .bfxu d a b => some (packR 0x1#7 b a d 0xA#6 s)
  | .bfi d a b => some (packR 0x2#7 b a d 0xA#6 s)
  | .csel d a b c => some (packR (0x0#2 ++ c) b a d 0xB#6 s)
  | .cseln d a b c => some (packR (0x1#2 ++ c) b a d 0xB#6 s)
  | .beq a b n o => some (packB o n b a 0xC#6 s)
  | .bne a b n o => some (packB o n b a 0xD#6 s)
  | .blt a b n o => some (packB o n b a 0xE#6 s)
  | .bge a b n o => some (packB o n b a 0xF#6 s)
  | .bltu a b n o => some (packB o n b a 0x10#6 s)
  | .bgeu a b n o => some (packB o n b a 0x11#6 s)
  | .jmp j => some (packJ j 0x12#6 s)
  | .call j => some (packJ j 0x13#6 s)
  | .jr a => some (packR 0x0#7 0x0#5 a 0x0#5 0x14#6 s)
  | .callr a => some (packR 0x1#7 0x0#5 a 0x0#5 0x14#6 s)
  | .ret => some (packR 0x2#7 0x0#5 0x0#5 0x0#5 0x14#6 s)
  | .lnset a j => some (packR (0x0#5 ++ j) 0x0#5 a 0x0#5 0x15#6 s)
  | .lnco k a j => some (packR (0x4#5 ++ j) 0x0#5 a k 0x15#6 s)
  | .lnbase k a j => some (packR (0x8#5 ++ j) 0x0#5 a k 0x15#6 s)
  | .lnidx a j => some (packR (0xC#5 ++ j) 0x0#5 a 0x0#5 0x15#6 s)
  | .loop o j => some (packL (0x10#5 ++ j) o 0x15#6 s)
  | .ldtB d a i => some (packT i 0x0#3 a d 0x16#6 s)
  | .ldtBu d a i => some (packT i 0x1#3 a d 0x16#6 s)
  | .ldtH d a i => some (packT i 0x2#3 a d 0x16#6 s)
  | .ldtHu d a i => some (packT i 0x3#3 a d 0x16#6 s)
  | .ldtW d a i => some (packT i 0x4#3 a d 0x16#6 s)
  | .ldtWu d a i => some (packT i 0x5#3 a d 0x16#6 s)
  | .ldtD d a i => some (packT i 0x6#3 a d 0x16#6 s)
  | .ldtBAreg d k => some (packT 0x0#9 0x7#3 (0x0#1 ++ k) d 0x16#6 s)
  | .ldtBuAreg d k => some (packT 0x1#9 0x7#3 (0x0#1 ++ k) d 0x16#6 s)
  | .ldtHAreg d k => some (packT 0x2#9 0x7#3 (0x0#1 ++ k) d 0x16#6 s)
  | .ldtHuAreg d k => some (packT 0x3#9 0x7#3 (0x0#1 ++ k) d 0x16#6 s)
  | .ldtWAreg d k => some (packT 0x4#9 0x7#3 (0x0#1 ++ k) d 0x16#6 s)
  | .ldtWuAreg d k => some (packT 0x5#9 0x7#3 (0x0#1 ++ k) d 0x16#6 s)
  | .ldtDAreg d k => some (packT 0x6#9 0x7#3 (0x0#1 ++ k) d 0x16#6 s)
  | .sttB d a i => some (packT i 0x0#3 a d 0x17#6 s)
  | .sttH d a i => some (packT i 0x2#3 a d 0x17#6 s)
  | .sttW d a i => some (packT i 0x4#3 a d 0x17#6 s)
  | .sttD d a i => some (packT i 0x6#3 a d 0x17#6 s)
  | .sttBAreg d k => some (packT 0x0#9 0x7#3 (0x0#1 ++ k) d 0x17#6 s)
  | .sttHAreg d k => some (packT 0x2#9 0x7#3 (0x0#1 ++ k) d 0x17#6 s)
  | .sttWAreg d k => some (packT 0x4#9 0x7#3 (0x0#1 ++ k) d 0x17#6 s)
  | .sttDAreg d k => some (packT 0x6#9 0x7#3 (0x0#1 ++ k) d 0x17#6 s)
  | .amtAdd d a b w => some (packR (0x0#3 ++ w ++ 0x0#3) b a d 0x18#6 s)
  | .amtSwap d a b w => some (packR (0x0#3 ++ w ++ 0x1#3) b a d 0x18#6 s)
  | .amtCas d a b w => some (packR (0x0#3 ++ w ++ 0x2#3) b a d 0x18#6 s)
  | .amtMin d a b w => some (packR (0x0#3 ++ w ++ 0x3#3) b a d 0x18#6 s)
  | .amtMax d a b w => some (packR (0x0#3 ++ w ++ 0x4#3) b a d 0x18#6 s)
  | .amtAnd d a b w => some (packR (0x0#3 ++ w ++ 0x5#3) b a d 0x18#6 s)
  | .amtOr d a b w => some (packR (0x0#3 ++ w ++ 0x6#3) b a d 0x18#6 s)
  | .amtXor d a b w => some (packR (0x0#3 ++ w ++ 0x7#3) b a d 0x18#6 s)
  | .vldt d a o m => some (packV m 0x0#4 o a d 0x19#6 s)
  | .vstt d a o m => some (packV m 0x1#4 o a d 0x19#6 s)
  | .vldts d a b m => some (packV m 0x2#4 b a d 0x19#6 s)
  | .vstts d a b m => some (packV m 0x3#4 b a d 0x19#6 s)
  | .vgath d a b m => some (packV m 0x0#4 b a d 0x1A#6 s)
  | .vscat d a b m => some (packV m 0x1#4 b a d 0x1A#6 s)
  | .copyb d a c => some (packV 0x0#3 0x2#4 c a d 0x1A#6 s)
  | .fillb d a c => some (packV 0x0#3 0x3#4 c a d 0x1A#6 s)
  | .vaddF d a b m => some (packV m 0x0#4 b a d 0x1B#6 s)
  | .vsubF d a b m => some (packV m 0x1#4 b a d 0x1B#6 s)
  | .vmulF d a b m => some (packV m 0x2#4 b a d 0x1B#6 s)
  | .vfmaF d a b m => some (packV m 0x3#4 b a d 0x1B#6 s)
  | .vfmsF d a b m => some (packV m 0x4#4 b a d 0x1B#6 s)
  | .vfnmaF d a b m => some (packV m 0x5#4 b a d 0x1B#6 s)
  | .vminF d a b m => some (packV m 0x6#4 b a d 0x1B#6 s)
  | .vmaxF d a b m => some (packV m 0x7#4 b a d 0x1B#6 s)
  | .vabsF d a m => some (packV m 0x8#4 0x0#5 a d 0x1B#6 s)
  | .vnegF d a m => some (packV m 0x9#4 0x0#5 a d 0x1B#6 s)
  | .vrcpF d a m => some (packV m 0xA#4 0x0#5 a d 0x1B#6 s)
  | .vrsqF d a m => some (packV m 0xB#4 0x0#5 a d 0x1B#6 s)
  | .vsqrtF d a m => some (packV m 0xC#4 0x0#5 a d 0x1B#6 s)
  | .vdivF d a b m => some (packV m 0xD#4 b a d 0x1B#6 s)
  | .vexp2F d a m => some (packV m 0xE#4 0x0#5 a d 0x1B#6 s)
  | .vlog2F d a m => some (packV m 0xF#4 0x0#5 a d 0x1B#6 s)
  | .vaddI d a b m => some (packV m 0x0#4 b a d 0x1C#6 s)
  | .vsubI d a b m => some (packV m 0x1#4 b a d 0x1C#6 s)
  | .vmulI d a b m => some (packV m 0x2#4 b a d 0x1C#6 s)
  | .vmulhI d a b m => some (packV m 0x3#4 b a d 0x1C#6 s)
  | .vmulhuI d a b m => some (packV m 0x4#4 b a d 0x1C#6 s)
  | .vminI d a b m => some (packV m 0x5#4 b a d 0x1C#6 s)
  | .vmaxI d a b m => some (packV m 0x6#4 b a d 0x1C#6 s)
  | .vminuI d a b m => some (packV m 0x7#4 b a d 0x1C#6 s)
  | .vmaxuI d a b m => some (packV m 0x8#4 b a d 0x1C#6 s)
  | .vabsI d a m => some (packV m 0x9#4 0x0#5 a d 0x1C#6 s)
  | .vaddsI d a b m => some (packV m 0xA#4 b a d 0x1C#6 s)
  | .vsubsI d a b m => some (packV m 0xB#4 b a d 0x1C#6 s)
  | .vand d a b m => some (packV m 0x0#4 b a d 0x1D#6 s)
  | .vor d a b m => some (packV m 0x1#4 b a d 0x1D#6 s)
  | .vxor d a b m => some (packV m 0x2#4 b a d 0x1D#6 s)
  | .vandn d a b m => some (packV m 0x3#4 b a d 0x1D#6 s)
  | .vnot d a m => some (packV m 0x4#4 0x0#5 a d 0x1D#6 s)
  | .vshlV d a b m => some (packV m 0x5#4 b a d 0x1D#6 s)
  | .vshrV d a b m => some (packV m 0x6#4 b a d 0x1D#6 s)
  | .vsraV d a b m => some (packV m 0x7#4 b a d 0x1D#6 s)
  | .vshli d a n m => some (packV m 0x8#4 n a d 0x1D#6 s)
  | .vshri d a n m => some (packV m 0x9#4 n a d 0x1D#6 s)
  | .vsrai d a n m => some (packV m 0xA#4 n a d 0x1D#6 s)
  | .vpopc d a m => some (packV m 0xB#4 0x0#5 a d 0x1D#6 s)
  | .vclz d a m => some (packV m 0xC#4 0x0#5 a d 0x1D#6 s)
  | .vcmpFEq d a b m => some (packV m 0x0#4 b a d 0x1E#6 s)
  | .vcmpFNe d a b m => some (packV m 0x1#4 b a d 0x1E#6 s)
  | .vcmpFLt d a b m => some (packV m 0x2#4 b a d 0x1E#6 s)
  | .vcmpFLe d a b m => some (packV m 0x3#4 b a d 0x1E#6 s)
  | .vcmpFUn d a b m => some (packV m 0x4#4 b a d 0x1E#6 s)
  | .vcmpIEq d a b m => some (packV m 0x5#4 b a d 0x1E#6 s)
  | .vcmpINe d a b m => some (packV m 0x6#4 b a d 0x1E#6 s)
  | .vcmpILt d a b m => some (packV m 0x7#4 b a d 0x1E#6 s)
  | .vcmpILe d a b m => some (packV m 0x8#4 b a d 0x1E#6 s)
  | .vcmpILtu d a b m => some (packV m 0x9#4 b a d 0x1E#6 s)
  | .vcmpILeu d a b m => some (packV m 0xA#4 b a d 0x1E#6 s)
  | .vsel d a b m => some (packV m 0xB#4 b a d 0x1E#6 s)
  | .vclass d a m => some (packV m 0xC#4 0x0#5 a d 0x1E#6 s)
  | .vcvtFI d a u r m => some (packV m 0x0#4 (0x0#2 ++ r ++ u) a d 0x1F#6 s)
  | .vcvtIF d a u r m => some (packV m 0x1#4 (0x0#2 ++ r ++ u) a d 0x1F#6 s)
  | .vcvtBfF d a h r m => some (packV m 0x2#4 (0x0#2 ++ r ++ h) a d 0x1F#6 s)
  | .vcvtFBf d a h m => some (packV m 0x3#4 (0x0#4 ++ h) a d 0x1F#6 s)
  | .vcvtHF d a h r m => some (packV m 0x4#4 (0x0#2 ++ r ++ h) a d 0x1F#6 s)
  | .vcvtFH d a h m => some (packV m 0x5#4 (0x0#4 ++ h) a d 0x1F#6 s)
  | .vquant d a b m => some (packV m 0x6#4 b a d 0x1F#6 s)
  | .vdeq d a h w m => some (packV m 0x7#4 (0x0#3 ++ w ++ h) a d 0x1F#6 s)
  | .vpackI8 d a q u m => some (packV m 0x8#4 (0x0#2 ++ u ++ q) a d 0x1F#6 s)
  | .vunpkI8 d a q u m => some (packV m 0x9#4 (0x0#2 ++ u ++ q) a d 0x1F#6 s)
  | .vredaddF d a m => some (packV m 0x0#4 0x0#5 a d 0x20#6 s)
  | .vredaddI d a m => some (packV m 0x1#4 0x0#5 a d 0x20#6 s)
  | .vredmaxF d a m => some (packV m 0x2#4 0x0#5 a d 0x20#6 s)
  | .vredminF d a m => some (packV m 0x3#4 0x0#5 a d 0x20#6 s)
  | .vredmaxI d a m => some (packV m 0x4#4 0x0#5 a d 0x20#6 s)
  | .vamax d a m => some (packV m 0x5#4 0x0#5 a d 0x20#6 s)
  | .vscanI d a m => some (packV m 0x6#4 0x0#5 a d 0x20#6 s)
  | .vscanF d a m => some (packV m 0x7#4 0x0#5 a d 0x20#6 s)
  | .vperm d a b m => some (packV m 0x0#4 b a d 0x21#6 s)
  | .vbcast d a m => some (packV m 0x1#4 0x0#5 a d 0x21#6 s)
  | .vextr d a n => some (packV 0x0#3 0x2#4 (0x0#1 ++ n) a d 0x21#6 s)
  | .vins d a n m => some (packV m 0x3#4 (0x0#1 ++ n) a d 0x21#6 s)
  | .vcompr d a m => some (packV m 0x4#4 0x0#5 a d 0x21#6 s)
  | .vexpnd d a m => some (packV m 0x5#4 0x0#5 a d 0x21#6 s)
  | .vrot d a n m => some (packV m 0x6#4 (0x0#1 ++ n) a d 0x21#6 s)
  | .viota d m => some (packV m 0x7#4 0x0#5 0x0#5 d 0x21#6 s)
  | .mand d a b => some (packV 0x0#3 0x0#4 b a d 0x22#6 s)
  | .mor d a b => some (packV 0x0#3 0x1#4 b a d 0x22#6 s)
  | .mxor d a b => some (packV 0x0#3 0x2#4 b a d 0x22#6 s)
  | .mnot d a => some (packV 0x0#3 0x3#4 0x0#5 a d 0x22#6 s)
  | .mpop d a => some (packV 0x0#3 0x4#4 0x0#5 a d 0x22#6 s)
  | .mfirst d a => some (packV 0x0#3 0x5#4 0x0#5 a d 0x22#6 s)
  | .mset d n => some (packV 0x0#3 0x6#4 0x0#5 n d 0x22#6 s)
  | .mget d a n => some (packV 0x0#3 0x7#4 (0x0#1 ++ n) a d 0x22#6 s)
  | .mmaBf b t x k n c => some (packM c n k (0x0#2 ++ x ++ t ++ b) 0x23#6 s)
  | .mmaH b t x k n c => some (packM c n k (0x1#2 ++ x ++ t ++ b) 0x23#6 s)
  | .mmaD8 b t x k n c => some (packM c n k (0x2#2 ++ x ++ t ++ b) 0x23#6 s)
  | .mmaI8 b t x k n c => some (packM c n k (0x3#2 ++ x ++ t ++ b) 0x23#6 s)
  | .mzero c => some (packM c 0x0#5 0x0#9 0x0#5 0x24#6 s)
  | .mrd r d c => some (packM c d (0x0#5 ++ r) 0x4#5 0x24#6 s)
  | .mwr r v c => some (packM c v (0x0#5 ++ r) 0x8#5 0x24#6 s)
  | .mwm d c => some (packM c d 0x0#9 0xC#5 0x24#6 s)
  | .msta i k n c => some (packM c n k (0x8#4 ++ i) 0x24#6 s)
  | .mwait q c => some (packM c 0x0#5 0x0#9 (0xA#4 ++ q) 0x24#6 s)
  | .mscale m a => some (packM 0x0#3 a (0x0#5 ++ m) 0x0#5 0x25#6 s)
  | .mmask a => some (packM 0x0#3 a 0x0#9 0x1#5 0x25#6 s)
  | .getg t a l v => some (packR (0x0#3 ++ v ++ 0x0#3) l a t 0x27#6 s)
  | .gets t a l v => some (packR (0x0#3 ++ v ++ 0x1#3) l a t 0x27#6 s)
  | .getm t a l v => some (packR (0x0#3 ++ v ++ 0x2#3) l a t 0x27#6 s)
  | .geth t a l v => some (packR (0x0#3 ++ v ++ 0x3#3) l a t 0x27#6 s)
  | .getr t a l v => some (packR (0x0#3 ++ v ++ 0x4#3) l a t 0x27#6 s)
  | .gett t a l => some (packR 0x5#7 l a t 0x27#6 s)
  | .depg t a l => some (packR 0x0#7 l a t 0x28#6 s)
  | .deps t a l => some (packR 0x1#7 l a t 0x28#6 s)
  | .depm t a l => some (packR 0x2#7 l a t 0x28#6 s)
  | .deph t a l => some (packR 0x3#7 l a t 0x28#6 s)
  | .depr t a l => some (packR 0x4#7 l a t 0x28#6 s)
  | .dept t a l => some (packR 0x5#7 l a t 0x28#6 s)
  | .depa t a l => some (packR 0x6#7 l a t 0x28#6 s)
  | .depbG t a l => some (packR 0x0#7 l a t 0x29#6 s)
  | .depbS t a l => some (packR 0x1#7 l a t 0x29#6 s)
  | .depbM t a l => some (packR 0x2#7 l a t 0x29#6 s)
  | .depbH t a l => some (packR 0x3#7 l a t 0x29#6 s)
  | .depbR t a l => some (packR 0x4#7 l a t 0x29#6 s)
  | .depbT t a l => some (packR 0x5#7 l a t 0x29#6 s)
  | .amogAdd t a v => some (packR 0x0#7 v a t 0x2A#6 s)
  | .amomAdd t a v => some (packR 0x1#7 v a t 0x2A#6 s)
  | .amorAdd t a v => some (packR 0x2#7 v a t 0x2A#6 s)
  | .amogMin t a v => some (packR 0x4#7 v a t 0x2A#6 s)
  | .amomMin t a v => some (packR 0x5#7 v a t 0x2A#6 s)
  | .amorMin t a v => some (packR 0x6#7 v a t 0x2A#6 s)
  | .amogMax t a v => some (packR 0x8#7 v a t 0x2A#6 s)
  | .amomMax t a v => some (packR 0x9#7 v a t 0x2A#6 s)
  | .amorMax t a v => some (packR 0xA#7 v a t 0x2A#6 s)
  | .amogSwap t a v => some (packR 0xC#7 v a t 0x2A#6 s)
  | .amomSwap t a v => some (packR 0xD#7 v a t 0x2A#6 s)
  | .amorSwap t a v => some (packR 0xE#7 v a t 0x2A#6 s)
  | .amogCas t a v => some (packR 0x10#7 v a t 0x2A#6 s)
  | .amomCas t a v => some (packR 0x11#7 v a t 0x2A#6 s)
  | .amorCas t a v => some (packR 0x12#7 v a t 0x2A#6 s)
  | .bseal => some (packR 0x0#7 0x0#5 0x0#5 0x0#5 0x2B#6 s)
  | .bwait d a => some (packR 0x1#7 0x0#5 a d 0x2B#6 s)
  | .xfence a b => some (packR 0x2#7 b a 0x0#5 0x2B#6 s)
  | .sestart a b => some (packR 0x0#7 b a 0x0#5 0x2C#6 s)
  | .sestop a => some (packR 0x1#7 0x0#5 a 0x0#5 0x2C#6 s)
  | .sepoll d a => some (packR 0x2#7 0x0#5 a d 0x2C#6 s)
  | .wdef a b => some (packR 0x3#7 b a 0x0#5 0x2C#6 s)
  | .waita d a w => some (packR 0x4#7 (0x0#1 ++ w) a d 0x2C#6 s)
  | .rela a w => some (packR 0x5#7 (0x0#1 ++ w) a 0x0#5 0x2C#6 s)
  | .sync d a p l => some (packR (l ++ p) 0x0#5 a d 0x2D#6 s)
  | .abort a => some (packR 0x50#7 0x0#5 a 0x0#5 0x2D#6 s)
  | .aclr => some (packR 0x51#7 0x0#5 0x0#5 0x0#5 0x2D#6 s)
  | .seal d => some (packR 0x52#7 0x0#5 0x0#5 d 0x2D#6 s)
  | .bara a i => some (packR 0x53#7 (0x0#2 ++ i) a 0x0#5 0x2D#6 s)
  | .barw i => some (packR 0x54#7 (0x0#2 ++ i) 0x0#5 0x0#5 0x2D#6 s)
  | .tsync => some (packR 0x55#7 0x0#5 0x0#5 0x0#5 0x2D#6 s)
  | .kmint d a b => some (packR 0x0#7 b a d 0x2E#6 s)
  | .krev d a => some (packR 0x1#7 0x0#5 a d 0x2E#6 s)
  | .cset d a b => some (packR 0x2#7 b a d 0x2E#6 s)
  | .cfree d a => some (packR 0x3#7 0x0#5 a d 0x2E#6 s)
  | .cfire a => some (packR 0x4#7 0x0#5 a 0x0#5 0x2E#6 s)
  | .mlred k a b w x => some (packR (0x0#2 ++ x ++ w ++ 0x5#3) b a k 0x2E#6 s)
  | .mcast a b => some (packR 0x6#7 b a 0x0#5 0x2E#6 s)
  | .vmov16 _ _ _ => none
  | .vaddF16 _ _ _ => none
  | .vsubF16 _ _ _ => none
  | .vmulF16 _ _ _ => none
  | .vfmac16 _ _ _ => none
  | .vmaxF16 _ _ _ => none
  | .vminF16 _ _ _ => none
  | .vaddI16 _ _ _ => none
  | .vsubI16 _ _ _ => none
  | .vmulI16 _ _ _ => none
  | .vand16 _ _ _ => none
  | .vor16 _ _ _ => none
  | .vxor16 _ _ _ => none
  | .vshlV16 _ _ _ => none
  | .vshrV16 _ _ _ => none
  | .vsraV16 _ _ _ => none
  | .scSeta _ _ _ _ _ => none
  | .scSetb _ _ _ _ _ _ => none
  | .scMove _ => none
  | .scMoveq _ _ _ => none
  | .scLoop _ _ _ _ => none
  | .scNext _ _ => none
  | .scWaitp => none
  | .scArrive => none
  | .scBarr _ _ _ _ => none
  | .scJump _ => none
  | .scEnd => none
  | .mmaLatch _ _ _ => none
  | .mmaPass _ _ _ _ => none
  | .mmaRowsFinal _ _ _ _ => none
  | .mzeroExecute _ _ _ => none
  | .mwrExecute _ _ _ => none
  | .mstaExecute _ _ _ => none
  | .mstaEnd _ _ _ => none
  | .copyEnd _ _ => none
  | .translationWalkDone _ _ _ => none
  | .getLand _ => none
  | .streamProgramStart _ => none
  | .sepollSample _ _ _ _ => none
  | .streamMoveLand _ _ _ _ => none
  | .windowCounterIncrement _ _ _ => none
  | .streamListStart _ => none
  | .arrivalBellDone _ _ _ => none
  | .writeHalf _ _ _ => none
  | .bellRelease _ _ _ => none
  | .barrierGenerationComplete _ _ => none
  | .kmintDone _ _ _ _ => none
  | .krevEffect _ _ _ _ => none
  | .csetDone _ _ _ _ => none
  | .cfreeDone _ _ _ _ => none
  | .bucketOpen _ _ => none
  | .bucketComplete _ _ => none
  | .bucketTimeout _ _ => none
  | .collectiveDelivery _ _ _ _ _ _ => none
  | .planFiring _ _ => none
  | .frameReceive _ _ _ => none
  | .ackTimeout _ _ _ => none
  | .replayRequestTimeout _ _ _ => none
  | .laneFault _ _ _ => none
  | .trainDone _ _ _ _ => none
  | .trainTimeout _ _ _ => none
  | .e2eStatus _ _ _ => none
  | .e2eTimeout _ => none
  | .vcEscape _ _ _ => none
  | .bufferRepair _ _ _ => none
  | .keyCheck _ _ _ _ _ _ _ => none
  | .hbmWriteMatch _ _ => none
  | .selection _ => none
  | .launchEntry _ _ => none
  | .planEntry _ _ => none
  | .collEntry _ _ => none
  | .sealEntry _ _ => none
  | .waitevEntry _ _ => none
  | .sigevEntry _ _ => none
  | .killEntry _ _ => none
  | .killQuiesced _ => none
  | .textLoad _ => none
  | .startBroadcast _ => none
  | .firstFetch _ => none
  | .watchdogExpiry _ _ => none
  | .lineRefill _ _ _ => none
  | .fillerFetch _ _ => none
  | .tickArrival _ _ => none
  | .tickTaken _ _ => none
  | .threadPark _ _ _ => none
  | .swaitExpiry _ _ _ => none
  | .idleWake _ _ _ => none
  | .mailboxArrival _ _ => none
  | .tileResume _ _ => none
  | .engineRetry _ _ => none
  | .gangStop _ _ => none
  | .contextSave _ => none
  | .contextRestore _ => none
  | .undoLogDrain _ _ => none
  | .groupUndoDrain _ => none
  | .saveSeal _ => none
  | .emergencyTimeout _ _ => none
  | .escrowAck _ _ => none
  | .uncorrectableFault _ _ _ => none
  | .rollbackDone _ _ => none
  | .tileRetire _ => none
  | .finalExchange _ _ _ => none
  | .completionReport _ _ _ => none
  | .completionCommit _ => none
  | .launchComplete _ => none
  | .completionAdd _ => none
  | .completionAddDone _ => none
  | .rampTick => none
  | .telemetryTick => none
  | .overtempWarning _ => none
  | .thermalShutdown _ => none
  | .coldReset => none
  | .warmReset => none
  | .repairLearned _ _ => none
  | .repairCommit _ _ => none
  | .boot _ _ _ _ _ => none
  | .spdmRequest _ _ => none
  | .cxlMemAccess _ _ _ _ => none
  | .managementWrite _ _ _ _ => none
  | .mgLinkctl _ _ _ => none
  | .mgBbctl _ _ _ => none
  | .mgPod _ _ => none
  | .unassignedWord _ => none
  | .trainingPatternArrival _ _ => none
  | .switchFailure _ _ => none
  | .translationInvalidation _ _ _ _ => none

/-- The 16-bit word of an instruction (Table 5.2); `none` for an instruction with none. -/
def encode16 (i : Instr) : Option (BitVec 16) :=
  match i with
  | .vmov16 d v m => some (m ++ v ++ d ++ 0x0#4 ++ 0#1)
  | .vaddF16 d v m => some (m ++ v ++ d ++ 0x1#4 ++ 0#1)
  | .vsubF16 d v m => some (m ++ v ++ d ++ 0x2#4 ++ 0#1)
  | .vmulF16 d v m => some (m ++ v ++ d ++ 0x3#4 ++ 0#1)
  | .vfmac16 d v m => some (m ++ v ++ d ++ 0x4#4 ++ 0#1)
  | .vmaxF16 d v m => some (m ++ v ++ d ++ 0x5#4 ++ 0#1)
  | .vminF16 d v m => some (m ++ v ++ d ++ 0x6#4 ++ 0#1)
  | .vaddI16 d v m => some (m ++ v ++ d ++ 0x7#4 ++ 0#1)
  | .vsubI16 d v m => some (m ++ v ++ d ++ 0x8#4 ++ 0#1)
  | .vmulI16 d v m => some (m ++ v ++ d ++ 0x9#4 ++ 0#1)
  | .vand16 d v m => some (m ++ v ++ d ++ 0xA#4 ++ 0#1)
  | .vor16 d v m => some (m ++ v ++ d ++ 0xB#4 ++ 0#1)
  | .vxor16 d v m => some (m ++ v ++ d ++ 0xC#4 ++ 0#1)
  | .vshlV16 d v m => some (m ++ v ++ d ++ 0xD#4 ++ 0#1)
  | .vshrV16 d v m => some (m ++ v ++ d ++ 0xE#4 ++ 0#1)
  | .vsraV16 d v m => some (m ++ v ++ d ++ 0xF#4 ++ 0#1)
  | .nop => none
  | .halt => none
  | .trap _ => none
  | .eret => none
  | .mfsr _ _ => none
  | .mtsr _ _ => none
  | .swait _ => none
  | .wsave => none
  | .wrest => none
  | .mbxrd _ _ => none
  | .mbxpost _ => none
  | .xresume _ => none
  | .gstop _ => none
  | .gstopRelease _ => none
  | .unpark _ => none
  | .idle _ => none
  | .add _ _ _ => none
  | .sub _ _ _ => none
  | .addw _ _ _ => none
  | .subw _ _ _ => none
  | .and _ _ _ => none
  | .or _ _ _ => none
  | .xor _ _ _ => none
  | .andn _ _ _ => none
  | .sll _ _ _ => none
  | .srl _ _ _ => none
  | .sra _ _ _ => none
  | .mul _ _ _ => none
  | .mulw _ _ _ => none
  | .mulh _ _ _ => none
  | .mulhu _ _ _ => none
  | .div _ _ _ => none
  | .divu _ _ _ => none
  | .rem _ _ _ => none
  | .remu _ _ _ => none
  | .min _ _ _ => none
  | .max _ _ _ => none
  | .minu _ _ _ => none
  | .maxu _ _ _ => none
  | .seq _ _ _ => none
  | .slt _ _ _ => none
  | .sltu _ _ _ => none
  | .clz _ _ => none
  | .ctz _ _ => none
  | .popc _ _ => none
  | .sextb _ _ => none
  | .sexth _ _ => none
  | .sextw _ _ => none
  | .zextb _ _ => none
  | .zexth _ _ => none
  | .zextw _ _ => none
  | .addi _ _ _ => none
  | .andi _ _ _ => none
  | .ori _ _ _ => none
  | .xori _ _ _ => none
  | .slti _ _ _ => none
  | .sltiu _ _ _ => none
  | .slli _ _ _ => none
  | .srli _ _ _ => none
  | .srai _ _ _ => none
  | .ldi _ _ => none
  | .ldih _ _ => none
  | .bfx _ _ _ => none
  | .bfxu _ _ _ => none
  | .bfi _ _ _ => none
  | .csel _ _ _ _ => none
  | .cseln _ _ _ _ => none
  | .beq _ _ _ _ => none
  | .bne _ _ _ _ => none
  | .blt _ _ _ _ => none
  | .bge _ _ _ _ => none
  | .bltu _ _ _ _ => none
  | .bgeu _ _ _ _ => none
  | .jmp _ => none
  | .call _ => none
  | .jr _ => none
  | .callr _ => none
  | .ret => none
  | .lnset _ _ => none
  | .lnco _ _ _ => none
  | .lnbase _ _ _ => none
  | .lnidx _ _ => none
  | .loop _ _ => none
  | .ldtB _ _ _ => none
  | .ldtBu _ _ _ => none
  | .ldtH _ _ _ => none
  | .ldtHu _ _ _ => none
  | .ldtW _ _ _ => none
  | .ldtWu _ _ _ => none
  | .ldtD _ _ _ => none
  | .ldtBAreg _ _ => none
  | .ldtBuAreg _ _ => none
  | .ldtHAreg _ _ => none
  | .ldtHuAreg _ _ => none
  | .ldtWAreg _ _ => none
  | .ldtWuAreg _ _ => none
  | .ldtDAreg _ _ => none
  | .sttB _ _ _ => none
  | .sttH _ _ _ => none
  | .sttW _ _ _ => none
  | .sttD _ _ _ => none
  | .sttBAreg _ _ => none
  | .sttHAreg _ _ => none
  | .sttWAreg _ _ => none
  | .sttDAreg _ _ => none
  | .amtAdd _ _ _ _ => none
  | .amtSwap _ _ _ _ => none
  | .amtCas _ _ _ _ => none
  | .amtMin _ _ _ _ => none
  | .amtMax _ _ _ _ => none
  | .amtAnd _ _ _ _ => none
  | .amtOr _ _ _ _ => none
  | .amtXor _ _ _ _ => none
  | .vldt _ _ _ _ => none
  | .vstt _ _ _ _ => none
  | .vldts _ _ _ _ => none
  | .vstts _ _ _ _ => none
  | .vgath _ _ _ _ => none
  | .vscat _ _ _ _ => none
  | .copyb _ _ _ => none
  | .fillb _ _ _ => none
  | .vaddF _ _ _ _ => none
  | .vsubF _ _ _ _ => none
  | .vmulF _ _ _ _ => none
  | .vfmaF _ _ _ _ => none
  | .vfmsF _ _ _ _ => none
  | .vfnmaF _ _ _ _ => none
  | .vminF _ _ _ _ => none
  | .vmaxF _ _ _ _ => none
  | .vabsF _ _ _ => none
  | .vnegF _ _ _ => none
  | .vrcpF _ _ _ => none
  | .vrsqF _ _ _ => none
  | .vsqrtF _ _ _ => none
  | .vdivF _ _ _ _ => none
  | .vexp2F _ _ _ => none
  | .vlog2F _ _ _ => none
  | .vaddI _ _ _ _ => none
  | .vsubI _ _ _ _ => none
  | .vmulI _ _ _ _ => none
  | .vmulhI _ _ _ _ => none
  | .vmulhuI _ _ _ _ => none
  | .vminI _ _ _ _ => none
  | .vmaxI _ _ _ _ => none
  | .vminuI _ _ _ _ => none
  | .vmaxuI _ _ _ _ => none
  | .vabsI _ _ _ => none
  | .vaddsI _ _ _ _ => none
  | .vsubsI _ _ _ _ => none
  | .vand _ _ _ _ => none
  | .vor _ _ _ _ => none
  | .vxor _ _ _ _ => none
  | .vandn _ _ _ _ => none
  | .vnot _ _ _ => none
  | .vshlV _ _ _ _ => none
  | .vshrV _ _ _ _ => none
  | .vsraV _ _ _ _ => none
  | .vshli _ _ _ _ => none
  | .vshri _ _ _ _ => none
  | .vsrai _ _ _ _ => none
  | .vpopc _ _ _ => none
  | .vclz _ _ _ => none
  | .vcmpFEq _ _ _ _ => none
  | .vcmpFNe _ _ _ _ => none
  | .vcmpFLt _ _ _ _ => none
  | .vcmpFLe _ _ _ _ => none
  | .vcmpFUn _ _ _ _ => none
  | .vcmpIEq _ _ _ _ => none
  | .vcmpINe _ _ _ _ => none
  | .vcmpILt _ _ _ _ => none
  | .vcmpILe _ _ _ _ => none
  | .vcmpILtu _ _ _ _ => none
  | .vcmpILeu _ _ _ _ => none
  | .vsel _ _ _ _ => none
  | .vclass _ _ _ => none
  | .vcvtFI _ _ _ _ _ => none
  | .vcvtIF _ _ _ _ _ => none
  | .vcvtBfF _ _ _ _ _ => none
  | .vcvtFBf _ _ _ _ => none
  | .vcvtHF _ _ _ _ _ => none
  | .vcvtFH _ _ _ _ => none
  | .vquant _ _ _ _ => none
  | .vdeq _ _ _ _ _ => none
  | .vpackI8 _ _ _ _ _ => none
  | .vunpkI8 _ _ _ _ _ => none
  | .vredaddF _ _ _ => none
  | .vredaddI _ _ _ => none
  | .vredmaxF _ _ _ => none
  | .vredminF _ _ _ => none
  | .vredmaxI _ _ _ => none
  | .vamax _ _ _ => none
  | .vscanI _ _ _ => none
  | .vscanF _ _ _ => none
  | .vperm _ _ _ _ => none
  | .vbcast _ _ _ => none
  | .vextr _ _ _ => none
  | .vins _ _ _ _ => none
  | .vcompr _ _ _ => none
  | .vexpnd _ _ _ => none
  | .vrot _ _ _ _ => none
  | .viota _ _ => none
  | .mand _ _ _ => none
  | .mor _ _ _ => none
  | .mxor _ _ _ => none
  | .mnot _ _ => none
  | .mpop _ _ => none
  | .mfirst _ _ => none
  | .mset _ _ => none
  | .mget _ _ _ => none
  | .mmaBf _ _ _ _ _ _ => none
  | .mmaH _ _ _ _ _ _ => none
  | .mmaD8 _ _ _ _ _ _ => none
  | .mmaI8 _ _ _ _ _ _ => none
  | .mzero _ => none
  | .mrd _ _ _ => none
  | .mwr _ _ _ => none
  | .mwm _ _ => none
  | .msta _ _ _ _ => none
  | .mwait _ _ => none
  | .mscale _ _ => none
  | .mmask _ => none
  | .getg _ _ _ _ => none
  | .gets _ _ _ _ => none
  | .getm _ _ _ _ => none
  | .geth _ _ _ _ => none
  | .getr _ _ _ _ => none
  | .gett _ _ _ => none
  | .depg _ _ _ => none
  | .deps _ _ _ => none
  | .depm _ _ _ => none
  | .deph _ _ _ => none
  | .depr _ _ _ => none
  | .dept _ _ _ => none
  | .depa _ _ _ => none
  | .depbG _ _ _ => none
  | .depbS _ _ _ => none
  | .depbM _ _ _ => none
  | .depbH _ _ _ => none
  | .depbR _ _ _ => none
  | .depbT _ _ _ => none
  | .amogAdd _ _ _ => none
  | .amomAdd _ _ _ => none
  | .amorAdd _ _ _ => none
  | .amogMin _ _ _ => none
  | .amomMin _ _ _ => none
  | .amorMin _ _ _ => none
  | .amogMax _ _ _ => none
  | .amomMax _ _ _ => none
  | .amorMax _ _ _ => none
  | .amogSwap _ _ _ => none
  | .amomSwap _ _ _ => none
  | .amorSwap _ _ _ => none
  | .amogCas _ _ _ => none
  | .amomCas _ _ _ => none
  | .amorCas _ _ _ => none
  | .bseal => none
  | .bwait _ _ => none
  | .xfence _ _ => none
  | .sestart _ _ => none
  | .sestop _ => none
  | .sepoll _ _ => none
  | .wdef _ _ => none
  | .waita _ _ _ => none
  | .rela _ _ => none
  | .sync _ _ _ _ => none
  | .abort _ => none
  | .aclr => none
  | .seal _ => none
  | .bara _ _ => none
  | .barw _ => none
  | .tsync => none
  | .kmint _ _ _ => none
  | .krev _ _ => none
  | .cset _ _ _ => none
  | .cfree _ _ => none
  | .cfire _ => none
  | .mlred _ _ _ _ _ => none
  | .mcast _ _ => none
  | .scSeta _ _ _ _ _ => none
  | .scSetb _ _ _ _ _ _ => none
  | .scMove _ => none
  | .scMoveq _ _ _ => none
  | .scLoop _ _ _ _ => none
  | .scNext _ _ => none
  | .scWaitp => none
  | .scArrive => none
  | .scBarr _ _ _ _ => none
  | .scJump _ => none
  | .scEnd => none
  | .mmaLatch _ _ _ => none
  | .mmaPass _ _ _ _ => none
  | .mmaRowsFinal _ _ _ _ => none
  | .mzeroExecute _ _ _ => none
  | .mwrExecute _ _ _ => none
  | .mstaExecute _ _ _ => none
  | .mstaEnd _ _ _ => none
  | .copyEnd _ _ => none
  | .translationWalkDone _ _ _ => none
  | .getLand _ => none
  | .streamProgramStart _ => none
  | .sepollSample _ _ _ _ => none
  | .streamMoveLand _ _ _ _ => none
  | .windowCounterIncrement _ _ _ => none
  | .streamListStart _ => none
  | .arrivalBellDone _ _ _ => none
  | .writeHalf _ _ _ => none
  | .bellRelease _ _ _ => none
  | .barrierGenerationComplete _ _ => none
  | .kmintDone _ _ _ _ => none
  | .krevEffect _ _ _ _ => none
  | .csetDone _ _ _ _ => none
  | .cfreeDone _ _ _ _ => none
  | .bucketOpen _ _ => none
  | .bucketComplete _ _ => none
  | .bucketTimeout _ _ => none
  | .collectiveDelivery _ _ _ _ _ _ => none
  | .planFiring _ _ => none
  | .frameReceive _ _ _ => none
  | .ackTimeout _ _ _ => none
  | .replayRequestTimeout _ _ _ => none
  | .laneFault _ _ _ => none
  | .trainDone _ _ _ _ => none
  | .trainTimeout _ _ _ => none
  | .e2eStatus _ _ _ => none
  | .e2eTimeout _ => none
  | .vcEscape _ _ _ => none
  | .bufferRepair _ _ _ => none
  | .keyCheck _ _ _ _ _ _ _ => none
  | .hbmWriteMatch _ _ => none
  | .selection _ => none
  | .launchEntry _ _ => none
  | .planEntry _ _ => none
  | .collEntry _ _ => none
  | .sealEntry _ _ => none
  | .waitevEntry _ _ => none
  | .sigevEntry _ _ => none
  | .killEntry _ _ => none
  | .killQuiesced _ => none
  | .textLoad _ => none
  | .startBroadcast _ => none
  | .firstFetch _ => none
  | .watchdogExpiry _ _ => none
  | .lineRefill _ _ _ => none
  | .fillerFetch _ _ => none
  | .tickArrival _ _ => none
  | .tickTaken _ _ => none
  | .threadPark _ _ _ => none
  | .swaitExpiry _ _ _ => none
  | .idleWake _ _ _ => none
  | .mailboxArrival _ _ => none
  | .tileResume _ _ => none
  | .engineRetry _ _ => none
  | .gangStop _ _ => none
  | .contextSave _ => none
  | .contextRestore _ => none
  | .undoLogDrain _ _ => none
  | .groupUndoDrain _ => none
  | .saveSeal _ => none
  | .emergencyTimeout _ _ => none
  | .escrowAck _ _ => none
  | .uncorrectableFault _ _ _ => none
  | .rollbackDone _ _ => none
  | .tileRetire _ => none
  | .finalExchange _ _ _ => none
  | .completionReport _ _ _ => none
  | .completionCommit _ => none
  | .launchComplete _ => none
  | .completionAdd _ => none
  | .completionAddDone _ => none
  | .rampTick => none
  | .telemetryTick => none
  | .overtempWarning _ => none
  | .thermalShutdown _ => none
  | .coldReset => none
  | .warmReset => none
  | .repairLearned _ _ => none
  | .repairCommit _ _ => none
  | .boot _ _ _ _ _ => none
  | .spdmRequest _ _ => none
  | .cxlMemAccess _ _ _ _ => none
  | .managementWrite _ _ _ _ => none
  | .mgLinkctl _ _ _ => none
  | .mgBbctl _ _ _ => none
  | .mgPod _ _ => none
  | .unassignedWord _ => none
  | .trainingPatternArrival _ _ => none
  | .switchFailure _ _ => none
  | .translationInvalidation _ _ _ _ => none

/-- The 64-bit command word of a stream command (Table 12.1); `none` for any other instruction. -/
def encodeCommand (i : Instr) : Option (BitVec 64) :=
  match i with
  | .scSeta imm h z g f => some (packC 0x01#6 f g z 0#3 h imm)
  | .scSetb imm h kind z g f => some (packC 0x02#6 f g z kind h imm)
  | .scMove n => some (packC 0x03#6 0#4 0#2 0#1 0#3 0#16 (0#12 ++ n))
  | .scMoveq n mode f => some (packC 0x04#6 f 0#2 0#1 0#3 (0#14 ++ mode) (0#12 ++ n))
  | .scLoop imm z g f => some (packC 0x05#6 f g z 0#3 0#16 imm)
  | .scNext t f => some (packC 0x06#6 f 0#2 0#1 0#3 0#16 (0#16 ++ t))
  | .scWaitp => some (packC 0x07#6 0#4 0#2 0#1 0#3 0#16 0#32)
  | .scArrive => some (packC 0x08#6 0#4 0#2 0#1 0#3 0#16 0#32)
  | .scBarr imm z g f => some (packC 0x09#6 f g z 0#3 0#16 imm)
  | .scJump t => some (packC 0x0A#6 0#4 0#2 0#1 0#3 0#16 (0#16 ++ t))
  | .scEnd => some (packC 0x0B#6 0#4 0#2 0#1 0#3 0#16 0#32)
  | .nop => none
  | .halt => none
  | .trap _ => none
  | .eret => none
  | .mfsr _ _ => none
  | .mtsr _ _ => none
  | .swait _ => none
  | .wsave => none
  | .wrest => none
  | .mbxrd _ _ => none
  | .mbxpost _ => none
  | .xresume _ => none
  | .gstop _ => none
  | .gstopRelease _ => none
  | .unpark _ => none
  | .idle _ => none
  | .add _ _ _ => none
  | .sub _ _ _ => none
  | .addw _ _ _ => none
  | .subw _ _ _ => none
  | .and _ _ _ => none
  | .or _ _ _ => none
  | .xor _ _ _ => none
  | .andn _ _ _ => none
  | .sll _ _ _ => none
  | .srl _ _ _ => none
  | .sra _ _ _ => none
  | .mul _ _ _ => none
  | .mulw _ _ _ => none
  | .mulh _ _ _ => none
  | .mulhu _ _ _ => none
  | .div _ _ _ => none
  | .divu _ _ _ => none
  | .rem _ _ _ => none
  | .remu _ _ _ => none
  | .min _ _ _ => none
  | .max _ _ _ => none
  | .minu _ _ _ => none
  | .maxu _ _ _ => none
  | .seq _ _ _ => none
  | .slt _ _ _ => none
  | .sltu _ _ _ => none
  | .clz _ _ => none
  | .ctz _ _ => none
  | .popc _ _ => none
  | .sextb _ _ => none
  | .sexth _ _ => none
  | .sextw _ _ => none
  | .zextb _ _ => none
  | .zexth _ _ => none
  | .zextw _ _ => none
  | .addi _ _ _ => none
  | .andi _ _ _ => none
  | .ori _ _ _ => none
  | .xori _ _ _ => none
  | .slti _ _ _ => none
  | .sltiu _ _ _ => none
  | .slli _ _ _ => none
  | .srli _ _ _ => none
  | .srai _ _ _ => none
  | .ldi _ _ => none
  | .ldih _ _ => none
  | .bfx _ _ _ => none
  | .bfxu _ _ _ => none
  | .bfi _ _ _ => none
  | .csel _ _ _ _ => none
  | .cseln _ _ _ _ => none
  | .beq _ _ _ _ => none
  | .bne _ _ _ _ => none
  | .blt _ _ _ _ => none
  | .bge _ _ _ _ => none
  | .bltu _ _ _ _ => none
  | .bgeu _ _ _ _ => none
  | .jmp _ => none
  | .call _ => none
  | .jr _ => none
  | .callr _ => none
  | .ret => none
  | .lnset _ _ => none
  | .lnco _ _ _ => none
  | .lnbase _ _ _ => none
  | .lnidx _ _ => none
  | .loop _ _ => none
  | .ldtB _ _ _ => none
  | .ldtBu _ _ _ => none
  | .ldtH _ _ _ => none
  | .ldtHu _ _ _ => none
  | .ldtW _ _ _ => none
  | .ldtWu _ _ _ => none
  | .ldtD _ _ _ => none
  | .ldtBAreg _ _ => none
  | .ldtBuAreg _ _ => none
  | .ldtHAreg _ _ => none
  | .ldtHuAreg _ _ => none
  | .ldtWAreg _ _ => none
  | .ldtWuAreg _ _ => none
  | .ldtDAreg _ _ => none
  | .sttB _ _ _ => none
  | .sttH _ _ _ => none
  | .sttW _ _ _ => none
  | .sttD _ _ _ => none
  | .sttBAreg _ _ => none
  | .sttHAreg _ _ => none
  | .sttWAreg _ _ => none
  | .sttDAreg _ _ => none
  | .amtAdd _ _ _ _ => none
  | .amtSwap _ _ _ _ => none
  | .amtCas _ _ _ _ => none
  | .amtMin _ _ _ _ => none
  | .amtMax _ _ _ _ => none
  | .amtAnd _ _ _ _ => none
  | .amtOr _ _ _ _ => none
  | .amtXor _ _ _ _ => none
  | .vldt _ _ _ _ => none
  | .vstt _ _ _ _ => none
  | .vldts _ _ _ _ => none
  | .vstts _ _ _ _ => none
  | .vgath _ _ _ _ => none
  | .vscat _ _ _ _ => none
  | .copyb _ _ _ => none
  | .fillb _ _ _ => none
  | .vaddF _ _ _ _ => none
  | .vsubF _ _ _ _ => none
  | .vmulF _ _ _ _ => none
  | .vfmaF _ _ _ _ => none
  | .vfmsF _ _ _ _ => none
  | .vfnmaF _ _ _ _ => none
  | .vminF _ _ _ _ => none
  | .vmaxF _ _ _ _ => none
  | .vabsF _ _ _ => none
  | .vnegF _ _ _ => none
  | .vrcpF _ _ _ => none
  | .vrsqF _ _ _ => none
  | .vsqrtF _ _ _ => none
  | .vdivF _ _ _ _ => none
  | .vexp2F _ _ _ => none
  | .vlog2F _ _ _ => none
  | .vaddI _ _ _ _ => none
  | .vsubI _ _ _ _ => none
  | .vmulI _ _ _ _ => none
  | .vmulhI _ _ _ _ => none
  | .vmulhuI _ _ _ _ => none
  | .vminI _ _ _ _ => none
  | .vmaxI _ _ _ _ => none
  | .vminuI _ _ _ _ => none
  | .vmaxuI _ _ _ _ => none
  | .vabsI _ _ _ => none
  | .vaddsI _ _ _ _ => none
  | .vsubsI _ _ _ _ => none
  | .vand _ _ _ _ => none
  | .vor _ _ _ _ => none
  | .vxor _ _ _ _ => none
  | .vandn _ _ _ _ => none
  | .vnot _ _ _ => none
  | .vshlV _ _ _ _ => none
  | .vshrV _ _ _ _ => none
  | .vsraV _ _ _ _ => none
  | .vshli _ _ _ _ => none
  | .vshri _ _ _ _ => none
  | .vsrai _ _ _ _ => none
  | .vpopc _ _ _ => none
  | .vclz _ _ _ => none
  | .vcmpFEq _ _ _ _ => none
  | .vcmpFNe _ _ _ _ => none
  | .vcmpFLt _ _ _ _ => none
  | .vcmpFLe _ _ _ _ => none
  | .vcmpFUn _ _ _ _ => none
  | .vcmpIEq _ _ _ _ => none
  | .vcmpINe _ _ _ _ => none
  | .vcmpILt _ _ _ _ => none
  | .vcmpILe _ _ _ _ => none
  | .vcmpILtu _ _ _ _ => none
  | .vcmpILeu _ _ _ _ => none
  | .vsel _ _ _ _ => none
  | .vclass _ _ _ => none
  | .vcvtFI _ _ _ _ _ => none
  | .vcvtIF _ _ _ _ _ => none
  | .vcvtBfF _ _ _ _ _ => none
  | .vcvtFBf _ _ _ _ => none
  | .vcvtHF _ _ _ _ _ => none
  | .vcvtFH _ _ _ _ => none
  | .vquant _ _ _ _ => none
  | .vdeq _ _ _ _ _ => none
  | .vpackI8 _ _ _ _ _ => none
  | .vunpkI8 _ _ _ _ _ => none
  | .vredaddF _ _ _ => none
  | .vredaddI _ _ _ => none
  | .vredmaxF _ _ _ => none
  | .vredminF _ _ _ => none
  | .vredmaxI _ _ _ => none
  | .vamax _ _ _ => none
  | .vscanI _ _ _ => none
  | .vscanF _ _ _ => none
  | .vperm _ _ _ _ => none
  | .vbcast _ _ _ => none
  | .vextr _ _ _ => none
  | .vins _ _ _ _ => none
  | .vcompr _ _ _ => none
  | .vexpnd _ _ _ => none
  | .vrot _ _ _ _ => none
  | .viota _ _ => none
  | .mand _ _ _ => none
  | .mor _ _ _ => none
  | .mxor _ _ _ => none
  | .mnot _ _ => none
  | .mpop _ _ => none
  | .mfirst _ _ => none
  | .mset _ _ => none
  | .mget _ _ _ => none
  | .vmov16 _ _ _ => none
  | .vaddF16 _ _ _ => none
  | .vsubF16 _ _ _ => none
  | .vmulF16 _ _ _ => none
  | .vfmac16 _ _ _ => none
  | .vmaxF16 _ _ _ => none
  | .vminF16 _ _ _ => none
  | .vaddI16 _ _ _ => none
  | .vsubI16 _ _ _ => none
  | .vmulI16 _ _ _ => none
  | .vand16 _ _ _ => none
  | .vor16 _ _ _ => none
  | .vxor16 _ _ _ => none
  | .vshlV16 _ _ _ => none
  | .vshrV16 _ _ _ => none
  | .vsraV16 _ _ _ => none
  | .mmaBf _ _ _ _ _ _ => none
  | .mmaH _ _ _ _ _ _ => none
  | .mmaD8 _ _ _ _ _ _ => none
  | .mmaI8 _ _ _ _ _ _ => none
  | .mzero _ => none
  | .mrd _ _ _ => none
  | .mwr _ _ _ => none
  | .mwm _ _ => none
  | .msta _ _ _ _ => none
  | .mwait _ _ => none
  | .mscale _ _ => none
  | .mmask _ => none
  | .getg _ _ _ _ => none
  | .gets _ _ _ _ => none
  | .getm _ _ _ _ => none
  | .geth _ _ _ _ => none
  | .getr _ _ _ _ => none
  | .gett _ _ _ => none
  | .depg _ _ _ => none
  | .deps _ _ _ => none
  | .depm _ _ _ => none
  | .deph _ _ _ => none
  | .depr _ _ _ => none
  | .dept _ _ _ => none
  | .depa _ _ _ => none
  | .depbG _ _ _ => none
  | .depbS _ _ _ => none
  | .depbM _ _ _ => none
  | .depbH _ _ _ => none
  | .depbR _ _ _ => none
  | .depbT _ _ _ => none
  | .amogAdd _ _ _ => none
  | .amomAdd _ _ _ => none
  | .amorAdd _ _ _ => none
  | .amogMin _ _ _ => none
  | .amomMin _ _ _ => none
  | .amorMin _ _ _ => none
  | .amogMax _ _ _ => none
  | .amomMax _ _ _ => none
  | .amorMax _ _ _ => none
  | .amogSwap _ _ _ => none
  | .amomSwap _ _ _ => none
  | .amorSwap _ _ _ => none
  | .amogCas _ _ _ => none
  | .amomCas _ _ _ => none
  | .amorCas _ _ _ => none
  | .bseal => none
  | .bwait _ _ => none
  | .xfence _ _ => none
  | .sestart _ _ => none
  | .sestop _ => none
  | .sepoll _ _ => none
  | .wdef _ _ => none
  | .waita _ _ _ => none
  | .rela _ _ => none
  | .sync _ _ _ _ => none
  | .abort _ => none
  | .aclr => none
  | .seal _ => none
  | .bara _ _ => none
  | .barw _ => none
  | .tsync => none
  | .kmint _ _ _ => none
  | .krev _ _ => none
  | .cset _ _ _ => none
  | .cfree _ _ => none
  | .cfire _ => none
  | .mlred _ _ _ _ _ => none
  | .mcast _ _ => none
  | .mmaLatch _ _ _ => none
  | .mmaPass _ _ _ _ => none
  | .mmaRowsFinal _ _ _ _ => none
  | .mzeroExecute _ _ _ => none
  | .mwrExecute _ _ _ => none
  | .mstaExecute _ _ _ => none
  | .mstaEnd _ _ _ => none
  | .copyEnd _ _ => none
  | .translationWalkDone _ _ _ => none
  | .getLand _ => none
  | .streamProgramStart _ => none
  | .sepollSample _ _ _ _ => none
  | .streamMoveLand _ _ _ _ => none
  | .windowCounterIncrement _ _ _ => none
  | .streamListStart _ => none
  | .arrivalBellDone _ _ _ => none
  | .writeHalf _ _ _ => none
  | .bellRelease _ _ _ => none
  | .barrierGenerationComplete _ _ => none
  | .kmintDone _ _ _ _ => none
  | .krevEffect _ _ _ _ => none
  | .csetDone _ _ _ _ => none
  | .cfreeDone _ _ _ _ => none
  | .bucketOpen _ _ => none
  | .bucketComplete _ _ => none
  | .bucketTimeout _ _ => none
  | .collectiveDelivery _ _ _ _ _ _ => none
  | .planFiring _ _ => none
  | .frameReceive _ _ _ => none
  | .ackTimeout _ _ _ => none
  | .replayRequestTimeout _ _ _ => none
  | .laneFault _ _ _ => none
  | .trainDone _ _ _ _ => none
  | .trainTimeout _ _ _ => none
  | .e2eStatus _ _ _ => none
  | .e2eTimeout _ => none
  | .vcEscape _ _ _ => none
  | .bufferRepair _ _ _ => none
  | .keyCheck _ _ _ _ _ _ _ => none
  | .hbmWriteMatch _ _ => none
  | .selection _ => none
  | .launchEntry _ _ => none
  | .planEntry _ _ => none
  | .collEntry _ _ => none
  | .sealEntry _ _ => none
  | .waitevEntry _ _ => none
  | .sigevEntry _ _ => none
  | .killEntry _ _ => none
  | .killQuiesced _ => none
  | .textLoad _ => none
  | .startBroadcast _ => none
  | .firstFetch _ => none
  | .watchdogExpiry _ _ => none
  | .lineRefill _ _ _ => none
  | .fillerFetch _ _ => none
  | .tickArrival _ _ => none
  | .tickTaken _ _ => none
  | .threadPark _ _ _ => none
  | .swaitExpiry _ _ _ => none
  | .idleWake _ _ _ => none
  | .mailboxArrival _ _ => none
  | .tileResume _ _ => none
  | .engineRetry _ _ => none
  | .gangStop _ _ => none
  | .contextSave _ => none
  | .contextRestore _ => none
  | .undoLogDrain _ _ => none
  | .groupUndoDrain _ => none
  | .saveSeal _ => none
  | .emergencyTimeout _ _ => none
  | .escrowAck _ _ => none
  | .uncorrectableFault _ _ _ => none
  | .rollbackDone _ _ => none
  | .tileRetire _ => none
  | .finalExchange _ _ _ => none
  | .completionReport _ _ _ => none
  | .completionCommit _ => none
  | .launchComplete _ => none
  | .completionAdd _ => none
  | .completionAddDone _ => none
  | .rampTick => none
  | .telemetryTick => none
  | .overtempWarning _ => none
  | .thermalShutdown _ => none
  | .coldReset => none
  | .warmReset => none
  | .repairLearned _ _ => none
  | .repairCommit _ _ => none
  | .boot _ _ _ _ _ => none
  | .spdmRequest _ _ => none
  | .cxlMemAccess _ _ _ _ => none
  | .managementWrite _ _ _ _ => none
  | .mgLinkctl _ _ _ => none
  | .mgBbctl _ _ _ => none
  | .mgPod _ _ => none
  | .unassignedWord _ => none
  | .trainingPatternArrival _ _ => none
  | .switchFailure _ _ => none
  | .translationInvalidation _ _ _ _ => none

/-- The words an instruction may stand as. -/
inductive Code where
  | w16 (h : BitVec 16)
  | w32 (w : BitVec 32)
  | command (w : BitVec 64)
  deriving DecidableEq, Repr

/-- The word of an instruction with stall count `s`; `none` for a machine event, which has none. A 16-bit word holds no stall
count (R80), and neither does a stream command. -/
def encode (i : Instr) (s : BitVec 3) : Option Code :=
  match encode32 i s with
  | some w => some (.w32 w)
  | none =>
    match encode16 i with
    | some h => some (.w16 h)
    | none =>
      match encodeCommand i with
      | some c => some (.command c)
      | none => none

/-- The decoder over the words of `encode`. -/
noncomputable def decode : Code → Except DecodeError (Instr × BitVec 3)
  | .w16 h => .ok (decode16 h, 0#3)
  | .w32 w => decode32 w
  | .command w =>
    match decodeCommand w with
    | .ok i => .ok (i, 0#3)
    | .error e => .error e

/-- Byte k of a number, little-endian (R3). -/
def byteOf (w k : Nat) : Byte := BitVec.ofNat 8 (w >>> (8 * k))

/-- The four bytes at which an instruction with table bits `w` stands: the table's bits are numbered from the first halfword's
least significant bit, and every space is little-endian (R3, R78), so byte k is bits 8k+7 to 8k. -/
def tableBytes (nbits w : Nat) : List Byte :=
  let v := w % 2 ^ nbits
  [byteOf v 0, byteOf v 1, byteOf v 2, byteOf v 3]

/-- The instruction the decoder reads from an instruction whose table bits are `w`. -/
noncomputable def decodeTableWord (nbits w : Nat) : Option Instr :=
  match decodeBytes (tableBytes nbits w) with
  | .ok (i, _, _) => some i
  | .error _ => none

end Sys2Proof
end

