-- ==== Sys2Proof/Machine/Bits.lean ====
section
/-!
DEFINITION. Bit-field, sign-extension, byte-order and lane helpers (R3, Table 0.3).
-/

namespace Sys2Proof.Machine

/-- x[hi:lo] as a number (R3). -/
def field {w : Nat} (x : BitVec w) (hi lo : Nat) : Nat := (x.extractLsb' lo (hi + 1 - lo)).toNat

/-- One bit of a word. -/
def bit {w : Nat} (x : BitVec w) (n : Nat) : Bool := x.getLsbD n

/-- Sext(x, n): x[n−1:0] sign-extended to 64 bits (Table 0.3). -/
def sext (n : Nat) {w : Nat} (x : BitVec w) : Word := (x.setWidth n).signExtend 64

/-- Zext(x, n): x[n−1:0] zero-extended to 64 bits (Table 0.3). -/
def zext (n : Nat) {w : Nat} (x : BitVec w) : Word := (x.setWidth n).setWidth 64

/-- A 64-bit word of a number, modulo 2^64. -/
def word (n : Nat) : Word := BitVec.ofNat 64 n

/-- 1 or 0. -/
def boolWord (b : Bool) : Word := if b then 1#64 else 0#64

/-- The number whose bytes, least significant first, are the list (R3). -/
def natOfBytes : List Byte → Nat
  | [] => 0
  | b :: r => b.toNat + 256 * natOfBytes r

/-- The `n` low bytes of a number, least significant first (R3). -/
def bytesOfNat : Nat → Nat → List Byte
  | 0, _ => []
  | n + 1, x => BitVec.ofNat 8 x :: bytesOfNat n (x / 256)

/-- Lane i of a vector register (R105). -/
def lane (v : Vec) (i : Nat) : Lane := v.extractLsb' (32 * i) 32

/-- The register whose lane i is `f i` for i from 0 to 15. -/
def ofLanes (f : Nat → Lane) : Vec :=
  f 15 ++ f 14 ++ f 13 ++ f 12 ++ f 11 ++ f 10 ++ f 9 ++ f 8 ++ f 7 ++ f 6 ++ f 5 ++ f 4 ++ f 3 ++ f 2 ++ f 1 ++ f 0

/-- The mask whose bit i is `f i`. -/
def ofBits16 (f : Nat → Bool) : Mask :=
  (List.range 16).foldl (fun acc i => acc ||| (if f i then 1#16 <<< i else 0#16)) 0#16

/-- Byte j of a vector register. -/
def vbyte (v : Vec) (j : Nat) : Byte := v.extractLsb' (8 * j) 8

/-- The least n at or above `a / b` (ceil); 0 for b = 0. -/
def ceilDiv (a b : Nat) : Nat := (a + b - 1) / b

/-- The least p with `n ≤ 2 ^ p`. -/
def clog2 (n : Nat) : Nat := if n ≤ 1 then 0 else (n - 1).log2 + 1

/-- Number of set bits below `n`. -/
def popcount {w : Nat} (x : BitVec w) : Nat := ((List.range w).filter (fun i => x.getLsbD i)).length

/-- Leading zeros (R109, R140). -/
def leadingZeros {w : Nat} (x : BitVec w) : Nat := ((List.range w).takeWhile (fun i => !x.getLsbD (w - 1 - i))).length

/-- Trailing zeros (R109). -/
def trailingZeros {w : Nat} (x : BitVec w) : Nat := ((List.range w).takeWhile (fun i => !x.getLsbD i)).length

/-- First element of a list that satisfies `p`, with its position. -/
def firstIdx {α : Type} (p : α → Bool) : List α → Nat → Option (Nat × α)
  | [], _ => none
  | x :: r, i => if p x then some (i, x) else firstIdx p r (i + 1)

/-- The list without repeats, first occurrences kept. -/
def dedup (l : List Nat) : List Nat := l.foldl (fun acc x => if acc.contains x then acc else acc ++ [x]) []

/-- Insertion by rising key; equal keys keep their order. -/
def insertBy {α : Type} (key : α → Nat) (x : α) : List α → List α
  | [] => [x]
  | y :: r => if key x < key y then x :: y :: r else y :: insertBy key x r

/-- Insertion sort by rising key, stable. -/
def sortBy {α : Type} (key : α → Nat) (l : List α) : List α := l.foldl (fun acc x => insertBy key x acc) []

end Sys2Proof.Machine
end

