-- ==== Sys2Proof/Config.lean ====
section
/-!
DEFINITION. What the specification leaves open: values it does not state are opaque constants with no body, applied to the counter
`nonce` of the state or to the operands they depend on, so that nothing can be proved of a value of theirs. Sizes the spec fixes are
plain numbers.
-/

namespace Sys2Proof.Config

/-- A 64-bit value the spec leaves unspecified: wd of a SYNC whose members name different operators (R243). Log entry 3. -/
opaque freeWord : Nat → BitVec 64

/-- The order key of an application above die scope, which R209 and R248 leave unstated. Log entry 4. -/
opaque orderKey : Nat → Nat → Nat

/-- The check value of a remote key: a function of a package secret, the entry and the generation (R279). Log entry 5. -/
opaque checkValue : Nat → Nat → Nat → BitVec 16

/-- Which binary tree an arrival-mode reduction uses, which R288 leaves unstated: the index of the pair combined next. Log entry 6. -/
opaque arrivalPick : Nat → Nat → Nat

/-- The power the module and a launch's tiles are measured to draw (R339, R340), which no rule gives. Log entry 7. -/
opaque measuredPower : Nat → Nat → Nat

/-- The IEEE 1588 time of the management port clock at a cycle (R328, R340). Log entry 7. -/
opaque ptpTime : Nat → Nat

/-- The replies of the DOE mailbox to an SPDM request (R338): a number of the reply, the package (its ROM, fused configuration and device
key), its firmware image, the text of each of its proctors and the request. The bytes of the measurements and of the signature over them are
free. Log entry 8. -/
opaque spdmReply : Nat → Nat → List Byte → List (List Byte) → List Byte → List Byte

/-- Whether a firmware image's SLH-DSA-SHA2-128s signature verifies against the package's fused key (R337). Log entry 8. -/
opaque signatureGood : Nat → List Byte → Bool

/-- The lane that a frame's CRC failure is attributed to (R274 counts them by lane and does not say how). Log entry 15. -/
opaque crcLane : Nat → Nat

/-- Rack switches on the path between two modules (R271, R278). Log entry 51. -/
opaque rackCrossings : Nat → Nat → Nat

/-- Rack switches on the longest path from one of several modules to the lowest rack switch common to them (R278). Log entry 51. -/
opaque podCrossings (modules : List Nat) : Nat

/-- Which up-link a transaction takes from the switch of package `p`, fixed by its destination module and its key, cohort or plan (R271): a
link number below 8, plus 8 for each package further on round the module whose links the path uses. Log entry 42. -/
opaque upLink (p module key : Nat) : Nat

/-- The switch at the far end of a package's link (R275: links between the same pair of switches). Log entry 42. -/
opaque farSwitch (p link : Nat) : Nat

/-- The reduction VC of a cohort that another module owns (R276, R284), less 2. Log entry 35. -/
opaque farVc (module cohort : Nat) : Nat

/-- Transaction tag, offset field and body of a control flit that sets up or frees a cohort in another module (R272, R284: the spec lays
none of them out). Log entry 35. -/
opaque controlFlit (cohort module : Nat) : Nat × Nat × List (BitVec 8)

/-- Transaction tag, key field and body of a flit that carries a pod bell to a module (R240, R272: the spec lays none of them out). Log
entry 35. -/
opaque podBellFlit (launch module : Nat) : Nat × Nat × List (BitVec 8)

/-- Whether the page that a peer's key and offset reach lies in another package of that peer than its region table (R278). Log entry 51. -/
opaque farPage : Nat → Nat → Nat → Bool

/-- A register number that the spec does not name (the STALLSHORT number of an octet outside the window). Log entry 9. -/
opaque freeNumber : Nat → BitVec 5

/-- MG.IDENT: the part and revision code (Table 18.4 gives only "part"). Log entry 10. -/
opaque partCode : Nat → BitVec 64

/-- The cycle, from 0 to 1,000 after it arrives, at which a management write takes effect (R336). Log entry 11. -/
opaque writeDelay : Nat → Nat

end Sys2Proof.Config
end

