-- ==== Sys2Proof/Machine/Tab.lean ====
section
/-!
DEFINITION. The operations of sparse tables and of byte memory. A table keeps its keys strictly rising and lists no entry equal to
what an absent key reads as, so equal tables are equal data.
-/

namespace Sys2Proof

/-- What key `k` reads as; `d` is what an absent key reads as. -/
def Tab.getD {α : Type} (d : α) : Tab α → Nat → α
  | [], _ => d
  | (j, x) :: r, k => if k < j then d else if k = j then x else Tab.getD d r k

/-- The entries above key `k`. -/
def Tab.above {α : Type} (k : Nat) : Tab α → Tab α
  | [] => []
  | (j, x) :: r => if j ≤ k then Tab.above k r else (j, x) :: r

/-- The table with key `k` reading `v`; `d` is what an absent key reads as. -/
def Tab.setD {α : Type} [DecidableEq α] (d : α) : Tab α → Nat → α → Tab α
  | [], k, v => if v = d then [] else [(k, v)]
  | (j, x) :: r, k, v =>
    if k < j then (if v = d then (j, x) :: r else (k, v) :: (j, x) :: r)
    else if k = j then (if v = d then Tab.above k r else (k, v) :: r)
    else (j, x) :: Tab.setD d r k v

/-- `getD` at the type's own default. -/
def Tab.get {α : Type} [Inhabited α] (t : Tab α) (k : Nat) : α := Tab.getD default t k

/-- `setD` at the type's own default. -/
def Tab.set {α : Type} [Inhabited α] [DecidableEq α] (t : Tab α) (k : Nat) (v : α) : Tab α := Tab.setD default t k v

/-- The entry at `k` changed by `f`. -/
def Tab.upd {α : Type} [Inhabited α] [DecidableEq α] (t : Tab α) (k : Nat) (f : α → α) : Tab α := t.set k (f (t.get k))

/-- Every entry changed by `f`, which is given its key. -/
def Tab.each {α : Type} [Inhabited α] [DecidableEq α] (t : Tab α) (f : Nat → α → α) : Tab α :=
  (t.map (fun (e : Nat × α) => (e.1, f e.1 e.2))).filter (fun (e : Nat × α) => decide (e.2 ≠ default))

/-- The keys listed, rising. -/
def Tab.keys {α : Type} (t : Tab α) : List Nat := t.map Prod.fst

/-- The table without the entry at `k`. -/
def Tab.del {α : Type} [Inhabited α] [DecidableEq α] (t : Tab α) (k : Nat) : Tab α := t.set k default

/-- The canonical form: keys strictly rising, no entry equal to `d`. -/
def Tab.canon {α : Type} [DecidableEq α] (d : α) : Tab α → Bool
  | [] => true
  | [(_, x)] => decide (x ≠ d)
  | (j, x) :: (k, y) :: r => decide (x ≠ d) && decide (j < k) && Tab.canon d ((k, y) :: r)

end Sys2Proof
end

