-- ==== Sys2Proof/Machine/State.lean ====
section
/-!
DEFINITION. The state of the module as plain data: every thread, tile, group, die and package register the spec names, every memory
as one canonical list of (address, byte) pairs, the work in flight (transfers, bells, stream programs, collectives, logs, links) and
the list of machine events that are due. Rule numbers name the rule that gives a field.
-/

namespace Sys2Proof.Machine

/-- Why a step stops the machine. -/
inductive Fault where
  /-- The module is powered off (R341): nothing steps any more. Safe: the spec lets nothing happen. Raised by `step`. -/
  | poweredOff
  deriving DecidableEq, Repr

/-- Why a step has no meaning. -/
inductive Refusal where
  /-- The instruction of this mnemonic has no meaning in the model. Safe. Raised by a refused arm of `exec` only. -/
  | notModelled (mnemonic : String)
  deriving DecidableEq, Repr

/-! ## Threads -/

/-- The four levels of the loop nest and the sixteen address registers (R128): pending and running values, tags (0 none, j + 1 for
level j), indices and active bits. Coefficient (k, j) has key 4k + j. -/
structure Nest where
  pcnt : Tab (BitVec 32)
  cnt : Tab (BitVec 32)
  idx : Tab (BitVec 32)
  act : Tab Bool
  pbase : Tab Word
  base : Tab Word
  tag : Tab Nat
  pcoef : Tab Word
  coef : Tab Word
  deriving DecidableEq, Repr, Inhabited

/-- A result that has issued and is not yet in its register (R98, R100). -/
structure Pending where
  /-- 0 w, 1 v, 2 m. -/
  cls : Nat
  /-- Physical register: for w, 1 to 7 the globals and 8 + 8o + r register r of octet o. -/
  num : Nat
  /-- First cycle in which it can be read. -/
  due : Nat
  val : Vec
  deriving DecidableEq, Repr, Inhabited

/-- The trap registers that a park saves (R297, R304). -/
structure TrapSet where
  tcause : Word
  tval : Word
  tstat : Word
  epc0 : Word
  epc1 : Word
  epc2 : Word
  deriving DecidableEq, Repr, Inhabited

/-- The pending abort of a thread (R250). -/
structure AbortCode where
  code : BitVec 16
  origin : BitVec 32
  ps : Nat
  deriving DecidableEq, Repr, Inhabited

/-- The identity registers (Table 4.8). -/
structure Ident where
  nthr : Word
  tile : Word
  grp : Word
  die : Word
  pkg : Word
  mod : Word
  x : Word
  y : Word
  ntile : Word
  ext : Tab Word
  off : Tab Word
  deriving DecidableEq, Repr, Inhabited

/-- What a thread that has issued waits for before its next issue (Table 6.1, R126, R256, R257, R306). `rd` is the register the
result goes to. -/
inductive Wait where
  | none
  /-- SWAIT until a cycle, and the text offset of the SWAIT itself (R126, R308). -/
  | swait (upto : Nat) (at_ : Nat)
  /-- SYNC or SEAL at a bell (R244). -/
  | bell
  /-- BWAIT until at most n sealed batches are unfinished (R215). -/
  | batch (n rd : Nat)
  /-- WAITA on a window (R235). -/
  | window (win n rd : Nat)
  /-- SEPOLL until its sample (R233). -/
  | poll
  /-- MWAIT until the named commands have ended (R169). -/
  | matrix (ids : List Nat)
  /-- A result that a later event delivers: KMINT, KREV, CSET, CFREE (R280 to R285). -/
  | fabric
  /-- MBXRD with w = 1 on an empty mailbox (R306). -/
  | mailbox (addr rd : Nat)
  /-- IDLE (R306); 0 for no wake time. -/
  | idle (upto : Nat)
  /-- BARW on a generation (R256). -/
  | barrier (id gen : Nat)
  /-- TSYNC (R257). -/
  | tsync
  deriving DecidableEq, Repr, Inhabited

/-- A member's arrival at a bell (R241, R244, R250). -/
structure Arrival where
  lvl : Nat
  op : Nat
  val : Word
  at_ : Nat
  rd : Nat
  isSeal : Bool
  /-- The pending abort that it contributes. -/
  held : AbortCode
  deriving DecidableEq, Repr, Inhabited

/-- A replacement a proctor has supplied for one code or value of the instruction at Q0 (R42): the position (element number, or
1,000,000 + scale position) and the replacement. -/
structure Subst where
  place : Nat
  val : Word
  deriving DecidableEq, Repr, Inhabited

/-- One hardware thread: thread 0 to 7 of a tile, or 8 for its filler thread (R66, R97). -/
structure Thread where
  /-- The thread exists and runs (t < nthr of a started launch, or a started proctor thread). -/
  live : Bool
  halted : Bool
  /-- A gang-stop has taken effect (R307). -/
  stopped : Bool
  /-- w1 to w7 at 1 to 7 and the ring of octets at 8 + 8o + r (R101). -/
  regs : Tab Word
  vregs : Tab Vec
  mregs : Tab Mask
  /-- wnd (R107). -/
  base : Nat
  lo : Nat
  depth : Nat
  pend : List Pending
  nest : Nest
  /-- The PC queue and annul bits (R115). -/
  q0 : BitVec 18
  q1 : BitVec 18
  q2 : BitVec 18
  n0 : Bool
  n1 : Bool
  tie : Bool
  chk : Bool
  /-- stat.trap. -/
  inTrap : Bool
  tvec : Word
  trap : TrapSet
  /-- The nested set of R304, while the thread is stopped. -/
  nested : Option TrapSet
  rbk : Word
  abt : Word
  abort : AbortCode
  ident : Ident
  lcode : Nat
  recov : Bool
  fill : Bool
  sys : Bool
  ss : Tab Word
  sf : Tab Byte
  wt : Tab Word
  mrow : Mask
  mcol : Mask
  /-- Cycle of the previous issue, and the first cycle the thread may issue in (R79, R96). -/
  lastIssue : Nat
  notBefore : Nat
  /-- The stall count of the next instruction counts as passed (R304). -/
  stallDone : Bool
  wait : Wait
  waitFrom : Nat
  /-- The thread is parked by its wait (R104). -/
  retained : Bool
  /-- First cycle in which the instruction at Q0 was held by a structural or interlock wait before issue. -/
  heldFrom : Option Nat
  /-- Merged TICKs pending (R300). -/
  ticks : Nat
  subst : List Subst
  /-- Number of the next batch to seal, and the first status other than OK since the last BWAIT (R214, R215). -/
  nextBatch : Nat
  badStatus : Nat
  /-- Ends of the thread's previous G and S gets (Table 11.6). -/
  gEnd : Nat
  sEnd : Nat
  /-- The instruction window share: slot to text line + 1 (R90), and lines whose refill is under way. -/
  lines : Tab Nat
  refill : List Nat
  arr : Option Arrival
  /-- What a wait in progress keeps for its end: cycles already counted, a reservation, or the cycle it is counted from. -/
  spare : Nat
  deriving DecidableEq, Repr, Inhabited

/-! ## Matrix engine -/

/-- What an MMA sampled at issue (R161). -/
structure MmaOp where
  /-- 0 BF, 1 H, 2 D8, 3 I8. -/
  ty : Nat
  k : Nat
  bs : Bool
  /-- .X: the rows of A are gathered. -/
  gx : Bool
  /-- Row addresses of A and element addresses of B as strides. -/
  rows : List Nat
  bbase : Nat
  bk : Nat
  bc : Nat
  handle : Nat
  coords : Word
  mrow : Mask
  mcol : Mask
  sfcode : Byte
  sfnum : Nat
  /-- Format registers of the banks read, sampled at issue. -/
  fmts : Tab Word
  deriving DecidableEq, Repr, Inhabited

/-- What an MSTA sampled at issue (R168). -/
structure MstaOp where
  bank : Nat
  off : Nat
  stride : Nat
  rmask : Mask
  mode : Nat
  isInt : Bool
  bfmt : Word
  deriving DecidableEq, Repr, Inhabited

inductive MKind where
  | mma (o : MmaOp)
  | mzero
  | mwr (row : Nat) (v : Vec)
  | msta (o : MstaOp)
  deriving DecidableEq, Repr, Inhabited

/-- A queued matrix command (R155, R163). -/
structure MCmd where
  id : Nat
  thread : Nat
  acc : Nat
  issued : Nat
  kind : MKind
  /-- 0 queued, 1 an event for its start is due, 2 latching or latched, 3 its passes or its execution run, 4 rows 0 to 7 final, 5 held
  for the proctor, 6 an MSTA waits for room in the undo log. -/
  stage : Nat
  latchEnd : Nat
  /-- Elements latched so far, A by rows and then B by k, and latch cycles gone by, where a latch has stopped (R162). -/
  lat : List (Option (Nat × Nat × Nat))
  passed : Nat
  /-- Cycle of the event that it waits for, where another stage may put that off: a latch that stops, a filler's pass or MSTA (R158). -/
  due : Nat
  /-- Latched operands, A by rows and B by k: code, scale code and format of each element used; none where not used. -/
  aLat : List (List (Option (Nat × Nat × Nat)))
  bLat : List (List (Option (Nat × Nat × Nat)))
  subst : List Subst
  /-- Bytes an executing MSTA will write. -/
  out : List (Nat × Byte)
  deriving DecidableEq, Repr, Inhabited

/-! ## Tiles -/

/-- An undo entry (Table 17.1): kind, context, the place and its old contents. -/
structure UndoEntry where
  /-- It belongs to the pod seal domain, not to the module's own (R313). -/
  pod : Bool
  kind : Nat
  ctx : Nat
  tile : Nat
  place : Nat
  old : List Byte
  /-- The launch that wrote. -/
  lid : Nat
  deriving DecidableEq, Repr, Inhabited

/-- An arrival window (R225). -/
structure Window where
  bank : Nat
  size : Nat
  count : Nat
  c : BitVec 32
  rel : BitVec 32
  status : Nat
  /-- Buckets at or beyond `c` that have landed (R289). -/
  landed : List Nat
  deriving DecidableEq, Repr, Inhabited

/-- The seal record of a member thread (Table 17.5). -/
structure SealRecord where
  globals : Tab Word
  octets : Tab Word
  abase : Tab Word
  q0 : BitVec 18
  q1 : BitVec 18
  q2 : BitVec 18
  n0 : Bool
  n1 : Bool
  base : Nat
  lo : Nat
  depth : Nat
  tie : Bool
  tvec : Word
  ss : Tab Word
  sf : Tab Byte
  chk : Bool
  nextBatch : Nat
  rd : Nat
  deriving DecidableEq, Repr, Inhabited

/-- What a seal buffer of a tile holds (Table 17.4). -/
structure SealBuffer where
  threads : Tab (Option SealRecord)
  windows : Tab Window
  xperm : BitVec 16
  lst : Tab Word
  deriving DecidableEq, Repr, Inhabited

/-- One tile (R1), or one proctor tile (R301). -/
structure Tile where
  /-- The primary launch and the filler launch that hold the tile. -/
  prim : Option Nat
  filler : Option Nat
  threads : Tab Thread
  /-- bfmt.b (R176). -/
  bfmt : Tab Word
  xperm : BitVec 16
  /-- lst0 to lst3. -/
  lst : Tab Word
  /-- acc n row r at 16n + r (R155). -/
  acc : Tab Vec
  mq : List MCmd
  mqFill : List MCmd
  mNext : Nat
  /-- Cycle in which an accumulator's watermark last rose to 16, and under 8 more than its number to more than 0 (R164, R167). -/
  accAt : Tab Nat
  /-- Ends of the primary's and of the filler's .BS latch that has the tile's column (R163). -/
  colEnd : Nat
  fillColEnd : Nat
  windows : Tab Window
  fillWindows : Tab Window
  /-- The primary threads, or the filler, are parked (R304); the ticket of the park. -/
  parked : Bool
  fillParked : Bool
  ticket : Nat
  /-- Lines held in the two shares of the tile undo log (R181), and whether a drain is due. -/
  undoPrim : Nat
  undoExch : Nat
  drainP : Bool
  drainX : Bool
  /-- bfmt or ctl.xperm registers logged in this interval (R314). -/
  regLogged : List Nat
  /-- Named-barrier arrivals made by the tile, by barrier (R256). -/
  barCount : Tab Nat
  retired : Bool
  /-- Bytes that a running COPYB or FILLB of a thread writes (R191), and the duration without its first-touched lines of one that waits
  for room in the log before its first write (R181). -/
  copies : Tab (List (Nat × Byte))
  copyWait : Tab Nat
  /-- The undo log's ring of 512 entries, in banks 336 to 367 and the tag store beside them (R315): slots 0 to 447 are the primary share's,
  448 to 511 the exchange share's; and the slot of its own that each share fills next. -/
  log : Tab UndoEntry
  fillPrim : Nat
  fillExch : Nat
  /-- The buffer of the last SEAL (R322). -/
  sealBuf : SealBuffer
  deriving DecidableEq, Repr, Inhabited

/-! ## Levels and launches -/

/-- A translation-cache entry (R199). -/
structure Tlb where
  ctx : Nat
  page : Nat
  size : Nat
  entry : Word
  deriving DecidableEq, Repr, Inhabited

/-- One named-barrier generation in progress (R256). -/
structure Barrier where
  /-- Completed generations. -/
  done : Nat
  /-- Union of the masks given at a generation not completed: generation to mask. -/
  masks : Tab Mask
  /-- A completion is due for the generation numbered `done`. -/
  due : Bool
  lastDone : Nat
  deriving DecidableEq, Repr, Inhabited

structure Group where
  tlb : List Tlb
  barriers : Tab Barrier
  /-- The text resident in the group's instruction store (R74): image handle + 1 of the primary and of the filler. -/
  text : Nat
  textSize : Nat
  fillText : Nat
  fillTextSize : Nat
  /-- Entries in the group undo area, and the index of the oldest (R316). -/
  undo : Nat
  undoHead : Nat
  draining : Bool
  deriving DecidableEq, Repr, Inhabited

/-- What a proctor's reply acts on (R303, Table 16.6). -/
inductive HeldItem where
  | none
  /-- A parked tile: kind 1 FMTRES, 3 UNCORR, 4 DOUBLE, 5 NOHANDLER, 2 for a .BS latch; `thread` is the thread at fault (8 filler),
  `unit` the unit of Table 16.3, `place` the position a substitute goes to, `scale` whether it is a scale code, `value` whether it is a
  source value. -/
  | tile (lid key thread kind unit place : Nat) (scale value : Bool)
  | xfer (id kind place : Nat) (scale value : Bool)
  | prog (lid run kind place : Nat) (scale value : Bool)
  deriving DecidableEq, Repr, Inhabited

/-- A black-box record (Table 17.7). -/
structure BbRecord where
  data : BitVec 32
  source : BitVec 16
  event : BitVec 8
  ptp : BitVec 32
  cyc : BitVec 40
  deriving DecidableEq, Repr, Inhabited

structure Die where
  /-- The mailbox, oldest first (R302), and messages whose poster holds them until there is room. -/
  mailbox : List Message
  waiting : List Message
  nextTicket : Nat
  held : Tab HeldItem
  blackBox : List BbRecord
  frozen : Bool
  /-- Columns with a learned repair and with a committed repair, and columns whose repair was lost (R329). -/
  learned : List Nat
  committed : List Nat
  lost : List Nat
  bbIndex : Nat
  deriving DecidableEq, Repr, Inhabited

/-- A region table entry (Table 15.5). -/
structure Region where
  v : Bool
  r : Bool
  w : Bool
  a : Bool
  ext : Bool
  revoking : Bool
  gen : Nat
  ctx : Nat
  check : BitVec 16
  base : Nat
  len : Nat
  /-- The launch that minted it (for its seal domain, R282). -/
  lid : Nat
  deriving DecidableEq, Repr, Inhabited

/-- A link end (Tables 15.1 and 15.2). -/
inductive LinkState where
  | a16
  | a8 (lanes : BitVec 16)
  | a4 (lanes : BitVec 16)
  | train (lanes : BitVec 16)
  | retired
  deriving DecidableEq, Repr

/-- A frame as a link end takes it (Table 15.1). -/
structure Frame where
  seq : Nat
  kind : Nat
  ack : Option Nat
  vc : Nat
  last : Bool
  op : Nat
  src : Nat
  dst : Nat
  tag : Nat
  key : Nat
  offset : Nat
  bytes : List Byte
  e2e : Nat
  deriving DecidableEq, Repr, Inhabited

structure Link where
  state : LinkState
  faulted : BitVec 16
  trainStart : Nat
  /-- Sender: next sequence and the retry buffer of unacknowledged frames, oldest first (R273). -/
  txNext : Nat
  retry : List Frame
  /-- Receiver: next expected sequence, whether a replay has been requested for it and when, frames accepted since the last
  acknowledgement and the cycle of the oldest of them. -/
  rxNext : Nat
  asked : Option Nat
  unacked : Nat
  oldest : Nat
  /-- CRC failures attributed to a lane, with their cycles (R274). -/
  crcFails : List (Nat × Nat)
  /-- Frames this end has sent, newest last (what leaves the module), each with the time at which it begins to leave, and when the last data
  frame of them will have wholly left, in 35ths of a cycle (R354). -/
  sent : List (Nat × Frame)
  busy : Nat
  deriving DecidableEq, Repr

/-- A piece of a translated run (R197 to R201): the memory key of its first byte, its length and the page-table entry or directory
flags it was reached through. -/
structure Seg where
  key : Nat
  len : Nat
  entry : Word
  deriving DecidableEq, Repr, Inhabited

/-- A flit on its way to a link of its package (R271, R278): the cycle in which it reaches it, and the transfer or the escrowed write that
waits for its transaction's end-to-end status (R275). -/
structure Sending where
  due : Nat
  pkg : Nat
  owner : Option Nat
  frame : Frame
  deriving DecidableEq, Repr, Inhabited

/-- An irrevocable write waiting in the package escrow (R210, R323): kind 0 to host memory, 1 to a peer, 2 a key revocation. -/
structure EscrowWrite where
  id : Nat
  /-- The issuing tile. -/
  tile : Nat
  kind : Nat
  addr : Nat
  tag : Nat
  data : List Byte
  ctx : Nat
  /-- Its domain, as of an undo entry, and the interval that it belongs to. -/
  pod : Bool
  interval : Nat
  released : Bool
  /-- It has left for its destination: released writes of an earlier interval have been performed (R265). -/
  sent : Bool
  deriving DecidableEq, Repr, Inhabited

/-- A remote transaction at its owner: a deposit between its first flit and its last, accepted or rejected whole on the first under what the
region table held then, and a deposit or an atomic that is accepted whole and not yet performed (R278, R282). -/
structure Txn where
  src : Nat
  tag : Nat
  /-- Operation of Table 15.1: 1 deposit, 4 atomic. -/
  op : Nat
  key : BitVec 32
  /-- 0 accepted, else the status of its rejection. -/
  status : Nat
  ctx : Nat
  base : Nat
  len : Nat
  /-- The launch whose recovery its writes belong to; 0 for none. -/
  lid : Nat
  off : Nat
  data : List Byte
  /-- Cycles of its first flit's translation walk. -/
  walk : Nat
  /-- The pieces that it will write, once it is accepted whole. -/
  whole : Option (List Seg)
  deriving DecidableEq, Repr, Inhabited

/-- A queue's registrar-side state beside what its descriptor in HBM holds (R58). -/
structure QueueState where
  stopped : Bool
  /-- Indices of entries that a KILL has removed before they reached the head (R77). -/
  removed : List Nat
  deriving DecidableEq, Repr, Inhabited

/-- A stream program (R220) in a pslot. -/
structure Prog where
  /-- Number of this run of a program, by which events and replies name it: a pslot is used again. -/
  run : Nat
  lid : Nat
  tile : Nat
  thread : Nat
  number : Nat
  g : Tab Word
  aBase : Word
  aS : Tab Word
  aTag : BitVec 16
  bBase : Word
  bS : Tab Word
  bKind : Nat
  bTag : BitVec 16
  cnt : Tab (BitVec 32)
  idx : Tab (BitVec 32)
  pc : Nat
  epoch : BitVec 32
  /-- Table of SEPOLL states (R233): 1 running, 2 waiting, 3 held, 4 ended, 5 stopped, 6 failed; 0 none. -/
  st : Nat
  status : Nat
  /-- What a reply says of a held program: 0 none yet, 1 to go on, 2 to fail (Table 16.6). -/
  verdict : Nat
  /-- Cycle of the next command. -/
  due : Nat
  /-- Windows of the moves issued and not landed, one entry a move (tile * 32 + window), and the cycle in which the last is landed and
  logged. -/
  moves : List Nat
  lastLand : Nat
  /-- Windows written: tile key * 32 + window. -/
  wrote : List Nat
  subst : List Subst
  deriving DecidableEq, Repr, Inhabited

/-- A held level write of a stream program (R228). -/
structure StreamWrite where
  key : Nat
  /-- The program's run. -/
  run : Nat
  lid : Nat
  epoch : BitVec 32
  /-- Address key of each byte, and the lines whose page or tensor is unlogged. -/
  bytes : List (Nat × Byte)
  unl : List Nat
  deriving DecidableEq, Repr, Inhabited

/-- What a transfer is (chapter 11, R286, R293). -/
inductive XKind where
  | get
  | dep
  | depb
  | depa
  | amo (op : Nat) (v cmp : Word)
  | mlred
  | mcast
  | cfire
  deriving DecidableEq, Repr, Inhabited

/-- A transfer from issue to its final state (R194, R214, R215). -/
structure Xfer where
  kind : XKind
  tile : Nat
  thread : Nat
  lid : Nat
  batch : Nat
  /-- 0 G, 1 S, 2 M, 3 H, 4 R, 5 T. -/
  space : Nat
  /-- Level-side address, tile-side address, elements or bytes. -/
  addr : Nat
  local_ : Nat
  n : Nat
  cv : Bool
  fmt : Nat
  mode : Nat
  /-- Handle or key. -/
  tag : Nat
  inv : Bool
  /-- Level-side bytes: of a deposit those to apply, of a get those its service has read. -/
  data : List Byte
  /-- Scope level of application: 0 grp to 4 pod (R18). -/
  scope : Nat
  issued : Nat
  /-- Issue order within the thread (the transfer's number). -/
  local_done : Bool
  /-- Captured and translated: an arrival does not wait for it (R218). -/
  ready : Bool
  final : Bool
  status : Nat
  /-- Held for the proctor under this ticket (0 none), and what a reply says: 0 none yet, 1 to go on, 2 to fail (Table 16.6). -/
  ticket : Nat
  verdict : Nat
  /-- The exchange that applied it waits for its acknowledgement (R264). -/
  sent : Bool
  sentAt : Nat
  subst : List Subst
  /-- Cycle from which a get's data are readable (Table 11.6); of an AMOR whose result waits for room in the log, the cycle of its last look. -/
  land : Nat
  /-- Where a translated run lies. -/
  segs : List Seg
  /-- Tile bank format, and the tile side's bytes in tile SRAM at capture (address and byte); of a get, the bytes still to land. -/
  bfmt : Word
  cap : List (Nat × Byte)
  /-- Addresses of a get that a later-issued get of its thread and space has written (R203). -/
  skip : List Nat
  deriving DecidableEq, Repr, Inhabited

/-- An exchange in progress at a bell instance (R246, R249). -/
structure Bell where
  lid : Nat
  lvl : Nat
  inst : Nat
  last : Nat
  /-- 0 arrival bell, 1 reads and then writes, 2 commit due, 3 release due, 5 held by the ramp
  limiter, 6 a save seal comes first. -/
  phase : Nat
  abort : Option (BitVec 16 × BitVec 32)
  isSeal : Bool
  isFinal : Bool
  /-- End of the half that runs, or the release cycle due. -/
  upto : Nat
  /-- Zero-load cycles from the last arrival to the end of the phases so far, cycles of ramp hold, and cycles that its write half stood
  behind a full undo region, with the first of them while it stands (R13, R318). -/
  zero : Nat
  hold : Nat
  full : Nat
  fullFrom : Option Nat
  /-- Cycles that the write half of a group or die exchange stood for a get beyond its zero-load count, and the first of them while it stands
  (R13). -/
  late : Nat
  lateFrom : Option Nat
  /-- Words appended to lists in the write half: 4 * tile + list to count (R207), and the lists that take no more. -/
  counts : Tab Nat
  shut : List Nat
  /-- The level whose write halves come next, and whether they have begun: a full log holds them at their next application (R318). -/
  next : Nat
  begun : Bool
  deriving DecidableEq, Repr, Inhabited

/-- A contribution to a bucket (R286 to R288), or a multicast. -/
structure Contribution where
  xid : Nat
  tile : Nat
  /-- Generation of the cohort word it bears. -/
  gen : Nat
  w32 : Bool
  arr : Bool
  rf : Bool
  bf : Bool
  n : Nat
  key0 : Nat
  keyl : Nat
  data : List Byte
  /-- The cycle after its capture, and the cycle in which it reaches the root switch. -/
  at_ : Nat
  due : Nat
  deriving DecidableEq, Repr, Inhabited

/-- A bucket at its cohort's root switch (R287), with the contributions on their way to it. -/
structure Bucket where
  cohort : Nat
  seq : Nat
  /-- The multicast's transfer, or 0 for a reduction. -/
  cast : Nat
  flying : List Contribution
  contribs : List Contribution
  opened : Bool
  /-- Members found present when it opened, by tile (R358). -/
  present : List Nat
  /-- Status of a failure, and the cycle in which it has reached every member. -/
  failed : Nat
  failAt : Nat
  /-- Deliveries still to land, once the result is on its way. -/
  sent : Bool
  left : Nat
  /-- Status its contributors take when the last delivery has landed. -/
  status : Nat
  /-- Result or multicast bytes that have come from outside the module. -/
  result : List Byte
  deriving DecidableEq, Repr, Inhabited

/-- A cohort member (R283). -/
structure Member where
  tile : Nat
  window : Nat
  base : Nat
  deriving DecidableEq, Repr, Inhabited

/-- A live cohort (R283, R284). -/
structure Cohort where
  live : Bool
  gen : Nat
  ctx : Nat
  lid : Nat
  members : List Member
  elementKeyed : Bool
  timeout : Nat
  vc : Nat
  freeing : Bool
  deriving DecidableEq, Repr, Inhabited

/-- A dimension of a plan: its extent, and granule and mode in the source seating and in the destination's (Table 3.7). -/
structure PlanDim where
  extent : Nat
  granule : Nat
  mode : Nat
  toGranule : Nat
  toMode : Nat
  deriving DecidableEq, Repr, Inhabited

/-- A plan (R291, R292). -/
structure Plan where
  live : Bool
  gen : Nat
  kind : Nat
  scope : Nat
  ctx : Nat
  /-- Leader tiles by unit rank, with mesh width and height. -/
  leaders : List Nat
  mx : Nat
  my : Nat
  /-- The pod's other modules that its mesh lies in. -/
  others : List Nat
  dims : List PlanDim
  /-- Steps by ascending dimension: kind, axis and second axis (Table 15.7). -/
  steps : List (Nat × Nat × Nat)
  fmt : Nat
  w32 : Bool
  arr : Bool
  superstep : Bool
  elementKeyed : Bool
  window : Nat
  src : Nat
  dst : Nat
  bytes : Nat
  unit : Nat
  /-- Reduction VCs that it holds. -/
  vcs : List Nat
  /-- The PLAN entry that frees it waits for its firings to drain: package, queue and entry address (R291). -/
  freeing : Option (Nat × Nat × Nat)
  deriving DecidableEq, Repr, Inhabited

/-- A firing of a plan (R293): which members have fired a sequence. -/
structure Firing where
  plan : Nat
  seq : Nat
  members : List (Nat × Nat)
  /-- The sources have been read; deliveries still to land. -/
  ran : Bool
  left : Nat
  deriving DecidableEq, Repr, Inhabited

/-- A change of the fabric's tables in the open interval (R295): kind 0 a mint, 1 a revocation, 2 a cohort set, 3 a cohort freed, 4 a plan,
5 a plan freed; the package of a key, and the index. -/
structure FabricChange where
  pod : Bool
  kind : Nat
  pkg : Nat
  index : Nat
  deriving DecidableEq, Repr, Inhabited

/-- Where a launch is between its selection and its end. -/
inductive LState where
  | none
  /-- Tiles reserved, start awaited (R73). -/
  | reserved
  /-- Between selection and the end of its first fetch (R74). -/
  | starting
  | running
  /-- A gang-stop is in progress (R307); 0 pre-emption, 1 GSTOP, 2 save seal, 3 kill, 4 rollback. -/
  | stopping (why : Nat)
  /-- Stopped and held by GSTOP (R306). -/
  | heldStop
  /-- Saved by pre-emption (R309). -/
  | saved
  | killed
  | done
  deriving DecidableEq, Repr, Inhabited

/-- A placement field (Table 4.6). -/
structure Placement where
  kind : Nat
  pkg : Nat
  die : Nat
  gx : Nat
  gy : Nat
  w : Nat
  h : Nat
  mask : Nat
  deriving DecidableEq, Repr, Inhabited

/-- A dimension of a seating plan (Table 3.7). -/
structure SeatDim where
  extent : Nat
  granule : Nat
  mode : Nat
  slot : Nat
  reserved : Nat
  deriving DecidableEq, Repr, Inhabited

/-- A seating plan; `dims` holds the dimensions below the rank. -/
structure Seating where
  rank : Nat
  unit : Nat
  fmt : Nat
  reserved : Bool
  dims : List SeatDim
  deriving DecidableEq, Repr, Inhabited

/-- A launch (R51, R74). -/
structure Launch where
  state : LState
  ctx : Nat
  pkg : Nat
  prio : Nat
  preempt : Bool
  recover : Bool
  podSeal : Bool
  tag : Nat
  /-- The launch record that the entry in each registrar's queue names: package and address (R73). -/
  records : List (Nat × Nat)
  /-- Its queue entries, one in each registrar it was enqueued in: package, queue (context * 64 + index) and entry address. -/
  entries : List (Nat × Nat × Nat)
  image : Nat
  /-- What its selection read of the image header and the record (R51): the sections (address, size and count), the address of the bank
  format table and of the key table with its count, and the seating plans. -/
  sections : List (Nat × Nat × Nat)
  bfmtAt : Nat
  keyAt : Nat
  keyCount : Nat
  plans : List Seating
  entry : Nat
  textSize : Nat
  textBase : Nat
  place : Placement
  gw : Nat
  gh : Nat
  lcode : Nat
  nthr : Nat
  chk : Bool
  slots : BitVec 32
  grant : BitVec 8
  isFiller : Bool
  /-- The primary a filler is attached to. -/
  host : Nat
  keys : List (Nat × Nat)
  progs : List (List Word)
  /-- The stream list: pslot, program number and g0 to g3 (Table 12.5). -/
  streams : List (Nat × Nat × List Word)
  signals : List (Nat × Word)
  completion : Option (Nat × Word)
  started : Nat
  /-- Cycle of the last bell release or halt (R76). -/
  progress : Nat
  watched : Bool
  /-- Packages that have reported a reservation of a spanning launch (R73). -/
  reports : List Nat
  /-- Levels that have reported completion: group, die and package instances (R332). -/
  grpDone : List Nat
  dieDone : List Nat
  pkgDone : List Nat
  topDone : Bool
  committed : Bool
  /-- The escrow writes that its completion commit released (R332). -/
  acks : List Nat
  completed : Bool
  /-- KILL entries that wait for it: package + 8 * queue, entry address, signal counter and value. -/
  killers : List (Nat × Nat × Nat × Word)
  /-- Launches whose saves its start waits for (R72). -/
  waitsFor : List Nat
  /-- A GSTOP holds it for this proctor tile (R306). -/
  stopper : Option Nat
  /-- Cycle in which its last gang-stop took its threads. -/
  stopAt : Nat
  hadSeal : Bool
  /-- It has been preempted and has not resumed: it counts as the head of its queues (R70). -/
  preempted : Bool
  /-- Its save areas: package, offset in that package's pool and size (R309). -/
  areas : List (Nat × Nat × Nat)
  /-- Tensor-store pages read or written: die * 32768 + page (R310). -/
  touched : List Nat
  deriving DecidableEq, Repr, Inhabited

/-- The save area of a launch in one package (R309 to R311): everything of the launch's part that a restore puts back. -/
structure SaveArea where
  lid : Nat
  tiles : List (Nat × Tile)
  mem : List Host.Cell
  groups : List (Nat × Group)
  progs : List (Nat × Prog)
  /-- Transfers held in the deposit area or for the proctor. -/
  xfers : List (Nat × Xfer)
  /-- Logged flags of its tiles' lines, by address key / 64. -/
  logged : List Nat
  /-- Tensor-store pages marked for the launch and not yet copied: die * 32768 + page. -/
  marks : List Nat
  pages : List (Nat × List Host.Cell)
  deriving DecidableEq, Repr, Inhabited

/-- A save seal's cut (R319): the saves of the members, the areas of the pools that hold them (launch, package, offset and size), and the
members' held stream writes and bells. -/
structure Cut where
  saves : List SaveArea
  areas : List (Nat × Nat × Nat × Nat)
  writes : List StreamWrite
  bells : List Bell
  deriving DecidableEq, Repr, Inhabited

/-- What stands at the head of a queue: a pre-empted launch (R70), or an entry and its kind. -/
inductive Head where
  | resume (lid : Nat)
  | entry (addr kind : Nat)
  deriving DecidableEq, Repr, Inhabited

/-- A package (R1): registrar, region table, escrow, management registers and links. -/
structure Pkg where
  regions : Tab Region
  tlb : List Tlb
  escrow : List EscrowWrite
  /-- Bytes reserved by writes that have issued and not been applied. -/
  escrowUsed : Nat
  /-- HBM undo region: entries in use (R317). -/
  undo : Nat
  /-- Management registers by offset (Table 18.4) but those of the module. -/
  mg : Tab Word
  /-- Round-robin pointers by priority (R68), and registrar-side queue state by context * 64 + queue. -/
  ptr : Tab Nat
  queues : Tab QueueState
  /-- 0 no selection, 1 one begins in this cycle, 2 one runs; and whether one more has been asked for (R59). -/
  selecting : Nat
  again : Bool
  /-- The head that the running selection has chosen, with its queue: what it does is done to this one (R59). -/
  chosen : Option (Nat × Head)
  links : Tab (Option Link)
  /-- C of each input port after buffer repair, and closed VCs (R277); port p. -/
  buffers : Tab Nat
  closed : List (Nat × Nat)
  energy : Nat
  telemetry : Nat
  overTemp : Bool
  /-- The port's four HDM decoders: windows onto package HBM as (base, length) (R335). -/
  hdm : List (Nat × Nat)
  /-- Physical line addresses of the counters that blocked queue heads wait on (R59, R62). -/
  watch : List Nat
  /-- Incoming deposits whose first flit has been checked and whose last has not come (R282). -/
  txns : List Txn
  /-- End-to-end sequences accepted: (source, sequence) (R275). -/
  e2eSeen : List (Nat × Nat)
  /-- The firmware image that was verified, which attestation measures (R337, R338). -/
  firmware : List Byte
  /-- The DOE mailbox's reply (R338), and the data of the host's last read (R335). -/
  doe : List Byte
  readOut : List Byte
  deriving DecidableEq, Repr, Inhabited

/-- The machine. -/
structure State where
  /-- cyc (R106). -/
  cyc : Nat
  /-- Tiles below this number have had their turn in this cycle. -/
  cursor : Nat
  /-- The tile and thread whose instruction, or the stream program whose command, is being executed. -/
  curTile : Nat
  curThread : Nat
  curProg : Nat
  powered : Bool
  /-- Every memory, by address key (see `Space`). -/
  mem : List Host.Cell
  tiles : Tab Tile
  groups : Tab Group
  dies : Tab Die
  pkgs : Tab Pkg
  launches : Tab Launch
  nextLaunch : Nat
  xfers : Tab (Option Xfer)
  nextXfer : Nat
  bells : List Bell
  progs : Tab Prog
  streamWrites : List StreamWrite
  cohorts : Tab Cohort
  plans : Tab Plan
  buckets : List Bucket
  /-- Stale-flit counters of the switches: 8 * switch + level, 0 group to 4 module (R285, R287). -/
  stale : Tab Nat
  firings : List Firing
  /-- Interval numbers of the module's own seal domain and of its pod seal domain (R313). -/
  rin : BitVec 32
  podRin : BitVec 32
  /-- Lines with an uncorrectable error, by address key / 64: their readers get POISON (R211, R324). -/
  poison : Tab Bool
  /-- Undo entries of the open interval, newest first, and the lines logged (by address key / 64). -/
  undo : List UndoEntry
  logged : Tab Bool
  /-- The save seal that members still go back to. -/
  cut : Option Cut
  saves : List SaveArea
  /-- Key, cohort and plan changes of the open intervals, for rollback (R295). -/
  fabricLog : List FabricChange
  /-- Machine events due: cycle and event, in order. -/
  events : List (Nat × Instr)
  /-- Management registers of the module (ramp, telemetry, pod) by offset (Table 18.4). -/
  mgMod : Tab Word
  rampFloor : Nat
  rampHeld : List (Nat × Nat × Nat)
  podModule : Nat
  inPod : Bool
  /-- First module and count of the pod seal domain last formed (R313). -/
  podFirst : Nat
  podCount : Nat
  /-- Next end-to-end sequence of the module (R275). -/
  e2eNext : Nat
  /-- Flits on their way to a link. -/
  outbox : List Sending
  /-- A save seal has been asked for (R318), and since when a region of the domain has been full. -/
  sealAsked : Bool
  fullSince : Option Nat
  /-- Size of the text in each proctor's system store. -/
  sysText : Tab Nat
  /-- The model's own counter behind the free values of Config (not the spec's). -/
  nonce : Nat
  deriving DecidableEq, Repr

/-! ## Reset -/

/-- Table 18.4: management registers of a package with a non-zero reset value. -/
def Pkg.reset : Pkg := { (default : Pkg) with mg := [(0x20, 4#64), (0x28, 3600000#64)] }

/-- The module after cold reset (R5, R313, R336): no launch, every memory unlisted, cyc 0, rin 0, every management register at its
reset value, and the module's own ticks due (R339, R340). Proctor threads and launches appear when BOOT and the registrar start them. -/
def State.reset : State where
  cyc := 0
  cursor := 0
  curTile := 0
  curThread := 0
  curProg := 0
  powered := true
  mem := []
  tiles := []
  groups := []
  dies := []
  pkgs := (List.range 8).map (fun p => (p, Pkg.reset))
  launches := []
  nextLaunch := 1
  xfers := []
  nextXfer := 1
  bells := []
  progs := []
  streamWrites := []
  cohorts := []
  plans := []
  buckets := []
  stale := []
  firings := []
  rin := 0
  podRin := 0
  poison := []
  undo := []
  logged := []
  cut := none
  saves := []
  fabricLog := []
  events := [(3600, .rampTick), (3600000, .telemetryTick)]
  mgMod := [(0x100, 0xA0003#64)]
  rampFloor := 0
  rampHeld := []
  podModule := 0
  inPod := false
  podFirst := 0
  podCount := 0
  e2eNext := 0
  outbox := []
  sealAsked := false
  fullSince := none
  sysText := []
  nonce := 0

end Sys2Proof.Machine
end

