-- ==== Sys2Proof/Machine/Memory.lean ====
section
/-!
DEFINITION. Every memory of the module as one canonical list of (address key, byte) pairs: the spaces of Table 0.1 and Table 11.1, the
key of a byte, reads and writes, and the recovery log that a first write of an interval makes (R181, R314).
-/

namespace Sys2Proof.Machine

/-- The memories. A tile is numbered ((8p + d)·256 + g)·16 + s; a group (8p + d)·256 + g; a die 8p + d; proctor j of a die is tile
262144 + 2(8p + d) + j (R1, R63, R301). -/
inductive Space where
  | tile (k : Nat)
  | group (g : Nat)
  | istore (g : Nat)
  | tensor (d : Nat)
  /-- The tensor directory of a die (R201). -/
  | directory (d : Nat)
  | hbm (p : Nat)
  | host
  /-- The private system store of proctor `j`, 2 × die + 0 or 1 (R301). -/
  | system (j : Nat)
  deriving DecidableEq, Repr

/-- Bytes of a memory (Table 0.1, R89, R192, R201, R301); host memory has 64-bit addresses. -/
def Space.size : Space → Nat
  | .tile _ => 393216
  | .group _ => 2097152
  | .istore _ => 262144
  | .tensor _ => 2147483648
  | .directory _ => 262144
  | .hbm _ => 549755813888
  | .host => 18446744073709551616
  | .system _ => 262144

/-- Number of a memory among all memories. -/
def Space.num : Space → Nat
  | .tile k => 8 * k
  | .group g => 8 * g + 1
  | .istore g => 8 * g + 2
  | .tensor d => 8 * d + 3
  | .directory d => 8 * d + 4
  | .hbm p => 8 * p + 5
  | .host => 6
  | .system j => 8 * j + 7

/-- The key of byte `a` of a memory: every memory has its own 2^64 keys. -/
def Space.key (sp : Space) (a : Nat) : Nat := sp.num * 18446744073709551616 + a

/-- What a byte that nothing has written reads as: 0 (DESIGN CHOICE, log entry 1). -/
def unlisted : Byte := 0#8

/-- A byte of memory by key. -/
def Memory.get (m : List Host.Cell) (k : Nat) : Byte := Tab.getD unlisted m k

/-- Memory with one byte written. -/
def Memory.put (m : List Host.Cell) (k : Nat) (b : Byte) : List Host.Cell := Tab.setD unlisted m k b

/-- The canonical form: addresses strictly rising, no entry equal to what an unlisted address reads as. -/
def Memory.wf (m : List Host.Cell) : Bool := Tab.canon unlisted m

/-- Memory with the bytes of a list written from key `k` up. -/
def Memory.putAll : List Host.Cell → Nat → List Byte → List Host.Cell
  | m, _, [] => m
  | m, k, b :: r => Memory.putAll (Memory.put m k b) (k + 1) r

/-- Byte `a` of a memory. -/
def State.byte (s : State) (sp : Space) (a : Nat) : Byte := Memory.get s.mem (sp.key a)

/-- The `n` bytes from `a` up. -/
def State.bytes (s : State) (sp : Space) (a n : Nat) : List Byte := (List.range n).map (fun i => s.byte sp (a + i))

/-- The `n` bytes from `a` up as a number, little-endian (R3). -/
def State.num (s : State) (sp : Space) (a n : Nat) : Nat := natOfBytes (s.bytes sp a n)

/-- Writes bytes from `a` up, without logging. -/
def State.poke (s : State) (sp : Space) (a : Nat) (bs : List Byte) : State :=
  { s with mem := Memory.putAll s.mem (sp.key a) bs }

/-- Writes scattered bytes of one memory, without logging. -/
def State.pokeAt (s : State) (sp : Space) (bs : List (Nat × Byte)) : State :=
  { s with mem := bs.foldl (fun m b => Memory.put m (sp.key b.1) b.2) s.mem }

/-- Memory with every byte of keys from `lo` up to `lo + n` unlisted. -/
def Memory.clear (m : List Host.Cell) (lo n : Nat) : List Host.Cell := m.filter (fun c => decide (c.1 < lo ∨ lo + n ≤ c.1))

/-- Sets `n` bytes from `a` up to 0. -/
def State.clearRange (s : State) (sp : Space) (a n : Nat) : State := { s with mem := Memory.clear s.mem (sp.key a) n }

/-! ## Events -/

/-- Order of the events of one cycle. Of the tile SRAM writes that two ports end, copies come first, then the matrix engine's, then the
exchange port's, with every other event; the thread port's writes of that cycle come before them (R180, `step`). A copy that waits for room
in the log looks for it after the cycle's drains (R181). The ramp limiter's tick comes first: a request of its cycle counts the ticks after it, and a
telemetry record of its cycle takes what it found (R339, R340). Revocations are taken in ascending tile order, ahead of the transactions that reach the table in the cycle (R281, R282). -/
def eventRank : Instr → Nat
  | .rampTick => 0
  | .copyEnd _ t => if t < 16 then 1 else 524289
  | .mstaEnd _ _ _ => 2
  | .krevEffect k _ _ _ => 3 + k
  | _ => 524289

/-- Place of an event in the event list. -/
def eventKey (e : Nat × Instr) : Nat := 524290 * e.1 + eventRank e.2

/-- Adds an event due at cycle `t`; events of one cycle and rank keep the order in which they were added. -/
def State.schedule (s : State) (t : Nat) (e : Instr) : State :=
  { s with events := insertBy eventKey (t, e) s.events }

/-! ## Units -/

/-- Group, die and package of a tile (R63, R301). -/
def groupOf (k : Nat) : Nat := k / 16
def dieOf (k : Nat) : Nat := if k < 262144 then k / 4096 else (k - 262144) / 2
def pkgOf (k : Nat) : Nat := dieOf k / 8
/-- The vertical column of a tile: the two tiles of a mirrored pair share one (chapter 9). -/
def columnOf (k : Nat) : Nat := 16 * (groupOf k % 128) + k % 16
/-- A proctor tile (R301). -/
def isProctor (k : Nat) : Bool := decide (262144 ≤ k)

def State.tile (s : State) (k : Nat) : Tile := s.tiles.get k
def State.updTile (s : State) (k : Nat) (f : Tile → Tile) : State := { s with tiles := s.tiles.upd k f }
def State.thread (s : State) (k t : Nat) : Thread := (s.tile k).threads.get t
def State.updThread (s : State) (k t : Nat) (f : Thread → Thread) : State :=
  s.updTile k (fun x => { x with threads := x.threads.upd t f })
def State.group (s : State) (g : Nat) : Group := s.groups.get g
def State.updGroup (s : State) (g : Nat) (f : Group → Group) : State := { s with groups := s.groups.upd g f }
def State.die (s : State) (d : Nat) : Die := s.dies.get d
def State.updDie (s : State) (d : Nat) (f : Die → Die) : State := { s with dies := s.dies.upd d f }
def State.pkg (s : State) (p : Nat) : Pkg := s.pkgs.get p
def State.updPkg (s : State) (p : Nat) (f : Pkg → Pkg) : State := { s with pkgs := s.pkgs.upd p f }
def State.launch (s : State) (l : Nat) : Launch := s.launches.get l
def State.updLaunch (s : State) (l : Nat) (f : Launch → Launch) : State := { s with launches := s.launches.upd l f }
def State.prog (s : State) (k : Nat) : Prog := s.progs.get k
def State.updProg (s : State) (k : Nat) (f : Prog → Prog) : State := { s with progs := s.progs.upd k f }
def State.xfer (s : State) (x : Nat) : Xfer := (s.xfers.get x).getD default
def State.updXfer (s : State) (x : Nat) (f : Xfer → Xfer) : State :=
  match s.xfers.get x with
  | some v => { s with xfers := s.xfers.set x (some (f v)) }
  | none => s

/-- The launch that a thread of a tile runs for: the primary's, or the filler's for thread 8. -/
def State.lidOf (s : State) (k t : Nat) : Option Nat := if t = 8 then (s.tile k).filler else (s.tile k).prim

/-- The launch record of a thread. -/
def State.launchOf (s : State) (k t : Nat) : Launch := s.launch ((s.lidOf k t).getD 0)

/-- The thread being executed. -/
def State.thr (s : State) : Thread := s.thread s.curTile s.curThread
def State.updThr (s : State) (f : Thread → Thread) : State := s.updThread s.curTile s.curThread f

/-! ## Reserved banks and logging -/

/-- Recovery is on for the primary launch of a tile. -/
def State.recovering (s : State) (k : Nat) : Bool :=
  match (s.tile k).prim with
  | some l => (s.launch l).recover
  | none => false

/-- A bank is reserved on a tile (Table 10.1). -/
def State.bankReserved (s : State) (k b : Nat) : Bool :=
  decide (368 ≤ b ∧ b ≤ 383) || (s.recovering k && decide (328 ≤ b ∧ b ≤ 367))

/-- First address from `a` over `n` bytes that lies in a reserved bank (R175). -/
def State.firstReserved (s : State) (k a n : Nat) : Option Nat :=
  (List.range (ceilDiv (a % 1024 + n) 1024)).findSome? fun i =>
    let b := a / 1024 + i
    if decide (b < 384) && s.bankReserved k b then some (max a (1024 * b)) else none

/-- The 64-byte lines that `n` bytes from key `a` touch. -/
def linesOf (a n : Nat) : List Nat := if n = 0 then [] else (List.range ((a + n - 1) / 64 + 1 - a / 64)).map (fun i => a / 64 + i)

/-- Lines, by key, that have no logged flag in this interval (R181). -/
def State.freshLines (s : State) (ls : List Nat) : List Nat := (dedup ls).filter (fun l => !s.logged.get l)

/-- Space of a key: number mod 8, and unit number; and the address there. -/
def keyKind (k : Nat) : Nat := k / 18446744073709551616 % 8
def keyUnit (k : Nat) : Nat := k / 18446744073709551616 / 8
def keyOff (k : Nat) : Nat := k % 18446744073709551616

/-- The 8-byte header of an undo entry (Table 17.1). -/
def UndoEntry.header (e : UndoEntry) : Nat :=
  let place := match e.kind with
    | 2 => e.place
    | 4 => 549755813888 * (keyUnit e.place % 8) + keyOff e.place
    | 5 => 549755813888 * keyUnit e.place + keyOff e.place
    | _ => keyOff e.place
  1152921504606846976 * (e.kind % 16) + 281474976710656 * (e.ctx % 4096) + (if e.kind ≤ 3 then 17592186044416 * (e.tile % 16) else 0) +
    place % 4398046511104

/-- The undo entry that a line's first write by a launch makes: its old bytes (R314, R315). -/
def State.lineEntry (s : State) (lid kind tile line : Nat) : UndoEntry :=
  { pod := (s.launch lid).podSeal, kind := kind, ctx := (s.launch lid).ctx, tile := tile, place := 64 * line
    old := (List.range 64).map (fun i => Memory.get s.mem (64 * line + i)), lid := lid }

/-- Sets a line's logged flag and keeps its old bytes as an undo entry (R314, R315). -/
def State.logLine (s : State) (lid kind tile line : Nat) : State :=
  { s with logged := s.logged.set line true, undo := s.lineEntry lid kind tile line :: s.undo }

/-- Cycles that a drain takes (R181, R316). -/
def tileDrain : Nat := 2
def groupDrain : Nat := 8
/-- Lines of the two shares of the tile undo log, and of the group undo area (R181, Table 17.2). -/
def primShare : Nat := 448
def exchShare : Nat := 64
def groupUndoSize : Nat := 7168

/-- Starts the drain of a share that holds a line (R181). -/
def State.startDrain (s : State) (k share : Nat) : State :=
  let t := s.tile k
  if share = 0 then
    if t.drainP || decide (t.undoPrim = 0) then s
    else (s.updTile k (fun x => { x with drainP := true })).schedule (s.cyc + tileDrain) (.undoLogDrain k 0)
  else
    if t.drainX || decide (t.undoExch = 0) then s
    else (s.updTile k (fun x => { x with drainX := true })).schedule (s.cyc + tileDrain) (.undoLogDrain k 1)

/-- Starts a group's drain (R316). -/
def State.startGroupDrain (s : State) (g : Nat) : State :=
  let x := s.group g
  if x.draining || decide (x.undo = 0) then s
  else (s.updGroup g (fun y => { y with draining := true })).schedule (s.cyc + groupDrain) (.groupUndoDrain g)

/-- An entry's old bytes, filled up to the 64 data bytes of a slot: a register entry has 8. -/
def UndoEntry.data (e : UndoEntry) : List Byte := e.old ++ List.replicate (64 - e.old.length) 0#8

/-- An entry enters a group undo area at its tail (Table 17.2). -/
def State.intoGroupLog (s : State) (g : Nat) (e : UndoEntry) : State :=
  let x := s.group g
  let i := (x.undoHead + x.undo) % groupUndoSize
  let s1 := ((s.poke (.group g) (0x140000 + 64 * i) e.data).poke (.group g) (0x1B0000 + 8 * i) (bytesOfNat 8 e.header)).poke (.group g)
    0x1BE008 (bytesOfNat 8 ((i + 1) % groupUndoSize))
  (s1.updGroup g (fun y => { y with undo := y.undo + 1 })).startGroupDrain g

/-- The oldest entries of a group undo area leave it (Table 17.2). -/
def State.dropGroupLog (s : State) (g n : Nat) : State :=
  let h := ((s.group g).undoHead + n) % groupUndoSize
  (s.poke (.group g) 0x1BE000 (bytesOfNat 8 h)).updGroup g (fun y => { y with undoHead := h, undo := y.undo - n })

/-- The tile address of the data bytes of a slot of the undo log: banks 336 to 367 (R315). -/
def logAt (slot : Nat) : Nat := 0x54000 + 64 * slot

/-- An entry enters a share of a tile's undo log, its data bytes the banks of the log (R181, R315). An exchange share that is full passes it on
to the group undo area. -/
def State.intoTileLog (s : State) (k share : Nat) (e : UndoEntry) : State :=
  let t := s.tile k
  let slot := if share = 0 then t.fillPrim else primShare + t.fillExch
  if share ≠ 0 ∧ exchShare ≤ t.undoExch then s.intoGroupLog (groupOf k) e
  else
    ((s.poke (.tile k) (logAt slot) e.data).updTile k (fun x =>
      if share = 0 then { x with log := x.log.set slot e, fillPrim := (x.fillPrim + 1) % primShare, undoPrim := x.undoPrim + 1 }
      else { x with log := x.log.set slot e, fillExch := (x.fillExch + 1) % exchShare, undoExch := x.undoExch + 1 })).startDrain k share

/-- Logs lines of a tile's SRAM into a share of its undo log (0 primary, 1 exchange): R181, R314. Only a member launch logs. -/
def State.logTile (s : State) (k share : Nat) (ls : List Nat) : State :=
  if s.recovering k then
    let r := (s.lidOf k 0).getD 0
    (s.freshLines ls).foldl (fun a l => (a.logLine r 1 k l).intoTileLog k share (a.lineEntry r 1 k l)) s
  else s

/-- Keys of the lines that `n` bytes from tile address `a` touch. -/
def tileLines (k a n : Nat) : List Nat := linesOf ((Space.tile k).key a) n

/-- First-touched lines of a store of `n` bytes at `a` (R181). -/
def State.newTileLines (s : State) (k : Nat) (spans : List (Nat × Nat)) : List Nat :=
  if s.recovering k then s.freshLines (spans.flatMap (fun p => tileLines k p.1 p.2)) else []

/-- A write to tile SRAM through a share of the log. -/
def State.storeTile (s : State) (k share a : Nat) (bs : List Byte) : State :=
  (s.logTile k share (tileLines k a bs.length)).poke (.tile k) a bs

/-- Scattered bytes written to tile SRAM through a share of the log. -/
def State.storeTileAt (s : State) (k share : Nat) (bs : List (Nat × Byte)) : State :=
  (s.logTile k share (bs.flatMap (fun b => tileLines k b.1 1))).pokeAt (.tile k) bs

/-- T[a, n] of the executing tile (Table 0.3). -/
def State.tbytes (s : State) (a n : Nat) : List Byte := s.bytes (.tile s.curTile) a n

end Sys2Proof.Machine
end

