-- ==== Sys2Proof/Machine/Ops.lean ====
section
/-!
DEFINITION. The named operations every meaning is built from: registers and their pending results (R98 to R101), the PC queue
(R115), messages and parks (R302 to R304), taking a trap (R297) and returning from one (R124), waits and wakes (R104).
-/

namespace Sys2Proof.Machine

/-- What a meaning answers. -/
abbrev Out := Host.Outcome State Fault Refusal

/-! ## Register files -/

/-- Physical number of wn under the window (R101): 1 to 7 the globals, 8 + 8o + r register r of octet o. -/
def Thread.phys (t : Thread) (n : Nat) : Nat :=
  if n < 8 then n
  else if n < 16 then 8 + 8 * (t.base % 12) + (n - 8)
  else if n < 24 then 8 + 8 * ((t.base + 1) % 12) + (n - 16)
  else 8 + 8 * ((t.base + 2) % 12) + (n - 24)

/-- What the file holds, without pending results. -/
def Thread.file (t : Thread) (cls num : Nat) : Vec :=
  match cls with
  | 0 => (t.regs.get num).setWidth 512
  | 1 => t.vregs.get num
  | 2 => (t.mregs.get num).setWidth 512
  | _ => 0#512

/-- The file with a register written. -/
def Thread.setFile (t : Thread) (cls num : Nat) (v : Vec) : Thread :=
  match cls with
  | 0 => { t with regs := t.regs.set num (v.setWidth 64) }
  | 1 => { t with vregs := t.vregs.set num v }
  | 2 => { t with mregs := t.mregs.set num (v.setWidth 16) }
  | _ => t

/-- The value a read in cycle `c` gives: of the results for this register, the latest-issued one already readable stands (R98 to
R100); else what the file holds. `pend` lists the latest-issued first. -/
def Thread.readAt (t : Thread) (c cls num : Nat) : Vec :=
  match t.pend.find? (fun p => decide (p.cls = cls ∧ p.num = num ∧ p.due ≤ c)) with
  | some p => p.val
  | none => t.file cls num

/-- The latest-issued pending result of a register is not yet readable in cycle `c` (R99). -/
def Thread.short (t : Thread) (c cls num : Nat) : Bool :=
  match t.pend.find? (fun p => decide (p.cls = cls ∧ p.num = num)) with
  | some p => decide (c < p.due)
  | none => false

/-- Moves the results readable in cycle `c` into the files; a result overtaken by a later-issued one that has landed is dropped
(R100). -/
def Thread.land (c : Nat) (t : Thread) : Thread :=
  t.pend.foldr (fun p a =>
    if p.due ≤ c then
      { (a.setFile p.cls p.num p.val) with pend := a.pend.filter (fun q => decide (¬ (q.cls = p.cls ∧ q.num = p.num))) }
    else { a with pend := p :: a.pend }) { t with pend := [] }

/-- A result issued now, readable from `due` on. -/
def Thread.push (t : Thread) (c cls num due : Nat) (v : Vec) : Thread :=
  let a := t.land c
  { a with pend := { cls := cls, num := num, due := due, val := v } :: a.pend }

/-- Drops the pending results of an octet that dies or is cleared (R102, R104). -/
def Thread.dropOctet (t : Thread) (o : Nat) : Thread :=
  { t with pend := t.pend.filter (fun q => decide (¬ (q.cls = 0 ∧ 8 + 8 * o ≤ q.num ∧ q.num < 16 + 8 * o))) }

/-- Wreg(n) of the executing thread in this cycle; w0 reads 0 (R101). -/
def State.readW (s : State) (n : BitVec 5) : Word :=
  if n = 0#5 then 0#64 else (s.thr.readAt s.cyc 0 (s.thr.phys n.toNat)).setWidth 64

/-- vn of the executing thread. -/
def State.readV (s : State) (n : BitVec 5) : Vec := s.thr.readAt s.cyc 1 n.toNat

/-- mn of the executing thread; m0 reads 0xFFFF (R105). -/
def State.readM (s : State) (n : Nat) : Mask := if n = 0 then 0xFFFF#16 else (s.thr.readAt s.cyc 2 n).setWidth 16

/-- a_k by the equation of R128, over running values. -/
def Nest.areg (n : Nest) (k : Nat) : Word :=
  n.base.get k + (List.range 4).foldl (fun acc j => acc + n.coef.get (4 * k + j) * (n.idx.get j).setWidth 64) 0#64

/-- Wd := v with latency `lat` (R98); a write to w0 is discarded (R101). -/
def State.writeW (s : State) (d : BitVec 5) (lat : Nat) (v : Word) : State :=
  if d = 0#5 then s else s.updThr (fun t => t.push s.cyc 0 (t.phys d.toNat) (s.cyc + lat) (v.setWidth 512))

/-- vd := v with latency `lat`. -/
def State.writeV (s : State) (d : BitVec 5) (lat : Nat) (v : Vec) : State :=
  s.updThr (fun t => t.push s.cyc 1 d.toNat (s.cyc + lat) v)

/-- md := v with latency `lat`; a write to m0 is ignored (R105). -/
def State.writeM (s : State) (d : Nat) (lat : Nat) (v : Mask) : State :=
  if d = 0 then s else s.updThr (fun t => t.push s.cyc 2 d (s.cyc + lat) (v.setWidth 512))

/-- A result that an ended wait delivers: wd is readable from this cycle on (Table 6.1, interlocked). -/
def State.deliverW (s : State) (k t rd : Nat) (v : Word) : State :=
  if rd = 0 then s else s.updThread k t (fun x => x.push s.cyc 0 (x.phys rd) s.cyc (v.setWidth 512))

/-! ## Trap causes -/

/-- A cause with its tval (Table 16.1). -/
structure TrapReq where
  cause : Nat
  val : Word
  deriving DecidableEq, Repr, Inhabited

namespace Cause
def illegal : Nat := 0x01
def priv : Nat := 0x02
def stallShort : Nat := 0x03
def wspill : Nat := 0x04
def wfill : Nat := 0x05
def align : Nat := 0x06
def taddr : Nat := 0x07
def spillProt : Nat := 0x08
def fmtres : Nat := 0x0A
def bankFmt : Nat := 0x0B
def loopWr : Nat := 0x0C
def trapi : Nat := 0x0D
def tick : Nat := 0x0E
def batchOv : Nat := 0x11
end Cause

/-- A cause when a condition holds. -/
def trapIf (c : Bool) (cause : Nat) (val : Word) : Option TrapReq := if c then some ⟨cause, val⟩ else none

/-- The one with the lowest cause code; among equal codes the first (R7). -/
def lowest : List (Option TrapReq) → Option TrapReq
  | [] => none
  | none :: r => lowest r
  | some a :: r =>
    match lowest r with
    | none => some a
    | some b => if b.cause < a.cause then some b else some a

/-- STALLSHORT on wn (R99). -/
def State.chkW (s : State) (n : BitVec 5) : Option TrapReq :=
  trapIf (s.thr.chk && n != 0#5 && s.thr.short s.cyc 0 (s.thr.phys n.toNat)) Cause.stallShort (zext 5 n)

/-- STALLSHORT on vn (R99). -/
def State.chkV (s : State) (n : BitVec 5) : Option TrapReq :=
  trapIf (s.thr.chk && s.thr.short s.cyc 1 n.toNat) Cause.stallShort (word (32 + n.toNat))

/-- STALLSHORT on mn (R99); m0 has no pending result. -/
def State.chkM (s : State) (n : Nat) : Option TrapReq :=
  trapIf (s.thr.chk && n != 0 && s.thr.short s.cyc 2 n) Cause.stallShort (word (64 + n))

/-! ## Text and the PC queue -/

/-- Where a thread's text stands: the group's instruction store, or the proctor's own system store; base and size in bytes
(R89, R301). -/
def State.textSpan (s : State) (k t : Nat) : Space × Nat × Nat :=
  if isProctor k then (.system (k - 262144), 0, s.sysText.get (k - 262144))
  else
    let l := s.launchOf k t
    (.istore (groupOf k), l.textBase, l.textSize)

/-- A byte of a thread's text; at or beyond the text size every halfword reads 0xFFFF (R89). -/
def State.textByte (s : State) (k t off : Nat) : Byte :=
  match s.textSpan k t with
  | (sp, base, size) => if off / 2 * 2 < size then s.byte sp (base + off) else 0xFF#8

/-- The halfword at a text offset. -/
def State.textHalf (s : State) (k t : Nat) (x : BitVec 18) : BitVec 16 :=
  s.textByte k t (x + 1#18).toNat ++ s.textByte k t x.toNat

/-- seq(x) (R115). -/
def State.seqOf (s : State) (k t : Nat) (x : BitVec 18) : BitVec 18 :=
  if (s.textHalf k t x).getLsbD 0 then x + 4#18 else x + 2#18

/-- The word at a text offset: 16 or 32 bits by bit 0 of the first halfword, zero-extended (R78, R88). -/
def State.textWord (s : State) (k t : Nat) (x : BitVec 18) : BitVec 32 :=
  if (s.textHalf k t x).getLsbD 0 then s.textHalf k t (x + 2#18) ++ s.textHalf k t x else (s.textHalf k t x).setWidth 32

/-- The word being executed, zero-extended: the tval of a cause that names "the word" (Table 16.1). -/
def State.thisWord (s : State) : Word := (s.textWord s.curTile s.curThread s.thr.q0).setWidth 64

/-- The queue and issue record after one issue in cycle `c`. -/
def Thread.issued (t : Thread) (c : Nat) (third : BitVec 18) (n0 n1 : Bool) : Thread :=
  { t with q0 := t.q1, q1 := t.q2, q2 := third, n0 := n0, n1 := n1, lastIssue := c, stallDone := false, heldFrom := none, subst := [] }

/-- The last row of Table 7.2. -/
def State.retire (s : State) : State :=
  let q := s.seqOf s.curTile s.curThread s.thr.q2
  s.updThr (fun t => t.issued s.cyc q t.n1 false)

/-- A taken branch, jump, call, return or LOOP to `x` (Table 7.2). -/
def State.retireTo (s : State) (x : BitVec 18) : State := s.updThr (fun t => t.issued s.cyc x t.n1 false)

/-- A .N branch that is not taken (Table 7.2). -/
def State.retireAnnul (s : State) : State :=
  let q := s.seqOf s.curTile s.curThread s.thr.q2
  s.updThr (fun t => t.issued s.cyc q true true)

/-- The thread issues nothing before cycle `c`. -/
def State.holdUntil (s : State) (c : Nat) : State := s.updThr (fun t => { t with notBefore := max t.notBefore c })

/-- The rotation length L of a thread (R11); the filler and every slot of L = 1 own each cycle. -/
def Thread.rot (t : Thread) : Nat := if t.fill then 1 else 2 ^ t.lcode

/-- The first own slot of thread `i` at or after cycle `c` (R11). -/
def ownSlot (l i c : Nat) : Nat := if l = 0 then c else c + ((l + i - c % l) % l)

/-! ## Messages and parks -/

/-- A message reaches the die's mailbox `delay` cycles from now (R302). -/
def State.post (s : State) (d delay : Nat) (m : Message) : State := s.schedule (s.cyc + delay) (.mailboxArrival d m)

/-- The next ticket of a die, holding an item: 1 upward modulo 2^32, skipping 0 (R303). -/
def State.ticketFor (s : State) (d : Nat) (it : HeldItem) : Nat × State :=
  let n := (s.die d).nextTicket
  let n := if n = 0 then 1 else n
  (n, s.updDie d (fun x => { x with nextTicket := (n + 1) % 4294967296, held := x.held.set n it }))

/-- Source field of a tile's message (Table 16.3). -/
def sourceOf (k t : Nat) : Nat := k % 4096 + 4096 * (t % 8) + (if t = 8 then 32768 else 0)

/-- The thread stops: it saves the trap set in the nested set and its queue and annul bits in the trap registers (R118, R304). -/
def Thread.stopSave (t : Thread) : Thread :=
  match t.nested with
  | some _ => t
  | none =>
    { t with nested := some t.trap
             trap := { t.trap with epc0 := zext 18 t.q0, epc1 := zext 18 t.q1, epc2 := zext 18 t.q2
                                   tstat := (t.trap.tstat &&& ~~~3#64) ||| boolWord t.n0 ||| (boolWord t.n1 <<< 1) } }

/-- The thread reloads its queue as ERET does and puts the nested set back (R304). -/
def Thread.resumeLoad (t : Thread) : Thread :=
  match t.nested with
  | none => t
  | some n =>
    { t with q0 := t.trap.epc0.setWidth 18, q1 := t.trap.epc1.setWidth 18, q2 := t.trap.epc2.setWidth 18
             n0 := bit t.trap.tstat 0, n1 := bit t.trap.tstat 1, trap := n, nested := none }

/-- epc0 of a thread as a park saves it: its queue's first offset, or what a park or a stop that stands has saved already (R304, R368). -/
def Thread.faultPc (t : Thread) : Word := if t.nested.isSome then t.trap.epc0 else zext 18 t.q0

/-- The threads a park of a tile stops: its primary threads, or the filler thread alone (R304). -/
def parkThreads (t : Nat) : List Nat := if t = 8 then [8] else [0, 1, 2, 3, 4, 5, 6, 7]

/-- A tile parks because of thread `t`: its threads stop and a message with a ticket is posted (R302 to R304). `m` gives the
message's own fields. -/
def State.park (s : State) (k t : Nat) (it : HeldItem) (m : Message) : State :=
  let d := dieOf k
  let s1 := (parkThreads t).foldl (fun a i => if (a.thread k i).live && !(a.thread k i).halted then a.updThread k i Thread.stopSave else a) s
  match s1.ticketFor d it with
  | (tk, s2) =>
    let s3 := s2.updTile k (fun x => if t = 8 then { x with fillParked := true } else { x with parked := true, ticket := tk })
    s3.post d 20 { m with source := sourceOf k t, ctx := (s.launchOf k t).ctx
                          item := (s.thread k t).faultPc.toNat, ticket := tk }

/-- DOUBLE (kind 4) and NOHANDLER (kind 5): R303, R368. -/
def State.parkTrap (s : State) (kind : Nat) (r : TrapReq) : State :=
  let loc := if r.cause = Cause.align ∨ r.cause = Cause.taddr ∨ r.cause = Cause.spillProt then r.val else 0#64
  s.park s.curTile s.curThread (.tile ((s.lidOf s.curTile s.curThread).getD 0) s.curTile s.curThread kind 9 0 false false)
    { (default : Message) with kind := kind, unit := 9, detail := r.cause, value := r.val, location := loc }

/-- FMTRES at the executing thread (R41, R42): the tile parks, the instruction stays at Q0. `place` is where a substitute goes. -/
def State.parkFmt (s : State) (unit place : Nat) (scale value : Bool) (v loc : Word) : State :=
  s.park s.curTile s.curThread (.tile ((s.lidOf s.curTile s.curThread).getD 0) s.curTile s.curThread 1 unit place scale value)
    { (default : Message) with kind := 1, flags := (if scale then 1 else 0) + (if value then 2 else 0), unit := unit
                               detail := Cause.fmtres, value := v, location := loc }

/-- The replacement a proctor supplied for a place of the instruction at Q0 (R42). -/
def substAt (l : List Subst) (place : Nat) : Option Word := (l.find? (fun x => x.place == place)).map Subst.val

/-! ## Taking and returning from a trap -/

/-- The registers that TakeTrap writes (R297), after any move of the queue. -/
def Thread.enter (t : Thread) (c : Nat) (r : TrapReq) (h h1 h2 : BitVec 18) : Thread :=
  { t with
    trap := { tcause := zext 8 (word r.cause), tval := r.val
              tstat := boolWord t.n0 ||| (boolWord t.n1 <<< 1) ||| (boolWord (r.cause == Cause.tick) <<< 2)
              epc0 := zext 18 t.q0, epc1 := zext 18 t.q1, epc2 := zext 18 t.q2 }
    inTrap := true
    q0 := h, q1 := h1, q2 := h2, n0 := false, n1 := false
    lastIssue := c, stallDone := false, heldFrom := none, subst := [] }

/-- TakeTrap(cause, val) of R297, in the own slot in which the instruction at Q0 would issue. The handler's first instruction
issues in own slot k + 2 + S, so the slot after k counts as the previous issue. -/
def State.takeTrap (s : State) (r : TrapReq) : State :=
  let t := s.thr
  if t.inTrap && r.cause != Cause.tick then s.parkTrap 4 r
  else if t.tvec = 0#64 then s.parkTrap 5 r
  else
    let s1 := if r.cause = Cause.trapi then s.retire else s
    let h : BitVec 18 := t.tvec.setWidth 18
    let h1 := s1.seqOf s.curTile s.curThread h
    let h2 := s1.seqOf s.curTile s.curThread h1
    s1.updThr (fun x => x.enter (s.cyc + x.rot) r h h1 h2)

/-- Either the lowest cause that applies is taken, or the effects follow: all checks come before any effect (R7). A check of an operand's
value is made on the value the register has then, also where STALLSHORT applies to it (DEDUCED, log entry 80). -/
def State.guarded (s : State) (checks : List (Option TrapReq)) (body : State → Out) : Out :=
  match lowest checks with
  | some r => .next (s.takeTrap r)
  | none => body s

/-- The registers that ERET restores (R124, R299). -/
def Thread.eret (t : Thread) (c : Nat) : Thread :=
  { t with q0 := t.trap.epc0.setWidth 18, q1 := t.trap.epc1.setWidth 18, q2 := t.trap.epc2.setWidth 18
           n0 := bit t.trap.tstat 0, n1 := bit t.trap.tstat 1, inTrap := false
           lastIssue := c, stallDone := false, heldFrom := none, subst := [] }

/-! ## Waits -/

/-- Adds cycles to a wait counter (R13): 0 bell, 1 win, 2 xfer, 3 ramp, 4 escr. -/
def Thread.addWait (t : Thread) (i n : Nat) : Thread := { t with wt := t.wt.upd i (fun x => x + word n) }

/-- The waits that park a thread after 64 cy: SWAIT, the interlocks of Table 6.1 (R104), the interlocked results of the fabric (R280 to
R285; R359 shows CSET's), and IDLE (R306). -/
def Wait.parks : Wait → Bool
  | .swait _ _ | .bell | .batch _ _ | .window _ _ _ | .poll | .matrix _ | .fabric | .idle _ => true
  | .none | .mailbox _ _ | .barrier _ _ | .tsync => false

/-- Waits that are counted from their beginning to their end as they end (R13). -/
def Wait.countedAtEnd : Wait → Bool
  | .window _ _ _ => true
  | .barrier _ _ => true
  | .tsync => true
  | _ => false

/-- Cycles of a counted wait that ends in cycle `c`, but for those that an emergency seal has counted already (R13, R319). -/
def Thread.waited (t : Thread) (c : Nat) : Nat := c - t.waitFrom - t.spare

/-- The thread waits from its issue on; where the wait parks it, it does so after 64 cy (R104). -/
def State.enterWait (s : State) (w : Wait) : State :=
  let c := s.cyc
  let s1 := s.updThr (fun t => { t with wait := w, waitFrom := c, retained := false, spare := 0 })
  if w.parks then s1.schedule (c + 64) (.threadPark s.curTile s.curThread c) else s1

/-- A wait ends in this cycle, and the thread may issue from cycle `c` on. One that has parked in it adds the 12 cy wake, counted from its own
slot, to counter `ctr` if the wait is a counted one (R104). -/
def State.wakeAt (s : State) (k t c : Nat) (ctr : Option Nat) : State :=
  let now := s.cyc
  s.updThread k t (fun x =>
    if x.wait.parks && decide (x.waitFrom + 64 ≤ now) then
      let y := { x with wait := .none, retained := false, notBefore := max x.notBefore (ownSlot x.rot t c + 12) }
      match ctr with
      | some i => y.addWait i 12
      | none => y
    else { x with wait := .none, notBefore := max x.notBefore c })

/-- A wait ends, and the thread may issue in this cycle. -/
def State.wake (s : State) (k t : Nat) (ctr : Option Nat) : State := s.wakeAt k t s.cyc ctr

/-- The instruction cannot issue yet: it stays at Q0 and its hold is counted from the first such cycle (R96). The slot counts as left
empty, so a granted filler may take it (R12). -/
def State.stall (s : State) : State :=
  let c := s.cyc
  { s.updThr (fun t => { t with heldFrom := some (t.heldFrom.getD c), notBefore := max t.notBefore (c + 1) }) with cursor := s.curTile }

/-- A package's HBM undo region is full: every logged write of the domain stalls (R318). -/
def State.regionFull (s : State) : Bool := s.fullSince.isSome

/-- The primary share of a tile's undo log lacks room for `nl` lines (R181, R318). -/
def State.noRoom (s : State) (k nl : Nat) : Bool := decide (0 < nl) && (decide (primShare < (s.tile k).undoPrim + nl) || s.regionFull)

/-- A group undo area has no room for a line (R181, R316). -/
def State.groupFull (s : State) (k : Nat) : Bool := decide (groupUndoSize ≤ (s.group (groupOf k)).undo)

/-- The instruction waits for room in the primary share; a wait for room in the group undo area is counted in wt.escr, per own slot
(R181, R318). -/
def State.stallLog (s : State) : State :=
  if s.groupFull s.curTile || s.regionFull then (s.stall).updThr (fun t => t.addWait 4 t.rot) else s.stall

/-- The end of an interlock of Table 6.1 before issue, in cycle `e`: a thread that the interlock has held for 64 cy has parked and
takes the 12 cy wake first, which counts in no counter (R104, R167). -/
def State.afterHold (s : State) (e : Nat) (go : State → Out) : Out :=
  match s.thr.heldFrom with
  | some h =>
    if h + 64 ≤ e then
      let c := s.cyc
      .next { s.updThr (fun t => { t with heldFrom := none, notBefore := c + 12 }) with cursor := s.curTile }
    else go s
  | none => go s

/-! ## Retirement -/

/-- A tile may retire when nothing of it runs any more (R330). -/
def State.askRetire (s : State) (k : Nat) : State :=
  let t := s.tile k
  let prim := match t.prim with
    | some l => !t.retired && (List.range (s.launch l).nthr).all (fun i => (t.threads.get i).halted)
    | none => false
  if prim || (t.filler.isSome && (t.threads.get 8).halted) then s.schedule s.cyc (.tileRetire k) else s

end Sys2Proof.Machine
end

