-- ==== Sys2Proof/Machine/Operands.lean ====
section
/-!
DEFINITION. The operand forms: branch targets (R82, R119 to R121, R131), effective addresses of tile accesses (R183 to R186), lane
masks (R133) and the address checks of R182.
-/

namespace Sys2Proof.Machine

/-- Target of a branch: its own offset plus 2 × Sext(off, n), modulo 2^18 (R82). -/
def branchTarget (x : BitVec 18) {n : Nat} (off : BitVec n) : BitVec 18 := x + ((off.signExtend 64) <<< 1).setWidth 18

/-- ea of a T-format access: wa + Sext(imm9, 9) × n (R183). -/
def State.eaOffset (s : State) (a : BitVec 5) (imm : BitVec 9) (n : Nat) : Word := s.readW a + sext 9 imm * word n

/-- ea of the address-register form: a_k (R183). -/
def State.eaAreg (s : State) (k : Nat) : Word := s.thr.nest.areg k

/-- Address of lane i of VLDT and VSTT: wa + Sext(vb, 5) × 64 + 4i (R185). -/
def State.eaRow (s : State) (a : BitVec 5) (o : BitVec 5) (i : Nat) : Word := s.readW a + sext 5 o * 64#64 + word (4 * i)

/-- Address of lane i of VLDTS and VSTTS: wa + i × Sext(wb[31:0], 32) (R185). -/
def State.eaStride (s : State) (a b : BitVec 5) (i : Nat) : Word := s.readW a + word i * sext 32 (s.readW b)

/-- Address of lane i of VGATH and VSCAT: wa + Zext(vb.lane[i], 32) (R186). -/
def State.eaGather (s : State) (a b : BitVec 5) (i : Nat) : Word := s.readW a + zext 32 (lane (s.readV b) i)

/-- Lane i is active under mask mk (R133). -/
def State.active (s : State) (m : Nat) (i : Nat) : Bool := (s.readM m).getLsbD i

/-- The active lanes, rising. -/
def State.lanes (s : State) (m : Nat) : List Nat := (List.range 16).filter (fun i => s.active m i)

/-- R182: not a multiple of the element size. -/
def eaMisaligned (ea : Word) (n : Nat) : Bool := decide (ea.toNat % n ≠ 0)

/-- R182: passes tile SRAM. -/
def eaOutside (ea : Word) (n : Nat) : Bool := decide (393216 < ea.toNat + n)

/-- R182: touches a reserved bank. -/
def State.eaReserved (s : State) (ea : Word) (n : Nat) : Bool := (s.firstReserved s.curTile ea.toNat n).isSome

/-- The checks of R182 over elements of `n` bytes in ascending lane order: the lowest cause, and the ea of the lowest-numbered lane
that meets it. -/
def State.eaChecks (s : State) (n : Nat) (eas : List Word) : List (Option TrapReq) :=
  [ (eas.find? (fun e => eaMisaligned e n)).map (fun e => ⟨Cause.align, e⟩)
  , (eas.find? (fun e => eaOutside e n)).map (fun e => ⟨Cause.taddr, e⟩)
  , (eas.find? (fun e => s.eaReserved e n)).map (fun e => ⟨Cause.spillProt, e⟩) ]

/-- The bytes of tile SRAM that a thread-port store writes, and its cost: it waits while the primary share lacks room for the lines
it first writes, and each of them delays the thread's next instruction by a cycle (R181). The filler logs nothing. -/
def State.threadStore (s : State) (bs : List (Nat × Byte)) (after : State → State) : Out :=
  if s.curThread = 8 then .next (after ((s.pokeAt (.tile s.curTile) bs).retire))
  else
    let nl := (s.newTileLines s.curTile (bs.map (fun b => (b.1, 1)))).length
    if nl = 0 then .next (after ((s.pokeAt (.tile s.curTile) bs).retire))
    else if s.noRoom s.curTile nl then .next s.stallLog
    else .next (after (((s.storeTileAt s.curTile 0 bs).retire).holdUntil (s.cyc + 1 + nl)))

/-- The bytes of a value from address `a` up, as a store writes them. -/
def spread (a : Nat) (bs : List Byte) : List (Nat × Byte) := (List.range bs.length).zipWith (fun i b => (a + i, b)) bs

end Sys2Proof.Machine
end

