-- ==== Sys2Proof/Machine/Flags.lean ====
section
/-!
DEFINITION. The status and special registers: the fields of stat, ctl, wnd (Table 6.3), tcause and tstat (Table 16.2), abt (Table 6.2)
and bfmt (Table 10.2), read by number (R106) and written under the access rules of R5 and R125. The module keeps no arithmetic
flags (R31, R108): conditions are register values.
-/

namespace Sys2Proof.Machine

/-- n, the count of resident octets (R101). -/
def Thread.resident (t : Thread) : Nat := (t.base + 2 + 12 - t.lo) % 12 + 1

/-- stat (Table 6.3). -/
def Thread.stat (t : Thread) (i : Nat) : Word :=
  (word (t.lcode % 4) <<< 7) ||| (boolWord t.recov <<< 6) ||| (boolWord t.inTrap <<< 5) ||| (boolWord t.fill <<< 4) |||
  (boolWord t.sys <<< 3) ||| word (i % 8)

/-- wnd (Table 6.3). -/
def Thread.wndReg (t : Thread) : Word := (word (t.depth % 32) <<< 8) ||| (word (t.lo % 16) <<< 4) ||| word (t.base % 16)

/-- A bank format register as it reads: 0x80 while the bank is reserved (R176). -/
def State.bfmt (s : State) (k b : Nat) : Word := if s.bankReserved k b then 0x80#64 else (s.tile k).bfmt.get b

/-- The interval number of the module's own seal domain, or of its pod seal domain (R313). -/
def State.rinOf (s : State) (pod : Bool) : BitVec 32 := if pod then s.podRin else s.rin

/-- The special register of number n (Table 6.2); none for a number not in the table. -/
def State.special (s : State) (n : Nat) : Option Word :=
  let t := s.thr
  let tl := s.tile s.curTile
  if n = 0x000 then some (word s.cyc)
  else if n = 0x001 then some (t.stat s.curThread)
  else if n = 0x002 then some (boolWord t.tie)
  else if n = 0x003 then some (boolWord t.chk)
  else if n = 0x004 then some (zext 16 tl.xperm)
  else if n = 0x005 then some t.wndReg
  else if n = 0x008 then some (zext 32 (s.rinOf (s.launchOf s.curTile s.curThread).podSeal))
  else if n = 0x009 then some t.rbk
  else if n = 0x00A then some t.abt
  else if n = 0x010 then some t.tvec
  else if n = 0x011 then some t.trap.tcause
  else if n = 0x012 then some t.trap.tval
  else if n = 0x013 then some t.trap.tstat
  else if n = 0x014 then some t.trap.epc0
  else if n = 0x015 then some t.trap.epc1
  else if n = 0x016 then some t.trap.epc2
  else if n = 0x020 then some (word (s.curThread % 8))
  else if n = 0x021 then some t.ident.nthr
  else if n = 0x022 then some t.ident.tile
  else if n = 0x023 then some t.ident.grp
  else if n = 0x024 then some t.ident.die
  else if n = 0x025 then some t.ident.pkg
  else if n = 0x026 then some t.ident.mod
  else if n = 0x027 then some t.ident.x
  else if n = 0x028 then some t.ident.y
  else if n = 0x029 then some t.ident.ntile
  else if 0x030 ≤ n ∧ n ≤ 0x037 then some (t.ident.ext.get (n - 0x030))
  else if 0x038 ≤ n ∧ n ≤ 0x03F then some (t.ident.off.get (n - 0x038))
  else if 0x040 ≤ n ∧ n ≤ 0x044 then some (t.ss.get (n - 0x040))
  else if 0x048 ≤ n ∧ n ≤ 0x04B then some (tl.lst.get (n - 0x048))
  else if 0x050 ≤ n ∧ n ≤ 0x053 then some (zext 8 (t.sf.get (n - 0x050)))
  else if 0x060 ≤ n ∧ n ≤ 0x064 then some (t.wt.get (n - 0x060))
  else if 0x100 ≤ n ∧ n ≤ 0x27F then some (s.bfmt s.curTile (n - 0x100))
  else none

/-- The text-offset registers keep bits [17:1] (R125). -/
def textReg (v : Word) : Word := v &&& 0x3FFFE#64

/-- The checks of an MTSR to bfmt.b (R177). -/
def State.bfmtChecks (s : State) (b : Nat) (v : Word) : List (Option TrapReq) :=
  let fmt := field v 3 0
  let axis := field v 4 4
  let blk := field v 6 5
  let raw := bit v 7
  let sb := field v 16 8
  [ trapIf (s.bankReserved s.curTile b) Cause.spillProt (word (1024 * b))
  , trapIf (!raw && decide (12 ≤ fmt ∨ blk ≠ 0 ∨ (fmt ≠ 10 ∧ (axis ≠ 0 ∨ sb ≠ 0)))) Cause.bankFmt (word b)
  , trapIf (!raw && decide (fmt = 10) && (s.bankReserved s.curTile sb || decide (sb = b))) Cause.bankFmt (word b)
  , trapIf (raw && decide (fmt ≠ 0 ∨ blk ≠ 0 ∨ axis ≠ 0 ∨ sb ≠ 0)) Cause.bankFmt (word b) ]

/-- The checks of an MTSR to register n: an unknown number is ILLEGAL with tval the number (R106). -/
def State.specialChecks (s : State) (n : Nat) (v : Word) : List (Option TrapReq) :=
  if (s.special n).isNone then [some ⟨Cause.illegal, word n⟩]
  else if 0x100 ≤ n ∧ n ≤ 0x27F then s.bfmtChecks (n - 0x100) v
  else []

/-- A tile register that recovery logs at its first MTSR of an interval (R314). -/
def loggedReg (n : Nat) : Bool := decide (n = 0x004) || decide (0x100 ≤ n ∧ n ≤ 0x27F)

/-- The old value of a tile register kept as an undo entry of kind 2 (R314, Table 17.1). -/
def State.logReg (s : State) (k n : Nat) : State :=
  let old := if n = 0x004 then zext 16 (s.tile k).xperm else (s.tile k).bfmt.get (n - 0x100)
  let r := s.launchOf k 0
  let e : UndoEntry :=
    { pod := r.podSeal, kind := 2, ctx := r.ctx, tile := k, place := n, old := bytesOfNat 8 old.toNat, lid := (s.lidOf k 0).getD 0 }
  ({ s with undo := e :: s.undo }.updTile k (fun x => { x with regLogged := n :: x.regLogged })).intoTileLog k 0 e

/-- Whether an MTSR to register n makes a register entry now. -/
def State.regFresh (s : State) (n : Nat) : Bool :=
  loggedReg n && s.recovering s.curTile && s.curThread != 8 && !(s.tile s.curTile).regLogged.contains n

/-- A special register takes a value (R106, R125): writes to read-only registers and reserved bits are ignored. -/
def State.setSpecial (s : State) (n : Nat) (v : Word) : State :=
  if n = 0x002 then s.updThr (fun t => { t with tie := bit v 0 })
  else if n = 0x003 then s.updThr (fun t => { t with chk := bit v 0 })
  else if n = 0x004 then s.updTile s.curTile (fun x => { x with xperm := v.setWidth 16 })
  else if n = 0x010 then s.updThr (fun t => { t with tvec := textReg v })
  else if n = 0x011 then s.updThr (fun t => { t with trap := { t.trap with tcause := zext 8 v } })
  else if n = 0x012 then s.updThr (fun t => { t with trap := { t.trap with tval := v } })
  else if n = 0x013 then s.updThr (fun t => { t with trap := { t.trap with tstat := zext 3 v } })
  else if n = 0x014 then s.updThr (fun t => { t with trap := { t.trap with epc0 := textReg v } })
  else if n = 0x015 then s.updThr (fun t => { t with trap := { t.trap with epc1 := textReg v } })
  else if n = 0x016 then s.updThr (fun t => { t with trap := { t.trap with epc2 := textReg v } })
  else if 0x050 ≤ n ∧ n ≤ 0x053 then s.updThr (fun t => { t with sf := t.sf.set (n - 0x050) (v.setWidth 8) })
  else if 0x060 ≤ n ∧ n ≤ 0x064 then s.updThr (fun t => { t with wt := t.wt.set (n - 0x060) v })
  else if 0x100 ≤ n ∧ n ≤ 0x27F then s.updTile s.curTile (fun x => { x with bfmt := x.bfmt.set (n - 0x100) (zext 17 v) })
  else s

end Sys2Proof.Machine
end

