-- ==== Sys2Proof/Machine/Alu.lean ====
section
/-!
DEFINITION. The scalar register, immediate, bit-field and select instructions (R108 to R114). Each is a value over one shared
operation: read the operands in the issue cycle under R99, write wd after the latency of Table 6.1, move the queue.
-/

namespace Sys2Proof.Machine

/-- wd := f(a, b) with latency `lat` (R108, R109). -/
def State.alu2 (s : State) (d a b : BitVec 5) (lat : Nat) (f : Word → Word → Word) : Out :=
  s.guarded [s.chkW a, s.chkW b] fun s => .next ((s.writeW d lat (f (s.readW a) (s.readW b))).retire)

/-- wd := f(a) with latency 1: the unary and immediate forms (R109, R111). -/
def State.alu1 (s : State) (d a : BitVec 5) (f : Word → Word) : Out :=
  s.guarded [s.chkW a] fun s => .next ((s.writeW d 1 (f (s.readW a))).retire)

/-- Latencies of Table 6.1. -/
def simpleLat : Nat := 1
def mulLat : Nat := 3
def divLat : Nat := 34

/-- Table 7.1. -/
def aluAdd (a b : Word) : Word := a + b
def aluSub (a b : Word) : Word := a - b
def aluAddw (a b : Word) : Word := sext 32 (a.setWidth 32 + b.setWidth 32)
def aluSubw (a b : Word) : Word := sext 32 (a.setWidth 32 - b.setWidth 32)
def aluAnd (a b : Word) : Word := a &&& b
def aluOr (a b : Word) : Word := a ||| b
def aluXor (a b : Word) : Word := a ^^^ b
def aluAndn (a b : Word) : Word := a &&& ~~~b
/-- sh = b[5:0] (R109). -/
def shamt (b : Word) : Nat := b.toNat % 64
def aluSll (a b : Word) : Word := a <<< shamt b
def aluSrl (a b : Word) : Word := a >>> shamt b
def aluSra (a b : Word) : Word := a.sshiftRight (shamt b)
def aluMul (a b : Word) : Word := a * b
def aluMulw (a b : Word) : Word := sext 32 (a.setWidth 32 * b.setWidth 32)
def aluMulh (a b : Word) : Word := BitVec.ofInt 64 ((a.toInt * b.toInt) / 18446744073709551616)
def aluMulhu (a b : Word) : Word := word (a.toNat * b.toNat / 18446744073709551616)
/-- R110: toward zero; −1 for a zero divisor; −2^63 by −1 gives −2^63. -/
def aluDiv (a b : Word) : Word := if b = 0#64 then BitVec.allOnes 64 else BitVec.ofInt 64 (a.toInt.tdiv b.toInt)
def aluDivu (a b : Word) : Word := if b = 0#64 then BitVec.allOnes 64 else word (a.toNat / b.toNat)
/-- R110: the sign of the dividend; the dividend for a zero divisor. -/
def aluRem (a b : Word) : Word := if b = 0#64 then a else BitVec.ofInt 64 (a.toInt.tmod b.toInt)
def aluRemu (a b : Word) : Word := if b = 0#64 then a else word (a.toNat % b.toNat)
def aluMin (a b : Word) : Word := if a.toInt ≤ b.toInt then a else b
def aluMax (a b : Word) : Word := if b.toInt ≤ a.toInt then a else b
def aluMinu (a b : Word) : Word := if a.toNat ≤ b.toNat then a else b
def aluMaxu (a b : Word) : Word := if b.toNat ≤ a.toNat then a else b
def aluSeq (a b : Word) : Word := boolWord (a == b)
def aluSlt (a b : Word) : Word := boolWord (decide (a.toInt < b.toInt))
def aluSltu (a b : Word) : Word := boolWord (decide (a.toNat < b.toNat))

def execAdd (d a b : BitVec 5) (s : State) : Out := s.alu2 d a b simpleLat aluAdd
def execSub (d a b : BitVec 5) (s : State) : Out := s.alu2 d a b simpleLat aluSub
def execAddw (d a b : BitVec 5) (s : State) : Out := s.alu2 d a b simpleLat aluAddw
def execSubw (d a b : BitVec 5) (s : State) : Out := s.alu2 d a b simpleLat aluSubw
def execAnd (d a b : BitVec 5) (s : State) : Out := s.alu2 d a b simpleLat aluAnd
def execOr (d a b : BitVec 5) (s : State) : Out := s.alu2 d a b simpleLat aluOr
def execXor (d a b : BitVec 5) (s : State) : Out := s.alu2 d a b simpleLat aluXor
def execAndn (d a b : BitVec 5) (s : State) : Out := s.alu2 d a b simpleLat aluAndn
def execSll (d a b : BitVec 5) (s : State) : Out := s.alu2 d a b simpleLat aluSll
def execSrl (d a b : BitVec 5) (s : State) : Out := s.alu2 d a b simpleLat aluSrl
def execSra (d a b : BitVec 5) (s : State) : Out := s.alu2 d a b simpleLat aluSra
def execMul (d a b : BitVec 5) (s : State) : Out := s.alu2 d a b mulLat aluMul
def execMulw (d a b : BitVec 5) (s : State) : Out := s.alu2 d a b mulLat aluMulw
def execMulh (d a b : BitVec 5) (s : State) : Out := s.alu2 d a b mulLat aluMulh
def execMulhu (d a b : BitVec 5) (s : State) : Out := s.alu2 d a b mulLat aluMulhu
def execDiv (d a b : BitVec 5) (s : State) : Out := s.alu2 d a b divLat aluDiv
def execDivu (d a b : BitVec 5) (s : State) : Out := s.alu2 d a b divLat aluDivu
def execRem (d a b : BitVec 5) (s : State) : Out := s.alu2 d a b divLat aluRem
def execRemu (d a b : BitVec 5) (s : State) : Out := s.alu2 d a b divLat aluRemu
def execMin (d a b : BitVec 5) (s : State) : Out := s.alu2 d a b simpleLat aluMin
def execMax (d a b : BitVec 5) (s : State) : Out := s.alu2 d a b simpleLat aluMax
def execMinu (d a b : BitVec 5) (s : State) : Out := s.alu2 d a b simpleLat aluMinu
def execMaxu (d a b : BitVec 5) (s : State) : Out := s.alu2 d a b simpleLat aluMaxu
def execSeq (d a b : BitVec 5) (s : State) : Out := s.alu2 d a b simpleLat aluSeq
def execSlt (d a b : BitVec 5) (s : State) : Out := s.alu2 d a b simpleLat aluSlt
def execSltu (d a b : BitVec 5) (s : State) : Out := s.alu2 d a b simpleLat aluSltu
def execClz (d a : BitVec 5) (s : State) : Out := s.alu1 d a (fun a => word (leadingZeros a))
def execCtz (d a : BitVec 5) (s : State) : Out := s.alu1 d a (fun a => word (trailingZeros a))
def execPopc (d a : BitVec 5) (s : State) : Out := s.alu1 d a (fun a => word (popcount a))
def execSextb (d a : BitVec 5) (s : State) : Out := s.alu1 d a (sext 8)
def execSexth (d a : BitVec 5) (s : State) : Out := s.alu1 d a (sext 16)
def execSextw (d a : BitVec 5) (s : State) : Out := s.alu1 d a (sext 32)
def execZextb (d a : BitVec 5) (s : State) : Out := s.alu1 d a (zext 8)
def execZexth (d a : BitVec 5) (s : State) : Out := s.alu1 d a (zext 16)
def execZextw (d a : BitVec 5) (s : State) : Out := s.alu1 d a (zext 32)

/-! Immediates (R111). -/
def execAddi (d a : BitVec 5) (i : BitVec 12) (s : State) : Out := s.alu1 d a (fun a => aluAdd a (sext 12 i))
def execAndi (d a : BitVec 5) (i : BitVec 12) (s : State) : Out := s.alu1 d a (fun a => aluAnd a (sext 12 i))
def execOri (d a : BitVec 5) (i : BitVec 12) (s : State) : Out := s.alu1 d a (fun a => aluOr a (sext 12 i))
def execXori (d a : BitVec 5) (i : BitVec 12) (s : State) : Out := s.alu1 d a (fun a => aluXor a (sext 12 i))
def execSlti (d a : BitVec 5) (i : BitVec 11) (s : State) : Out := s.alu1 d a (fun a => aluSlt a (sext 11 i))
def execSltiu (d a : BitVec 5) (i : BitVec 11) (s : State) : Out := s.alu1 d a (fun a => aluSltu a (sext 11 i))
def execSlli (d a : BitVec 5) (h : BitVec 6) (s : State) : Out := s.alu1 d a (fun a => aluSll a (zext 6 h))
def execSrli (d a : BitVec 5) (h : BitVec 6) (s : State) : Out := s.alu1 d a (fun a => aluSrl a (zext 6 h))
def execSrai (d a : BitVec 5) (h : BitVec 6) (s : State) : Out := s.alu1 d a (fun a => aluSra a (zext 6 h))

/-- R112: wd := Sext(imm17, 17). -/
def execLdi (d : BitVec 5) (i : BitVec 17) (s : State) : Out := .next ((s.writeW d 1 (sext 17 i)).retire)

/-- R112: wd := wd[46:0] shifted left by 17, OR Zext(imm17, 17); reads wd. -/
def execLdih (d : BitVec 5) (i : BitVec 17) (s : State) : Out := s.alu1 d d (fun a => (a <<< 17) ||| zext 17 i)

/-- The width a bit-field control word gives: to bit 63 when the field is 0 or passes the register (R113). -/
def bfWidth (b : Word) : Nat :=
  let p := field b 5 0
  let w := field b 14 8
  if w = 0 ∨ 64 < p + w then 64 - p else w

/-- R113. -/
def bfExtract (a b : Word) : Word := (a >>> (field b 5 0)) &&& word (2 ^ bfWidth b - 1)
def bfExtractSigned (a b : Word) : Word := (bfExtract a b <<< (64 - bfWidth b)).sshiftRight (64 - bfWidth b)
def bfInsert (d a b : Word) : Word :=
  let m := word (2 ^ bfWidth b - 1)
  (d &&& ~~~(m <<< field b 5 0)) ||| ((a &&& m) <<< field b 5 0)

def execBfx (d a b : BitVec 5) (s : State) : Out := s.alu2 d a b simpleLat bfExtractSigned
def execBfxu (d a b : BitVec 5) (s : State) : Out := s.alu2 d a b simpleLat bfExtract

/-- BFI reads wd as well (R113). -/
def execBfi (d a b : BitVec 5) (s : State) : Out :=
  s.guarded [s.chkW a, s.chkW b, s.chkW d] fun s =>
    .next ((s.writeW d 1 (bfInsert (s.readW d) (s.readW a) (s.readW b))).retire)

/-- R114: one of two sources by whether a third is 0. -/
def State.select (s : State) (d a b c : BitVec 5) (f : Word → Bool) : Out :=
  s.guarded [s.chkW a, s.chkW b, s.chkW c] fun s =>
    .next ((s.writeW d 1 (if f (s.readW c) then s.readW a else s.readW b)).retire)

def execCsel (d a b c : BitVec 5) (s : State) : Out := s.select d a b c (fun x => x != 0#64)
def execCseln (d a b c : BitVec 5) (s : State) : Out := s.select d a b c (fun x => x == 0#64)

end Sys2Proof.Machine
end

