-- ==== Sys2Proof/Machine/Float.lean ====
section
/-!
DEFINITION. The number formats of chapter 2: exact values of codes, rounding (R30), the FP32 operations of chapter 8, the D8 code (R32,
R33), E8 scales and block quantisation (R35 to R39), and the conversions of Table 2.5.
-/

namespace Sys2Proof.Machine

/-! ## Exact values -/

/-- A value a code can hold: NaN, an infinity, or (−1)^neg × m × 2^e. -/
inductive FVal where
  | nan
  | inf (neg : Bool)
  | fin (neg : Bool) (m : Nat) (e : Int)
  deriving DecidableEq, Repr, Inhabited

/-- The rounding modes of R30. -/
inductive RMode where
  | rne | rz | ru | rd
  deriving DecidableEq, Repr, Inhabited

/-- Mode codes 0 to 3 (R144, Table 10.4). -/
def RMode.ofCode (n : Nat) : RMode :=
  match n with
  | 0 => .rne
  | 1 => .rz
  | 2 => .ru
  | _ => .rd

/-- An IEEE layout (Table 2.2): exponent bits and fraction bits. -/
structure Layout where
  eb : Nat
  fb : Nat
  deriving DecidableEq, Repr

def fp32 : Layout := ⟨8, 23⟩
def fp16 : Layout := ⟨5, 10⟩
def bf16 : Layout := ⟨8, 7⟩

/-- The exponent bias. -/
def Layout.bias (l : Layout) : Nat := 2 ^ (l.eb - 1) - 1
/-- Exponent of the last place of a subnormal. -/
def Layout.emin (l : Layout) : Int := 1 - (l.bias : Int) - (l.fb : Int)
/-- The code of +∞. -/
def Layout.infCode (l : Layout) : Nat := (2 ^ l.eb - 1) * 2 ^ l.fb
/-- The sign bit. -/
def Layout.sign (l : Layout) (neg : Bool) : Nat := if neg then 2 ^ (l.eb + l.fb) else 0
/-- The canonical NaN (Table 2.2). -/
def Layout.nanCode (l : Layout) : Nat := l.infCode + 2 ^ (l.fb - 1)

/-- The value of a code (R28). -/
def Layout.decode (l : Layout) (c : Nat) : FVal :=
  let f := c % 2 ^ l.fb
  let x := c / 2 ^ l.fb % 2 ^ l.eb
  let neg := (c / 2 ^ (l.eb + l.fb)) % 2 == 1
  if x = 2 ^ l.eb - 1 then (if f = 0 then .inf neg else .nan)
  else if x = 0 then .fin neg f l.emin
  else .fin neg (2 ^ l.fb + f) (l.emin + (x : Int) - 1)

/-- Whether a truncated magnitude is raised by one place: `odd` its last bit, `r` the remainder against half a place (0 below, 1 at,
2 above half), `inexact` any remainder (R30). -/
def RMode.up (md : RMode) (neg odd : Bool) (r : Ordering) (inexact : Bool) : Bool :=
  match md with
  | .rne => match r with
    | .lt => false
    | .eq => odd
    | .gt => true
  | .rz => false
  | .ru => inexact && !neg
  | .rd => inexact && neg

/-- m × 2^e rounded to an integer multiple of 2^t: the multiple. -/
def roundAt (md : RMode) (neg : Bool) (m : Nat) (e t : Int) : Nat :=
  if t ≤ e then m <<< (e - t).toNat
  else
    let k := (t - e).toNat
    let q := m >>> k
    let r := m % 2 ^ k
    if md.up neg (q % 2 == 1) (compare r (2 ^ (k - 1))) (r != 0) then q + 1 else q

/-- The code of a finite magnitude (R30): subnormals kept (R29), overflow as the mode gives. -/
def Layout.roundMag (l : Layout) (md : RMode) (neg : Bool) (m : Nat) (e : Int) : Nat :=
  if m = 0 then 0
  else
    let top := e + (Nat.log2 m : Int)
    let t := max (top - (l.fb : Int)) l.emin
    let c := (t - l.emin).toNat * 2 ^ l.fb + roundAt md neg m e t
    if c < l.infCode then c
    else
      match md with
      | .rne => l.infCode
      | .rz => l.infCode - 1
      | .ru => if neg then l.infCode - 1 else l.infCode
      | .rd => if neg then l.infCode else l.infCode - 1

/-- The code of a value rounded to the layout (R30, R31). -/
def Layout.round (l : Layout) (md : RMode) (v : FVal) : Nat :=
  match v with
  | .nan => l.nanCode
  | .inf neg => l.sign neg + l.infCode
  | .fin neg m e => l.sign neg + l.roundMag md neg m e

/-- The value of an FP32 lane. -/
def fval (x : Lane) : FVal := fp32.decode x.toNat
/-- RoundF32(v, RNE). -/
def f32 (v : FVal) : Lane := BitVec.ofNat 32 (fp32.round .rne v)
/-- RoundF32(v, md). -/
def f32m (md : RMode) (v : FVal) : Lane := BitVec.ofNat 32 (fp32.round md v)

/-- The signed significand at exponent `t` (t at most e). -/
def scaled (neg : Bool) (m : Nat) (e t : Int) : Int :=
  let k : Int := ((m <<< (e - t).toNat : Nat) : Int)
  if neg then -k else k

/-- A finite value from a signed significand; `zneg` is the sign of zero. -/
def FVal.ofInt (k : Int) (e : Int) (zneg : Bool) : FVal :=
  if k = 0 then .fin zneg 0 e else .fin (decide (k < 0)) k.natAbs e

/-- The exact sum; a zero of operands of different sign is +0 (RNE). -/
def FVal.add (x y : FVal) : FVal :=
  match x, y with
  | .nan, _ => .nan
  | _, .nan => .nan
  | .inf a, .inf b => if a = b then .inf a else .nan
  | .inf a, .fin _ _ _ => .inf a
  | .fin _ _ _, .inf b => .inf b
  | .fin a m e, .fin b n f =>
    if m = 0 then (if n = 0 then .fin (a && b) 0 0 else .fin b n f)
    else if n = 0 then .fin a m e
    else let t := min e f; FVal.ofInt (scaled a m e t + scaled b n f t) t false

/-- The value with its sign inverted. -/
def FVal.neg : FVal → FVal
  | .nan => .nan
  | .inf a => .inf (!a)
  | .fin a m e => .fin (!a) m e

/-- The magnitude. -/
def FVal.abs : FVal → FVal
  | .nan => .nan
  | .inf _ => .inf false
  | .fin _ m e => .fin false m e

def FVal.sub (x y : FVal) : FVal := x.add y.neg

/-- The exact product. -/
def FVal.mul (x y : FVal) : FVal :=
  match x, y with
  | .nan, _ => .nan
  | _, .nan => .nan
  | .inf a, .inf b => .inf (a != b)
  | .inf a, .fin b n _ => if n = 0 then .nan else .inf (a != b)
  | .fin a m _, .inf b => if m = 0 then .nan else .inf (a != b)
  | .fin a m e, .fin b n f => .fin (a != b) (m * n) (e + f)

/-- x × y + z, exact. -/
def FVal.fma (x y z : FVal) : FVal := (x.mul y).add z

/-- A quotient digit string with one sticky bit below it: rounding it equals rounding the exact value. -/
def sticky (q : Nat) (inexact : Bool) : Nat := 2 * q + (if inexact then 1 else 0)

/-- x / y to more places than any format keeps (R138). -/
def FVal.div (x y : FVal) : FVal :=
  match x, y with
  | .nan, _ => .nan
  | _, .nan => .nan
  | .inf _, .inf _ => .nan
  | .inf a, .fin b _ _ => .inf (a != b)
  | .fin a _ _, .inf b => .fin (a != b) 0 0
  | .fin a m e, .fin b n f =>
    if n = 0 then (if m = 0 then .nan else .inf (a != b))
    else
      let p := m <<< 64
      .fin (a != b) (sticky (p / n) (p % n != 0)) (e - f - 65)

/-- floor(√n) for n below 2^(2·bits): one bit at a time, high to low. -/
def isqrtBits : Nat → Nat → Nat → Nat
  | 0, _, r => r
  | k + 1, n, r =>
    let c := r + 2 ^ k
    isqrtBits k n (if c * c ≤ n then c else r)

/-- √x (R138). -/
def FVal.sqrt (x : FVal) : FVal :=
  match x with
  | .nan => .nan
  | .inf a => if a then .nan else .inf false
  | .fin a m e =>
    if m = 0 then .fin a 0 0
    else if a then .nan
    else
      let m1 := if e % 2 = 0 then m <<< 60 else m <<< 61
      let e1 := if e % 2 = 0 then e - 60 else e - 61
      let r := isqrtBits 64 m1 0
      .fin false (sticky r (r * r != m1)) (e1 / 2 - 1)

/-- 1 / √x (R138): √(2^120 / m) × 2^(−60 − e/2). -/
def FVal.rsqrt (x : FVal) : FVal :=
  match x with
  | .nan => .nan
  | .inf a => if a then .nan else .fin false 0 0
  | .fin a m e =>
    if m = 0 then .inf a
    else if a then .nan
    else
      let m1 := if e % 2 = 0 then m else 2 * m
      let e1 := if e % 2 = 0 then e else e - 1
      let r := isqrtBits 61 (2 ^ 120 / m1) 0
      .fin false (sticky r (r * r * m1 != 2 ^ 120)) (-60 - e1 / 2 - 1)

/-- Places kept by the series below: far more than the distance of any FP32 result from a rounding boundary (DEDUCED, log entry 13). -/
def seriesBits : Nat := 160

/-- 2^(f) × 2^160 for the fraction whose bits, from 1/2 down, are given by `f` of `n` bits; `c` is 2^(2^−i) × 2^160. -/
def exp2Bits : Nat → Nat → Nat → Nat → Nat
  | 0, _, _, acc => acc
  | n + 1, f, c, acc =>
    let r := isqrtBits 162 (c <<< seriesBits) 0
    exp2Bits n f r (if f.testBit n then (acc * r) >>> seriesBits else acc)

/-- 2^x (R138, Table 8.2). -/
def FVal.exp2 (x : FVal) : FVal :=
  match x with
  | .nan => .nan
  | .inf a => if a then .fin false 0 0 else .inf false
  | .fin a m e =>
    let one : FVal := .fin false 1 0
    if m = 0 then one
    else
      let top := e + (Nat.log2 m : Int)
      if top < -26 then one
      else if 8 ≤ top then (if a then .fin false 0 0 else .inf false)
      else if 0 ≤ e then .fin false 1 (scaled a m e 0)
      else
        let k := (-e).toNat
        let v : Int := scaled a m e e
        let n : Int := v / (2 ^ k : Nat)
        let f := (v % (2 ^ k : Nat)).toNat
        if f = 0 then .fin false 1 n
        else .fin false (sticky (exp2Bits k f (2 * 2 ^ seriesBits) (2 ^ seriesBits)) true) (n - (seriesBits : Int) - 1)

/-- The next `n` bits of log2(y / 2^320) for y from 2^320 up to 2^321, by repeated squaring (DEDUCED, log entry 13). -/
def log2Bits : Nat → Nat → Nat → Nat
  | 0, _, acc => acc
  | n + 1, y, acc =>
    let z := (y * y) >>> 320
    if 2 ^ 321 ≤ z then log2Bits n (z >>> 1) (2 * acc + 1) else log2Bits n z (2 * acc)

/-- log2 x (R138, Table 8.2). -/
def FVal.log2 (x : FVal) : FVal :=
  match x with
  | .nan => .nan
  | .inf a => if a then .nan else .inf false
  | .fin a m e =>
    if m = 0 then .inf true
    else if a then .nan
    else
      let k := Nat.log2 m
      let n : Int := e + (k : Int)
      if m = 2 ^ k then FVal.ofInt n 0 false
      else
        let b := log2Bits 120 (m <<< (320 - k)) 0
        let v : Int := n * (2 ^ 120 : Nat) + (b : Int)
        if 0 ≤ v then .fin false (2 * v.natAbs + 1) (-121) else .fin true (2 * v.natAbs - 1) (-121)

/-- Comparison of two values that are not NaN; −0 equals +0. -/
def FVal.cmp (x y : FVal) : Ordering :=
  match x, y with
  | .inf a, .inf b => if a = b then .eq else if a then .lt else .gt
  | .inf a, _ => if a then .lt else .gt
  | _, .inf b => if b then .gt else .lt
  | .fin a m e, .fin b n f =>
    let t := min e f
    compare (if m = 0 then 0 else scaled a m e t) (if n = 0 then 0 else scaled b n f t)
  | _, _ => .eq

/-- An operand is NaN. -/
def FVal.isNan : FVal → Bool
  | .nan => true
  | _ => false

/-- NaN or an infinity. -/
def FVal.special : FVal → Bool
  | .fin _ _ _ => false
  | _ => true

/-- minimumNumber and maximumNumber (R137) on FP32 lanes. −0 orders below +0. -/
def minF (a b : Lane) : Lane :=
  match fval a, fval b with
  | .nan, .nan => 0x7FC00000#32
  | .nan, _ => b
  | _, .nan => a
  | x, y => match x.cmp y with
    | .lt => a
    | .gt => b
    | .eq => if a.getLsbD 31 then a else b
def maxF (a b : Lane) : Lane :=
  match fval a, fval b with
  | .nan, .nan => 0x7FC00000#32
  | .nan, _ => b
  | _, .nan => a
  | x, y => match x.cmp y with
    | .gt => a
    | .lt => b
    | .eq => if a.getLsbD 31 then b else a

/-! ## Integers -/

/-- A value rounded to an integer and saturated; NaN gives 0 (Table 2.5). -/
def FVal.toIntSat (md : RMode) (lo hi : Int) (v : FVal) : Int :=
  match v with
  | .nan => 0
  | .inf neg => if neg then lo else hi
  | .fin neg m e =>
    let k : Int := (roundAt md neg m e 0 : Nat)
    max lo (min hi (if neg then -k else k))

/-- The exact value of an integer. -/
def FVal.ofInteger (k : Int) : FVal := .fin (decide (k < 0)) k.natAbs 0

/-! ## D8 and E8 -/

/-- B[z] of R32. -/
def d8Base (z : Nat) : Int :=
  match z with
  | 0 => -2
  | 1 => 2
  | 2 => -6
  | 3 => 6
  | 4 => -10
  | 5 => 10
  | _ => -11

/-- FromD8 of a code other than 0x80 (R32). -/
def fromD8 (c : Byte) : FVal :=
  let m := c.toNat % 128
  if m = 0 then .fin false 0 0
  else
    let p := Nat.log2 m
    let we := min 2 p
    let wf := p - we
    let off := m / 2 ^ wf % 2 ^ we
    let f := m % 2 ^ wf
    .fin (c.getLsbD 7) (2 ^ wf + f) (d8Base (6 - p) + (off : Int) - (wf : Int))

/-- Magnitude of a positive D8 code in units of 2^−11 (every one is an integer multiple). -/
def d8Units (c : Nat) : Nat :=
  match fromD8 (BitVec.ofNat 8 c) with
  | .fin _ m e => m <<< (e + 11).toNat
  | _ => 0

/-- The magnitude code nearest to x / s units; ties go to the code with bit 0 equal to 0 (R33). -/
def d8Nearest (x s : Nat) : Nat :=
  ((List.range 128).foldl (fun (best : Nat × Nat) c =>
    let v := d8Units c * s
    let dist := if x ≤ v then v - x else x - v
    if dist < best.2 ∨ (dist = best.2 ∧ c % 2 = 0) then (c, dist) else best) (0, x)).1

/-- ToD8 of a finite value (R33). -/
def toD8 (neg : Bool) (m : Nat) (e : Int) : Byte :=
  let u := e + 11
  let x := m <<< u.toNat
  let s := 2 ^ (-u).toNat
  let c := if d8Units 3 * s < x then 3 else d8Nearest x s
  if c = 0 then 0#8 else BitVec.ofNat 8 (c + (if neg then 128 else 0))

/-- The value of a D8B element, or what traps: `true` for the scale code, `false` for the element code (R37). -/
def fromD8B (c k : Byte) : Except Bool FVal :=
  if k = 0#8 then .ok (.fin false 0 0)
  else if k = 255#8 then .error true
  else if c = 0x80#8 then .error false
  else match fromD8 c with
    | .fin a m e => .ok (.fin a m (e + (k.toNat : Int) - 127))
    | v => .ok v

/-- The smallest integer e with 2^e ≥ the magnitude m × 2^x, m not 0. -/
def ceilLog2 (m : Nat) (x : Int) : Int :=
  let l := Nat.log2 m
  x + (l : Int) + (if m = 2 ^ l then 0 else 1)

/-- Quantise (R39): the codes and the scale, or the index of the first NaN or ∞. -/
def quantise (x : List FVal) : Except Nat (List Byte × Byte) :=
  match firstIdx FVal.special x 0 with
  | some (i, _) => .error i
  | none =>
    let es := x.filterMap (fun v => match v with
      | .fin _ m e => if m = 0 then none else some (ceilLog2 m e)
      | _ => none)
    match es with
    | [] => .ok (x.map (fun _ => 0#8), 0#8)
    | e0 :: r =>
      let e := r.foldl max e0
      let sc : Int := min (max (e - 11 + 127) 1) 254
      .ok (x.map (fun v => match v with
        | .fin a m f => toD8 a m (f - (sc - 127))
        | _ => 0#8), BitVec.ofNat 8 sc.toNat)

/-! ## Element formats (Table 2.1) -/

/-- Bits of an element of a format code. -/
def fmtBits (f : Nat) : Nat :=
  match f with
  | 2 => 16
  | 3 => 32
  | 4 => 64
  | 5 => 4
  | 6 => 32
  | 7 => 16
  | 8 => 16
  | _ => 8

/-- An integer format. -/
def fmtIsInt (f : Nat) : Bool := decide (f ≤ 5)

/-- The least and greatest value of an integer format (R26, R27). -/
def fmtRange (f : Nat) : Int × Int :=
  if f = 1 then (0, 255) else (-((2 ^ (fmtBits f - 1) : Nat) : Int), ((2 ^ (fmtBits f - 1) : Nat) : Int) - 1)

/-- The value of an element code of a numeric format other than D8B; `none` for D8's reserved code (R26 to R28, R32). -/
def decodeElem (f : Nat) (c : Nat) : Option FVal :=
  if fmtIsInt f then
    let n := fmtBits f
    let k : Int := if f ≠ 1 ∧ 2 ^ (n - 1) ≤ c then (c : Int) - ((2 ^ n : Nat) : Int) else (c : Int)
    some (.ofInteger k)
  else if f = 6 then some (fp32.decode c)
  else if f = 7 then some (fp16.decode c)
  else if f = 8 then some (bf16.decode c)
  else if c = 0x80 then none else some (fromD8 (BitVec.ofNat 8 c))

/-- A value's code in a format other than D8B and E8 (Table 2.5); `none` where NaN or ∞ goes to D8 (R34). -/
def encodeElem (f : Nat) (md : RMode) (v : FVal) : Option Nat :=
  if fmtIsInt f then
    let k := v.toIntSat md (fmtRange f).1 (fmtRange f).2
    some (if k < 0 then (k + ((2 ^ fmtBits f : Nat) : Int)).toNat else k.toNat)
  else if f = 6 then some (fp32.round md v)
  else if f = 7 then some (fp16.round md v)
  else if f = 8 then some (bf16.round md v)
  else match v with
    | .fin a m e => some (toD8 a m e).toNat
    | _ => none

end Sys2Proof.Machine
end

