-- ==== Sys2Proof/Machine/Convert.lean ====
section
/-!
DEFINITION. Elements of a bank: reading the exact values of a run of elements, and the bytes that a run of values writes, in any format
of Table 2.1 (R24 to R27, R36, R39, R40). Shared by COPYB, FILLB, MSTA, converting transfers and SC.MOVEQ.
-/

namespace Sys2Proof.Machine

/-- Fields of a bank format register (Table 10.2). -/
def bfFmt (w : Word) : Nat := field w 3 0
def bfAxis (w : Word) : Bool := bit w 4
def bfRaw (w : Word) : Bool := bit w 7
def bfBank (w : Word) : Nat := field w 16 8
/-- The bank holds D8B elements, or E8 scales. -/
def bfD8b (w : Word) : Bool := !bfRaw w && bfFmt w == 10
def bfE8 (w : Word) : Bool := !bfRaw w && bfFmt w == 11

/-- Half-bytes of an element (R24, R187). -/
def elemNibbles (f : Nat) : Nat := fmtBits f / 4

/-- `n` bytes from `a` up, as `rd` gives them, as a number. -/
def readNum (rd : Nat → Byte) (a n : Nat) : Nat := natOfBytes ((List.range n).map (fun i => rd (a + i)))

/-- Code of element `i` of bank `b`, the tile's bytes being given by `rd` (R27). -/
def elemCode (rd : Nat → Byte) (b f i : Nat) : Nat :=
  if f = 5 then
    let x := (rd (1024 * b + i / 2)).toNat
    if i % 2 = 0 then x % 16 else x / 16
  else readNum rd (1024 * b + i * (fmtBits f / 8)) (fmtBits f / 8)

/-- Tile address of element `i` of bank `b`. -/
def elemAddr (b f i : Nat) : Nat := 1024 * b + i * elemNibbles f / 2

/-- Block of the D8B element at offset `o`, and the offsets of a block in order (R36). -/
def blockOf (col : Bool) (o : Nat) : Nat := if col then o % 32 else o / 32
def blockOffsets (col : Bool) (j : Nat) : List Nat := (List.range 32).map (fun i => if col then j + 32 * i else 32 * j + i)

/-- Tile address of the scale byte of block `j` of bank `b` (R36). -/
def scaleAddr (b sb j : Nat) : Nat := 1024 * sb + 32 * (b % 32) + j

/-- What raises FMTRES (R41, R42): where a substitute goes, what it replaces, the offending code or FP32 bits and its place. -/
structure FmtErr where
  place : Nat
  scale : Bool
  value : Bool
  code : Word
  loc : Nat
  deriving DecidableEq, Repr

/-- FP32 bits of a source value (R42): those of an FP32 source as they stand, else the value's. -/
def valueBits (f code : Nat) (v : FVal) : Word := if f = 6 then word code else (f32 v).setWidth 64

/-- Exact value of element `i` of a bank under format register `w`, with the substitutes of R42. -/
def elemValue (rd : Nat → Byte) (b : Nat) (w : Word) (sub : List Subst) (i : Nat) : Except FmtErr FVal :=
  let f := bfFmt w
  let c := elemCode rd b f i
  let here := elemAddr b f i
  if f = 10 then
    let j := blockOf (bfAxis w) i
    let sa := scaleAddr b (bfBank w) j
    let kc := match substAt sub (1000000 + j) with
      | some v => v.setWidth 8
      | none => rd sa
    let c := match substAt sub i with
      | some v => v.setWidth 8
      | none => BitVec.ofNat 8 c
    match fromD8B c kc with
    | .ok v => .ok v
    | .error true => .error ⟨1000000 + j, true, false, 0xFF#64, sa⟩
    | .error false => .error ⟨i, false, false, 0x80#64, here⟩
  else
    match substAt sub i with
    | some v => .ok (if f = 9 then fromD8 (v.setWidth 8) else fval (v.setWidth 32))
    | none =>
      match decodeElem f c with
      | some v => .ok v
      | none => .error ⟨i, false, false, 0x80#64, here⟩

/-- The values of a list of elements, or the first that raises FMTRES. -/
def allOk {ε α : Type} : List (Except ε α) → Except ε (List α)
  | [] => .ok []
  | .error e :: _ => .error e
  | .ok a :: r =>
    match allOk r with
    | .ok l => .ok (a :: l)
    | .error e => .error e

/-- The values of elements `first` to `first + n − 1`. -/
def runValues (rd : Nat → Byte) (b : Nat) (w : Word) (sub : List Subst) (first n : Nat) : Except FmtErr (List FVal) :=
  allOk ((List.range n).map (fun i => elemValue rd b w sub (first + i)))

/-- The bytes that hold codes at elements `first` up: whole elements, or half-bytes beside the old ones (R27). -/
def codeBytes (rd : Nat → Byte) (b f first : Nat) (codes : List Nat) : List (Nat × Byte) :=
  if f = 5 then
    let n := codes.length
    if n = 0 then []
    else
      let lo := first / 2
      (List.range ((first + n - 1) / 2 + 1 - lo)).map (fun j =>
        let a := lo + j
        let old := (rd (1024 * b + a)).toNat
        let nib (i dflt : Nat) : Nat := if first ≤ i ∧ i < first + n then codes.getD (i - first) 0 else dflt
        (1024 * b + a, BitVec.ofNat 8 (nib (2 * a) (old % 16) + 16 * nib (2 * a + 1) (old / 16))))
  else
    let z := fmtBits f / 8
    (List.range codes.length).zipWith (fun i c => (List.range z).zipWith (fun j x => (1024 * b + (first + i) * z + j, x)) (bytesOfNat z c)) codes
      |>.flatten

/-- The bytes of the D8B blocks that a run of values touches, written whole with 0 for the other elements, and their scales (R189). -/
def quantBytes (b : Nat) (w : Word) (first : Nat) (xs : List FVal) : List (Nat × Byte) :=
  let col := bfAxis w
  let blocks := dedup ((List.range xs.length).map (fun i => blockOf col (first + i)))
  blocks.flatMap (fun j =>
    let offs := blockOffsets col j
    let vals := offs.map (fun o => if first ≤ o ∧ o < first + xs.length then xs.getD (o - first) (.fin false 0 0) else .fin false 0 0)
    match quantise vals with
    | .ok (cs, k) => offs.zipWith (fun o c => (1024 * b + o, c)) cs ++ [(scaleAddr b (bfBank w) j, k)]
    | .error _ => [])

/-- The bytes that values take at elements `first` up under format register `w` (Table 2.5), or the index of the first value that
raises FMTRES (after every code that decodes to nothing: DESIGN CHOICE, log entry 21). -/
def encodeRun (rd : Nat → Byte) (b : Nat) (w : Word) (first : Nat) (md : RMode) (xs : List FVal) : Except Nat (List (Nat × Byte)) :=
  let f := bfFmt w
  if f = 9 ∨ f = 10 then
    match firstIdx FVal.special xs 0 with
    | some (i, _) => .error i
    | none =>
      if f = 10 then .ok (quantBytes b w first xs)
      else .ok (codeBytes rd b f first (xs.map (fun v => (encodeElem f md v).getD 0)))
  else .ok (codeBytes rd b f first (xs.map (fun v => (encodeElem f md v).getD 0)))

/-! ## Level side (R195, R196): elements of a format one after another -/

/-- The codes of a byte list. -/
def levelCodes (f : Nat) : List Byte → Nat → List Nat
  | _, 0 => []
  | bs, n + 1 => natOfBytes (bs.take (fmtBits f / 8)) :: levelCodes f (bs.drop (fmtBits f / 8)) n

/-- The values of level-side elements from index `i` up, or the first that raises FMTRES; `loc` is the source address and `step` what it
rises by for each element: its bytes, or 1 for the coordinate of an S address (R42). -/
def levelValues (f : Nat) (sub : List Subst) (loc step : Nat) : List Nat → Nat → Except FmtErr (List FVal)
  | [], _ => .ok []
  | c :: r, i =>
    let here := match substAt sub i with
      | some v => some (if f = 9 then fromD8 (v.setWidth 8) else fval (v.setWidth 32))
      | none => decodeElem f c
    match here with
    | none => .error ⟨i, false, false, word c, loc + i * step⟩
    | some v =>
      match levelValues f sub loc step r (i + 1) with
      | .ok l => .ok (v :: l)
      | .error e => .error e

/-- The level-side bytes of a list of values, or the index of the first that raises FMTRES (R34). -/
def levelBytes (f : Nat) (md : RMode) (xs : List FVal) : Except Nat (List Byte) :=
  if f = 9 then
    match firstIdx FVal.special xs 0 with
    | some (i, _) => .error i
    | none => .ok (xs.map (fun v => BitVec.ofNat 8 ((encodeElem f md v).getD 0)))
  else .ok (xs.flatMap (fun v => bytesOfNat (fmtBits f / 8) ((encodeElem f md v).getD 0)))

/-- The bytes of tile SRAM of tile `k`. -/
def State.tileRd (s : State) (k : Nat) : Nat → Byte := fun a => s.byte (.tile k) a

/-- The lines of a list of written bytes that have no logged flag (R181). -/
def State.freshIn (s : State) (k : Nat) (bs : List (Nat × Byte)) : List Nat := s.newTileLines k (bs.map (fun b => (b.1, 1)))
def State.freshOf (s : State) (k : Nat) (bs : List (Nat × Byte)) : Nat := (s.freshIn k bs).length

/-- A delivery through the exchange port (R181, R227): the bytes of every line that is logged already or for which the exchange share has
room land now, the others as its lines drain. `plain` marks the filler's, which log nothing. The state, what is still to land, and the
lines logged. -/
def State.landExchange (s : State) (k : Nat) (plain : Bool) (bs : List (Nat × Byte)) : State × List (Nat × Byte) × Nat :=
  if plain then (s.pokeAt (.tile k) bs, [], 0)
  else
    let fresh := s.freshIn k bs
    let room := if s.regionFull then 0 else exchShare - (s.tile k).undoExch
    let shut := fresh.drop room
    let waits (b : Nat × Byte) : Bool := shut.contains ((Space.tile k).key b.1 / 64)
    (s.storeTileAt k 1 (bs.filter (fun b => !waits b)), bs.filter waits, min room fresh.length)

end Sys2Proof.Machine
end

