-- ==== Sys2Proof/Machine/Level.lean ====
section
/-!
DEFINITION. The level memories behind the tiles: package management registers and context tables, translation of M space (R197 to R200),
the tensor directory (R201, R202), and writes to level memory with their logging (R209, R314 to R318) and copy-on-write (R310).
-/

namespace Sys2Proof.Machine

/-! ## Physical memory and the context table -/

/-- A management register of a package (Table 18.4). -/
def State.mg (s : State) (p off : Nat) : Word := (s.pkg p).mg.get off

/-- A package has failed its boot: the module does not start (R337). -/
def State.bootFailed (s : State) : Bool := s.pkgs.any (fun e => (e.2.mg.get 8).toNat % 4 == 2)

/-- A byte of package HBM lies in a window of the port's four HDM decoders, each of whole 256 MiB: a host-owned page (R335). -/
def State.hostOwned (s : State) (p a : Nat) : Bool :=
  ((s.pkg p).hdm.take 4).any (fun w => decide (w.1 % 268435456 = 0 ∧ w.2 % 268435456 = 0 ∧ w.1 ≤ a ∧ a < w.1 + w.2))

/-- Key of a physical address: package in [41:39], byte in [38:0] (R197). -/
def physKey (pa : Nat) : Nat := (Space.hbm (pa / 549755813888 % 8)).key (pa % 549755813888)

/-- `n` bytes at a physical address, as a number. -/
def State.physNum (s : State) (pa n : Nat) : Nat := natOfBytes ((List.range n).map (fun i => Memory.get s.mem (physKey (pa + i))))

/-- Bytes at physical addresses, written outside recovery (system software, the registrar). -/
def State.physPut (s : State) (pa : Nat) (bs : List Byte) : State :=
  { s with mem := (spreadFrom (pa) bs).foldl (fun m b => Memory.put m (physKey b.1) b.2) s.mem }
where
  /-- Consecutive addresses beside the bytes. -/
  spreadFrom : Nat → List Byte → List (Nat × Byte)
    | _, [] => []
    | a, b :: r => (a, b) :: spreadFrom (a + 1) r

/-- Physical address of entry `c` of a package's context table (R56, Table 4.1). -/
def State.ctxEntry (s : State) (p c : Nat) : Nat := (s.mg p 0x10).toNat + 64 * c

/-- Translation root of a context (Table 4.1). -/
def State.ctxRoot (s : State) (p c : Nat) : Nat := s.physNum (s.ctxEntry p c + 8) 8

/-! ## Page tables (R197, R198) -/

/-- Bits of the offset within a page of a size code (Table 11.4). -/
def pageLog (code : Nat) : Nat :=
  match code with
  | 0 => 12
  | 1 => 14
  | 2 => 16
  | 3 => 18
  | 4 => 20
  | 5 => 21
  | 6 => 22
  | 7 => 24
  | 8 => 26
  | 9 => 28
  | 10 => 30
  | _ => 32

/-- The level at which a leaf of a size code stands (R198). -/
def leafLevel (code : Nat) : Nat := if code ≤ 4 then 3 else if code ≤ 9 then 2 else 1

/-- Fields of a page-table entry. -/
def pteV (e : Word) : Bool := bit e 0
def pteLeaf (e : Word) : Bool := bit e 1
def pteR (e : Word) : Bool := bit e 2
def pteW (e : Word) : Bool := bit e 3
def pteInv (e : Word) : Bool := bit e 4
def pteCb (e : Word) : Bool := bit e 5
def pteUnl (e : Word) : Bool := bit e 7
def pteCow (e : Word) : Bool := bit e 8
def pteSize (e : Word) : Nat := field e 63 60
def ptePa (e : Word) : Nat := field e 47 12 * 4096

/-- An entry with a reserved field set, or a page not aligned to its size (R197, R198). -/
def pteBad (e : Word) : Bool :=
  decide (field e 59 48 ≠ 0 ∨ field e 11 9 ≠ 0 ∨ field e 47 42 ≠ 0) ||
  (if pteLeaf e then decide (12 ≤ pteSize e ∨ ptePa e % 2 ^ pageLog (pteSize e) ≠ 0)
   else decide (field e 63 60 ≠ 0 ∨ field e 8 2 ≠ 0))

/-- The walk over the remaining levels: the leaf found, or none, and the entries read. -/
def State.walk (s : State) (va : Nat) : List Nat → Nat → Nat → Option Word × Nat
  | [], _, n => (none, n)
  | lvl :: rest, table, n =>
    let e := word (s.physNum (table + 8 * (va / 2 ^ (39 - 9 * lvl) % 512)) 8)
    if !pteV e || pteBad e then (none, n + 1)
    else if pteLeaf e then (if leafLevel (pteSize e) = lvl then some e else none, n + 1)
    else s.walk va rest (ptePa e) (n + 1)

/-- A table at the first of the remaining levels maps a physical address by a page whose unl is as given (R198, R324). -/
def State.maps (s : State) (unl : Bool) (pa : Nat) : List Nat → Nat → Bool
  | [], _ => false
  | lvl :: rest, table => (List.range 512).any (fun i =>
    let e := word (s.physNum (table + 8 * i) 8)
    pteV e && !pteBad e &&
      (if pteLeaf e then pteUnl e == unl && decide (leafLevel (pteSize e) = lvl ∧ ptePa e ≤ pa ∧ pa < ptePa e + 2 ^ pageLog (pteSize e))
       else s.maps unl pa rest (ptePa e)))

/-- The walk of a context's tables, with its zero-load count: 200 cy for each entry read (R199). -/
def State.walkCtx (s : State) (p ctx va : Nat) : Option Word × Nat :=
  match s.walk va [0, 1, 2, 3] (s.ctxRoot p ctx) 0 with
  | (e, n) => (e, 200 * n)

/-! ## Translation caches (R199) -/

/-- A translation cache: a group's, or the one of a package's stream engines. -/
inductive Cache where
  | group (g : Nat)
  | pkg (p : Nat)
  deriving DecidableEq, Repr

def State.cache (s : State) : Cache → List Tlb
  | .group g => (s.group g).tlb
  | .pkg p => (s.pkg p).tlb

def State.setCache (s : State) (c : Cache) (l : List Tlb) : State :=
  match c with
  | .group g => s.updGroup g (fun x => { x with tlb := l })
  | .pkg p => s.updPkg p (fun x => { x with tlb := l })

/-- The package whose context table a cache's walks use. -/
def Cache.home : Cache → Nat
  | .group g => g / 2048
  | .pkg p => p

/-- An entry answers an address of a context. -/
def Tlb.hits (e : Tlb) (ctx va : Nat) : Bool := e.ctx == ctx && e.page == va / 2 ^ e.size

/-- One page: the entry used, the state with the cache updated (most recently used first, 128 entries), and the walk's count. -/
def State.translate (s : State) (c : Cache) (ctx va : Nat) : State × Option Word × Nat :=
  let l := s.cache c
  match l.find? (fun e => e.hits ctx va) with
  | some e => (s.setCache c (e :: l.filter (fun x => !x.hits ctx va)), some e.entry, 0)
  | none =>
    match s.walkCtx c.home ctx va with
    | (none, n) => (s, none, n)
    | (some w, n) =>
      let z := pageLog (pteSize w)
      (s.setCache c (({ ctx := ctx, page := va / 2 ^ z, size := z, entry := w } :: l).take 128), some w, n)

/-- The key of an address through an entry, seen from package `p`: a copybook page is the replica there (R213). -/
def pteKey (w : Word) (p va : Nat) : Nat :=
  let off := ptePa w + va % 2 ^ pageLog (pteSize w)
  if pteCb w then (Space.hbm p).key (off % 549755813888) else physKey off

/-- A run of `n` bytes translated page by page: the state, the largest walk count (walks run at once), and the pieces or the reason of
Table 16.4 with the faulting address. `refuse` gives the reason for which a page is refused. -/
def State.mapRun (s : State) (c : Cache) (ctx : Nat) (refuse : Word → Option Nat) : Nat → Nat → Nat → State × Nat × Except (Nat × Nat) (List Seg)
  | 0, _, _ => (s, 0, .ok [])
  | fuel + 1, va, n =>
    if n = 0 then (s, 0, .ok [])
    else match s.translate c ctx va with
      | (s1, none, cost) => (s1, cost, .error (1, va))
      | (s1, some w, cost) =>
        match refuse w with
        | some r => (s1, cost, .error (r, va))
        | none =>
          let z := 2 ^ pageLog (pteSize w)
          let len := min n (z - va % z)
          match s1.mapRun c ctx refuse fuel (va + len) (n - len) with
          | (s2, cost2, .error e) => (s2, max cost cost2, .error e)
          | (s2, cost2, .ok l) => (s2, max cost cost2, .ok ({ key := pteKey w c.home va, len := len, entry := w } :: l))

/-- Why a page refuses a read or a write (R200, Table 16.4). -/
def refuseRead (w : Word) : Option Nat := if pteR w then none else some 2
def refuseWrite (w : Word) : Option Nat := if !pteW w then some 3 else if pteCow w then some 4 else none
def refuseAtomic (w : Word) : Option Nat := if pteCb w then some 5 else if pteR w then refuseWrite w else some 2

/-- Memory key of a context virtual address for a package's registrar, through the tables and no cache; none where the walk fails or the
page refuses the access (R200). -/
def State.ctxKeyBy (s : State) (refuse : Word → Option Nat) (p ctx va : Nat) : Option Nat :=
  match (s.walkCtx p ctx va).1 with
  | some w => if (refuse w).isNone then some (pteKey w p va) else none
  | none => none
def State.ctxKey (s : State) (p ctx va : Nat) : Option Nat := s.ctxKeyBy refuseRead p ctx va

/-! ## The tensor directory (R201, R202) -/

/-- Entry fields (Table 11.5). -/
structure TensorDir where
  flags : Nat
  fmt : Nat
  rank : Nat
  gen : Nat
  ext : List Nat
  map : Nat
  pages : Nat
  deriving DecidableEq, Repr

def State.tensorDir (s : State) (d h : Nat) : TensorDir :=
  let a := 64 * (h % 4096)
  let rd (o n : Nat) : Nat := s.num (.directory d) (a + o) n
  { flags := rd 0 1, fmt := rd 1 1, rank := rd 2 1, gen := rd 3 1 % 16, ext := [rd 4 4, rd 8 4, rd 12 4, rd 16 4], map := rd 20 4, pages := rd 24 4 }

def TensorDir.v (t : TensorDir) : Bool := t.flags.testBit 0
def TensorDir.w (t : TensorDir) : Bool := t.flags.testBit 1
def TensorDir.inv (t : TensorDir) : Bool := t.flags.testBit 2
def TensorDir.unl (t : TensorDir) : Bool := t.flags.testBit 3
/-- Formats a directory entry may name. -/
def TensorDir.goodFmt (t : TensorDir) : Bool := decide (t.fmt ≤ 4 ∨ (6 ≤ t.fmt ∧ t.fmt ≤ 9))
def TensorDir.elem (t : TensorDir) : Nat := fmtBytes t.fmt
where
  /-- Bytes of an element of a directory format (Table 2.1). -/
  fmtBytes (f : Nat) : Nat := match f with
    | 2 => 2
    | 3 => 4
    | 4 => 8
    | 6 => 4
    | 7 => 2
    | 8 => 2
    | _ => 1

/-- A tensor-store page belongs to a tensor with unl set (R314, R324). -/
def State.unlTensor (s : State) (d page : Nat) : Bool := (List.range 4096).any (fun h =>
  let t := s.tensorDir d h
  t.v && t.unl && (List.range t.pages).any (fun i => s.num (.tensor d) (t.map + 2 * i) 2 == page))

/-- Whether the directory accepts a rectangle of `n0` by `n1` elements at coordinates `c` (R201). An entry whose format Table 11.5 does not list, or
whose rank is not 1 to 4, is rejected with it (DESIGN CHOICE, log entry 109). -/
def TensorDir.accepts (t : TensorDir) (h : Nat) (write : Bool) (c : List Nat) (n0 n1 : Nat) : Bool :=
  t.v && t.goodFmt && decide (1 ≤ t.rank ∧ t.rank ≤ 4 ∧ t.gen = h / 4096 % 16) && (!write || t.w) &&
  decide (c.getD 0 0 + n0 ≤ t.ext.getD 0 0) &&
  (if t.rank ≤ 1 then decide (c.getD 1 0 = 0 ∧ n1 ≤ 1) else decide (c.getD 1 0 + n1 ≤ t.ext.getD 1 0)) &&
  (if t.rank ≤ 2 then decide (c.getD 2 0 = 0) else decide (c.getD 2 0 < t.ext.getD 2 0)) &&
  (if t.rank ≤ 3 then decide (c.getD 3 0 = 0) else decide (c.getD 3 0 < t.ext.getD 3 0))

/-- Extent of a dimension; 1 at or above the rank. -/
def TensorDir.extent (t : TensorDir) (i : Nat) : Nat := if i < t.rank then t.ext.getD i 1 else 1

/-- Tensor-store offset of an element (R202); none when its page does not exist in the store. -/
def State.tensorAddr (s : State) (d : Nat) (t : TensorDir) (c0 c1 c2 c3 : Nat) : Option Nat :=
  let q := 4096 * t.elem
  let sc := (t.extent 0 + 63) / 64
  let sr := (t.extent 1 + 63) / 64
  let sq := ((c3 * t.extent 2 + c2) * sr + c1 / 64) * sc + c0 / 64
  let per := 65536 / q
  let page := s.num (.tensor d) (t.map + 2 * (sq / per)) 2
  if page < 32768 then some (65536 * page + sq % per * q + 64 * t.elem * (c1 % 64) + t.elem * (c0 % 64)) else none

/-- The elements of a run along dimension 0, as pieces; none when a page does not exist. -/
def State.tensorRun (s : State) (d : Nat) (t : TensorDir) (c : List Nat) (n : Nat) : Option (List Seg) :=
  (List.range n).foldr (fun i acc =>
    match acc, s.tensorAddr d t (c.getD 0 0 + i) (c.getD 1 0) (c.getD 2 0) (c.getD 3 0) with
    | some l, some a => some ({ key := (Space.tensor d).key a, len := t.elem, entry := word t.flags } :: l)
    | _, _ => none) (some [])

/-! ## Reading and writing by pieces -/

/-- The bytes of a list of pieces. -/
def State.segBytes (s : State) (l : List Seg) : List Byte :=
  l.flatMap (fun g => (List.range g.len).map (fun i => Memory.get s.mem (g.key + i)))

/-- The page of the tensor store a key lies in: die * 32768 + page. -/
def keyPage (k : Nat) : Nat := 32768 * keyUnit k + keyOff k / 65536

/-- A launch has read or written tensor-store pages (R310). -/
def State.touch (s : State) (lid : Nat) (l : List Seg) : State :=
  let ps := (l.filter (fun g => keyKind g.key == 3)).map (fun g => keyPage g.key)
  if ps.isEmpty then s else s.updLaunch lid (fun x => { x with touched := dedup (x.touched ++ ps) })

/-- The bytes of a memory from `lo` up, by their distance from it; those listed. -/
def Memory.slice (m : List Host.Cell) (lo n : Nat) : List (Nat × Byte) :=
  (m.filter (fun c => decide (lo ≤ c.1 ∧ c.1 < lo + n))).map (fun c => (c.1 - lo, c.2))

/-- Bytes of an area of a package's HBM: `n` bytes from offset `o` read as these cells say. -/
def State.lay (s : State) (p o n : Nat) (cells : List (Nat × Byte)) : State := (s.clearRange (.hbm p) o n).pokeAt (.hbm p) (cells.map (fun c => (o + c.1, c.2)))

/-- The first byte of a package's save pool (MG.SAVEPOOL), and the offset in the package's HBM of an area at an offset of the pool (R309). -/
def State.poolBase (s : State) (p : Nat) : Nat := field (s.mg p 0x18) 47 0
def State.areaAt (s : State) (p o : Nat) : Nat := (s.poolBase p + o) % 549755813888

/-- Where the record of the group of index `i` lies in a save area; past the last group's the copied pages follow (Table 16.10). -/
def groupRecord (i : Nat) : Nat := 0x40000 + 9961472 * i

/-- The first write by another launch to a marked page copies it into the next page slot of the save area (R310). -/
def State.copyMarked (s : State) (lid page : Nat) : State :=
  let lo := (Space.tensor (page / 32768)).key (65536 * (page % 32768))
  let p := page / 32768 / 8
  let mine (a : SaveArea) : Bool := a.lid != lid && a.marks.contains page
  let s1 : State := { s with saves := s.saves.map (fun a =>
      if mine a then
        { a with marks := a.marks.filter (fun m => m != page)
                 pages := a.pages ++ [(page, s.mem.filter (fun c => decide (lo ≤ c.1 ∧ c.1 < lo + 65536)))] }
      else a) }
  (s.saves.filter mine).foldl (fun a v => match (s.launch v.lid).areas.find? (fun e => e.1 == p) with
    | some e =>
      let n := (v.pages.filter (fun g => g.1 / 32768 / 8 == p)).length
      let o := s.areaAt p e.2.1
      let at_ := groupRecord (v.groups.filter (fun g => g.1 / 2048 == p)).length + 65536 * n
      let b := if e.2.2 < at_ + 65536 then a else a.lay p (o + at_) 65536 (Memory.slice s.mem lo 65536)
      b.poke (.hbm p) (o + 20) (bytesOfNat 4 (n + 1))
    | none => a) s1

/-- The package whose HBM undo region takes a line's entry (R316). -/
def undoHome (k : Nat) : Nat := match keyKind k with
  | 1 => keyUnit k / 2048
  | 3 => keyUnit k / 8
  | _ => keyUnit k

/-- Entries of a package's HBM undo region (R317). -/
def State.undoSize (s : State) (p : Nat) : Nat := (s.mg p 0x20).toNat * 67108864

/-- Entries reach a package's HBM undo region: at 75 % a save seal is asked for, and once it is full the emergency timeout runs
(R318). -/
def State.growUndo (s : State) (p n : Nat) : State :=
  let u := (s.pkg p).undo + n
  let s1 := s.updPkg p (fun x => { x with undo := u })
  let s2 := if 3 * s.undoSize p ≤ 4 * u then { s1 with sealAsked := true } else s1
  if s.undoSize p ≤ u ∧ s.fullSince = none then
    { s2 with fullSince := some s.cyc }.schedule (s.cyc + (s.mg p 0x28).toNat) (.emergencyTimeout p s.cyc)
  else s2

/-- Lines of level memory that a write would log first; a page or tensor with unl and host memory never log (R209, R314). -/
def State.levelFresh (s : State) (lid : Nat) (unl : Bool) (key n : Nat) : List Nat :=
  if (s.launch lid).recover && !unl && keyKind key != 6 then s.freshLines (linesOf key n) else []

/-- A write to level memory by a launch, from tile `k` where one makes it: copy-on-write, the first-write log, the bytes (R209, R310, R314,
Table 17.1). -/
def State.writeLevel (s : State) (lid k : Nat) (unl : Bool) (key : Nat) (bs : List Byte) : State :=
  let fresh := s.levelFresh lid unl key bs.length
  let kind := match keyKind key with
    | 1 => 3
    | 3 => 4
    | _ => 5
  let s0 := if keyKind key = 3 then
      (dedup ((linesOf key bs.length).map (fun l => keyPage (64 * l)))).foldl (fun a p => a.copyMarked lid p) s else s
  let s1 := fresh.foldl (fun a l =>
    let b := a.logLine lid kind k l
    if kind = 3 then b.intoGroupLog (keyUnit key) (a.lineEntry lid kind k l) else b) s0
  let s2 := if fresh.isEmpty ∨ kind = 3 then s1 else s1.growUndo (undoHome key) fresh.length
  { s2 with mem := Memory.putAll s2.mem key bs }

/-- unl of a piece: a page's flag, or a tensor's. -/
def Seg.unl (g : Seg) : Bool := if keyKind g.key = 3 then bit g.entry 3 else if keyKind g.key = 5 then pteUnl g.entry else false

/-- Keys that a write through a piece reaches: every replica of a copybook page (R213). -/
def Seg.targets (g : Seg) : List Nat :=
  if keyKind g.key = 5 ∧ pteCb g.entry then (List.range 8).map (fun p => (Space.hbm p).key (keyOff g.key)) else [g.key]

/-- Bytes written through pieces, by a launch from a tile. -/
def State.writeSegs (s : State) (lid k : Nat) : List Seg → List Byte → State
  | [], _ => s
  | g :: r, bs =>
    let s1 := g.targets.foldl (fun a j => a.writeLevel lid k g.unl j (bs.take g.len)) s
    s1.writeSegs lid k r (bs.drop g.len)

/-- First-logged lines of a write through pieces. -/
def State.segFresh (s : State) (lid : Nat) (l : List Seg) : Nat :=
  (dedup (l.flatMap (fun g => g.targets.flatMap (fun k => s.levelFresh lid g.unl k g.len)))).length

/-- First-logged lines of a tile that neither the exchange share nor the group undo area can take (R181, R316, R318). -/
def State.tileShut (s : State) (k : Nat) (ls : List Nat) : Bool :=
  !ls.isEmpty && (s.regionFull || decide (groupUndoSize < (s.group (groupOf k)).undo + ((s.tile k).undoExch + ls.length - exchShare)))

/-- First-logged lines of level memory that cannot be logged: the region is full, or the group undo area. -/
def State.levelShut (s : State) (lid : Nat) (l : List Seg) : Bool :=
  let n := s.segFresh lid l
  decide (0 < n) && (s.regionFull || l.any (fun g => keyKind g.key == 1 && decide (groupUndoSize < (s.group (keyUnit g.key)).undo + n)))

/-- An entry leaves a translation cache: kind 0 a group's, 1 a package's (R199). -/
def execTranslationInvalidation (kind index ctx page : Nat) (s : State) : Out :=
  let c := if kind = 0 then Cache.group index else Cache.pkg index
  .next (s.setCache c ((s.cache c).filter (fun e => !e.hits ctx page)))

/-! ## Drains (R181, R316) -/

/-- A share of a tile's log drains one line every 2 cy while the group undo area has room (R181). -/
def execUndoLogDrain (k share : Nat) (s : State) : Out :=
  let t := s.tile k
  let n := if share = 0 then t.undoPrim else t.undoExch
  let off := s.updTile k (fun x => if share = 0 then { x with drainP := false } else { x with drainX := false })
  if n = 0 then .next off
  else if s.groupFull k then .next (s.schedule (s.cyc + 1) (.undoLogDrain k share))
  else
    let slot := if share = 0 then (t.fillPrim + primShare - n % primShare) % primShare
      else primShare + (t.fillExch + exchShare - n % exchShare) % exchShare
    let s1 := off.updTile k (fun x => if share = 0 then { x with log := x.log.del slot, undoPrim := x.undoPrim - 1 }
      else { x with log := x.log.del slot, undoExch := x.undoExch - 1 })
    .next ((s1.intoGroupLog (groupOf k) (t.log.get slot)).startDrain k share)

/-- The oldest entry of a group undo area goes to the HBM undo region of its package, one per 8 cy, while the region has room
(R316, R318). -/
def execGroupUndoDrain (g : Nat) (s : State) : Out :=
  let off := s.updGroup g (fun x => { x with draining := false })
  if (s.group g).undo = 0 then .next off
  else if s.undoSize (g / 2048) ≤ (s.pkg (g / 2048)).undo then .next (s.schedule (s.cyc + groupDrain) (.groupUndoDrain g))
  else
    let s1 := (off.dropGroupLog g 1).growUndo (g / 2048) 1
    .next (s1.startGroupDrain g)

end Sys2Proof.Machine
end

