-- ==== Sys2Proof/Machine/Control.lean ====
section
/-!
DEFINITION. Branches, jumps, calls and returns (R115 to R121), the register window they move (R102) and the loop-nest unit
(R128 to R131).
-/

namespace Sys2Proof.Machine

/-! ## Branches (R119) -/

/-- A conditional branch: taken to its target, or not taken, which under N annuls the next two instructions. -/
def State.branch (s : State) (a b : BitVec 5) (n : BitVec 1) (o : BitVec 11) (f : Word → Word → Bool) : Out :=
  s.guarded [s.chkW a, s.chkW b] fun s =>
    .next (if f (s.readW a) (s.readW b) then s.retireTo (branchTarget s.thr.q0 o)
           else if n = 1#1 then s.retireAnnul else s.retire)

def execBeq (a b : BitVec 5) (n : BitVec 1) (o : BitVec 11) (s : State) : Out := s.branch a b n o (fun x y => x == y)
def execBne (a b : BitVec 5) (n : BitVec 1) (o : BitVec 11) (s : State) : Out := s.branch a b n o (fun x y => x != y)
def execBlt (a b : BitVec 5) (n : BitVec 1) (o : BitVec 11) (s : State) : Out := s.branch a b n o (fun x y => decide (x.toInt < y.toInt))
def execBge (a b : BitVec 5) (n : BitVec 1) (o : BitVec 11) (s : State) : Out := s.branch a b n o (fun x y => decide (y.toInt ≤ x.toInt))
def execBltu (a b : BitVec 5) (n : BitVec 1) (o : BitVec 11) (s : State) : Out := s.branch a b n o (fun x y => decide (x.toNat < y.toNat))
def execBgeu (a b : BitVec 5) (n : BitVec 1) (o : BitVec 11) (s : State) : Out := s.branch a b n o (fun x y => decide (y.toNat ≤ x.toNat))

/-- R120: always taken. -/
def execJmp (j : BitVec 22) (s : State) : Out := .next (s.retireTo (branchTarget s.thr.q0 j))

/-! ## Window moves (R102) -/

/-- The window after a CALL: base moves up by two octets; the new local and out octets read 0. -/
def Thread.windowUp (t : Thread) : Thread :=
  let nb := (t.base + 2) % 12
  let clear (o : Nat) (x : Thread) : Thread :=
    (List.range 8).foldl (fun y i => { y with regs := y.regs.set (8 + 8 * o + i) 0#64 }) (x.dropOctet o)
  clear ((nb + 2) % 12) (clear ((nb + 1) % 12) { t with base := nb })

/-- The window after a RET: base moves down by two octets; the old local and out octets become dead. -/
def Thread.windowDown (t : Thread) : Thread :=
  ({ t with base := (t.base + 10) % 12 }.dropOctet ((t.base + 1) % 12)).dropOctet ((t.base + 2) % 12)

/-- The window does not hold another frame (R102). -/
def State.spillCheck (s : State) : Option TrapReq := trapIf (decide (12 < s.thr.resident + 2)) Cause.wspill 0#64

/-- The effects of CALL and CALLR (R120): link written through the caller's w31, window moved, jump taken. -/
def State.callTo (s : State) (x : BitVec 18) : State :=
  let link := s.seqOf s.curTile s.curThread s.thr.q2
  let p := s.thr.phys 31
  let s1 := s.updThr Thread.windowUp
  let s2 := s1.updThr (fun t => t.push s.cyc 0 p (s.cyc + 1) (link.setWidth 512))
  s2.retireTo x

def execCall (j : BitVec 22) (s : State) : Out :=
  s.guarded [s.spillCheck] fun s => .next (s.callTo (branchTarget s.thr.q0 j))

/-- R121: a target with bit 0 set traps ALIGN with tval the register's value. -/
def targetCheck (v : Word) : Option TrapReq := trapIf (bit v 0) Cause.align v

def execJr (a : BitVec 5) (s : State) : Out :=
  s.guarded [s.chkW a, targetCheck (s.readW a)] fun s => .next (s.retireTo ((s.readW a).setWidth 18))

def execCallr (a : BitVec 5) (s : State) : Out :=
  s.guarded [s.chkW a, s.spillCheck, targetCheck (s.readW a)] fun s => .next (s.callTo ((s.readW a).setWidth 18))

def execRet (s : State) : Out :=
  s.guarded [s.chkW 15#5, trapIf (decide (s.thr.resident < 5)) Cause.wfill 0#64, targetCheck (s.readW 15#5)] fun s =>
    .next ((s.updThr Thread.windowDown).retireTo ((s.readW 15#5).setWidth 18))

/-! ## Loop nest (R128 to R131) -/

/-- R129: with checking on, naming an active level traps LOOPWR with tval j. -/
def State.loopCheck (s : State) (j : BitVec 2) : Option TrapReq :=
  trapIf (s.thr.chk && s.thr.nest.act.get j.toNat) Cause.loopWr (zext 2 j)

/-- A change of the nest by an instruction that reads wa. -/
def State.nestWrite (s : State) (a : BitVec 5) (checks : List (Option TrapReq)) (f : Word → Nest → Nest) : Out :=
  s.guarded (s.chkW a :: checks) fun s => .next ((s.updThr (fun t => { t with nest := f (s.readW a) t.nest })).retire)

def execLnset (a : BitVec 5) (j : BitVec 2) (s : State) : Out :=
  s.nestWrite a [s.loopCheck j] (fun v n => { n with pcnt := n.pcnt.set j.toNat (v.setWidth 32) })

def execLnco (k a : BitVec 5) (j : BitVec 2) (s : State) : Out :=
  s.nestWrite a [s.loopCheck j] (fun v n => { n with pcoef := n.pcoef.set (4 * k.toNat + j.toNat) v })

/-- A pending base is tagged to load at entry of level j (R129). -/
def execLnbase (k a : BitVec 5) (j : BitVec 2) (s : State) : Out :=
  s.nestWrite a [s.loopCheck j] (fun v n => { n with pbase := n.pbase.set k.toNat v, tag := n.tag.set k.toNat (j.toNat + 1) })

/-- Entry of level j (R130). -/
def Nest.enter (n : Nest) (j : Nat) (v : Word) : Nest :=
  { n with
    cnt := n.cnt.set j (n.pcnt.get j)
    coef := (List.range 16).foldl (fun c k => c.set (4 * k + j) (n.pcoef.get (4 * k + j))) n.coef
    base := (List.range 16).foldl (fun b k => if n.tag.get k = j + 1 then b.set k (n.pbase.get k) else b) n.base
    idx := n.idx.set j (v.setWidth 32)
    act := n.act.set j true }

def execLnidx (a : BitVec 5) (j : BitVec 2) (s : State) : Out := s.nestWrite a [] (fun v n => n.enter j.toNat v)

/-- R131: closes one pass of level j. -/
def execLoop (o : BitVec 15) (j : BitVec 2) (s : State) : Out :=
  let n := s.thr.nest
  let jn := j.toNat
  if n.act.get jn = false then .next s.retire
  else
    let i := n.idx.get jn + 1#32
    if i.toNat < (n.cnt.get jn).toNat then
      .next ((s.updThr (fun t => { t with nest := { t.nest with idx := t.nest.idx.set jn i } })).retireTo (branchTarget s.thr.q0 o))
    else
      .next ((s.updThr (fun t => { t with nest := { t.nest with idx := t.nest.idx.set jn 0#32, act := t.nest.act.set jn false } })).retire)

end Sys2Proof.Machine
end

