-- ==== Sys2Proof/Machine/System.lean ====
section
/-!
DEFINITION. The system words a program runs (R122 to R127): NOP, TRAP, ERET, MFSR, MTSR, SWAIT, WSAVE, WREST, and the word that no
table assigns (R88). HALT stands with retirement, the privileged words with the proctors.
-/

namespace Sys2Proof.Machine

def execNop (s : State) : Out := .next s.retire

/-- R123: TRAPI with tval the code; the queue is moved before it is saved (R118). -/
def execTrap (c : BitVec 12) (s : State) : Out := .next (s.takeTrap ⟨Cause.trapi, zext 12 c⟩)

/-- R124: outside a handler ERET is ILLEGAL; otherwise the queue, the annul bits and stat.trap are restored. -/
def execEret (s : State) : Out :=
  s.guarded [trapIf (!s.thr.inTrap) Cause.illegal s.thisWord] fun s => .next (s.updThr (fun t => t.eret s.cyc))

/-- R125: readable 2 cy later. -/
def execMfsr (d : BitVec 5) (n : BitVec 12) (s : State) : Out :=
  match s.special n.toNat with
  | none => .next (s.takeTrap ⟨Cause.illegal, zext 12 n⟩)
  | some v => .next ((s.writeW d 2 v).retire)

/-- R125, R177: effective for the thread's next issue. A register that recovery logs first keeps its old value (R314), at the cost of
one first-touched line (R181). -/
def execMtsr (a : BitVec 5) (n : BitVec 12) (s : State) : Out :=
  s.guarded (s.chkW a :: s.specialChecks n.toNat (s.readW a)) fun s =>
    let v := s.readW a
    if s.regFresh n.toNat then
      if s.noRoom s.curTile 1 then .next s.stallLog
      else .next ((((s.logReg s.curTile n.toNat).setSpecial n.toNat v).retire).holdUntil (s.cyc + 2))
    else .next ((s.setSpecial n.toNat v).retire)

/-- R126: nothing issues until cyc ≥ u(ws). -/
def execSwait (a : BitVec 5) (s : State) : Out :=
  s.guarded [s.chkW a] fun s =>
    let u := (s.readW a).toNat
    if u ≤ s.cyc then .next s.retire
    else .next ((s.retire.enterWait (.swait u s.thr.q0.toNat)).schedule u (.swaitExpiry s.curTile s.curThread u))

/-- cyc has reached the time of an SWAIT (R126): a wait of 64 cy or more adds the 12 cy wake. -/
def execSwaitExpiry (k t upto : Nat) (s : State) : Out :=
  let x := s.thread k t
  if (match x.wait with | .swait u _ => u == upto | _ => false) then
    .next (s.updThread k t (fun x => { x with wait := .none, retained := false,
                                              notBefore := max x.notBefore (if x.waitFrom + 64 ≤ upto then upto + 12 else upto) }))
  else .next s

/-- A thread that has waited 64 cy parks: its registers go into retention, which keeps their values (R104). -/
def execThreadPark (k t since : Nat) (s : State) : Out :=
  let x := s.thread k t
  if x.wait ≠ .none ∧ x.waitFrom = since then .next (s.updThread k t (fun x => { x with retained := true })) else .next s

/-- Tile address of slot d of a thread's spill area (R103, R127). -/
def spillSlot (t d : Nat) : Nat := 0x5C000 + 2048 * (t % 8) + 128 * d

/-- The two octets that WSAVE stores, as 128 bytes, register i of an octet at offset 8i (R127). -/
def State.octetBytes (s : State) (o : Nat) : List Byte :=
  (List.range 8).flatMap (fun i => bytesOfNat 8 ((s.thr.readAt s.cyc 0 (8 + 8 * o + i)).toNat))

/-- A pending result of an octet is not yet readable (R99). Its register has no number in the window, so tval's number is free. -/
def State.chkOctet (s : State) (o : Nat) : Option TrapReq :=
  trapIf (s.thr.chk && (List.range 8).any (fun i => s.thr.short s.cyc 0 (8 + 8 * o + i))) Cause.stallShort (zext 5 (Config.freeNumber s.nonce))

/-- R127: occupies the thread for 4 own slots, logging of the spill lines included. -/
def execWsave (s : State) : Out :=
  let t := s.thr
  let lo1 := (t.lo + 1) % 12
  s.guarded [trapIf (decide (t.depth = 16 ∨ t.resident < 5)) Cause.illegal s.thisWord, s.chkOctet t.lo, s.chkOctet lo1] fun s =>
    let a := spillSlot s.curThread t.depth
    let bs := spread a (s.octetBytes t.lo ++ s.octetBytes lo1)
    let nl := (s.newTileLines s.curTile [(a, 128)]).length
    if s.curThread ≠ 8 ∧ s.noRoom s.curTile nl then .next s.stallLog
    else
      let s1 := if s.curThread = 8 then s.pokeAt (.tile s.curTile) bs else s.storeTileAt s.curTile 0 bs
      let s2 := s1.updThr (fun x => (({ x with lo := (t.lo + 2) % 12, depth := t.depth + 1 }.dropOctet t.lo).dropOctet lo1))
      .next (s2.retire.holdUntil (s.cyc + 4 * t.rot))

/-- The thread with an octet loaded from bytes of tile SRAM. -/
def State.loadOctet (s : State) (o a : Nat) : State :=
  s.updThr (fun x => (List.range 8).foldl (fun y i =>
    { y with regs := y.regs.set (8 + 8 * o + i) (word (s.num (.tile s.curTile) (a + 8 * i) 8)) }) (x.dropOctet o))

def execWrest (s : State) : Out :=
  let t := s.thr
  s.guarded [trapIf (decide (t.depth = 0 ∨ 9 < t.resident)) Cause.illegal s.thisWord] fun s =>
    let lo := (t.lo + 10) % 12
    let a := spillSlot s.curThread (t.depth - 1)
    let s1 := s.updThr (fun x => { x with lo := lo, depth := t.depth - 1 })
    let s2 := (s1.loadOctet lo a).loadOctet ((lo + 1) % 12) (a + 64)
    .next (s2.retire.holdUntil (s.cyc + 4 * t.rot))

end Sys2Proof.Machine
end

