-- ==== Sys2Proof/Machine/Setup.lean ====
section
/-!
DEFINITION. The state a launch gives its tiles and threads before the first instruction (R45, R75, R156, R256), and the groups and
tiles of a placement (R63, R64).
-/

namespace Sys2Proof.Machine

/-- Groups of a placement on this module, with the grid position of each group's first tile (R64). -/
def Placement.groups (p : Placement) (podModule : Nat) : List (Nat × Nat × Nat) :=
  let dieGroups (d col : Nat) : List (Nat × Nat × Nat) :=
    (List.range 256).map (fun g => (256 * d + g, col + 4 * (g % 16), 4 * (g / 16)))
  match p.kind with
  | 0 => (List.range p.h).flatMap (fun j => (List.range p.w).map (fun i =>
      (256 * (8 * p.pkg + p.die) + 16 * (p.gy + j) + (p.gx + i), 4 * i, 4 * j)))
  | 1 =>
    let dies := (List.range 64).filter (fun d => p.mask.testBit d)
    (dies.zip (List.range dies.length)).flatMap (fun x => dieGroups x.1 (64 * x.2))
  | 2 =>
    let dies := (List.range 64).filter (fun d => p.mask.testBit (d / 8))
    (dies.zip (List.range dies.length)).flatMap (fun x => dieGroups x.1 (64 * x.2))
  | _ =>
    let first := p.mask % 65536
    (List.range 64).flatMap (fun d => dieGroups d (4096 * (podModule - first) + 64 * d))

/-- GW and GH (R64). -/
def Placement.grid (p : Placement) : Nat × Nat :=
  match p.kind with
  | 0 => (4 * p.w, 4 * p.h)
  | 1 => (64 * ((List.range 64).filter (fun d => p.mask.testBit d)).length, 64)
  | 2 => (512 * ((List.range 8).filter (fun d => p.mask.testBit d)).length, 64)
  | _ => (4096 * (p.mask / 65536 % 65536), 64)

/-- Identity values of a tile at grid position (x, y) (Table 4.8). -/
def identOf (k x y gw gh nthr pod : Nat) (seat : Tab (Word × Word)) : Ident :=
  { nthr := word nthr, tile := word (x + gw * y), grp := word (groupOf k % 256), die := word (dieOf k % 8), pkg := word (pkgOf k)
    mod := word pod, x := word x, y := word y, ntile := word (gw * gh)
    ext := (List.range 8).foldl (fun t i => Tab.set t i (Tab.get seat i).2) []
    off := (List.range 8).foldl (fun t i => Tab.set t i (Tab.get seat i).1) [] }

/-- id.mod of the module: 0 when it is in no pod (Table 4.8). -/
def State.idModule (s : State) : Nat := if s.inPod then s.podModule else 0

/-- A thread at its first instruction (R75, R115): everything reads 0 but the values of Table 4.8 and of the Reset column of Table
6.2. -/
def freshThread (live chk recov fill sys : Bool) (lcode : Nat) (id : Ident) (e e1 e2 : BitVec 18) : Thread :=
  { (default : Thread) with
    live := live, chk := chk, recov := recov, fill := fill, sys := sys, lcode := lcode, ident := id
    q0 := e, q1 := e1, q2 := e2, mrow := 0xFFFF#16, mcol := 0xFFFF#16
    sf := [(0, 127#8), (1, 127#8), (2, 127#8), (3, 127#8)] }

/-- Sets up one tile for a launch (R45, R75): banks cleared, formats, windows, identity and threads. `bfmt` and `windows` are the
launch's tables; the queue is loaded when the first fetch ends. -/
def State.setupTile (s : State) (lid k x y : Nat) (seat : Tab (Word × Word)) (bfmt : Tab Word) (windows : Tab Window) : State :=
  let l := s.launch lid
  let id := identOf k x y l.gw l.gh (if l.isFiller then 1 else l.nthr) s.idModule seat
  let s0 := s.clearRange (.tile k) 0 (if l.recover then 335872 else 376832)
  if l.isFiller then
    s0.updTile k (fun t =>
      { t with filler := some lid, bfmt := bfmt
               threads := t.threads.set 8 (freshThread false l.chk false true false 0 id 0 0 0)
               acc := (List.range 64).foldl (fun a i => Tab.set a (64 + i) 0#512) t.acc
               mqFill := [], fillWindows := windows, fillParked := false })
  else
    s0.updTile k (fun t =>
      { t with prim := some lid
               threads := (List.range (2 ^ l.lcode)).foldl
                 (fun ts i => ts.set i (freshThread false l.chk l.recover false false l.lcode id 0 0 0))
                 ((List.range 8).foldl (fun ts i => ts.del i) t.threads)
               bfmt := bfmt, xperm := 0, lst := []
               acc := (List.range 64).foldl (fun a i => Tab.set a i 0#512) t.acc
               mq := [], windows := windows, parked := false, ticket := 0
               undoPrim := 0, undoExch := 0, regLogged := [], log := [], fillPrim := 0, fillExch := 0
               barCount := [], retired := false, copies := [], copyWait := [] })

/-- A thread's queue at the entry point (R115), live from now on. -/
def State.startThread (s : State) (k t : Nat) (e : BitVec 18) : State :=
  let e1 := s.seqOf k t e
  let e2 := s.seqOf k t e1
  s.updThread k t (fun x => { x with live := true, q0 := e, q1 := e1, q2 := e2 })

end Sys2Proof.Machine
end

