-- ==== Sys2Proof/Machine/Package.lean ====
section
/-!
DEFINITION. What a package keeps for its dies and its registrar: the black box (R328), the tiles and members of a launch (R9, R241,
R242), contexts and queue descriptors (R56 to R58), and the address match that stands in for a doorbell (R59).
-/

namespace Sys2Proof.Machine

/-! ## Black box (R328, Tables 17.7 and 17.8) -/

/-- A record enters a list of records, newest last, among those of its cycle in ascending source order. -/
def enterRing (r : BbRecord) : List BbRecord → List BbRecord
  | [] => [r]
  | x :: l => if x.cyc = r.cyc ∧ r.source < x.source then r :: x :: l else x :: enterRing r l

/-- A record enters a die's ring of 4,096, unless the ring is frozen. -/
def State.record (s : State) (d ev source data : Nat) : State :=
  let x := s.die d
  if x.frozen then s
  else
    let r : BbRecord := { data := BitVec.ofNat 32 data, source := BitVec.ofNat 16 source, event := BitVec.ofNat 8 ev
                          ptp := BitVec.ofNat 32 (Config.ptpTime s.cyc), cyc := BitVec.ofNat 40 s.cyc }
    s.updDie d (fun y => { y with blackBox := (enterRing r y.blackBox).drop (y.blackBox.length + 1 - 4096) })

/-- The same record in die 0 of several packages. -/
def State.recordAll (s : State) (ps : List Nat) (ev data : Nat) : State := ps.foldl (fun a p => a.record (8 * p) ev 0 data) s

/-! ## Tiles and members of a launch -/

/-- Packages of a placement on this module. -/
def Placement.packages (p : Placement) : List Nat :=
  match p.kind with
  | 0 => [p.pkg]
  | 1 => (List.range 8).filter (fun q => decide (p.mask / 2 ^ (8 * q) % 256 ≠ 0))
  | 2 => (List.range 8).filter (fun q => p.mask.testBit q)
  | _ => List.range 8

/-- Tiles of a placement with their grid positions, in ascending tile number within each group (R63, R64). -/
def Placement.tiles (p : Placement) (podModule : Nat) : List (Nat × Nat × Nat) :=
  (p.groups podModule).flatMap (fun g => (List.range 16).map (fun i => (16 * g.1 + i, g.2.1 + i % 4, g.2.2 + i / 4)))

/-- The module tile with a launch-wide id.tile (R64); none outside the placement on this module. -/
def State.tileOfId (s : State) (lid id : Nat) : Option Nat :=
  let l := s.launch lid
  if l.gw = 0 then none
  else
    let x := id % l.gw
    let y := id / l.gw
    ((l.place.groups s.podModule).find? (fun g => g.2.1 == x / 4 * 4 && g.2.2 == y / 4 * 4)).map
      (fun g => 16 * g.1 + x % 4 + 4 * (y % 4))

/-- The tiles that hold a launch, in ascending order. -/
def State.tilesOf (s : State) (lid : Nat) : List Nat :=
  (s.tiles.filter (fun e => e.2.prim == some lid || e.2.filler == some lid)).map Prod.fst

/-- Threads of a launch on one tile: t < nthr, or the filler thread. -/
def Launch.threads (l : Launch) : List Nat := if l.isFiller then [8] else List.range l.nthr

/-- The members of a launch: (tile, thread), in timetable order (R9, R209, R241). -/
def State.membersOf (s : State) (lid : Nat) : List (Nat × Nat) :=
  (s.tilesOf lid).flatMap (fun k => (s.launch lid).threads.map (fun t => (k, t)))

/-- Level instance of a tile: 0 group, 1 die, 2 package, 3 module, 4 pod (R9). -/
def instOf (lvl k : Nat) : Nat :=
  match lvl with
  | 0 => groupOf k
  | 1 => dieOf k
  | 2 => pkgOf k
  | _ => 0

/-- The level instances of a level that lie inside an instance of a level at or above it, among the given tiles. -/
def instsIn (lvl outer inst : Nat) (tiles : List Nat) : List Nat :=
  dedup ((tiles.filter (fun k => instOf outer k == inst)).map (instOf lvl))

/-- Rank of a tile in its instance and member index of a thread (R242). -/
def rankIn (lvl k : Nat) : Nat :=
  match lvl with
  | 0 => k % 16
  | 1 => k % 4096
  | 2 => k % 32768
  | _ => k

/-- Smallest level whose instance contains both tiles, at least the group (R10, Table 1.1). -/
def scopeOf (a b : Nat) : Nat :=
  if groupOf a = groupOf b then 0 else if dieOf a = dieOf b then 1 else if pkgOf a = pkgOf b then 2 else 3

/-- First pod module number and module count of a placement of modules (Table 4.6). -/
def Placement.firstModule (p : Placement) : Nat := p.mask % 65536
def Placement.modules (p : Placement) : Nat := p.mask / 65536 % 65536

/-- The highest level of a launch: module, or pod where the placement spans several modules (R9, R252). -/
def Launch.top (l : Launch) : Nat := if l.place.kind = 3 ∧ 1 < l.place.modules then 4 else 3

/-- The level of SEAL and of class 0xF: the seal domain's, of which a launch inside one module has its module's part (R9, R241, R313,
R321; DEDUCED, log entry 76). -/
def Launch.sealLevel (l : Launch) : Nat := if l.podSeal then l.top else 3

/-- P(h): the longest path from one of several modules up to the lowest rack switch common to them (R278). -/
def podPath (modules : List Nat) : Nat :=
  let h := Config.podCrossings modules
  60 * (h + 1) + 90 * h

/-- Pod module numbers of a placement of modules (Table 4.6). -/
def Placement.moduleList (p : Placement) : List Nat := (List.range p.modules).map (fun j => p.firstModule + j)

def Launch.podPath (l : Launch) : Nat := Machine.podPath l.place.moduleList

/-- Latency of a level's bell, arrival and release alike (Table 13.1, R278). -/
def Launch.bellTime (l : Launch) (lvl : Nat) : Nat := match lvl with
  | 0 => 4
  | 1 => 20
  | 2 => 64
  | 3 => 180
  | _ => 180 + l.podPath

/-- Rank of a tile in its instance for a launch: that of its module, and of the module among the launch's in the pod (R242). -/
def Launch.rank (l : Launch) (podModule lvl k : Nat) : Nat :=
  if lvl < 4 then rankIn lvl k else 262144 * (podModule - l.place.firstModule) + rankIn 3 k

/-- The level a SYNC names, as its launch uses it: pod without pod scope is module (R241). -/
def Launch.level (l : Launch) (lvl : Nat) : Nat := min lvl l.top

/-! ## Contexts and queues (R56 to R58) -/

/-- Context table entry fields (Table 4.1). -/
def State.ctxValid (s : State) (p c : Nat) : Bool := (s.physNum (s.ctxEntry p c) 1).testBit 0
def State.ctxFiller (s : State) (p c : Nat) : Bool := (s.physNum (s.ctxEntry p c) 1).testBit 1
def State.ctxQueues (s : State) (p c : Nat) : Nat := min 64 (s.physNum (s.ctxEntry p c + 1) 1)
def State.ctxWatchdog (s : State) (p c : Nat) : Nat := 1024 * s.physNum (s.ctxEntry p c + 4) 4
def State.ctxQueueTable (s : State) (p c : Nat) : Nat := s.physNum (s.ctxEntry p c + 0x10) 8
def State.ctxAlarm (s : State) (p c : Nat) : Nat := s.physNum (s.ctxEntry p c + 0x18) 8

/-- The queues a registrar serves, as context * 64 + queue, ascending; none before firmware has set the table. -/
def State.allQueues (s : State) (p : Nat) : List Nat :=
  if s.mg p 0x10 = 0#64 then []
  else ((List.range 4096).filter (fun c => s.ctxValid p c)).flatMap (fun c => (List.range (s.ctxQueues p c)).map (fun q => 64 * c + q))

/-- Physical address of a queue's descriptor. -/
def State.descAddr (s : State) (p q : Nat) : Nat := s.ctxQueueTable p (q / 64) + 64 * (q % 64)

/-- A queue descriptor (Table 4.2). -/
structure Desc where
  base : Nat
  n : Nat
  prio : Nat
  quantum : Nat
  tail : Nat
  head : Nat
  deficit : Nat
  reserved : Bool
  deriving DecidableEq, Repr, Inhabited

def State.desc (s : State) (p q : Nat) : Desc :=
  let a := s.descAddr p q
  { base := s.physNum a 8, n := s.physNum (a + 8) 4, prio := s.physNum (a + 0xC) 1, quantum := s.physNum (a + 0xE) 2
    tail := s.physNum (a + 0x10) 4, head := s.physNum (a + 0x18) 4, deficit := s.physNum (a + 0x1C) 4
    reserved := decide (s.physNum (a + 0xD) 1 ≠ 0 ∨ s.physNum (a + 0x14) 4 ≠ 0 ∨ s.physNum (a + 0x20) 32 ≠ 0) }

/-- tail − head modulo 2^32 (R58). -/
def Desc.count (d : Desc) : Nat := (d.tail + 4294967296 - d.head) % 4294967296

/-- R58: a bad descriptor. -/
def Desc.bad (d : Desc) : Bool :=
  decide (d.base % 128 ≠ 0 ∨ 281474976710656 ≤ d.base ∨ d.n < 4 ∨ 16 < d.n ∨ 47 < d.prio ∨ d.quantum = 0 ∨ 4096 < d.quantum) || d.reserved

/-- R57, R58: bad or overrun. -/
def Desc.stops (d : Desc) : Bool := d.bad || decide (2 ^ d.n < d.count)

/-! ## Address match (R59) -/

/-- Physical addresses of the 64-byte lines a registrar watches: descriptor lines and the counters of blocked heads. -/
def State.watched (s : State) (p : Nat) : List Nat := (s.allQueues p).map (fun q => s.descAddr p q / 64) ++ (s.pkg p).watch

/-- Writes have reached HBM at these keys: each package whose registrar watches one of the lines takes a match. -/
def State.noteKeys (s : State) (keys : List Nat) : State :=
  let lines := dedup ((keys.filter (fun k => keyKind k == 5)).map (fun k => (549755813888 * keyUnit k + keyOff k) / 64))
  lines.foldl (fun a l =>
    let p := l / 8589934592
    if (a.watched p).contains l then a.schedule a.cyc (.hbmWriteMatch p (64 * l)) else a) s

/-- The keys of every byte that a write through pieces reaches. -/
def segKeys (l : List Seg) : List Nat := l.flatMap (fun g => g.targets.flatMap (fun k => (List.range g.len).map (fun i => k + i)))

/-- A write by system software, the registrar or an outside agent at physical addresses, with its match (R59, R261). -/
def State.hbmPut (s : State) (pa : Nat) (bs : List Byte) : State :=
  (s.physPut pa bs).noteKeys ((List.range bs.length).map (fun i => physKey (pa + i)))

/-- Physical address of a context virtual address that the registrar writes, in a package's view; none when translation fails. -/
def State.ctxPa (s : State) (p ctx va : Nat) : Option Nat :=
  (s.ctxKeyBy refuseWrite p ctx va).map (fun k => 549755813888 * keyUnit k + keyOff k)

/-- `n` bytes at a context virtual address, page by page, as the registrar reads them; 0 where translation fails. -/
def State.ctxByte (s : State) (p ctx va : Nat) : Byte :=
  match s.ctxKey p ctx va with
  | some k => Memory.get s.mem k
  | none => 0#8
def State.ctxNum (s : State) (p ctx va n : Nat) : Nat := natOfBytes ((List.range n).map (fun i => s.ctxByte p ctx (va + i)))

/-- A counter's add at the HBM controller, modulo 2^64 (R62). Where the counter's address no longer translates, no add is made (DESIGN CHOICE, log
entry 95). -/
def State.addCounter (s : State) (p ctx va : Nat) (v : Word) : State :=
  match s.ctxPa p ctx va with
  | some pa => s.hbmPut pa (bytesOfNat 8 ((word (s.physNum pa 8) + v).toNat))
  | none => s

/-- R58, R76: one is added to a context's alarm counter. -/
def State.alarm (s : State) (p ctx : Nat) : State :=
  if s.ctxAlarm p ctx = 0 then s else s.addCounter p ctx (s.ctxAlarm p ctx) 1#64

end Sys2Proof.Machine
end

