-- ==== Sys2Proof/Machine/Link.lean ====
section
/-!
DEFINITION. Fabric links and frames (R272 to R277, R353), the remote transactions that cross them, and the key check at the owning
package switch (R279, R282).
-/

namespace Sys2Proof.Machine

/-! ## Frames (Table 15.1) -/

/-- One byte into a CRC-32C register (polynomial 0x1EDC_6F41, least significant bit first). -/
def crcByte (c : BitVec 32) (b : Byte) : BitVec 32 :=
  (List.range 8).foldl (fun a _ => if a.getLsbD 0 then (a >>> 1) ^^^ 0x82F63B78#32 else a >>> 1) (c ^^^ b.setWidth 32)

/-- CRC-32C of a byte list (Table 15.1). -/
def crc32c (l : List Byte) : BitVec 32 := ~~~ (l.foldl crcByte 0xFFFFFFFF#32)

/-- Header bytes 0x00 to 0x1B. -/
def Frame.head (f : Frame) : List Byte :=
  bytesOfNat 2 (f.seq % 4096 + 4096 * f.kind) ++
  bytesOfNat 2 (match f.ack with | some a => a % 4096 + 4096 | none => 0) ++
  bytesOfNat 1 (f.vc % 16 + if f.last then 16 else 0) ++ bytesOfNat 1 f.op ++ bytesOfNat 2 f.src ++ bytesOfNat 2 f.dst ++
  bytesOfNat 2 f.tag ++ bytesOfNat 4 f.key ++ bytesOfNat 8 (f.offset % 281474976710656 + 281474976710656 * (f.bytes.length - 1)) ++
  bytesOfNat 4 f.e2e

/-- The 288 bytes of a frame. -/
def Frame.wire (f : Frame) : List Byte :=
  let body := f.bytes ++ List.replicate (256 - f.bytes.length) 0#8
  f.head ++ bytesOfNat 4 (crc32c (f.head ++ body)).toNat ++ body

/-- A frame whose CRC is good; none where it is bad. -/
def frameOf (l : List Byte) : Option Frame :=
  let h := l.take 28
  let body := (l.drop 32).take 256
  if l.length = 288 ∧ natOfBytes ((l.drop 28).take 4) = (crc32c (h ++ body)).toNat then
    let fld (o n : Nat) : Nat := natOfBytes ((l.drop o).take n)
    some { seq := fld 0 2 % 4096, kind := fld 0 2 / 4096
           ack := if fld 2 2 / 4096 % 2 = 1 then some (fld 2 2 % 4096) else none
           vc := fld 4 1 % 16, last := decide (fld 4 1 / 16 % 2 = 1), op := fld 5 1, src := fld 6 2, dst := fld 8 2, tag := fld 10 2
           key := fld 12 4, offset := fld 16 8 % 281474976710656, bytes := body.take (fld 16 8 / 281474976710656 % 256 + 1), e2e := fld 24 4 }
  else none

/-! ## Link ends -/

/-- A link end that nothing has degraded: A16 with nothing sent or received. -/
def freshLink : Link :=
  { state := .a16, faulted := 0, trainStart := 0, txNext := 0, retry := [], rxNext := 0, asked := none, unacked := 0, oldest := 0
    crcFails := [], sent := [], busy := 0 }

def State.link (s : State) (p l : Nat) : Link := ((s.pkg p).links.get l).getD freshLink
def State.updLink (s : State) (p l : Nat) (f : Link → Link) : State :=
  s.updPkg p (fun x => { x with links := x.links.set l (some (f (s.link p l))) })

def LinkState.up : LinkState → Bool
  | .a16 => true
  | .a8 _ => true
  | .a4 _ => true
  | .train _ => false
  | .retired => false

/-- Frames of the retry buffer (R273): what lies beyond it waits for an acknowledgement. -/
def retrySize : Nat := 1024

/-- Sends a control frame: kind 0 null, 2 replay request (R273). -/
def State.sendControl (s : State) (p l kind seq : Nat) (ack : Option Nat) : State :=
  if (s.link p l).state.up then
    let f : Frame := { (default : Frame) with kind := kind, seq := seq, ack := ack, bytes := [0#8] }
    s.updLink p l (fun x => { x with sent := x.sent ++ [(35 * s.cyc, f)] })
  else s

/-- Time of a frame on the link, in 35ths of a cycle (Table 15.4). -/
def LinkState.pace (x : LinkState) : Nat := match x with
  | .a8 _ => 162
  | .a4 _ => 324
  | _ => 81

/-- Data frames leave from cycle `c` on, one after another, behind those that are leaving; while the link is down they wait (R273, R353,
R354). -/
def Link.emit (x : Link) (c : Nat) (fs : List Frame) : Link :=
  let b := max x.busy (35 * c)
  if x.state.up then { x with sent := x.sent ++ (List.range fs.length).zipWith (fun i f => (b + x.state.pace * i, f)) fs
                              busy := b + x.state.pace * fs.length } else x

/-- A frame that has been sent has not begun to leave by cycle `c`. -/
def waitsAt (c : Nat) (e : Nat × Frame) : Bool := decide (35 * c < e.1)

/-- Frames that have been sent and have not begun to leave by cycle `c`. -/
def Link.waiting (x : Link) (c : Nat) : List Frame := (x.sent.filter (waitsAt c)).map Prod.snd

/-- What has not begun to leave by cycle `c` does not leave: it stands in the retry buffer. -/
def Link.unsend (x : Link) (c : Nat) : Link :=
  { x with sent := x.sent.filter (fun e => !waitsAt c e), busy := match x.sent.find? (waitsAt c) with | some e => e.1 | none => x.busy }

/-- A data frame that reaches the link enters the retry buffer, and is sent when the link is up and the buffer has room (R273). -/
def State.sendData (s : State) (p l : Nat) (f : Frame) : State :=
  s.updLink p l (fun x =>
    let g := { f with kind := 1, seq := x.txNext }
    let y := { x with txNext := (x.txNext + 1) % 4096, retry := x.retry ++ [g] }
    if x.retry.length < retrySize then y.emit s.cyc [g] else y)

/-- Frames up to sequence `seq` are acknowledged in cycle `c`; frames that waited for room are sent (R273). -/
def Link.acked (x : Link) (c seq : Nat) : Link :=
  match firstIdx (fun f => f.seq == seq) (x.retry.take retrySize) 0 with
  | none => x
  | some (i, _) =>
    let rest := x.retry.drop (i + 1)
    { x with retry := rest }.emit c ((rest.take retrySize).drop (retrySize - (i + 1)))

/-- The first of some frames carries an acknowledgement that another one was to carry. -/
def carryAck (a : Option Nat) : List Frame → List Frame
  | [] => []
  | f :: r => (match a with | some n => { f with ack := some n } | none => f) :: r

/-- Resends from the oldest unacknowledged frame, in cycle `c`; what was still to leave leaves in that turn (R273). -/
def Link.replay (x : Link) (c : Nat) : Link :=
  (x.unsend c).emit c (carryAck ((x.waiting c).filterMap Frame.ack).getLast? (x.retry.take retrySize))

/-- The first frame that waits to leave takes an acknowledgement. -/
def acknowledge (c a : Nat) : List (Nat × Frame) → List (Nat × Frame)
  | [] => []
  | e :: r => if waitsAt c e then (e.1, { e.2 with ack := some a }) :: r else e :: acknowledge c a r

/-- Acknowledges what has been accepted: on the first frame that waits to leave, or on a null frame where no data is waiting (R273). -/
def State.sendAck (s : State) (p l : Nat) : State :=
  let x := s.link p l
  let c := s.cyc
  let a := (x.rxNext + 4095) % 4096
  if x.unacked = 0 then s
  else if x.state.up && !(x.waiting c).isEmpty then s.updLink p l (fun y => { y with unacked := 0, sent := acknowledge c a y.sent })
  else (s.updLink p l (fun y => { y with unacked := 0 })).sendControl p l 0 0 (some a)

/-! ## Lane degrade (Table 15.2) -/

def laneHalf : List (BitVec 16) := [0x00FF#16, 0xFF00#16]
def laneQuarters : List (BitVec 16) := [0x000F#16, 0x00F0#16, 0x0F00#16, 0xF000#16]

/-- The lanes chosen in the A16 row; none retires. -/
def chooseLanes (faulted : BitVec 16) : Option (BitVec 16) := (laneHalf ++ laneQuarters).find? (fun m => m &&& faulted == 0#16)

/-- The lowest quarter of a half without a faulted lane. -/
def chooseQuarter (half faulted : BitVec 16) : Option (BitVec 16) :=
  laneQuarters.find? (fun m => m &&& half == m && m &&& faulted == 0#16)

/-- Black-box data of a link event (R274). -/
def Link.eventData (x : Link) (width : Nat) : Nat :=
  (match x.retry with | f :: _ => f.seq | [] => x.txNext) + 4096 * (width % 16) + 65536 * x.faulted.toNat

def linkSource (p l : Nat) : Nat := 0x8000 + p + 8 * l

/-- An up link of package `q` between the same pair of switches as its link `l`: that link itself before others (R275). -/
def State.sameWay (s : State) (q l : Nat) (ok : LinkState → Bool) : Option Nat :=
  (l :: List.range 8).find? (fun m => Config.farSwitch q m == Config.farSwitch q l && ok (s.link q m).state)

/-- The link that carries a transaction from package `p` to a module, fixed by that module and the key, cohort or plan (R271); where it is
retired, another between the same switches. None where no path can deliver the flit (R275). -/
def State.route (s : State) (p module key : Nat) : Option (Nat × Nat) :=
  let v := Config.upLink p module key
  let q := (p + v / 8) % 8
  (s.sameWay q (v % 8) (fun x => x != .retired)).map (fun l => (q, l))

/-- Serialisation of `n` frames at a link's width (Table 15.4). -/
def LinkState.serial (x : LinkState) (n : Nat) : Nat := ceilDiv (x.pace * n) 35

/-- Frames that leave package `p` by a transaction's route, in cycles: first to begin to leave to last to have left. -/
def State.serial (s : State) (p module key n : Nat) : Nat := match s.route p module key with
  | some (q, l) => (s.link q l).state.serial n
  | none => ceilDiv (81 * n) 35

/-- The way between a tile of package `p` and the owning package's switch for a key of this module. -/
def ownLeg (p owner : Nat) : Nat := if owner = p then 40 else 88

/-- The page that a key of this module and an offset reach stands in another package than the owning one. -/
def State.pageAway (s : State) (key off : Nat) : Bool :=
  let p := key / 33554432 % 8
  let r := (s.pkg p).regions.get (key / 65536 % 512)
  match (s.walkCtx p r.ctx (r.base + off)).1 with
  | some w => keyUnit (pteKey w p (r.base + off)) != p
  | none => false

/-- F(h), one way between a tile of package `p` and the page that a key and an offset of module `m` reach (R278). -/
def State.oneWay (s : State) (p m key off : Nat) : Nat :=
  if m = s.podModule then ownLeg p (key / 33554432 % 8) + if s.pageAway key off then 48 else 0
  else
    let h := Config.rackCrossings s.podModule m
    40 + 60 * (h + 1) + 90 * h + (match s.route p m key with
      | some (q, _) => if q = p then 0 else 48
      | none => 0) + if Config.farPage m key off then 48 else 0

/-- Zero-load count of a GETR of `b` bytes (R278). -/
def State.getrTime (s : State) (p m key off b : Nat) : Nat :=
  2 * s.oneWay p m key off + 164 + ceilDiv b 32 + if m = s.podModule then 0 else s.serial p m key 1 + s.serial p m key (ceilDiv b 256)

/-- Zero-load count of a DEPR or AMOR of `b` bytes up to its end-to-end status, from the end of the write half's fixed term (R278). -/
def State.peerTime (s : State) (p m key off b : Nat) : Nat :=
  2 * s.oneWay p m key off + 164 + ceilDiv b 32 + if m = s.podModule then 0 else s.serial p m key (ceilDiv b 256)

/-- R275: a link is retired and its unacknowledged frames move onto another up link between the same pair of switches, if one is up. -/
def State.retireLink (s : State) (p l : Nat) : State :=
  let x := s.link p l
  if x.state = .retired then s
  else
    let s1 := (s.updLink p l (fun y => { y.unsend s.cyc with state := .retired, retry := [] })).record (8 * p) 0x07 (linkSource p l) (x.eventData 0)
    match s1.sameWay p l LinkState.up with
    | some m => x.retry.foldl (fun a f => a.sendData p m f) s1
    | none => s1

/-- Entry of TRAIN; not done in 7,200 cy, the link retires (Table 15.2). -/
def State.train (s : State) (p l : Nat) (lanes : BitVec 16) : State :=
  let c := s.cyc
  (s.updLink p l (fun x => { x.unsend c with state := .train lanes, trainStart := c })).schedule (c + 7200) (.trainTimeout p l c)

/-- Faults of a set of lanes (R274, Table 15.2). -/
def State.faultLanes (s : State) (p l : Nat) (lanes : BitVec 16) : State :=
  let s1 := s.updLink p l (fun x => { x with faulted := x.faulted ||| lanes })
  let x := s1.link p l
  let go (c : Option (BitVec 16)) : State := match c with
    | some m => s1.train p l m
    | none => s1.retireLink p l
  if x.state = .retired then s1
  else if 16 - popcount x.faulted < 4 then s1.retireLink p l
  else match x.state with
    | .a16 => go (chooseLanes x.faulted)
    | .a8 h => if h &&& lanes = 0#16 then s1 else go (chooseQuarter h x.faulted)
    | .a4 q => if q &&& lanes = 0#16 then s1 else s1.retireLink p l
    | .train m => if m &&& lanes = 0#16 then s1 else go (chooseLanes x.faulted)
    | .retired => s1

/-- A lane fault (R274). -/
def State.laneFault (s : State) (p l lane : Nat) : State :=
  (s.updLink p l (fun x => { x with crcFails := x.crcFails.filter (fun c => c.1 != lane) })).faultLanes p l (1#16 <<< (lane % 16))

def execLaneFault (p l lane : Nat) (s : State) : Out := .next (s.laneFault p l lane)

/-- R353: the partner's training pattern reaches this end. The pattern tells the lanes that are faulted at the partner, so that both ends choose
the same lanes (R355: both at lanes 8 to 15, mask 0x0020); one that tells none is a retrain over every lane (DEDUCED, log entry 100). -/
def execTrainingPatternArrival (p : Nat) (l : Pattern) (s : State) : Out :=
  let lanes := BitVec.ofNat 16 l.faulted
  .next (if (s.link p l.link).state = .retired then s else if lanes = 0#16 then s.train p l.link 0xFFFF#16 else s.faultLanes p l.link lanes)

/-- The width that training over `chosen` gives when `passed` have passed it: the chosen lanes, or after a retrain over all lanes what of
them Table 15.2 can use; none while a chosen lane has not passed. -/
def trained (chosen passed : BitVec 16) : Option (LinkState × Nat) :=
  let within (c : BitVec 16) : Bool := passed &&& c == c
  if chosen = 0xFFFF#16 then
    if passed = 0xFFFF#16 then some (.a16, 16)
    else match laneHalf.find? within with
      | some h => some (.a8 h, 8)
      | none => (laneQuarters.find? within).map (fun q => (.a4 q, 4))
  else if !within chosen then none
  else if laneHalf.contains chosen then some (.a8 chosen, 8)
  else some (.a4 chosen, 4)

/-- Training ends, `lanes` having passed it and the partner reporting `last` as the last frame it accepted (R353): each end's report
acknowledges what it has accepted, this end's in a null frame, and both ends replay, on the lanes chosen at the entry of TRAIN (Table 15.2). -/
def execTrainDone (p l lanes last : Nat) (s : State) : Out :=
  match (s.link p l).state with
  | .train chosen =>
    let m := BitVec.ofNat 16 lanes
    match trained chosen m with
    | none => .next (if chosen = 0xFFFF#16 then s.retireLink p l else s)
    | some (a, w) =>
      let c := s.cyc
      let s1 := s.updLink p l (fun x => { ({ x with state := .train chosen }.acked c (last % 4096)) with state := a, unacked := 0 })
      let s2 := (s1.record (8 * p) 0x06 (linkSource p l) ((s1.link p l).eventData w)).sendControl p l 0 0 (some (((s1.link p l).rxNext + 4095) % 4096))
      .next (s2.updLink p l (fun x => x.replay c))
  | _ => .next s

def execTrainTimeout (p l since : Nat) (s : State) : Out :=
  match (s.link p l).state with
  | .train _ => .next (if (s.link p l).trainStart = since then s.retireLink p l else s)
  | _ => .next s

/-- A lane of a received frame that failed its CRC: which lane is not stated, and the count of R274 is kept per lane. -/
def State.crcFail (s : State) (p l : Nat) : State :=
  let lane := Config.crcLane s.nonce % 16
  let x := s.link p l
  let recent := (lane, s.cyc) :: x.crcFails.filter (fun c => decide (s.cyc < c.2 + 3600000))
  let s1 := { s.updLink p l (fun y => { y with crcFails := recent }) with nonce := s.nonce + 1 }
  if 8 ≤ (recent.filter (fun c => c.1 == lane)).length then s1.laneFault p l lane else s1

/-- A dropped frame: the first for an expected sequence sends one replay request (R273). -/
def State.dropFrame (s : State) (p l : Nat) : State :=
  let x := s.link p l
  if x.asked = some x.rxNext then s
  else
    ((s.updLink p l (fun y => { y with asked := some y.rxNext })).sendControl p l 2 x.rxNext none).schedule (s.cyc + 360)
      (.replayRequestTimeout p l x.rxNext)

/-- R273: 360 cy after a request without the expected frame, the request is sent again. -/
def execReplayRequestTimeout (p l seq : Nat) (s : State) : Out :=
  let x := s.link p l
  if x.asked = some seq ∧ x.rxNext = seq then
    .next ((s.sendControl p l 2 seq none).schedule (s.cyc + 360) (.replayRequestTimeout p l seq))
  else .next s

/-- R273: 360 cy after the oldest frame not yet acknowledged. -/
def execAckTimeout (p l since : Nat) (s : State) : Out :=
  let x := s.link p l
  if 0 < x.unacked ∧ x.oldest = since then .next (s.sendAck p l) else .next s

/-! ## Transactions -/

/-- What a port whose buffer repair leaves `c` frames grants its VCs, by VC, and its shared pool (R277); none retires the port. -/
def vcGrants (c : Nat) : Option (List (Nat × Nat) × Nat) :=
  if c < 8 then none
  else if 224 ≤ c then
    some ((List.range 16).map (fun v => (v, if 2 ≤ v ∧ v ≤ 13 then 16 else 8)), c - 224)
  else
    let step (a : List (Nat × Nat) × Nat) (v n keep : Nat) : List (Nat × Nat) × Nat :=
      if n + keep ≤ a.2 then (a.1 ++ [(v, n)], a.2 - n) else (a.1 ++ [(v, 0)], a.2)
    let one := step ([(0, 8)], c - 8) 1 8 8
    let red := (List.range 8).foldl (fun a i => step a (i + 2) 16 8) one
    let rest := min 8 red.2
    some (red.1 ++ (List.range 5).map (fun i => (i + 10, 0)) ++ [(15, rest)], red.2 - rest)

/-- The VCs that close at such a port: VC 1 to 9 without a grant (R277). -/
def closedVcs (c : Nat) : Option (List Nat) :=
  (vcGrants c).map (fun g => (g.1.filter (fun e => decide (1 ≤ e.1 ∧ e.1 ≤ 9 ∧ e.2 = 0))).map Prod.fst)

/-- The VC a flit travels on at a port: VCs 10 to 14 have no reserve after a repair that leaves fewer than 224 frames, and their flits take
VC 15 (R277). -/
def State.vcAt (s : State) (p port vc : Nat) : Nat :=
  match (s.pkg p).buffers.find? (fun e => e.1 == port) with
  | some (_, c) => if c < 224 ∧ 10 ≤ vc ∧ vc ≤ 14 then 15 else vc
  | none => vc

/-- Cuts bytes into flits of 256 (R272). -/
def chunks256 : Nat → List Byte → List (List Byte)
  | 0, _ => []
  | n + 1, l => if l.length ≤ 256 then [l] else l.take 256 :: chunks256 n (l.drop 256)

/-- Flits of a transaction that reaches the switch of package `p` after `wait` cycles leave for another module, each with its offset field
(R271, R272, R278); `owner` waits for the end-to-end status. -/
def State.sendFlits (s : State) (owner : Option Nat) (wait p vc op dst key tag : Nat) (fs : List (Nat × List Byte)) : State :=
  let q := match s.route p dst key with | some e => e.1 | none => p
  let c := s.cyc
  (fs.zip (List.range fs.length)).foldl (fun a fi =>
    let last := decide (fi.2 + 1 = fs.length)
    let f : Frame := { (default : Frame) with vc := vc, last := last, op := op, src := s.podModule, dst := dst, tag := tag % 65536, key := key
                                              offset := fi.1.1, bytes := fi.1.2, e2e := a.e2eNext }
    let e : Sending := { due := c + wait + if q = p then 0 else 48, pkg := p, owner := owner, frame := f }
    { a with outbox := a.outbox ++ [e], e2eNext := (a.e2eNext + 1) % 4294967296 }) s

/-- A transaction of this module, which reaches the switch of package `p` after `wait` cycles, leaves for module `dst`, or goes to its own key
check when `dst` is this module. A source without an end-to-end status 360,000 cy after its last flit raises a fault (R275). -/
def State.sendTxn (s : State) (owner : Option Nat) (wait p vc op dst key off n tag : Nat) (bytes : List Byte) : State :=
  if dst = s.podModule then
    let c := s.cyc
    let s1 := s.schedule (c + wait + if key / 33554432 % 8 = p then 0 else 48) (.keyCheck dst op (BitVec.ofNat 32 key) off n tag bytes)
    match owner with
    | some id => s1.schedule (c + wait + 360000) (.e2eTimeout id)
    | none => s1
  else
    let fs := chunks256 (bytes.length / 256 + 1) bytes
    s.sendFlits owner wait p vc op dst key tag ((fs.zip (List.range fs.length)).map (fun fi => (off + 256 * fi.2, fi.1)))

/-- Flits of a contribution, a result or a multicast: bucket sequence and first element in the offset field (Table 15.1). -/
def State.sendBucket (s : State) (owner : Option Nat) (wait p vc op dst key seq tag size : Nat) (bytes : List Byte) : State :=
  let fs := chunks256 (bytes.length / 256 + 1) bytes
  s.sendFlits owner wait p vc op dst key tag
    ((fs.zip (List.range fs.length)).map (fun fi => (seq % 4294967296 + 4294967296 * (256 * fi.2 / max 1 size % 65536), fi.1)))

/-- The transfer or escrowed write whose last flit it is. -/
def Sending.ends (e : Sending) : Option Nat := if e.frame.last then e.owner else none

/-- A flit reaches its link: it enters the link's queue on its VC, or waits for a VC that is closed there (R277). Where every way is retired it
is lost (R275). The source of a transaction waits 360,000 cy from the end of its last flit. -/
def State.leave (s : State) (e : Sending) : State :=
  let c := s.cyc
  match s.route e.pkg e.frame.dst e.frame.key with
  | none => match e.ends with
    | some id => s.schedule (c + 360000) (.e2eTimeout id)
    | none => s
  | some (q, l) =>
    let vc := s.vcAt q l e.frame.vc
    if (s.pkg q).closed.contains (l, vc) then { s with outbox := s.outbox ++ [e] }
    else
      let s1 := s.sendData q l { e.frame with vc := vc }
      match e.ends with
      | some id => s1.schedule (max c (ceilDiv (s1.link q l).busy 35) + 360000) (.e2eTimeout id)
      | none => s1

/-- The flits that reach their links in this cycle. -/
def State.flush (s : State) : State :=
  let due (e : Sending) : Bool := decide (e.due ≤ s.cyc)
  if s.outbox.any due then (s.outbox.filter due).foldl State.leave { s with outbox := s.outbox.filter (fun e => !due e) } else s

/-! ## The switch tree (Table 15.4) -/

/-- The child unit of a tile's switch at level 0 group, 1 block, 2 die, 3 package, 4 module, 5 the racks; a member in another module has
that module's number above its tile (`State.memberOf`). -/
def childOf (lvl k : Nat) : Nat := match lvl with
  | 0 => k
  | 1 => groupOf k
  | 2 => groupOf k / 16
  | 3 => dieOf k
  | 4 => pkgOf k
  | _ => k / 1048576
/-- The switch itself. -/
def switchOf (lvl k : Nat) : Nat := if 5 ≤ lvl then 0 else childOf (lvl + 1) k
/-- The lowest switch common to a list of tiles. -/
def rootLevel (ks : List Nat) : Nat :=
  match ks with
  | [] => 0
  | k :: r => ((List.range 5).find? (fun l => r.all (fun j => switchOf l j == switchOf l k))).getD 5
/-- Leg of a tile to a switch of a level, or back; to the racks, up to its module's switch. -/
def legOf (lvl : Nat) : Nat := match lvl with
  | 0 => 8
  | 1 => 16
  | 2 => 24
  | 3 => 40
  | _ => 88
/-- Ports of the tree that spans a list of tiles. -/
def portsOf (ks : List Nat) : List (Nat × Nat) :=
  (List.range (rootLevel ks + 1)).flatMap (fun l => (dedup (ks.map (childOf l))).map (fun c => (l, c)))
/-- Its switches. -/
def switchesOf (ks : List Nat) : List (Nat × Nat) :=
  (List.range (rootLevel ks + 1)).flatMap (fun l => (dedup (ks.map (switchOf l))).map (fun c => (l, c)))

/-- Other modules of a list of members, and the whole leg of a tile to their root switch, or back (R278, R290). -/
def otherModules (ks : List Nat) : List Nat := dedup ((ks.filter (fun k => decide (1048576 ≤ k))).map (fun k => k / 1048576 - 1))
def State.legTo (s : State) (ks : List Nat) : Nat :=
  let ms := otherModules ks
  legOf (rootLevel ks) + if ms.isEmpty then 0 else podPath (s.podModule :: ms)

/-- The first switch at which a flit from tile `k` meets the state of a tree (R287): on its way up, or else at the root. -/
def meets (ks : List Nat) (k : Nat) : Nat × Nat :=
  let root := rootLevel ks
  ((((List.range (root + 1)).map (fun l => (l, switchOf l k))).find? (fun w => (switchesOf ks).contains w)).getD (root, switchOf root (ks.headD 0)))

/-! ## Buckets at their root (R287, R358) -/

def State.updBucket (s : State) (c seq cast : Nat) (f : Bucket → Bucket) : State :=
  { s with buckets := s.buckets.map (fun b => if b.cohort = c ∧ b.seq = seq ∧ b.cast = cast then f b else b) }
def State.bucketAt (s : State) (c seq cast : Nat) : Bucket := (s.buckets.find? (fun b => b.cohort == c && b.seq == seq && b.cast == cast)).getD default

/-- A bucket fails: the failure reaches its members U′ + 2 cy later (R358). -/
def State.failBucket (s : State) (c seq cast st : Nat) : State :=
  let b := s.bucketAt c seq cast
  if b.failed ≠ 0 ∨ b.sent then s
  else
    let t := s.cyc + s.legTo ((s.cohorts.get c).members.map Member.tile) + 2
    (s.updBucket c seq cast (fun b => { b with failed := st, failAt := t })).schedule t (.bucketComplete c seq)

/-- A switch drops a flit and counts it (R285, R287). -/
def State.countStale (s : State) (lvl index : Nat) : State := { s with stale := s.stale.upd (8 * index + lvl) (fun n => n + 1) }

/-- The first switch at which a flit that enters this module by package `p` meets the state of a tree, going up and then down (R271, R287). -/
def entryMeets (ks : List Nat) (p : Nat) : Nat × Nat :=
  let k := ks.headD 0
  ([(3, p), (4, 0), (3, pkgOf k), (2, dieOf k), (1, groupOf k / 16), (0, groupOf k)].find? (fun w => (switchesOf ks).contains w)).getD (3, p)

/-- Switch `w` drops a flit that came in by package `p`, and tells its issuer after the last of its transaction (R287). -/
def State.dropFrom (s : State) (p : Nat) (f : Frame) (w : Nat × Nat) : State :=
  let s1 := s.countStale w.1 w.2
  if f.last then s1.sendTxn none 0 p 0 11 f.src f.key f.offset 1 f.tag [4#8] else s1

/-- Members of a cohort in this module, and its other modules. -/
def Cohort.here (h : Cohort) : List Member := h.members.filter (fun m => decide (m.tile < 1048576))
def Cohort.others (h : Cohort) : List Nat := dedup ((h.members.filter (fun m => decide (1048576 ≤ m.tile))).map (fun m => m.tile / 1048576 - 1))

/-- A tile is held by a running or preempted launch of a context with a primary thread that has not halted (R287); a start broadcast or
a HALT of this cycle counts as not yet made (R358). -/
def State.present (s : State) (k ctx : Nat) : Bool :=
  let alive (lid : Nat) (t : Tile) : Bool :=
    let l := s.launch lid
    l.ctx == ctx && decide (l.started < s.cyc) && (List.range l.nthr).any (fun i => let x := t.threads.get i; !x.halted || x.lastIssue == s.cyc)
  (match (s.tile k).prim with
   | some l => alive l (s.tile k)
   | none => false) || s.saves.any (fun v => v.tiles.any (fun x => x.1 == k && alive v.lid x.2))

/-- A contribution of another module to a cohort of this one: its issuer is no member, so it is dropped (R287); at the package switch that it
enters by where the cohort is not live (R285). -/
def State.strayFlit (s : State) (p : Nat) (f : Frame) : State :=
  let h := s.cohorts.get (f.key % 4096)
  s.dropFrom p f (if h.live && decide (h.gen = f.key / 4096 % 16) then entryMeets (h.members.map Member.tile) p else (3, p))

/-- `n` bytes fit a member's slot (R287). -/
def State.fitsSlot (s : State) (m : Member) (n : Nat) : Bool := decide (m.base + n ≤ ((s.tile m.tile).windows.get m.window).size)

/-- A result (`cast` 0) or a multicast of a cohort that spans modules enters by package `p`; the last flit sends it on to the members here
(R286, R289). One for a cohort without state here is dropped, a multicast's issuer with status ABSENT (R285, R287). -/
def State.farResult (s : State) (p : Nat) (f : Frame) (cast : Nat) : State :=
  let i := f.key % 4096
  let h := s.cohorts.get i
  let seq := f.offset % 4294967296
  let mine (b : Bucket) : Bool := b.cohort == i && b.seq == seq && b.cast == cast && b.opened
  if !h.live || decide (i = 0 ∨ h.gen ≠ f.key / 4096 % 16 ∨ f.key / 65536 ≠ s.podModule) || h.others.isEmpty then
    if cast = 0 then s.countStale 3 p else s.strayFlit p f
  else
    let bs := if s.buckets.any mine then s.buckets.map (fun b => if mine b then { b with result := b.result ++ f.bytes } else b)
      else s.buckets ++ [{ (default : Bucket) with cohort := i, seq := seq, cast := cast, opened := true, result := f.bytes }]
    let bytes := ((bs.find? mine).getD default).result
    if !f.last then { s with buckets := bs }
    else
      let dest := if cast = 0 then h.here else h.here.filter (fun m => s.fitsSlot m bytes.length && s.present m.tile h.ctx)
      let s1 : State := { s with buckets := bs.filterMap (fun b =>
        if !mine b then some b else if dest.isEmpty then none else some { b with sent := true, left := dest.length }) }
      let s2 := dest.foldl (fun a m => a.schedule (a.cyc + 88 + ceilDiv bytes.length 64) (.collectiveDelivery i m.tile m.window m.base seq bytes)) s1
      if cast = 0 then s2 else s2.sendTxn none 0 p 0 11 f.src f.key f.offset 1 f.tag [if dest.length = h.here.length then 0#8 else 4#8]

/-- The leg of a response or a status from the switch of package `p` to its transfer's tile, or to the escrow that holds its write (R278). -/
def State.backLeg (s : State) (p x : Nat) : Nat := match s.xfers.get x with
  | some v => ownLeg (pkgOf v.tile) p
  | none => match s.pkgs.find? (fun e => e.2.escrow.any (fun w => w.id == x)) with
    | some e => if e.1 = p then 0 else 48
    | none => 0

/-- A flit that a link has delivered to this module, towards its owner: requests go to the key check, responses and status to the
transfer that waits for them, results and multicasts to the members of their cohort (Table 15.1). Pod bells and control flits, whose contents
the spec does not give, change nothing here (log entry 35). -/
def State.deliver (s : State) (p : Nat) (f : Frame) : State :=
  if (s.pkg p).e2eSeen.contains (f.src, f.e2e) then s
  else
    let s0 := s.updPkg p (fun x => { x with e2eSeen := (f.src, f.e2e) :: x.e2eSeen })
    let owner := f.key / 33554432 % 8
    let at_ := s.cyc + (if owner = p then 0 else 48)
    let mine := (s.xfers.find? (fun e => match e.2 with
      | some x => e.1 % 65536 == f.tag && x.sent && !x.final
      | none => false)).map Prod.fst
    match f.op with
    | 1 => s0.schedule at_ (.keyCheck f.src 1 (BitVec.ofNat 32 f.key) f.offset (if f.last then f.bytes.length else 0) f.tag f.bytes)
    | 2 => s0.schedule at_ (.keyCheck f.src 2 (BitVec.ofNat 32 f.key) f.offset (natOfBytes (f.bytes.take 4)) f.tag f.bytes)
    | 4 => s0.schedule at_ (.keyCheck f.src 4 (BitVec.ofNat 32 f.key) f.offset 8 f.tag f.bytes)
    | 3 =>
      match mine with
      | some x =>
        let all := (s.xfer x).data ++ f.bytes
        if f.last then s0.schedule (s.cyc + s.backLeg p x) (.e2eStatus x 0 all) else s0.updXfer x (fun v => { v with data := all })
      | none => s0
    | 5 => match mine with
      | some x => s0.schedule (s.cyc + s.backLeg p x) (.e2eStatus x 0 f.bytes)
      | none => s0
    | 11 =>
      match (match mine with
        | some x => some x
        | none => ((s.pkgs.flatMap (fun e => e.2.escrow)).find? (fun w => w.id % 65536 == f.tag && w.released)).map EscrowWrite.id) with
      | some x => s0.schedule (s.cyc + s.backLeg p x) (.e2eStatus x (natOfBytes (f.bytes.take 1)) [])
      | none => s0
    | 6 => s0.strayFlit p f
    | 7 => s0.farResult p f 0
    | 8 => s0.farResult p f (4294967296 * (f.src + 1) + f.tag)
    | _ => s0

/-- A link end takes a frame whole (R273); an end in TRAIN or retired discards it (R353). -/
def execFrameReceive (p l : Nat) (bytes : List Byte) (s : State) : Out :=
  if !(s.link p l).state.up then .next s
  else match frameOf bytes with
    | none => .next ((s.crcFail p l).dropFrame p l)
    | some f =>
      let s1 := match f.ack with
        | some a => s.updLink p l (fun x => x.acked s.cyc a)
        | none => s
      match f.kind with
      | 0 => .next s1
      | 2 => .next (s1.updLink p l (fun x => x.replay s1.cyc))
      | 1 =>
        let x := s1.link p l
        if f.seq = x.rxNext then
          let c := s.cyc
          let s2 := s1.updLink p l (fun y => { y with rxNext := (y.rxNext + 1) % 4096, asked := none, unacked := y.unacked + 1
                                                      oldest := if y.unacked = 0 then c else y.oldest })
          let s3 := if x.unacked = 0 then s2.schedule (c + 360) (.ackTimeout p l c) else s2
          let s4 := if (s3.link p l).unacked = 16 then s3.sendAck p l else s3
          .next (s4.deliver p f)
        else .next (s1.dropFrame p l)
      | _ => .next (s1.dropFrame p l)

/-- R276: a bulk flit that has waited 1,024 cy for a credit moves to VC 15. -/
def execVcEscape (p l seq : Nat) (s : State) : Out :=
  let c := s.cyc
  let escape (f : Frame) : Frame := if f.seq = seq ∧ 10 ≤ f.vc ∧ f.vc ≤ 13 then { f with vc := 15 } else f
  .next (s.updLink p l (fun x =>
    { x with retry := x.retry.map escape, sent := x.sent.map (fun e => if waitsAt c e then (e.1, escape e.2) else e) }))

def execBufferRepair (p port c : Nat) (s : State) : Out :=
  let s1 := s.updPkg p (fun x => { x with buffers := x.buffers.set port c, closed := x.closed.filter (fun e => e.1 != port) })
  match closedVcs c with
  | none => .next (s1.retireLink p port)
  | some vs => .next (s1.updPkg p (fun x => { x with closed := x.closed ++ vs.map (fun v => (port, v)) }))

/-! ## Remote keys at their owner (R279, R282) -/

/-- The key of a region table entry (R279). -/
def regionKey (p e : Nat) (r : Region) : BitVec 32 :=
  BitVec.ofNat 32 (268435456 * (r.gen % 16) + 33554432 * (p % 8) + 65536 * (e % 512)) ||| r.check.setWidth 32

/-- Module `m` lies in the seal domain of a launch (R313, Table 18.4). -/
def State.inDomain (s : State) (lid m : Nat) : Bool :=
  if (s.launch lid).podSeal then
    decide (s.podFirst ≤ m ∧ m < s.podFirst + s.podCount)
  else m == s.podModule

/-- The new value of a level atomic (R212): 0 ADD, 1 MIN, 2 MAX, 3 SWAP, 4 CAS. -/
def amoNew (op : Nat) (old v cmp : Word) : Word :=
  match op with
  | 0 => old + v
  | 1 => if v.toInt < old.toInt then v else old
  | 2 => if old.toInt < v.toInt then v else old
  | 3 => v
  | _ => if old = cmp then v else old

/-- A CAS that fails writes nothing (R212). -/
def amoWrites (op : Nat) (old cmp : Word) : Bool := op != 4 || old == cmp

/-- A region table entry as the management interface gives it (Table 15.5). -/
def Region.entry (r : Region) : List Byte :=
  let flag (b : Bool) (n : Nat) : Nat := if b then n else 0
  bytesOfNat 1 (flag r.v 1 + flag r.r 2 + flag r.w 4 + flag r.a 8 + flag r.ext 16 + flag r.revoking 32) ++ bytesOfNat 1 (r.gen % 16) ++
  bytesOfNat 2 r.ctx ++ bytesOfNat 2 r.check.toNat ++ bytesOfNat 2 0 ++ bytesOfNat 8 r.base ++ bytesOfNat 8 r.len ++ bytesOfNat 8 0

/-- A package's region table as system software reads it (R279). -/
def State.regionTable (s : State) (p : Nat) : List Byte := (List.range 512).flatMap (fun e => ((s.pkg p).regions.get e).entry)

/-- The region that a key names. -/
def State.regionOf (s : State) (key : BitVec 32) : Region := (s.pkg (field key 27 25)).regions.get (field key 24 16)

/-- Cycles to the pages of a region in another package than the owning one, both ways (R278). -/
def awayTime (p : Nat) (l : List Seg) : Nat := if l.all (fun g => keyUnit g.key == p) then 0 else 96

/-- The check of R282 on a transaction's first flit, for its `n` bytes: the state, with what its translation leaves in the package's cache,
the cycles of a walk (R199) and of the way to another package's pages, and a status of Table 11.7 or the pieces that it reaches. The cache is the
one of the package's stream engines: the spec names no other at a package switch (DESIGN CHOICE, log entry 101). -/
def State.keyVerdict (s : State) (src op : Nat) (key : BitVec 32) (off n : Nat) : State × Nat × Except Nat (List Seg) :=
  let p := field key 27 25
  let e := field key 24 16
  let r := s.regionOf key
  if !r.v || decide (r.gen ≠ field key 31 28) then (s, 0, .error 2)
  else
    let right := match op with
      | 1 => r.w
      | 2 => r.r
      | _ => r.a
    if decide (e = 0) || decide (r.check ≠ key.setWidth 16) || decide (r.len < off + n) || !right || (!s.inDomain r.lid src && !r.ext) then
      (s, 0, .error 3)
    else
      let refuse := match op with
        | 1 => refuseWrite
        | 2 => refuseRead
        | _ => refuseAtomic
      match s.mapRun (.pkg p) r.ctx refuse (n / 4096 + 2) (r.base + off) n with
      | (s1, w, .ok l) => (s1, w + awayTime p l, .ok l)
      | (s1, w, .error _) => (s1, w, .error 3)

/-- An answer to a transaction of module `src`, under the transaction's own key and offset (Table 15.1): its own transfer's, or flits back. -/
def State.answer (s : State) (p src tag op st delay : Nat) (key : BitVec 32) (off : Nat) (bytes : List Byte) : State :=
  if src = s.podModule then s.schedule (s.cyc + delay + s.backLeg p tag) (.e2eStatus tag st bytes)
  else if st ≠ 0 ∨ op = 11 then s.sendTxn none delay p 0 11 src key.toNat off 1 tag [BitVec.ofNat 8 st]
  else s.sendTxn none delay p 10 op src key.toNat off bytes.length tag bytes

/-- The launch whose recovery a remote write belongs to (R314): the issuing launch of this module, or the one that minted the key where the
peer lies in its pod seal domain; 0 for none. -/
def State.writerOf (s : State) (src tag : Nat) (key : BitVec 32) : Nat :=
  let l := (s.regionOf key).lid
  if src = s.podModule then (s.xfer tag).lid else if (s.launch l).podSeal && s.inDomain l src then l else 0

/-- A transaction of the owner's list, by its source and tag. -/
def Txn.named (src tag : Nat) (t : Txn) : Bool := t.src == src && t.tag == tag

/-- What KEY_CHECK is asked when an accepted deposit or atomic is due at its memory: no operation of Table 15.1. -/
def performOp : Nat := 256

/-- An accepted transaction is performed `d` cycles from now (R278). -/
def State.accept (s : State) (p : Nat) (t : Txn) (l : List Seg) (d : Nat) : State :=
  (s.updPkg p (fun x => { x with txns := { t with whole := some l } :: x.txns })).schedule (s.cyc + d)
    (.keyCheck t.src performOp t.key t.off t.data.length t.tag [])

/-- A deposit has come whole: it is to be performed once its memory is reached, or nothing of it is, where the whole run breaks a check that its
first flit met (R278, R282). -/
def State.wholeTxn (s : State) (p : Nat) (t : Txn) (fresh : Bool) : State :=
  let n := t.data.length
  if t.status ≠ 0 then (if fresh then s.answer p t.src t.tag 11 t.status (4 + t.walk) t.key t.off [] else s)
  else if t.len < t.off + n then s.answer p t.src t.tag 11 3 4 t.key t.off []
  else match s.mapRun (.pkg p) t.ctx refuseWrite (n / 4096 + 2) (t.base + t.off) n with
    | (s1, w, .error _) => s1.answer p t.src t.tag 11 3 (4 + max t.walk w) t.key t.off []
    | (s1, w, .ok l) => s1.accept p t l (164 + ceilDiv n 32 + max t.walk (w + awayTime p l) - awayTime p l / 2)

/-- A flit of a deposit reaches the region table: the first is checked, and what was accepted is performed with the last (R282). -/
def State.depositFlit (s : State) (p src tag : Nat) (key : BitVec 32) (off : Nat) (last : Bool) (bytes : List Byte) : State :=
  let mine (t : Txn) : Bool := t.named src tag && t.whole.isNone
  match (s.pkg p).txns.find? mine with
  | none =>
    let r := s.regionOf key
    match s.keyVerdict src 1 key off bytes.length with
    | (s1, w, v) =>
      let t : Txn := { src := src, tag := tag, op := 1, key := key, status := match v with | .ok _ => 0 | .error e => e
                       ctx := r.ctx, base := r.base, len := r.len, lid := s.writerOf src tag key, off := off, data := bytes, walk := w, whole := none }
      if last then s1.wholeTxn p t true
      else
        let s2 := s1.updPkg p (fun x => { x with txns := t :: x.txns })
        if t.status = 0 then s2 else s2.answer p src tag 11 t.status (4 + w) key off []
  | some t =>
    let t1 := { t with data := t.data ++ bytes }
    if last then (s.updPkg p (fun x => { x with txns := x.txns.filter (fun y => !mine y) })).wholeTxn p t1 false
    else s.updPkg p (fun x => { x with txns := x.txns.map (fun y => if mine y then t1 else y) })

/-- An accepted deposit or atomic reaches its memory: it waits there for room in the logs (R318), and is performed whole; its status, or the old
value of an atomic, goes back (R278). An atomic's request has its operation, v and its comparand at 0, 8 and 16. -/
def State.performTxn (s : State) (p src tag : Nat) : State :=
  match (s.pkg p).txns.find? (fun t => t.named src tag && t.whole.isSome) with
  | none => s
  | some t =>
    let l := t.whole.getD []
    let c := s.cyc
    if s.levelShut t.lid l then s.schedule (c + 1) (.keyCheck src performOp t.key t.off t.data.length tag [])
    else
      let s1 := s.updPkg p (fun x => { x with txns := x.txns.filter (fun y => !(y.named src tag && y.whole.isSome)) })
      let put (bs : List Byte) : State := (s1.writeSegs t.lid 0 l bs).noteKeys (segKeys l)
      if t.op = 1 then (put t.data).answer p src tag 11 0 (awayTime p l / 2) t.key t.off []
      else
        let old := word (natOfBytes (s.segBytes l))
        let o := natOfBytes (t.data.take 1)
        let v := word (natOfBytes ((t.data.drop 8).take 8))
        let cmp := word (natOfBytes ((t.data.drop 16).take 8))
        (if amoWrites o old cmp then put (bytesOfNat 8 (amoNew o old v cmp).toNat) else s1).answer p src tag 5 0 (awayTime p l / 2) t.key t.off
          (bytesOfNat 8 old.toNat)

/-- Some byte of a run lies behind an uncorrectable error (R324). -/
def State.segPoison (s : State) (l : List Seg) : Bool := l.any (fun g => (List.range g.len).any (fun i => s.poison.get ((g.key + i) / 64)))

/-- A get of a peer has read its run: its bytes go back. One of this module knows from the run which of its units have an error; to another
module, whose frames have no place to tell them, POISON goes back alone (R211, R324; DESIGN CHOICE, log entry 102). -/
def State.answerGet (s : State) (p src tag : Nat) (key : BitVec 32) (off delay : Nat) (l : List Seg) : State :=
  if src = s.podModule then (s.updXfer tag (fun x => { x with segs := l })).answer p src tag 3 0 delay key off (s.segBytes l)
  else if s.segPoison l then s.answer p src tag 11 6 delay key off []
  else s.answer p src tag 3 0 delay key off (s.segBytes l)

/-- A transaction reaches the region table (R282): 1 DEPR data (`n` = 0 on a flit that is not the last), 2 GETR request for `n` bytes,
4 AMOR request; and an accepted one its memory. -/
def execKeyCheck (src op : Nat) (key : BitVec 32) (off n tag : Nat) (bytes : List Byte) (s : State) : Out :=
  let p := field key 27 25
  if op = performOp then .next (s.performTxn p src tag)
  else if op = 1 then .next (s.depositFlit p src tag key off (n != 0) bytes)
  else match s.keyVerdict src op key off n with
    | (s0, w, .error st) => .next (s0.answer p src tag 11 st (4 + w) key off [])
    | (s0, w, .ok l) =>
      if op = 2 then .next (s0.answerGet p src tag key off (164 + ceilDiv n 32 + w) l)
      else
        let r := s.regionOf key
        let t : Txn := { src := src, tag := tag, op := 4, key := key, status := 0, ctx := r.ctx, base := r.base, len := r.len
                         lid := s.writerOf src tag key, off := off, data := bytes, walk := w, whole := none }
        .next (s0.accept p t l (164 + 1 + w - awayTime p l / 2))

end Sys2Proof.Machine
end

