-- ==== Sys2Proof/Machine/Batch.lean ====
section
/-!
DEFINITION. The end of a transfer: what it holds of the escrow (R210), its final state, the batches and exchanges that wait for it (R214,
R215, R264), and its local completion.
-/

namespace Sys2Proof.Machine

/-! ## Bytes and reservations (R210, R282) -/

/-- The peer module of a key, from the launch's key table (R282). -/
def State.peerOf (s : State) (lid key : Nat) : Option Nat := ((s.launch lid).keys.find? (fun e => e.1 == key)).map Prod.snd

/-- Level-side byte count of a transfer that has been issued. -/
def State.xferBytes (s : State) (x : Xfer) : Nat :=
  match x.kind with
  | .amo _ _ _ => 8
  | _ => if x.space = 1 then x.n * (s.tensorDir (dieOf x.tile) x.tag).elem else if x.cv then x.n * max 1 (fmtBits x.fmt / 8) else x.n

/-- Bytes of the escrow that a write takes. -/
def EscrowWrite.size (w : EscrowWrite) : Nat := if w.kind = 2 then 8 else w.data.length

/-- Bytes of an irrevocable write (R210); none when the write is not one. -/
def State.irrevocable (s : State) (x : Xfer) : Option Nat :=
  if !(s.launch x.lid).recover || x.thread = 8 || x.kind == .get then none
  else match x.space with
    | 3 => some (s.xferBytes x)
    | 4 =>
      match x.kind, s.peerOf x.lid x.tag with
      | .amo _ _ _, _ => none
      | _, some m => if s.inDomain x.lid m then none else some (s.xferBytes x)
      | _, none => none
    | _ => none

/-! ## Waits on transfers (R214, R215) -/

/-- A transfer counts as finished for its batch (R214). -/
def Xfer.finished (x : Xfer) : Bool := x.final || (x.kind != .get && x.local_done)

/-- The transfers of a thread. -/
def State.xfersOf (s : State) (k t : Nat) : List (Nat × Xfer) :=
  s.xfers.filterMap (fun e => match e.2 with
    | some x => if x.tile = k ∧ x.thread = t then some (e.1, x) else none
    | none => none)

/-- Sealed batches of a thread that are unfinished. -/
def State.unfinished (s : State) (k t : Nat) : Nat :=
  (dedup (((s.xfersOf k t).filter (fun e => !e.2.finished && decide (e.2.batch < (s.thread k t).nextBatch))).map (fun e => e.2.batch))).length

/-- What BWAIT returns (R215). -/
def State.batchWord (s : State) (k t : Nat) : Word :=
  let x := s.thread k t
  word (x.badStatus % 16) ||| (word (x.nextBatch - s.unfinished k t) <<< 32)

/-- A BWAIT whose condition now holds ends. The wake after an exact wait counts in no counter; after a counted one it does. -/
def State.settleBatch (s : State) (k t : Nat) : State :=
  match (s.thread k t).wait with
  | .batch n rd =>
    if s.unfinished k t ≤ n then
      let v := s.batchWord k t
      let c := if (s.thread k t).spare = 0 then none else some 2
      ((s.wake k t c).deliverW k t rd v).updThread k t (fun x => { x with badStatus := 0, spare := 0 })
    else s
  | _ => s

/-- Exchanges that wait for a transfer's end try again. -/
def State.nudgeBells (s : State) : State :=
  s.bells.foldl (fun a b =>
    if b.phase = 1 ∧ b.upto ≤ s.cyc then a.schedule s.cyc (.writeHalf b.lid b.lvl b.inst)
    else if (b.phase = 2 ∨ b.phase = 3) ∧ b.upto ≤ s.cyc then a.schedule s.cyc (.bellRelease b.lid b.lvl b.inst) else a) s

/-- R264, R278: a write half lasts up to the end-to-end status of its last transaction, and the release bell, or the seal of a SEAL,
follows that. -/
def State.stretchBells (s : State) (x : Xfer) : State :=
  let held (b : Bell) : Bool := x.space == 4 && x.sent && x.kind != .get && b.lid == x.lid && decide (x.scope ≤ b.lvl) &&
    instOf b.lvl x.tile == b.inst && !b.isFinal && (b.phase == 2 || b.phase == 3)
  let next (b : Bell) : Nat := s.cyc + if b.phase = 2 then 8 * (s.launch b.lid).nthr + 4 else (s.launch b.lid).bellTime b.lvl
  s.bells.foldl (fun a b => if held b && decide (b.upto < next b) then a.schedule (next b) (.bellRelease b.lid b.lvl b.inst) else a)
    { s with bells := s.bells.map (fun b => if held b then { b with upto := max b.upto (next b) } else b) }

/-- A transfer of a saved launch reaches its final state in the save area (R295, R308). -/
def State.finishSaved (s : State) (id st : Nat) : State :=
  { s with saves := s.saves.map (fun v =>
      match v.xfers.find? (fun e => e.1 == id) with
      | none => v
      | some (_, x) =>
        let bad (t : Thread) : Thread := if t.badStatus = 0 then { t with badStatus := st } else t
        { v with xfers := v.xfers.filter (fun e => e.1 != id)
                 tiles := v.tiles.map (fun e => if e.1 = x.tile then (e.1, { e.2 with threads := e.2.threads.upd x.thread bad }) else e) }) }

/-- A transfer reaches its final state (R215). -/
def State.finish (s : State) (id st : Nat) : State :=
  let x := s.xfer id
  if (s.xfers.get id).isNone then s.finishSaved id st
  else if x.final then s
  else
    let s1 := (s.updXfer id (fun v => { v with final := true, local_done := true, ready := true, status := st, ticket := 0 })).updThread x.tile x.thread
      (fun t => if t.badStatus = 0 then { t with badStatus := st } else t)
    let s1 := match if st = 0 then none else s.irrevocable x with
      | some n => s1.updPkg (pkgOf x.tile) (fun q => { q with escrowUsed := q.escrowUsed - n })
      | none => s1
    let s2 := ((s1.settleBatch x.tile x.thread).stretchBells x).nudgeBells
    ({ s2 with xfers := s2.xfers.set id none }).askRetire x.tile

/-- A transfer has completed locally (R214). -/
def State.localDone (s : State) (id : Nat) : State :=
  let x := s.xfer id
  (s.updXfer id (fun v => { v with local_done := true, ready := true })).settleBatch x.tile x.thread

end Sys2Proof.Machine
end

