-- ==== Sys2Proof/Machine/Fetch.lean ====
section
/-!
DEFINITION. The instruction window, its refill through the group fetch port (R90 to R95), and which thread of a tile issues in a
cycle (R11, R12, R79, R96, R298).
-/

namespace Sys2Proof.Machine

/-- Lines of a thread's window share (R90): 128 / L, or 16 for the filler. -/
def Thread.share (t : Thread) : Nat := if t.fill then 16 else 128 / 2 ^ t.lcode

/-- A text line is in the thread's window share. -/
def Thread.hasLine (t : Thread) (line : Nat) : Bool := t.lines.get (line % t.share) == line + 1

/-- The line is written into the share (R90): direct-mapped. -/
def Thread.putLine (t : Thread) (line : Nat) : Thread :=
  { t with lines := t.lines.set (line % t.share) (line + 1), refill := t.refill.filter (fun l => l != line) }

/-- The text lines that the instruction at Q0 needs: one, or two for a 32-bit word at line offset 62 (R92). -/
def State.linesAt (s : State) (k t : Nat) (x : BitVec 18) : List Nat :=
  let l := x.toNat / 64
  if x.toNat % 64 = 62 ∧ (s.textHalf k t x).getLsbD 0 then [l, (x + 2#18).toNat / 64] else [l]

/-- Every line the instruction at Q0 needs is present (R79, R92). -/
def State.textPresent (s : State) (k t : Nat) : Bool :=
  let x := s.thread k t
  (s.linesAt k t x.q0).all x.hasLine

/-- The fetch slot at or after cycle `c` (R91, R301). -/
def fetchSlot (k c : Nat) : Nat := if isProctor k then c else c + (16 + k % 16 - c % 16) % 16

/-- Asks for the lines that the next instruction of a thread misses, from cycle `c` on (R91, R92, R94). -/
def State.requestFrom (s : State) (k t c : Nat) : State :=
  let x := s.thread k t
  let missing := (s.linesAt k t x.q0).filter (fun l => !x.hasLine l && !x.refill.contains l)
  let q := fetchSlot k c
  (missing.zip (List.range missing.length)).foldl (fun a li =>
    let at_ := if isProctor k then q + li.2 else q + 16 * li.2
    let a1 := a.updThread k t (fun y => { y with refill := li.1 :: y.refill })
    if t = 8 then a1.schedule at_ (.fillerFetch k li.1) else a1.schedule (at_ + 6) (.lineRefill k t li.1)) s

/-- After a thread has issued or trapped in this cycle (R91). -/
def State.requestNext (s : State) (k t : Nat) : State :=
  let x := s.thread k t
  if x.live && !x.halted then s.requestFrom k t (s.cyc + 1) else s

/-- R91, R95: a requested line is written into the share. -/
def execLineRefill (k t line : Nat) (s : State) : Out :=
  .next (if (s.thread k t).refill.contains line then s.updThread k t (fun x => x.putLine line) else s)

/-- The window is emptied and holds these lines, and the thread issues from cycle `c` on with its stall count passed. -/
def State.fillWindow (s : State) (k t c : Nat) (ls : List Nat) : State :=
  s.updThread k t (fun x => { (ls.foldl Thread.putLine { x with lines := [], refill := [] }) with notBefore := c, stallDone := true })

/-- The first fetch ends (Table 4.7, stage 6): the thread's entry line is present, and the second line of a word at Q0 that straddles
two is requested from this cycle on (R91, R92). -/
def State.primeThread (s : State) (k t c : Nat) : State :=
  (s.fillWindow k t c [(s.thread k t).q0.toNat / 64]).requestFrom k t c

/-- R94: a filler line is read in the tile's slot when fewer than 8 primary lines are read in it, or retried in the next frame. -/
def execFillerFetch (k line : Nat) (s : State) : Out :=
  let primary := s.events.filter (fun e =>
    match e.2 with
    | .lineRefill k' t _ => decide (e.1 = s.cyc + 6 ∧ k' = k ∧ t < 8)
    | _ => false)
  if primary.length < 8 then .next (s.schedule (s.cyc + 6) (.lineRefill k 8 line))
  else .next (s.schedule (s.cyc + 16) (.fillerFetch k line))

/-- Stall count of the word at Q0: bits [3:1] of a 32-bit word, 0 of a 16-bit word (R79, R80). -/
def stallOf (w : BitVec 32) : Nat := if w.getLsbD 0 then (stallCount w).toNat else 0

/-- What a thread does in its own slot. -/
inductive Act where
  /-- Takes its pending TICK (R298, R300). -/
  | tick (t : Nat)
  /-- Issues the annulled instruction at Q0 (R116). -/
  | annul (t : Nat)
  /-- Issues the word at Q0. -/
  | issue (t : Nat) (w : BitVec 32)
  deriving DecidableEq, Repr

/-- What thread `t` of tile `k` does in this cycle, if it may issue (R96, R298). -/
def State.ready (s : State) (k t : Nat) : Option Act :=
  let x := s.thread k t
  let tl := s.tile k
  if x.live && !x.halted && !x.stopped && !(if t = 8 then tl.fillParked else tl.parked) && (x.wait == Wait.none)
      && decide (x.notBefore ≤ s.cyc) && s.textPresent k t then
    let w := s.textWord k t x.q0
    if x.n0 || x.stallDone || decide (x.lastIssue + (stallOf w + 1) * x.rot ≤ s.cyc) || decide (x.lastIssue = 0 ∧ x.n0) then
      if decide (0 < x.ticks) && x.tie && !x.inTrap then some (.tick t)
      else if x.n0 then some (.annul t)
      else some (.issue t w)
    else none
  else none

/-- The owner of this cycle's slot on a tile (R11). -/
def State.owner (s : State) (k : Nat) : Nat := s.cyc % 2 ^ ((s.tile k).threads.get 0).lcode

/-- What tile `k` does in this cycle: its slot's owner, or the filler in a granted slot that the owner leaves empty (R11, R12). -/
def State.tileAct (s : State) (k : Nat) : Option Act :=
  let prim := if (s.tile k).prim.isSome || isProctor k then s.ready k (s.owner k) else none
  match prim with
  | some a => some a
  | none =>
    match (s.tile k).filler with
    | some _ =>
      let grant := match (s.tile k).prim with
        | some l => (s.launch l).grant
        | none => 0#8
      if grant.getLsbD (s.cyc % 8) then s.ready k 8 else none
    | none => none

/-- The first tile from `cursor` up that acts in this cycle; none in a module that a failed boot keeps from starting (R337). -/
def State.nextAct (s : State) : Option (Nat × Act) :=
  if s.bootFailed then none else s.tiles.findSome? (fun e => if e.1 < s.cursor then none else (s.tileAct e.1).map (fun a => (e.1, a)))

/-- The thread that an act is about. -/
def Act.thread : Act → Nat
  | .tick t => t
  | .annul t => t
  | .issue t _ => t

/-- The launch runs, or is about to. -/
def LState.runs : LState → Bool
  | .starting => true
  | .running => true
  | _ => false

/-- The stream program with a command due: the lowest-numbered one that runs (R224). A launch that is stopped, or stopping, holds its
programs at command boundaries (R238). -/
def State.dueProg (s : State) : Option Nat :=
  (s.progs.find? (fun e => decide (e.2.st = 1 ∧ e.2.due ≤ s.cyc) && (s.launch e.2.lid).state.runs)).map Prod.fst

/-- The command word at a program's counter (R221, R224); none past the end of the program. -/
def State.command (s : State) (key : Nat) : Option Word :=
  let p := s.prog key
  match (s.launch p.lid).progs[p.number]? with
  | some ws => ws[p.pc]?
  | none => none

/-- The state in which tile `k` takes its turn. -/
def State.turn (s : State) (k t : Nat) : State := { s with cursor := k + 1, curTile := k, curThread := t }

end Sys2Proof.Machine
end

