-- ==== Sys2Proof/Machine/Vector.lean ====
section
/-!
DEFINITION. The vector arithmetic, integer, logic, shift, compare, select and classify instructions (R132 to R143) and their 16-bit
forms (R154). Each is a lane function over one shared operation.
-/

namespace Sys2Proof.Machine

/-! ## Shared operations (R133, R134) -/

/-- Active lanes take `f`; the others keep their value (R133, predicate). -/
def mergeLanes (mk : Mask) (old : Vec) (f : Nat → Lane) : Vec := ofLanes (fun i => if mk.getLsbD i then f i else lane old i)

/-- R134: vd is read by a predicated instruction whose mask3 is not 0. -/
def State.chkOld (s : State) (d : BitVec 5) (m : BitVec 3) : Option TrapReq := if m = 0#3 then none else s.chkV d

/-- The checks of a predicated instruction: its v sources, vd where it is read, and the mask. -/
def State.vchecks (s : State) (src : List (BitVec 5)) (d : BitVec 5) (m : BitVec 3) : List (Option TrapReq) :=
  src.map s.chkV ++ [s.chkOld d m, s.chkM m.toNat]

/-- Predicated write of vd, lane by lane, with latency `lat`. -/
def State.setLanes (s : State) (d : BitVec 5) (m : BitVec 3) (lat : Nat) (f : Nat → Lane) : State :=
  s.writeV d lat (mergeLanes (s.readM m.toNat) (s.readV d) f)

/-- vd.lane := op(va.lane, vb.lane), predicated. -/
def State.vbin (s : State) (d a b : BitVec 5) (m : BitVec 3) (lat : Nat) (op : Lane → Lane → Lane) : Out :=
  s.guarded (s.vchecks [a, b] d m) fun s =>
    .next ((s.setLanes d m lat (fun i => op (lane (s.readV a) i) (lane (s.readV b) i))).retire)

/-- vd.lane := op(va.lane), predicated. -/
def State.vun (s : State) (d a : BitVec 5) (m : BitVec 3) (lat : Nat) (op : Lane → Lane) : Out :=
  s.guarded (s.vchecks [a] d m) fun s => .next ((s.setLanes d m lat (fun i => op (lane (s.readV a) i))).retire)

/-- vd.lane := op(va.lane, vb.lane, vd.lane), predicated; vd is an operand. -/
def State.vtri (s : State) (d a b : BitVec 5) (m : BitVec 3) (lat : Nat) (op : Lane → Lane → Lane → Lane) : Out :=
  s.guarded [s.chkV a, s.chkV b, s.chkV d, s.chkM m.toNat] fun s =>
    .next ((s.setLanes d m lat (fun i => op (lane (s.readV a) i) (lane (s.readV b) i) (lane (s.readV d) i))).retire)

/-- md[i] := mk[i] and the condition; the whole of md is written (R141). -/
def State.vcmp (s : State) (d a b : BitVec 5) (m : BitVec 3) (op : Lane → Lane → Bool) : Out :=
  s.guarded [s.chkV a, s.chkV b, s.chkM m.toNat] fun s =>
    .next ((s.writeM d.toNat 2 (ofBits16 (fun i => s.active m.toNat i && op (lane (s.readV a) i) (lane (s.readV b) i)))).retire)

/-! ## FP32 arithmetic (R136 to R138) -/

def fAdd (a b : Lane) : Lane := f32 ((fval a).add (fval b))
def fSub (a b : Lane) : Lane := f32 ((fval a).sub (fval b))
def fMul (a b : Lane) : Lane := f32 ((fval a).mul (fval b))
def fFma (a b d : Lane) : Lane := f32 ((fval a).fma (fval b) (fval d))
def fFms (a b d : Lane) : Lane := f32 ((fval a).fma (fval b) (fval d).neg)
def fFnma (a b d : Lane) : Lane := f32 ((fval a).neg.fma (fval b) (fval d))
def fAbs (a : Lane) : Lane := if (fval a).isNan then 0x7FC00000#32 else a &&& 0x7FFFFFFF#32
def fNeg (a : Lane) : Lane := if (fval a).isNan then 0x7FC00000#32 else a ^^^ 0x80000000#32
def fRcp (a : Lane) : Lane := f32 ((FVal.fin false 1 0).div (fval a))
def fRsq (a : Lane) : Lane := f32 (fval a).rsqrt
def fSqrt (a : Lane) : Lane := f32 (fval a).sqrt
def fDiv (a b : Lane) : Lane := f32 ((fval a).div (fval b))
def fExp2 (a : Lane) : Lane := f32 (fval a).exp2
def fLog2 (a : Lane) : Lane := f32 (fval a).log2

def execVaddF (d a b : BitVec 5) (m : BitVec 3) (s : State) : Out := s.vbin d a b m 4 fAdd
def execVsubF (d a b : BitVec 5) (m : BitVec 3) (s : State) : Out := s.vbin d a b m 4 fSub
def execVmulF (d a b : BitVec 5) (m : BitVec 3) (s : State) : Out := s.vbin d a b m 4 fMul
def execVfmaF (d a b : BitVec 5) (m : BitVec 3) (s : State) : Out := s.vtri d a b m 4 fFma
def execVfmsF (d a b : BitVec 5) (m : BitVec 3) (s : State) : Out := s.vtri d a b m 4 fFms
def execVfnmaF (d a b : BitVec 5) (m : BitVec 3) (s : State) : Out := s.vtri d a b m 4 fFnma
def execVminF (d a b : BitVec 5) (m : BitVec 3) (s : State) : Out := s.vbin d a b m 4 minF
def execVmaxF (d a b : BitVec 5) (m : BitVec 3) (s : State) : Out := s.vbin d a b m 4 maxF
def execVabsF (d a : BitVec 5) (m : BitVec 3) (s : State) : Out := s.vun d a m 4 fAbs
def execVnegF (d a : BitVec 5) (m : BitVec 3) (s : State) : Out := s.vun d a m 4 fNeg
def execVrcpF (d a : BitVec 5) (m : BitVec 3) (s : State) : Out := s.vun d a m 12 fRcp
def execVrsqF (d a : BitVec 5) (m : BitVec 3) (s : State) : Out := s.vun d a m 12 fRsq
def execVsqrtF (d a : BitVec 5) (m : BitVec 3) (s : State) : Out := s.vun d a m 12 fSqrt
def execVdivF (d a b : BitVec 5) (m : BitVec 3) (s : State) : Out := s.vbin d a b m 12 fDiv
def execVexp2F (d a : BitVec 5) (m : BitVec 3) (s : State) : Out := s.vun d a m 12 fExp2
def execVlog2F (d a : BitVec 5) (m : BitVec 3) (s : State) : Out := s.vun d a m 12 fLog2

/-! ## Integer arithmetic (R139) -/

def iMulh (a b : Lane) : Lane := BitVec.ofInt 32 (a.toInt * b.toInt / 4294967296)
def iMulhu (a b : Lane) : Lane := BitVec.ofNat 32 (a.toNat * b.toNat / 4294967296)
def iMin (a b : Lane) : Lane := if a.toInt ≤ b.toInt then a else b
def iMax (a b : Lane) : Lane := if b.toInt ≤ a.toInt then a else b
def iMinu (a b : Lane) : Lane := if a.toNat ≤ b.toNat then a else b
def iMaxu (a b : Lane) : Lane := if b.toNat ≤ a.toNat then a else b
def iAbs (a : Lane) : Lane := if a.toInt < 0 then -a else a
/-- Saturated to −2^31 to 2^31 − 1. -/
def sat32 (k : Int) : Lane := BitVec.ofInt 32 (max (-2147483648) (min 2147483647 k))

def execVaddI (d a b : BitVec 5) (m : BitVec 3) (s : State) : Out := s.vbin d a b m 2 (fun x y => x + y)
def execVsubI (d a b : BitVec 5) (m : BitVec 3) (s : State) : Out := s.vbin d a b m 2 (fun x y => x - y)
def execVmulI (d a b : BitVec 5) (m : BitVec 3) (s : State) : Out := s.vbin d a b m 2 (fun x y => x * y)
def execVmulhI (d a b : BitVec 5) (m : BitVec 3) (s : State) : Out := s.vbin d a b m 2 iMulh
def execVmulhuI (d a b : BitVec 5) (m : BitVec 3) (s : State) : Out := s.vbin d a b m 2 iMulhu
def execVminI (d a b : BitVec 5) (m : BitVec 3) (s : State) : Out := s.vbin d a b m 2 iMin
def execVmaxI (d a b : BitVec 5) (m : BitVec 3) (s : State) : Out := s.vbin d a b m 2 iMax
def execVminuI (d a b : BitVec 5) (m : BitVec 3) (s : State) : Out := s.vbin d a b m 2 iMinu
def execVmaxuI (d a b : BitVec 5) (m : BitVec 3) (s : State) : Out := s.vbin d a b m 2 iMaxu
def execVabsI (d a : BitVec 5) (m : BitVec 3) (s : State) : Out := s.vun d a m 2 iAbs
def execVaddsI (d a b : BitVec 5) (m : BitVec 3) (s : State) : Out := s.vbin d a b m 2 (fun x y => sat32 (x.toInt + y.toInt))
def execVsubsI (d a b : BitVec 5) (m : BitVec 3) (s : State) : Out := s.vbin d a b m 2 (fun x y => sat32 (x.toInt - y.toInt))

/-! ## Logic and shifts (R140) -/

/-- b[4:0]. -/
def vshamt (b : Lane) : Nat := b.toNat % 32

def execVand (d a b : BitVec 5) (m : BitVec 3) (s : State) : Out := s.vbin d a b m 2 (fun x y => x &&& y)
def execVor (d a b : BitVec 5) (m : BitVec 3) (s : State) : Out := s.vbin d a b m 2 (fun x y => x ||| y)
def execVxor (d a b : BitVec 5) (m : BitVec 3) (s : State) : Out := s.vbin d a b m 2 (fun x y => x ^^^ y)
def execVandn (d a b : BitVec 5) (m : BitVec 3) (s : State) : Out := s.vbin d a b m 2 (fun x y => x &&& ~~~y)
def execVnot (d a : BitVec 5) (m : BitVec 3) (s : State) : Out := s.vun d a m 2 (fun x => ~~~x)
def execVshlV (d a b : BitVec 5) (m : BitVec 3) (s : State) : Out := s.vbin d a b m 2 (fun x y => x <<< vshamt y)
def execVshrV (d a b : BitVec 5) (m : BitVec 3) (s : State) : Out := s.vbin d a b m 2 (fun x y => x >>> vshamt y)
def execVsraV (d a b : BitVec 5) (m : BitVec 3) (s : State) : Out := s.vbin d a b m 2 (fun x y => x.sshiftRight (vshamt y))
def execVshli (d a n : BitVec 5) (m : BitVec 3) (s : State) : Out := s.vun d a m 2 (fun x => x <<< n.toNat)
def execVshri (d a n : BitVec 5) (m : BitVec 3) (s : State) : Out := s.vun d a m 2 (fun x => x >>> n.toNat)
def execVsrai (d a n : BitVec 5) (m : BitVec 3) (s : State) : Out := s.vun d a m 2 (fun x => x.sshiftRight n.toNat)
def execVpopc (d a : BitVec 5) (m : BitVec 3) (s : State) : Out := s.vun d a m 2 (fun x => BitVec.ofNat 32 (popcount x))
def execVclz (d a : BitVec 5) (m : BitVec 3) (s : State) : Out := s.vun d a m 2 (fun x => BitVec.ofNat 32 (leadingZeros x))

/-! ## Compare, select and classify (R141 to R143) -/

def cmpEq (a b : Lane) : Bool := !(fval a).isNan && !(fval b).isNan && (fval a).cmp (fval b) == .eq
def cmpLt (a b : Lane) : Bool := !(fval a).isNan && !(fval b).isNan && (fval a).cmp (fval b) == .lt

def execVcmpFEq (d a b : BitVec 5) (m : BitVec 3) (s : State) : Out := s.vcmp d a b m cmpEq
def execVcmpFNe (d a b : BitVec 5) (m : BitVec 3) (s : State) : Out := s.vcmp d a b m (fun x y => !cmpEq x y)
def execVcmpFLt (d a b : BitVec 5) (m : BitVec 3) (s : State) : Out := s.vcmp d a b m cmpLt
def execVcmpFLe (d a b : BitVec 5) (m : BitVec 3) (s : State) : Out := s.vcmp d a b m (fun x y => cmpLt x y || cmpEq x y)
def execVcmpFUn (d a b : BitVec 5) (m : BitVec 3) (s : State) : Out := s.vcmp d a b m (fun x y => (fval x).isNan || (fval y).isNan)
def execVcmpIEq (d a b : BitVec 5) (m : BitVec 3) (s : State) : Out := s.vcmp d a b m (fun x y => x == y)
def execVcmpINe (d a b : BitVec 5) (m : BitVec 3) (s : State) : Out := s.vcmp d a b m (fun x y => x != y)
def execVcmpILt (d a b : BitVec 5) (m : BitVec 3) (s : State) : Out := s.vcmp d a b m (fun x y => decide (x.toInt < y.toInt))
def execVcmpILe (d a b : BitVec 5) (m : BitVec 3) (s : State) : Out := s.vcmp d a b m (fun x y => decide (x.toInt ≤ y.toInt))
def execVcmpILtu (d a b : BitVec 5) (m : BitVec 3) (s : State) : Out := s.vcmp d a b m (fun x y => decide (x.toNat < y.toNat))
def execVcmpILeu (d a b : BitVec 5) (m : BitVec 3) (s : State) : Out := s.vcmp d a b m (fun x y => decide (x.toNat ≤ y.toNat))

/-- R142: the mask is data; vd is not read. -/
def execVsel (d a b : BitVec 5) (m : BitVec 3) (s : State) : Out :=
  s.guarded [s.chkV a, s.chkV b, s.chkM m.toNat] fun s =>
    .next ((s.writeV d 2 (ofLanes (fun i => if s.active m.toNat i then lane (s.readV a) i else lane (s.readV b) i))).retire)

/-- The one-hot class of R143. -/
def fclass (a : Lane) : Lane :=
  let neg := a.getLsbD 31
  match fval a with
  | .nan => if a.getLsbD 22 then 0x200#32 else 0x100#32
  | .inf _ => if neg then 0x001#32 else 0x080#32
  | .fin _ m _ =>
    if m = 0 then (if neg then 0x008#32 else 0x010#32)
    else if m < 2 ^ 23 then (if neg then 0x004#32 else 0x020#32)
    else (if neg then 0x002#32 else 0x040#32)

def execVclass (d a : BitVec 5) (m : BitVec 3) (s : State) : Out := s.vun d a m 2 fclass

/-! ## The 16-bit forms (R80, R154) -/

/-- `op vd, vs` is `op vd, vd, vs` under m0 or m1. -/
def State.vbin16 (s : State) (d v : BitVec 5) (m : BitVec 1) (lat : Nat) (op : Lane → Lane → Lane) : Out :=
  s.vbin d d v (m.setWidth 3) lat op

def execVmov16 (d v : BitVec 5) (m : BitVec 1) (s : State) : Out := s.vbin d v v (m.setWidth 3) 2 (fun x y => x ||| y)
def execVaddF16 (d v : BitVec 5) (m : BitVec 1) (s : State) : Out := s.vbin16 d v m 4 fAdd
def execVsubF16 (d v : BitVec 5) (m : BitVec 1) (s : State) : Out := s.vbin16 d v m 4 fSub
def execVmulF16 (d v : BitVec 5) (m : BitVec 1) (s : State) : Out := s.vbin16 d v m 4 fMul
def execVfmac16 (d v : BitVec 5) (m : BitVec 1) (s : State) : Out := s.vtri d v 31#5 (m.setWidth 3) 4 fFma
def execVmaxF16 (d v : BitVec 5) (m : BitVec 1) (s : State) : Out := s.vbin16 d v m 4 maxF
def execVminF16 (d v : BitVec 5) (m : BitVec 1) (s : State) : Out := s.vbin16 d v m 4 minF
def execVaddI16 (d v : BitVec 5) (m : BitVec 1) (s : State) : Out := s.vbin16 d v m 2 (fun x y => x + y)
def execVsubI16 (d v : BitVec 5) (m : BitVec 1) (s : State) : Out := s.vbin16 d v m 2 (fun x y => x - y)
def execVmulI16 (d v : BitVec 5) (m : BitVec 1) (s : State) : Out := s.vbin16 d v m 2 (fun x y => x * y)
def execVand16 (d v : BitVec 5) (m : BitVec 1) (s : State) : Out := s.vbin16 d v m 2 (fun x y => x &&& y)
def execVor16 (d v : BitVec 5) (m : BitVec 1) (s : State) : Out := s.vbin16 d v m 2 (fun x y => x ||| y)
def execVxor16 (d v : BitVec 5) (m : BitVec 1) (s : State) : Out := s.vbin16 d v m 2 (fun x y => x ^^^ y)
def execVshlV16 (d v : BitVec 5) (m : BitVec 1) (s : State) : Out := s.vbin16 d v m 2 (fun x y => x <<< vshamt y)
def execVshrV16 (d v : BitVec 5) (m : BitVec 1) (s : State) : Out := s.vbin16 d v m 2 (fun x y => x >>> vshamt y)
def execVsraV16 (d v : BitVec 5) (m : BitVec 1) (s : State) : Out := s.vbin16 d v m 2 (fun x y => x.sshiftRight (vshamt y))

end Sys2Proof.Machine
end

