-- ==== Sys2Proof/Machine/VecData.lean ====
section
/-!
DEFINITION. Conversions, block quantisation, reductions, scans, permutes and mask operations of the vector unit (R144 to R153).
-/

namespace Sys2Proof.Machine

/-! ## Packed fields of a register -/

/-- Halfword j of a register (R144). -/
def vhalf (v : Vec) (j : Nat) : BitVec 16 := v.extractLsb' (16 * j) 16
/-- The register with halfword j replaced. -/
def setHalf (v : Vec) (j : Nat) (x : BitVec 16) : Vec := (v &&& ~~~((0xFFFF#512) <<< (16 * j))) ||| (x.setWidth 512 <<< (16 * j))
/-- The register with byte j replaced. -/
def setByte (v : Vec) (j : Nat) (x : Byte) : Vec := (v &&& ~~~((0xFF#512) <<< (8 * j))) ||| (x.setWidth 512 <<< (8 * j))
/-- A register of 64 bytes, byte 0 lowest. -/
def vecOfBytes (bs : List Byte) : Vec := BitVec.ofNat 512 (natOfBytes bs)

/-! ## Conversions (R144, R145) -/

/-- Table 8.6, row 0. -/
def cvtFI (u : Bool) (md : RMode) (x : Lane) : Lane := f32m md (FVal.ofInteger (if u then (x.toNat : Int) else x.toInt))
/-- Table 8.6, row 1. -/
def cvtIF (u : Bool) (md : RMode) (x : Lane) : Lane :=
  BitVec.ofInt 32 ((fval x).toIntSat md (if u then 0 else -2147483648) (if u then 4294967295 else 2147483647))

def execVcvtFI (d a : BitVec 5) (u : BitVec 1) (r : BitVec 2) (m : BitVec 3) (s : State) : Out :=
  s.vun d a m 4 (cvtFI (u == 1#1) (RMode.ofCode r.toNat))
def execVcvtIF (d a : BitVec 5) (u : BitVec 1) (r : BitVec 2) (m : BitVec 3) (s : State) : Out :=
  s.vun d a m 4 (cvtIF (u == 1#1) (RMode.ofCode r.toNat))

/-- The narrowing forms: halfword i of half h takes the rounded lane i; every other bit of vd is kept. -/
def State.narrow (s : State) (l : Layout) (d a : BitVec 5) (h : BitVec 1) (r : BitVec 2) (m : BitVec 3) : Out :=
  s.guarded [s.chkV a, s.chkV d, s.chkM m.toNat] fun s =>
    let v := (s.lanes m.toNat).foldl (fun acc i =>
      setHalf acc (16 * h.toNat + i) (BitVec.ofNat 16 (l.round (RMode.ofCode r.toNat) (fval (lane (s.readV a) i))))) (s.readV d)
    .next ((s.writeV d 4 v).retire)

/-- The widening forms: lane i takes halfword i of half h, exact. -/
def State.widen (s : State) (l : Layout) (d a : BitVec 5) (h : BitVec 1) (m : BitVec 3) : Out :=
  s.guarded (s.vchecks [a] d m) fun s =>
    .next ((s.setLanes d m 4 (fun i => f32 (l.decode (vhalf (s.readV a) (16 * h.toNat + i)).toNat))).retire)

def execVcvtBfF (d a : BitVec 5) (h : BitVec 1) (r : BitVec 2) (m : BitVec 3) (s : State) : Out := s.narrow bf16 d a h r m
def execVcvtFBf (d a : BitVec 5) (h : BitVec 1) (m : BitVec 3) (s : State) : Out := s.widen bf16 d a h m
def execVcvtHF (d a : BitVec 5) (h : BitVec 1) (r : BitVec 2) (m : BitVec 3) (s : State) : Out := s.narrow fp16 d a h r m
def execVcvtFH (d a : BitVec 5) (h : BitVec 1) (m : BitVec 3) (s : State) : Out := s.widen fp16 d a h m

/-- A lane saturated to a byte (R145). -/
def packByte (u : Bool) (x : Lane) : Byte :=
  if u then BitVec.ofNat 8 (min 255 x.toNat) else BitVec.ofInt 8 (max (-128) (min 127 x.toInt))

def execVpackI8 (d a : BitVec 5) (q : BitVec 2) (u : BitVec 1) (m : BitVec 3) (s : State) : Out :=
  s.guarded [s.chkV a, s.chkV d, s.chkM m.toNat] fun s =>
    let v := (s.lanes m.toNat).foldl (fun acc i => setByte acc (16 * q.toNat + i) (packByte (u == 1#1) (lane (s.readV a) i))) (s.readV d)
    .next ((s.writeV d 4 v).retire)

def execVunpkI8 (d a : BitVec 5) (q : BitVec 2) (u : BitVec 1) (m : BitVec 3) (s : State) : Out :=
  s.guarded (s.vchecks [a] d m) fun s =>
    .next ((s.setLanes d m 4 (fun i =>
      let b := vbyte (s.readV a) (16 * q.toNat + i)
      if u = 1#1 then b.setWidth 32 else b.signExtend 32)).retire)

/-! ## Blocks (R146 to R148) -/

/-- Place of a scale code among the substitutes of R42. -/
def scalePlace : Nat := 1000000

/-- The v register location of R42's message (Table 16.3). -/
def vLoc (n : BitVec 5) : Word := 0x8000000000000000#64 ||| zext 5 n

def execVquant (d a b : BitVec 5) (m : BitVec 3) (s : State) : Out :=
  s.guarded [s.chkV a, s.chkV b, s.chkM m.toNat] fun s =>
    let raw (j : Nat) : Lane :=
      match substAt s.thr.subst j with
      | some v => v.setWidth 32
      | none => if j < 16 then lane (s.readV a) j else lane (s.readV b) (j - 16)
    let x := (List.range 32).map (fun j => if s.active m.toNat (j % 16) then fval (raw j) else .fin false 0 0)
    match quantise x with
    | .error j => .next (s.parkFmt 0 j false true ((raw j).setWidth 64) (vLoc (if j < 16 then a else b)))
    | .ok (cs, k) => .next ((s.writeV d 6 (vecOfBytes (cs ++ [k]))).retire)

/-- The scale code and the element codes that VDEQ reads, with any substitutes in place. -/
def State.blockScale (s : State) (a : BitVec 5) : Byte :=
  match substAt s.thr.subst scalePlace with
  | some v => v.setWidth 8
  | none => vbyte (s.readV a) 32
def State.blockCode (s : State) (a : BitVec 5) (j : Nat) : Byte :=
  match substAt s.thr.subst j with
  | some v => v.setWidth 8
  | none => vbyte (s.readV a) j

def execVdeq (d a : BitVec 5) (h w : BitVec 1) (m : BitVec 3) (s : State) : Out :=
  s.guarded (s.vchecks [a] d m) fun s =>
    let k := s.blockScale a
    let code (i : Nat) : Byte := s.blockCode a (16 * h.toNat + i)
    let act := s.lanes m.toNat
    if w = 0#1 ∧ k = 255#8 ∧ act ≠ [] then .next (s.parkFmt 0 scalePlace true false 0xFF#64 (vLoc a))
    else
      match (if w = 0#1 ∧ k = 0#8 then none else act.find? (fun i => code i == 0x80#8)) with
      | some i => .next (s.parkFmt 0 (16 * h.toNat + i) false false 0x80#64 (vLoc a))
      | none =>
        let v (i : Nat) : Lane :=
          if w = 1#1 then f32 (fromD8 (code i))
          else match fromD8B (code i) k with
            | .ok x => f32 x
            | .error _ => 0#32
        .next ((s.setLanes d m 6 v).retire)

/-! ## Reductions and scans (R149 to R151) -/

/-- Comb of R149. A value that meets none is passed on as it is, a NaN with its payload (DEDUCED, log entry 82). -/
def comb (op : Lane → Lane → Lane) (x y : Option Lane) : Option Lane :=
  match x, y with
  | none, y => y
  | x, none => x
  | some a, some b => some (op a b)

/-- One level of the tree: neighbours combined. -/
def combLevel (op : Lane → Lane → Lane) : List (Option Lane) → List (Option Lane)
  | x :: y :: r => comb op x y :: combLevel op r
  | l => l

/-- Node(l, j) (R149): the levels of the tree over a list of present or absent leaves. -/
def treeNode (op : Lane → Lane → Lane) (leaves : List (Option Lane)) : Nat → Nat → Option Lane
  | 0, j => (leaves[j]?).getD none
  | l + 1, j => treeNode op (combLevel op leaves) l j

/-- The leaves of a register under a mask. -/
def State.leaves (s : State) (a : BitVec 5) (m : BitVec 3) (f : Lane → Lane) : List (Option Lane) :=
  (List.range 16).map (fun i => if s.active m.toNat i then some (f (lane (s.readV a) i)) else none)

/-- R150. -/
def State.vred (s : State) (d a : BitVec 5) (m : BitVec 3) (pre : Lane → Lane) (op : Lane → Lane → Lane) (unit : Lane) : Out :=
  s.guarded [s.chkV a, s.chkM m.toNat] fun s =>
    let x := (treeNode op (s.leaves a m pre) 4 0).getD unit
    .next ((s.writeV d 6 (ofLanes (fun i => if i = 0 then x else 0#32))).retire)

/-- The prefix of lanes 0 to i (R151); lane 0's is the lane itself (DEDUCED, log entry 82). -/
def scanPrefix (op : Lane → Lane → Lane) (leaves : List (Option Lane)) (i : Nat) : Option Lane :=
  ([4, 3, 2, 1, 0].foldl (fun (pb : Option Lane × Nat) l =>
    if (i + 1).testBit l then (comb op pb.1 (treeNode op leaves l (pb.2 / 2 ^ l)), pb.2 + 2 ^ l) else pb) (none, 0)).1

/-- R151. A scan does not read vd (R134): its inactive lanes keep what vd holds when the result is written. -/
def State.vscan (s : State) (d a : BitVec 5) (m : BitVec 3) (op : Lane → Lane → Lane) : Out :=
  s.guarded [s.chkV a, s.chkM m.toNat] fun s =>
    let old := s.thr.readAt (s.cyc + 6) 1 d.toNat
    .next ((s.writeV d 6 (mergeLanes (s.readM m.toNat) old (fun i => (scanPrefix op (s.leaves a m id) i).getD 0#32))).retire)

def execVredaddF (d a : BitVec 5) (m : BitVec 3) (s : State) : Out := s.vred d a m id fAdd 0#32
def execVredaddI (d a : BitVec 5) (m : BitVec 3) (s : State) : Out := s.vred d a m id (fun x y => x + y) 0#32
def execVredmaxF (d a : BitVec 5) (m : BitVec 3) (s : State) : Out := s.vred d a m id maxF 0xFF800000#32
def execVredminF (d a : BitVec 5) (m : BitVec 3) (s : State) : Out := s.vred d a m id minF 0x7F800000#32
def execVredmaxI (d a : BitVec 5) (m : BitVec 3) (s : State) : Out := s.vred d a m id iMax 0x80000000#32
def execVamax (d a : BitVec 5) (m : BitVec 3) (s : State) : Out := s.vred d a m fAbs maxF 0#32
def execVscanI (d a : BitVec 5) (m : BitVec 3) (s : State) : Out := s.vscan d a m (fun x y => x + y)
def execVscanF (d a : BitVec 5) (m : BitVec 3) (s : State) : Out := s.vscan d a m fAdd

/-! ## Permutes (R152) -/

def execVperm (d a b : BitVec 5) (m : BitVec 3) (s : State) : Out :=
  s.guarded (s.vchecks [a, b] d m) fun s =>
    .next ((s.setLanes d m 3 (fun i => lane (s.readV a) ((lane (s.readV b) i).toNat % 16))).retire)

def execVbcast (d a : BitVec 5) (m : BitVec 3) (s : State) : Out :=
  s.guarded (s.chkW a :: s.vchecks [] d m) fun s => .next ((s.setLanes d m 3 (fun _ => (s.readW a).setWidth 32)).retire)

def execVextr (d a : BitVec 5) (n : BitVec 4) (s : State) : Out :=
  s.guarded [s.chkV a] fun s => .next ((s.writeW d 3 (sext 32 (lane (s.readV a) n.toNat))).retire)

/-- vd is read whatever the mask. -/
def execVins (d a : BitVec 5) (n : BitVec 4) (m : BitVec 3) (s : State) : Out :=
  s.guarded [s.chkW a, s.chkV d, s.chkM m.toNat] fun s =>
    let v := ofLanes (fun i => if i = n.toNat ∧ s.active m.toNat i then (s.readW a).setWidth 32 else lane (s.readV d) i)
    .next ((s.writeV d 3 v).retire)

def execVcompr (d a : BitVec 5) (m : BitVec 3) (s : State) : Out :=
  s.guarded [s.chkV a, s.chkM m.toNat] fun s =>
    let act := s.lanes m.toNat
    .next ((s.writeV d 3 (ofLanes (fun i => match act[i]? with
      | some j => lane (s.readV a) j
      | none => 0#32))).retire)

def execVexpnd (d a : BitVec 5) (m : BitVec 3) (s : State) : Out :=
  s.guarded (s.vchecks [a] d m) fun s =>
    .next ((s.setLanes d m 3 (fun i => lane (s.readV a) ((s.lanes m.toNat).filter (fun j => decide (j < i))).length)).retire)

def execVrot (d a : BitVec 5) (n : BitVec 4) (m : BitVec 3) (s : State) : Out :=
  s.guarded (s.vchecks [a] d m) fun s => .next ((s.setLanes d m 3 (fun i => lane (s.readV a) ((i + n.toNat) % 16))).retire)

def execViota (d : BitVec 5) (m : BitVec 3) (s : State) : Out :=
  s.guarded [s.chkM m.toNat] fun s =>
    .next ((s.writeV d 3 (ofLanes (fun i => BitVec.ofNat 32 ((s.lanes m.toNat).filter (fun j => decide (j ≤ i))).length))).retire)

/-! ## Mask operations (R153) -/

/-- The lowest `n` bits set. -/
def lowBits (n : Nat) : Mask := BitVec.ofNat 16 (2 ^ min n 16 - 1)

def State.mbin (s : State) (d a b : BitVec 5) (op : Mask → Mask → Mask) : Out :=
  s.guarded [s.chkM a.toNat, s.chkM b.toNat] fun s =>
    .next ((s.writeM d.toNat 1 (op (s.readM a.toNat) (s.readM b.toNat))).retire)

def State.mun (s : State) (d a : BitVec 5) (op : Mask → Mask) : Out :=
  s.guarded [s.chkM a.toNat] fun s => .next ((s.writeM d.toNat 1 (op (s.readM a.toNat))).retire)

def execMand (d a b : BitVec 5) (s : State) : Out := s.mbin d a b (fun x y => x &&& y)
def execMor (d a b : BitVec 5) (s : State) : Out := s.mbin d a b (fun x y => x ||| y)
def execMxor (d a b : BitVec 5) (s : State) : Out := s.mbin d a b (fun x y => x ^^^ y)
def execMnot (d a : BitVec 5) (s : State) : Out := s.mun d a (fun x => ~~~x)
def execMpop (d a : BitVec 5) (s : State) : Out := s.mun d a (fun x => lowBits (popcount x))
def execMfirst (d a : BitVec 5) (s : State) : Out := s.mun d a (fun x => x &&& (-x))
def execMset (d n : BitVec 5) (s : State) : Out := .next ((s.writeM d.toNat 1 (lowBits n.toNat)).retire)
def execMget (d a : BitVec 5) (n : BitVec 4) (s : State) : Out := s.mun d a (fun x => x >>> n.toNat)

end Sys2Proof.Machine
end

