-- ==== Sys2Proof/Machine/Matrix.lean ====
section
/-!
DEFINITION. The matrix engine (chapter 9): the issue checks of MMA and MSTA, the command queues and their stages (Table 9.2), the
arithmetic of R162, and the accumulator, scale and mask instructions.
-/

namespace Sys2Proof.Machine

/-! ## Queues -/

/-- Queue 0 is the primary's, 1 the filler's (R155). -/
def Tile.queue (t : Tile) (o : Nat) : List MCmd := if o = 0 then t.mq else t.mqFill
def Tile.setQueue (t : Tile) (o : Nat) (q : List MCmd) : Tile := if o = 0 then { t with mq := q } else { t with mqFill := q }
/-- The queue of a thread. -/
def ownerOf (t : Nat) : Nat := if t = 8 then 1 else 0

def State.mqueue (s : State) (k o : Nat) : List MCmd := (s.tile k).queue o
/-- Changes one command of a queue. -/
def State.updCmd (s : State) (k o id : Nat) (f : MCmd → MCmd) : State :=
  s.updTile k (fun t => t.setQueue o ((t.queue o).map (fun c => if c.id = id then f c else c)))
def State.cmd (s : State) (k o id : Nat) : Option MCmd := (s.mqueue k o).find? (fun c => c.id == id)

/-- R157: entry e of the slot table belongs to the owner; a proctor's engine has no table (R301). -/
def State.owned (s : State) (k o c : Nat) : Bool :=
  if isProctor k then true
  else field (s.launchOf k 0).slots (2 * (c % 1024 / 64) + 1) (2 * (c % 1024 / 64)) == o + 1

/-- The last of `n` owned cycles from `c` on; none when the table gives too few. -/
def State.lastOwned (s : State) (k o : Nat) : Nat → Nat → Nat → Option Nat
  | 0, _, _ => none
  | fuel + 1, c, n =>
    if s.owned k o c then (if n ≤ 1 then some c else s.lastOwned k o fuel (c + 1) (n - 1)) else s.lastOwned k o fuel (c + 1) n

/-- Work cycles of one pass: W / 2 (R163). -/
def passWork (o : MmaOp) : Nat := if o.ty ≤ 1 then o.k else ceilDiv o.k 2

/-- First cycle from which no latch and no MSTA of the primary uses the tile's ports: a filler's latch or MSTA waits for it (R158). -/
def State.portsFree (s : State) (k o : Nat) : Nat :=
  if o = 0 then s.cyc
  else (s.mqueue k 0).foldl (fun n c => match c.kind with
    | .mma _ => if c.stage = 2 ∨ c.stage = 3 then max n c.latchEnd else if c.stage = 1 then max n c.due else n
    | .msta _ => if c.stage = 3 then max n c.due else n
    | _ => n) s.cyc

/-- A primary's latch or MSTA uses the tile's ports for `n` cycles: what the filler's commands do there lasts so much longer (R158). -/
def State.delayFiller (s : State) (k o n : Nat) : State :=
  if o ≠ 0 then s
  else (s.mqueue k 1).foldl (fun a c =>
    let later (e : Instr) : State := (a.updCmd k 1 c.id (fun x => { x with due := c.due + n })).schedule (c.due + n) e
    match c.kind with
    | .mma _ =>
      if c.stage = 1 ∧ s.cyc < c.due then later (.mmaLatch k 1 c.id)
      else if (c.stage = 2 ∨ c.stage = 3) ∧ s.cyc < c.latchEnd then
        a.updCmd k 1 c.id (fun x => { x with latchEnd := c.latchEnd + n, stage := 2, due := 0 })
      else a
    | .msta _ => if c.stage = 3 ∧ s.cyc < c.due then later (.mstaEnd k 1 c.id) else a
    | _ => a) s

/-- Starts every stage of a queue that may start now (Table 9.2, R166, R168). A command held for the proctor holds those behind it. -/
def advanceFrom (k o : Nat) : List MCmd → Nat → Nat → State → State
  | [], _, _, s => s
  | c :: r, i, latch, s =>
    if c.stage = 5 then s else
    let ports := max (s.portsFree k o) (c.issued + 1)
    let start := max s.cyc (c.issued + 1)
    let mark (n : Nat) : State := s.updCmd k o c.id (fun x => { x with stage := n })
    let s1 :=
      match c.kind with
      | .mma op =>
        if c.stage = 0 then
          if i ≤ 1 then (mark 1).schedule (max ports latch) (.mmaLatch k o c.id) else s
        else if c.stage = 2 ∧ i = 0 then
          match s.lastOwned k o 4096 (max s.cyc c.latchEnd) (passWork op) with
          | some x => (s.updCmd k o c.id (fun y => { y with stage := 3, due := x })).schedule x (.mmaPass k o c.id 1)
          | none => s
        else s
      | .mzero => if c.stage = 0 ∧ i = 0 then (mark 1).schedule (start + 1) (.mzeroExecute k o c.id) else s
      | .mwr _ _ => if c.stage = 0 ∧ i = 0 then (mark 1).schedule (start + 1) (.mwrExecute k o c.id) else s
      | .msta _ => if c.stage = 0 ∧ i = 0 then (mark 1).schedule ports (.mstaExecute k o c.id) else s
    match c.kind with
    | .mma _ => if c.stage = 2 ∨ c.stage = 3 ∨ c.stage = 4 then advanceFrom k o r (i + 1) (max latch c.latchEnd) s1 else s1
    | _ => advanceFrom k o r (i + 1) latch s1

def State.mxAdvance (s : State) (k o : Nat) : State := advanceFrom k o (s.mqueue k o) 0 0 s

/-- A command enters its owner's queue; a full queue stalls the thread (R163). -/
def State.enqueue (s : State) (acc : Nat) (kind : MKind) : Out :=
  let k := s.curTile
  let o := ownerOf s.curThread
  if 8 ≤ (s.mqueue k o).length then .next s.stall
  else
    let c : MCmd := { (default : MCmd) with id := (s.tile k).mNext, thread := s.curThread, acc := acc, issued := s.cyc, kind := kind }
    let s1 := s.updTile k (fun t => { (t.setQueue o (t.queue o ++ [c])) with mNext := t.mNext + 1 })
    .next (s1.mxAdvance k o).retire

/-- A command writes accumulator `a`. -/
def MCmd.writes (c : MCmd) (a : Nat) : Bool :=
  c.acc == a && (match c.kind with
    | .msta _ => false
    | _ => true)

/-- The watermark of an accumulator (R164). -/
def State.watermark (s : State) (k o a : Nat) : Nat :=
  let l := (s.mqueue k o).filter (fun c => c.writes a)
  if l.isEmpty then 16 else if l.all (fun c => c.stage == 4) then 8 else 0

/-- The key in `accAt` of the cycle from which a row is readable. -/
def riseKey (a row : Nat) : Nat := if row < 8 then a + 8 else a

/-- The watermark of accumulator `a` was `w` before this: the rows that it now covers anew are readable from this cycle on. -/
def State.noteRise (s : State) (k o a w : Nat) : State :=
  let v := s.watermark k o a
  let c := s.cyc
  s.updTile k (fun t => { t with accAt :=
    (if w = 0 ∧ 0 < v then fun (x : Tab Nat) => x.set (riseKey a 0) c else id) ((if w < 16 ∧ v = 16 then t.accAt.set (riseKey a 8) c else t.accAt)) })

/-- A command ends: it leaves the queue, waits on it end (R169), and what it held back may start. -/
def State.endCmd (s : State) (k o id : Nat) : State :=
  let a := ((s.cmd k o id).getD default).acc
  let s1 := (s.updTile k (fun t => t.setQueue o ((t.queue o).filter (fun c => c.id != id)))).noteRise k o a (s.watermark k o a)
  let s2 := (if o = 1 then [8] else List.range 8).foldl (fun a t =>
    match (a.thread k t).wait with
    | .matrix ids =>
      let rest := ids.filter (fun x => x != id)
      if rest.isEmpty then a.wake k t none else a.updThread k t (fun x => { x with wait := .matrix rest })
    | _ => a) s1
  (s2.mxAdvance k o).askRetire k

/-- The accumulators a thread may name: 0 to 3, or 4 to 7 for the filler (R105, R155). -/
def State.accCheck (s : State) (c : BitVec 3) : Option TrapReq :=
  trapIf (if s.curThread = 8 then decide (c.toNat < 4) else decide (4 ≤ c.toNat)) Cause.illegal s.thisWord

/-! ## MMA (R159 to R163) -/

/-- Fields of the operand word (Table 9.1). -/
def opSf (w : Word) : Nat := field w 58 57
def opK (w : Word) : Nat := field w 56 49
def opBstride (w : Word) : Nat := field w 48 39
def opBbase (w : Word) : Nat := field w 38 20
def opHandle (w : Word) : Nat := field w 35 20
def opAstride (w : Word) : Nat := field w 19 10
def opAoff (w : Word) : Nat := field w 9 0

/-- Banks that a span of tile SRAM touches, rising. -/
def spanBanks (a n : Nat) : List Nat := (List.range ((a + n - 1) / 1024 + 1 - a / 1024)).map (fun i => a / 1024 + i)

/-- The first byte at or above 393,216 of spans taken in the given order. -/
def firstOutside (l : List (Nat × Nat)) : Option Nat :=
  l.findSome? (fun p => if 393216 < p.1 + p.2 then some (max p.1 393216) else none)

/-- The first reserved byte of spans taken in the given order (R175). -/
def State.firstProt (s : State) (l : List (Nat × Nat)) : Option Nat :=
  l.findSome? (fun p => s.firstReserved s.curTile p.1 p.2)

/-- A bank's format suits an MMA type (R161). -/
def fmtSuits (ty : Nat) (w : Word) : Bool :=
  !bfRaw w && (match ty with
    | 0 => bfFmt w == 8
    | 1 => bfFmt w == 7
    | 2 => bfFmt w == 9 || bfFmt w == 10
    | _ => bfFmt w == 0 || bfFmt w == 1)

/-- BANKFMT over the banks in scan order, A's rows and then B, each bank before its companion (R161; the order is a DESIGN CHOICE, log entry
20). A companion that is reserved is named here like one of a wrong format (DESIGN CHOICE, log entry 94). -/
def State.suitChecks (s : State) (ty : Nat) (banks : List Nat) : Option TrapReq :=
  banks.findSome? (fun b =>
    let w := s.bfmt s.curTile b
    if !fmtSuits ty w then some ⟨Cause.bankFmt, word b⟩
    else if bfD8b w && !bfE8 (s.bfmt s.curTile (bfBank w)) then some ⟨Cause.bankFmt, word (bfBank w)⟩
    else none)

/-- Spans of B by row, or by column under .T, in ascending address. -/
def bSpans (e k bbase bstride : Nat) (t : Bool) : List (Nat × Nat) :=
  sortBy Prod.fst (if t then (List.range 16).map (fun c => (bbase + c * bstride, k * e)) else (List.range k).map (fun i => (bbase + i * bstride, 16 * e)))

/-- R159 to R161 for every type. -/
def State.mma (s : State) (ty : Nat) (b t x : BitVec 1) (bank : BitVec 9) (n : BitVec 5) (c : BitVec 3) : Out :=
  let bs := b == 1#1
  let tr := t == 1#1
  let gx := x == 1#1
  let w := s.readW n
  let e := if ty ≤ 1 then 2 else 1
  let kk := opK w
  let mrow := s.thr.mrow
  let rows : List Nat := (List.range 16).map (fun r =>
    if gx then field (lane (s.readV n) r) 18 0 else 1024 * bank.toNat + opAoff w + r * opAstride w)
  let used := (List.range 16).filter (fun r => mrow.getLsbD r)
  let aSpans := used.map (fun r => (rows.getD r 0, kk * e))
  let spansB := if bs then [] else bSpans e kk (opBbase w) (opBstride w) tr
  let misaligned : Option Nat :=
    if e = 1 then none
    else ((used.map (fun r => rows.getD r 0)) ++ (if bs then [] else [opBbase w, opBstride w])
      ++ (if gx then [] else [opAstride w])).find? (fun v => v % 2 == 1)
  let banks := dedup ((aSpans ++ spansB).flatMap (fun p => spanBanks p.1 p.2))
  s.guarded [s.chkW n, if gx then s.chkV n else none, if bs then s.chkW (n + 1#5) else none, s.accCheck c,
      trapIf (decide (field w 63 59 ≠ 0 ∨ kk = 0 ∨ (if ty ≤ 1 then 64 else 128) < kk ∨ (bs = true ∧ field w 38 36 ≠ 0))) Cause.illegal w,
      misaligned.map (fun v => ⟨Cause.align, word v⟩),
      (firstOutside (aSpans ++ spansB)).map (fun v => ⟨Cause.taddr, word v⟩),
      (s.firstProt (aSpans ++ spansB)).map (fun v => ⟨Cause.spillProt, word v⟩),
      s.suitChecks ty banks] fun s =>
    let op : MmaOp :=
      { ty := ty, k := kk, bs := bs, gx := gx, rows := rows, bbase := opBbase w
        bk := if tr then e else opBstride w, bc := if tr then opBstride w else e
        handle := opHandle w, coords := if bs then s.readW (n + 1#5) else 0#64
        mrow := mrow, mcol := s.thr.mcol, sfcode := s.thr.sf.get (opSf w), sfnum := 0x50 + opSf w
        fmts := banks.foldl (fun f k => f.set k (s.bfmt s.curTile k)) ([] : Tab Word) }
    s.enqueue c.toNat (.mma op)

/-- Latch length of a command (Table 9.2). -/
def latchTime (o : MmaOp) : Nat :=
  let na := popcount o.mrow
  let bb := o.k * 16 * (if o.ty ≤ 1 then 2 else 1)
  2 + (if o.gx then na else ceilDiv na 2) + (if o.bs then 24 + ceilDiv bb 8 else ceilDiv bb 256)

/-- What a latch meets: a code that raises FMTRES, or a failure of the directory. -/
inductive LatchErr where
  | fmt (e : FmtErr)
  | directory
  deriving DecidableEq, Repr

/-- A failure met before the first element: the scale register's, or the directory's. -/
def LatchErr.first : LatchErr → Bool
  | .fmt e => e.place == 2000000
  | .directory => true

/-- One element of tile SRAM: its code and scale with the substitutes of R42, or FMTRES (R37, R162). -/
def latchTile (rd : Nat → Byte) (o : MmaOp) (sub : List Subst) (place a : Nat) : Except LatchErr (Nat × Nat × Nat) :=
  let b := a / 1024
  let w := o.fmts.get b
  let f := bfFmt w
  let code := if o.ty ≤ 1 then readNum rd a 2 else (rd a).toNat
  let code := match substAt sub place with
    | some v => v.toNat % 256
    | none => code
  if f = 10 then
    let sa := scaleAddr b (bfBank w) (blockOf (bfAxis w) (a % 1024))
    let kc := match substAt sub (1000000 + sa) with
      | some v => v.toNat % 256
      | none => (rd sa).toNat
    if kc = 0 then .ok (0, 0, 10)
    else if kc = 255 then .error (.fmt ⟨1000000 + sa, true, false, 0xFF#64, sa⟩)
    else if code = 0x80 then .error (.fmt ⟨place, false, false, 0x80#64, a⟩)
    else .ok (code, kc, 10)
  else if f = 9 ∧ code = 0x80 then .error (.fmt ⟨place, false, false, 0x80#64, a⟩)
  else .ok (code, 127, f)

/-- One element of the tensor store under .BS (R160, R161). A bad code's location is its byte offset in the store (DESIGN CHOICE, log entry
21). -/
def State.latchTensor (s : State) (d : Nat) (t : TensorDir) (o : MmaOp) (sub : List Subst) (k c : Nat) : Except LatchErr (Nat × Nat × Nat) :=
  match s.tensorAddr d t (field o.coords 15 0 + c) (field o.coords 31 16 + k) (field o.coords 47 32) (field o.coords 63 48) with
  | none => .error .directory
  | some a =>
    let code := s.num (.tensor d) a t.elem
    let place := 4096 + 16 * k + c
    let code := match substAt sub place with
      | some v => v.toNat % 256
      | none => code
    if t.fmt = 9 ∧ code = 0x80 then .error (.fmt ⟨place, false, false, 0x80#64, a⟩) else .ok (code, 127, t.fmt)

/-- The directory admits a .BS operand of a type (R161, R201). -/
def State.bsGood (s : State) (d : Nat) (o : MmaOp) : Bool :=
  let t := s.tensorDir d o.handle
  t.accepts o.handle false [field o.coords 15 0, field o.coords 31 16, field o.coords 47 32, field o.coords 63 48] 16 o.k && t.inv &&
  (match o.ty with
    | 0 => t.fmt == 8
    | 1 => t.fmt == 7
    | 2 => t.fmt == 9
    | _ => decide (t.fmt ≤ 1))

/-- Element `n` of those a command latches, A by rows and then B by k; one that mrow or mcol leaves out is not fetched (R162). -/
def State.latchOne (s : State) (rd : Nat → Byte) (d : Nat) (t : TensorDir) (o : MmaOp) (sub : List Subst) (n : Nat) :
    Except LatchErr (Option (Nat × Nat × Nat)) :=
  let opt (b : Bool) (x : Except LatchErr (Nat × Nat × Nat)) : Except LatchErr (Option (Nat × Nat × Nat)) :=
    if b then (match x with
      | .ok v => .ok (some v)
      | .error err => .error err) else .ok none
  if n < 16 * o.k then
    let r := n / o.k
    let i := n % o.k
    opt (o.mrow.getLsbD r) (latchTile rd o sub (128 * r + i) (o.rows.getD r 0 + i * (if o.ty ≤ 1 then 2 else 1)))
  else
    let i := (n - 16 * o.k) / 16
    let c := (n - 16 * o.k) % 16
    opt (o.mcol.getLsbD c && o.mrow != 0#16)
      (if o.bs then s.latchTensor d t o sub i c else latchTile rd o sub (4096 + 16 * i + c) (o.bbase + i * o.bk + c * o.bc))

/-- Elements latched one after another up to the first that raises FMTRES. -/
def latchRun (f : Nat → Except LatchErr (Option (Nat × Nat × Nat))) : List Nat → List (Option (Nat × Nat × Nat)) × Option LatchErr
  | [] => ([], none)
  | n :: r =>
    match f n with
    | .error e => ([], some e)
    | .ok x =>
      match latchRun f r with
      | (l, e) => (x :: l, e)

/-- Cycle of a latch in which it takes element `n` (Table 9.2): after 2 cy the rows of A, two a cycle or one under .X, then the bytes
of B in ascending k (DEDUCED, log entry 78). -/
def latchOffset (o : MmaOp) (n : Nat) : Nat :=
  let rows (r : Nat) : Nat := let j := ((List.range r).filter (fun i => o.mrow.getLsbD i)).length; if o.gx then j else ceilDiv j 2
  if n < 16 * o.k then
    let j := ((List.range (n / o.k)).filter (fun i => o.mrow.getLsbD i)).length
    2 + (if o.gx then j else j / 2)
  else
    let b := (n - 16 * o.k) * (if o.ty ≤ 1 then 2 else 1)
    2 + rows 16 + (if o.bs then 24 + b / 8 else b / 256)

/-- What a command latches from its first element not yet latched on, and the failure that stops it: a scale register of 255, a
directory that does not admit a .BS operand, or a code (R161, R162). The failures before the first element come first; A is scanned by
rows and B by k (DESIGN CHOICE, log entry 21). -/
def State.latch (s : State) (rd : Nat → Byte) (k : Nat) (c : MCmd) (o : MmaOp) : List (Option (Nat × Nat × Nat)) × Option LatchErr :=
  let d := dieOf k
  let sfBad := o.ty == 2 && o.sfcode == 0xFF#8 && (substAt c.subst 2000000).isNone
  if sfBad then ([], some (.fmt ⟨2000000, true, false, 0xFF#64, o.sfnum⟩))
  else if o.bs && c.lat.isEmpty && (!s.bsGood d o || (s.die d).lost.contains (columnOf k)) then ([], some .directory)
  else latchRun (s.latchOne rd d (s.tensorDir d o.handle) o c.subst) ((List.range (32 * o.k)).drop c.lat.length)

/-- The tensor-store pieces that a .BS latch reads (R160). -/
def State.bsSegs (s : State) (d : Nat) (o : MmaOp) : List Seg :=
  let t := s.tensorDir d o.handle
  (List.range o.k).flatMap (fun i => (List.range 16).filterMap (fun c =>
    (s.tensorAddr d t (field o.coords 15 0 + c) (field o.coords 31 16 + i) (field o.coords 47 32) (field o.coords 63 48)).map
      (fun a => { key := (Space.tensor d).key a, len := t.elem, entry := word t.flags })))

/-- A tile parks because of its matrix engine (R161, R162): the command and those after it hold. -/
def State.parkMatrix (s : State) (k : Nat) (c : MCmd) (e : LatchErr) : State :=
  let t := if c.thread = 8 then 8 else c.thread
  match e with
  | .fmt f =>
    s.park k t (.tile ((s.lidOf k t).getD 0) k t 1 2 f.place f.scale f.value)
      { (default : Message) with kind := 1, flags := (if f.scale then 1 else 0) + (if f.value then 2 else 0), unit := 2
                                 detail := Cause.fmtres, value := f.code
                                 location := if f.place = 2000000 then 0x4000000000000000#64 ||| word f.loc else word f.loc }
  | .directory =>
    let co := match c.kind with
      | .mma o => (o.coords, o.handle)
      | _ => (0#64, 0)
    s.park k t (.tile ((s.lidOf k t).getD 0) k t 2 2 0 false false)
      { (default : Message) with kind := 2, unit := 2, detail := 10, value := co.1, location := word co.2 }

/-! ## Arithmetic (R162) -/

/-- The value of a latched element. -/
def latVal (x : Option (Nat × Nat × Nat)) : FVal :=
  match x with
  | none => .fin false 0 0
  | some (c, sc, f) =>
    if f = 10 then
      match fromD8B (BitVec.ofNat 8 c) (BitVec.ofNat 8 sc) with
      | .ok v => v
      | .error _ => .fin false 0 0
    else (decodeElem f c).getD (.fin false 0 0)

/-- The integer a latched INT8 or UINT8 element stands for. -/
def latInt (x : Option (Nat × Nat × Nat)) : Int :=
  match x with
  | none => 0
  | some (c, _, f) => if f = 1 ∨ c < 128 then (c : Int) else (c : Int) - 256

/-- A term scaled by g = 2^(sf − 127); a code of 0 makes it 0 (R162). -/
def scaleTerm (ty : Nat) (sf : Byte) (v : FVal) : FVal :=
  if ty ≠ 2 then v
  else if sf = 0#8 then .fin false 0 0
  else match v with
    | .fin a m e => .fin a m (e + (sf.toNat : Int) - 127)
    | v => v

/-- ChunkSum of a list of exact terms. -/
def chunkSum : List FVal → FVal
  | [] => .fin false 0 0
  | v :: r => r.foldl FVal.add v

/-- The terms in chunks of `n`. -/
def chunks {α : Type} (n : Nat) : Nat → List α → List (List α)
  | 0, _ => []
  | fuel + 1, l => if l.isEmpty then [] else l.take n :: chunks n fuel (l.drop n)

/-- acc after every chunk of an element, in ascending k. -/
def mmaElement (o : MmaOp) (sf : Byte) (arow : List (Option (Nat × Nat × Nat))) (bcol : List (Option (Nat × Nat × Nat))) (acc : Lane) : Lane :=
  if o.ty = 3 then
    acc + BitVec.ofInt 32 ((arow.zipWith (fun x y => latInt x * latInt y) bcol).foldl (· + ·) 0)
  else
    let terms := arow.zipWith (fun x y => scaleTerm o.ty sf ((latVal x).mul (latVal y))) bcol
    (chunks (if o.ty ≤ 1 then 8 else 16) 16 terms).foldl (fun a q => f32 ((fval a).add (fval (f32 (chunkSum q))))) acc

/-- A row of an accumulator after the command. -/
def mmaRow (c : MCmd) (o : MmaOp) (r : Nat) (acc : Vec) : Vec :=
  let sf := match substAt c.subst 2000000 with
    | some v => v.setWidth 8
    | none => o.sfcode
  ofLanes (fun j =>
    if o.mcol.getLsbD j then
      mmaElement o sf (c.aLat.getD r []) (c.bLat.map (fun row => row.getD j none)) (lane acc j)
    else lane acc j)

/-- The last cycle of a pass: its rows are accumulated; they are final 4 cy later (Table 9.2). -/
def execMmaPass (k o id p : Nat) (s : State) : Out :=
  match s.cmd k o id with
  | none => .next s
  | some c =>
    match c.kind with
    | .mma op =>
      if o ≠ 0 ∧ p = 1 ∧ c.due ≠ s.cyc then .next s else
      let rows := (List.range 8).map (fun r => 8 * (p - 1) + r) |>.filter (fun r => op.mrow.getLsbD r)
      let s1 := s.updTile k (fun t => { t with acc := rows.foldl (fun a r => a.upd (16 * c.acc + r) (mmaRow c op r)) t.acc })
      let s2 := s1.schedule (s.cyc + 4) (.mmaRowsFinal k o id p)
      if p = 1 then
        match s2.lastOwned k o 4096 (s.cyc + 1) (passWork op) with
        | some x => .next (s2.schedule x (.mmaPass k o id 2))
        | none => .next s2
      else .next s2
    | _ => .next s

/-- Rows 0 to 7 are final, or rows 8 to 15 are and the command ends (R163). -/
def execMmaRowsFinal (k o id p : Nat) (s : State) : Out :=
  let a := ((s.cmd k o id).getD default).acc
  if p = 1 then .next ((s.updCmd k o id (fun x => { x with stage := 4 })).noteRise k o a (s.watermark k o a))
  else .next (s.endCmd k o id)

def execMmaBf (b t x : BitVec 1) (k : BitVec 9) (n : BitVec 5) (c : BitVec 3) (s : State) : Out := s.mma 0 b t x k n c
def execMmaH (b t x : BitVec 1) (k : BitVec 9) (n : BitVec 5) (c : BitVec 3) (s : State) : Out := s.mma 1 b t x k n c
def execMmaD8 (b t x : BitVec 1) (k : BitVec 9) (n : BitVec 5) (c : BitVec 3) (s : State) : Out := s.mma 2 b t x k n c
def execMmaI8 (b t x : BitVec 1) (k : BitVec 9) (n : BitVec 5) (c : BitVec 3) (s : State) : Out := s.mma 3 b t x k n c

/-! ## Accumulator instructions (R164 to R169) -/

def execMzero (c : BitVec 3) (s : State) : Out := s.guarded [s.accCheck c] fun s => s.enqueue c.toNat .mzero

/-- R166: the cycle in which an MZERO executes is over; the accumulator is zero and the command has ended. -/
def execMzeroExecute (k o id : Nat) (s : State) : Out :=
  match s.cmd k o id with
  | none => .next s
  | some c =>
    let s1 := s.updTile k (fun t => { t with acc := (List.range 16).foldl (fun a r => a.set (16 * c.acc + r) 0#512) t.acc })
    .next (s1.endCmd k o id)

/-- R166: vs is captured at issue. -/
def execMwr (r : BitVec 4) (v : BitVec 5) (c : BitVec 3) (s : State) : Out :=
  s.guarded [s.chkV v, s.accCheck c] fun s => s.enqueue c.toNat (.mwr r.toNat (s.readV v))

def execMwrExecute (k o id : Nat) (s : State) : Out :=
  match s.cmd k o id with
  | none => .next s
  | some c =>
    match c.kind with
    | .mwr r v => .next ((s.updTile k (fun t => { t with acc := t.acc.set (16 * c.acc + r) v })).endCmd k o id)
    | _ => .next s

/-- R167: waits at issue until the row is below the watermark. -/
def execMrd (r : BitVec 4) (d : BitVec 5) (c : BitVec 3) (s : State) : Out :=
  s.guarded [s.accCheck c] fun s =>
    if r.toNat < s.watermark s.curTile (ownerOf s.curThread) c.toNat then
      s.afterHold ((s.tile s.curTile).accAt.get (riseKey c.toNat r.toNat)) fun s => .next ((s.writeV d 2 ((s.tile s.curTile).acc.get (16 * c.toNat + r.toNat))).retire)
    else .next s.stall

def execMwm (d : BitVec 5) (c : BitVec 3) (s : State) : Out :=
  s.guarded [s.accCheck c] fun s =>
    .next ((s.writeW d 1 (word (s.watermark s.curTile (ownerOf s.curThread) c.toNat))).retire)

/-- R169. -/
def execMwait (q : BitVec 1) (c : BitVec 3) (s : State) : Out :=
  s.guarded [if q = 1#1 then s.accCheck c else none] fun s =>
    let l := (s.mqueue s.curTile (ownerOf s.curThread)).filter (fun x => q == 0#1 || x.acc == c.toNat)
    if l.isEmpty then .next s.retire else .next (s.retire.enterWait (.matrix (l.map MCmd.id)))

/-- Bytes of an element of a store's destination; 1 where the format is refused (R168). -/
def mstaSize (w : Word) : Nat := if bfRaw w || decide (bfFmt w = 5) then 1 else fmtBits (bfFmt w) / 8

/-- R168. -/
def execMsta (i : BitVec 1) (k : BitVec 9) (n : BitVec 5) (c : BitVec 3) (s : State) : Out :=
  let w := s.readW n
  let b := k.toNat
  let f := s.bfmt s.curTile b
  let d := mstaSize f
  let off := field w 9 0
  let stride := field w 19 10
  let rmask : Mask := w.extractLsb' 20 16
  let rows := (List.range 16).filter (fun r => rmask.getLsbD r)
  let outside := rows.findSome? (fun r =>
    if 1024 < off + r * stride + 16 * d then some (1024 * b + max (off + r * stride) 1024) else none)
  s.guarded [s.chkW n, s.accCheck c, trapIf (decide (field w 63 38 ≠ 0)) Cause.illegal w,
      if off % d ≠ 0 then some ⟨Cause.align, word off⟩ else trapIf (decide (stride % d ≠ 0)) Cause.align (word stride),
      if 384 ≤ b then some ⟨Cause.taddr, word (1024 * b + off)⟩ else outside.map (fun a => ⟨Cause.taddr, word a⟩),
      trapIf (s.bankReserved s.curTile b) Cause.spillProt (word (1024 * b)),
      trapIf (bfD8b f && s.bankReserved s.curTile (bfBank f)) Cause.spillProt (word (1024 * bfBank f)),
      trapIf (bfRaw f || decide (bfFmt f = 5 ∨ bfFmt f = 11)) Cause.bankFmt (word b),
      trapIf (bfD8b f && !bfE8 (s.bfmt s.curTile (bfBank f))) Cause.bankFmt (word (bfBank f))] fun s =>
    s.enqueue c.toNat (.msta { bank := b, off := off, stride := stride, rmask := rmask, mode := field w 37 36, isInt := i == 1#1, bfmt := f })

/-- Value of an accumulator element that an MSTA stores, with the substitutes of R42. -/
def mstaValue (o : MstaOp) (sub : List Subst) (r c : Nat) (x : Lane) : FVal :=
  match substAt sub (16 * r + c) with
  | some v => fval (v.setWidth 32)
  | none => if o.isInt then FVal.ofInteger x.toInt else fval x

/-- The bytes that an MSTA writes, or the first element that raises FMTRES (R168). Where rows overlap the later row's bytes come later in the
list, and stand (DESIGN CHOICE, log entry 94). -/
def State.mstaBytes (s : State) (k acc : Nat) (o : MstaOp) (sub : List Subst) : Except FmtErr (List (Nat × Byte)) :=
  let d := mstaSize o.bfmt
  let f := bfFmt o.bfmt
  let cells := ((List.range 16).filter (fun r => o.rmask.getLsbD r)).flatMap (fun r =>
    (List.range 16).map (fun c => (r, c, lane ((s.tile k).acc.get (16 * acc + r)) c)))
  let bad := if f = 9 ∨ f = 10 then cells.find? (fun x => (mstaValue o sub x.1 x.2.1 x.2.2).special) else none
  match bad with
  | some (r, c, x) => .error ⟨16 * r + c, false, true, x.setWidth 64, 0⟩
  | none =>
    let at_ (r c : Nat) : Nat := (o.off + r * o.stride + c * d) / d
    if f = 10 then
      let vals : Tab (Option FVal) := cells.foldl (fun t x => Tab.setD none t (at_ x.1 x.2.1) (some (mstaValue o sub x.1 x.2.1 x.2.2))) []
      let col := bfAxis o.bfmt
      let blocks := dedup (cells.map (fun x => blockOf col (at_ x.1 x.2.1)))
      .ok (blocks.flatMap (fun j =>
        let offs := blockOffsets col j
        match quantise (offs.map (fun p => (Tab.getD none vals p).getD (.fin false 0 0))) with
        | .ok (cs, kc) => offs.zipWith (fun p q => (1024 * o.bank + p, q)) cs ++ [(scaleAddr o.bank (bfBank o.bfmt) j, kc)]
        | .error _ => []))
    else
      .ok (cells.flatMap (fun x =>
        let code := if f = 6 ∧ !o.isInt then x.2.2.toNat
                    else (encodeElem f (RMode.ofCode o.mode) (mstaValue o sub x.1 x.2.1 x.2.2)).getD 0
        (List.range d).zipWith (fun j y => (1024 * o.bank + at_ x.1 x.2.1 * d + j, y)) (bytesOfNat d code)))

/-- The bytes that the MSTA right before a command will have stored, or stores now: an MMA reads them (queue order of Table 14.2). -/
def State.mstaAhead (s : State) (k o id : Nat) : List (Nat × Byte) :=
  ((s.mqueue k o).takeWhile (fun c => c.id != id)).flatMap (fun c =>
    match c.kind with
    | .msta op => if c.stage = 3 then c.out else (match s.mstaBytes k c.acc op c.subst with
      | .ok l => l
      | .error _ => [])
    | _ => [])

/-- Tile SRAM with some bytes written over it, the last of one address standing. -/
def overlay (rd : Nat → Byte) (l : List (Nat × Byte)) (a : Nat) : Byte := ((l.reverse.find? (fun e => e.1 == a)).map Prod.snd).getD (rd a)

/-- A .BS latch of a queue has the tile's column for `n` cycles: the S gets under way wait for it (R163), but the primary's not for a filler's
latch (R12). -/
def State.holdColumn (s : State) (k o n : Nat) : State :=
  let c := s.cyc
  let waits (t : Nat) : Bool := o == 0 || t == 8
  let due := s.xfers.filterMap (fun e => match e.2 with
    | some x => if x.kind == .get && x.space == 1 && x.tile == k && waits x.thread && !x.final && decide (c < x.land) then some (e.1, x.land) else none
    | none => none)
  let s1 := due.foldl (fun a e => (a.updXfer e.1 (fun x => { x with land := e.2 + n })).schedule (e.2 + n) (.getLand e.1)) s
  let s2 := s1.updTile k (fun t => { t with threads := t.threads.each (fun i x => if waits i && decide (c < x.sEnd) then { x with sEnd := x.sEnd + n } else x) })
  s2.updTile k (fun t => if o = 0 then { t with colEnd := c + n } else { t with fillColEnd := c + n })

/-- The cycle from which a thread's S gets have the tile's column (R12, R163). -/
def Tile.columnFree (t : Tile) (i : Nat) : Nat := if i = 8 then max t.colEnd t.fillColEnd else t.colEnd

/-- What a .BS latch does outside the tile as it runs for `n` cycles and reads its first `m` elements: it has the column (R163), and the pages
that it reads count as read (R310). -/
def State.readColumn (s : State) (k o : Nat) (c : MCmd) (op : MmaOp) (n m : Nat) : State :=
  let read := s.touch ((s.lidOf k c.thread).getD 0) ((s.bsSegs (dieOf k) op).take (m - 16 * op.k))
  if !op.bs then s else if n = 0 then read else read.holdColumn k o n

/-- The end of the latches before a command in its queue: the commands of a filler may have been put off (R158, R163). -/
def State.latchFree (s : State) (k o id : Nat) : Nat :=
  ((s.mqueue k o).takeWhile (fun x => x.id != id)).foldl (fun n c => match c.kind with
    | .mma _ => max n c.latchEnd
    | _ => n) (s.portsFree k o)

/-- The latch of an MMA begins, or goes on (Table 9.2): behind a held command it waits; at a code that cannot be decoded it stops in the
cycle in which it meets the code, and the tile parks (R41, R162). -/
def execMmaLatch (k o id : Nat) (s : State) : Out :=
  match s.cmd k o id with
  | none => .next s
  | some c =>
    match c.kind with
    | .mma op =>
      let free := s.latchFree k o id
      if c.due ≠ 0 ∧ c.due ≠ s.cyc then .next s
      else if ((s.mqueue k o).takeWhile (fun x => x.id != id)).any (fun x => x.stage == 5) then .next (s.updCmd k o id (fun x => { x with stage := 0 }))
      else if s.cyc < free then .next (s.schedule free (.mmaLatch k o id))
      else
        let cyc := s.cyc
        match s.latch (overlay (s.tileRd k) (s.mstaAhead k o id)) k c op with
        | (l, some e) =>
          let n := c.lat.length + l.length
          let at_ := if e.first then 0 else latchOffset op n
          if at_ ≤ c.passed then
            let lost := op.bs && (s.die (dieOf k)).lost.contains (columnOf k) && e == .directory
            let s0 := (if lost then s.record (dieOf k) 0x0D (k % 4096) (columnOf k) else s).readColumn k o c op 0 (if e.first then 0 else n + 1)
            .next ((s0.updCmd k o id (fun x => { x with stage := 5, due := 0, lat := c.lat ++ l })).parkMatrix k c e)
          else
            let s1 := (s.readColumn k o c op (at_ - c.passed) (n + 1)).updCmd k o id (fun x => { x with due := cyc + (at_ - c.passed), passed := at_, lat := c.lat ++ l })
            .next (((s1.schedule (cyc + (at_ - c.passed)) (.mmaLatch k o id)).delayFiller k o (at_ - c.passed)).mxAdvance k 1)
        | (l, none) =>
          let all := c.lat ++ l
          let n := latchTime op - c.passed
          let s1 := ((s.readColumn k o c op n (32 * op.k)).updCmd k o id (fun x => { x with
            stage := 2, due := 0, lat := [], passed := 0, latchEnd := cyc + n
            aLat := (List.range 16).map (fun r => (all.drop (r * op.k)).take op.k)
            bLat := (List.range op.k).map (fun i => (all.drop (16 * op.k + 16 * i)).take 16) })).delayFiller k o n
          .next ((s1.mxAdvance k 1).mxAdvance k o)
    | _ => .next s

/-- An MSTA begins (R168): it converts and checks everything, logs, and its bytes stand when it ends. With too little room in the
primary share it waits before its first write (R181). -/
def execMstaExecute (k o id : Nat) (s : State) : Out :=
  match s.cmd k o id with
  | none => .next s
  | some c =>
    match c.kind with
    | .msta op =>
      let free := s.portsFree k o
      if s.cyc < free then .next (s.schedule free (.mstaExecute k o id))
      else match s.mstaBytes k c.acc op c.subst with
      | .error e => .next ((s.updCmd k o id (fun x => { x with stage := 5 })).parkMatrix k c (.fmt e))
      | .ok bs =>
        let nl := if o = 1 then 0 else s.freshOf k bs
        if s.noRoom k nl then
          let s1 := if s.groupFull k || s.regionFull then s.updThread k c.thread (fun t => t.addWait 4 1) else s
          .next ((s1.updCmd k o id (fun x => { x with stage := 6 })).schedule (s.cyc + 1) (.mstaExecute k o id))
        else
          let q := if bfFmt op.bfmt = 9 ∨ bfFmt op.bfmt = 10 then 4 else 0
          let s1 := if o = 1 then s else s.logTile k 0 (bs.flatMap (fun b => tileLines k b.1 1))
          let n := 2 + popcount op.rmask + q + nl
          let cyc := s.cyc
          let s2 := s1.updCmd k o id (fun x => { x with stage := 3, out := bs, due := cyc + n })
          .next (((s2.schedule (cyc + n) (.mstaEnd k o id)).delayFiller k o n).mxAdvance k 1)
    | _ => .next s

/-- An MSTA ends: its bytes, scale bytes included, are in tile SRAM (R168). -/
def execMstaEnd (k o id : Nat) (s : State) : Out :=
  match s.cmd k o id with
  | none => .next s
  | some c => if o ≠ 0 ∧ c.due ≠ s.cyc then .next s else .next ((s.pokeAt (.tile k) c.out).endCmd k o id)

/-! ## Scale and mask configuration (R170) -/

def execMscale (m : BitVec 4) (a : BitVec 5) (s : State) : Out :=
  s.guarded [s.chkW a] fun s =>
    let v := s.readW a
    .next ((s.updThr (fun t => { t with
      sf := (List.range 4).foldl (fun f k => if m.getLsbD k then f.set k (v.extractLsb' (8 * k) 8) else f) t.sf })).retire)

def execMmask (a : BitVec 5) (s : State) : Out :=
  s.guarded [s.chkW a] fun s =>
    let v := s.readW a
    .next ((s.updThr (fun t => { t with mrow := v.extractLsb' 0 16, mcol := v.extractLsb' 16 16 })).retire)

/-! ## At a bell (R172) -/

/-- Every latch of a thread has ended, and every MSTA of it has ended. -/
def State.matrixSettled (s : State) (k t : Nat) : Bool :=
  (s.mqueue k (ownerOf t)).all (fun c => c.thread != t ||
    (match c.kind with
      | .mma _ => decide ((c.stage = 2 ∨ c.stage = 3 ∨ c.stage = 4) ∧ c.latchEnd ≤ s.cyc)
      | .msta _ => false
      | _ => true))

end Sys2Proof.Machine
end

