-- ==== Sys2Proof/Machine/Save.lean ====
section
/-!
DEFINITION. Save areas in the pools of package HBM (R309 to R311): where an area lies, what of a launch's part stands at which byte of it
(Tables 16.10 to 16.12), and what a restore reads back from those bytes. Items of the tables whose own layout the spec does not give keep to
the save area's record in `State.saves` (DESIGN CHOICE, log entry 77).
-/

namespace Sys2Proof.Machine

/-! ## Room in the pools (R309) -/

/-- Bytes of a save area in a package (Table 16.10). -/
def saveBytes (groups pages : Nat) : Nat := if groups = 0 then 0 else 262144 + 9961472 * groups + 65536 * pages

/-- Size of a package's save pool (MG.SAVEPOOL). -/
def State.poolSize (s : State) (p : Nat) : Nat := field (s.mg p 0x18) 63 48 * 1073741824

/-- The groups of a launch on this module. -/
def State.groupsOf (s : State) (lid : Nat) : List Nat := ((s.launch lid).place.groups s.podModule).map Prod.fst

/-- Bytes that a launch's save may need in a package; copy-on-write pages are counted as if all were copied. -/
def State.poolNeed (s : State) (p lid : Nat) : Nat :=
  let l := s.launch lid
  saveBytes ((s.groupsOf lid).filter (fun g => decide (g / 2048 = p))).length (l.touched.filter (fun g => decide (g / 32768 / 8 = p))).length

/-- The areas that a save seal's cut has taken. -/
def State.cutAreas (s : State) : List (Nat × Nat × Nat × Nat) := (s.cut.map Cut.areas).getD []

/-- Areas taken in a package's pool, by a save of a launch or of a save seal: offset and size. -/
def State.poolTaken (s : State) (p : Nat) : List (Nat × Nat) :=
  ((s.launches.flatMap (fun e => e.2.areas) ++ s.cutAreas.map Prod.snd).filter (fun a => decide (a.1 = p))).map Prod.snd

/-- The lowest offset at which `n` bytes fit beside the areas taken, in a pool of `size` bytes. -/
def gapFor (size n : Nat) (taken : List (Nat × Nat)) : Option Nat :=
  ((0 :: taken.map (fun a => a.1 + a.2)).filter (fun o => decide (o + n ≤ size) && taken.all (fun a => decide (o + n ≤ a.1 ∨ a.1 + a.2 ≤ o)))).foldl
    (fun (m : Option Nat) o => match m with
      | none => some o
      | some x => some (min x o)) none

/-- Areas for a launch's save, one in each package that it touches: none where one does not fit. -/
def State.areasFor (s : State) (lid : Nat) : Option (List (Nat × Nat × Nat)) :=
  (s.launch lid).place.packages.foldl (fun (m : Option (List (Nat × Nat × Nat))) p =>
    m.bind (fun l => (gapFor (s.poolSize p) (s.poolNeed p lid) (s.poolTaken p)).map (fun o => l ++ [(p, o, s.poolNeed p lid)]))) (some [])

/-- A launch's save takes its areas, where they fit. -/
def State.takeAreas (s : State) (lid : Nat) : State := s.updLaunch lid (fun l => if l.areas.isEmpty then { l with areas := (s.areasFor lid).getD [] } else l)

/-- A holder's save fits in the pools of its packages (R309). -/
def State.saveFits (s : State) (lid : Nat) : Bool := !(s.launch lid).areas.isEmpty || (s.areasFor lid).isSome

/-- The saves of several holders fit beside each other. -/
def State.savesFit (s : State) : List Nat → Bool
  | [] => true
  | h :: r => s.saveFits h && (s.takeAreas h).savesFit r

/-! ## Thread blocks (Table 16.12) -/

/-- An item of a record: its offset and size, what it holds of a value, and the value with what it reads as. -/
abbrev Item (α : Type) := Nat × Nat × (α → Nat) × (α → Nat → α)

/-- Consecutive items of one size. -/
def items {α : Type} (at_ size n : Nat) (get : α → Nat → Nat) (put : α → Nat → Nat → α) : List (Item α) :=
  (List.range n).map (fun i => (at_ + size * i, size, fun t => get t i, fun t v => put t i v))

/-- A word of a table of words. -/
def wordItem (n : Nat) (w : Tab Word) : Nat := (w.get n).toNat

/-- The nested set of a stopped thread (R304). -/
def Thread.nestedSet (t : Thread) : TrapSet := t.nested.getD default

/-- The nested set with a change, where the thread has one. -/
def Thread.inNested (t : Thread) (f : TrapSet → TrapSet) : Thread := { t with nested := t.nested.map f }

/-- w registers, octets, the PC queue and the control registers of thread `n`. -/
def scalarItems (n : Nat) : List (Item Thread) :=
  items 0x0000 8 7 (fun t i => wordItem (i + 1) t.regs) (fun t i v => { t with regs := t.regs.set (i + 1) (word v) }) ++
  items 0x0040 8 96 (fun t i => wordItem (i + 8) t.regs) (fun t i v => { t with regs := t.regs.set (i + 8) (word v) }) ++
  [ (0x0340, 8, fun t => t.q0.toNat, fun t v => { t with q0 := BitVec.ofNat 18 v })
  , (0x0348, 8, fun t => t.q1.toNat, fun t v => { t with q1 := BitVec.ofNat 18 v })
  , (0x0350, 8, fun t => t.q2.toNat, fun t v => { t with q2 := BitVec.ofNat 18 v })
  , (0x0358, 8, fun t => t.n0.toNat + 2 * t.n1.toNat, fun t v => { t with n0 := v.testBit 0, n1 := v.testBit 1 })
  , (0x0360, 8, fun t => 256 * (t.depth % 32) + 16 * (t.lo % 16) + t.base % 16,
      fun t v => { t with base := v % 16, lo := v / 16 % 16, depth := v / 256 % 32 })
  , (0x0368, 8, fun t => t.tie.toNat, fun t v => { t with tie := v.testBit 0 })
  , (0x0370, 8, fun t => t.chk.toNat, fun t v => { t with chk := v.testBit 0 })
  , (0x0378, 8, fun t => (t.stat n).toNat, fun t v => { t with inTrap := v.testBit 5 }) ]

/-- The trap registers, the nested set and the TICKs pending. -/
def trapItems : List (Item Thread) :=
  [ (0x0380, 8, fun t => t.tvec.toNat, fun t v => { t with tvec := word v })
  , (0x0388, 8, fun t => t.trap.tcause.toNat, fun t v => { t with trap := { t.trap with tcause := word v } })
  , (0x0390, 8, fun t => t.trap.tval.toNat, fun t v => { t with trap := { t.trap with tval := word v } })
  , (0x0398, 8, fun t => t.trap.tstat.toNat, fun t v => { t with trap := { t.trap with tstat := word v } })
  , (0x03A0, 8, fun t => t.trap.epc0.toNat, fun t v => { t with trap := { t.trap with epc0 := word v } })
  , (0x03A8, 8, fun t => t.trap.epc1.toNat, fun t v => { t with trap := { t.trap with epc1 := word v } })
  , (0x03B0, 8, fun t => t.trap.epc2.toNat, fun t v => { t with trap := { t.trap with epc2 := word v } })
  , (0x03B8, 8, fun t => t.nestedSet.tcause.toNat, fun t v => t.inNested (fun x => { x with tcause := word v }))
  , (0x03C0, 8, fun t => t.nestedSet.tval.toNat, fun t v => t.inNested (fun x => { x with tval := word v }))
  , (0x03C8, 8, fun t => t.nestedSet.tstat.toNat, fun t v => t.inNested (fun x => { x with tstat := word v }))
  , (0x03D0, 8, fun t => t.nestedSet.epc0.toNat, fun t v => t.inNested (fun x => { x with epc0 := word v }))
  , (0x03D8, 8, fun t => t.nestedSet.epc1.toNat, fun t v => t.inNested (fun x => { x with epc1 := word v }))
  , (0x03E0, 8, fun t => t.nestedSet.epc2.toNat, fun t v => t.inNested (fun x => { x with epc2 := word v }))
  , (0x03E8, 8, fun t => t.ticks, fun t v => { t with ticks := v }) ]

/-- Vectors, masks, scale factors, the abort code and the counters. -/
def vectorItems : List (Item Thread) :=
  items 0x0400 64 32 (fun t i => (t.vregs.get i).toNat) (fun t i v => { t with vregs := t.vregs.set i (BitVec.ofNat 512 v) }) ++
  items 0x0C00 2 8 (fun t i => if i = 0 then 0xFFFF else (t.mregs.get i).toNat)
    (fun t i v => if i = 0 then t else { t with mregs := t.mregs.set i (BitVec.ofNat 16 v) }) ++
  [ (0x0C10, 2, fun t => t.mrow.toNat, fun t v => { t with mrow := BitVec.ofNat 16 v })
  , (0x0C12, 2, fun t => t.mcol.toNat, fun t v => { t with mcol := BitVec.ofNat 16 v }) ] ++
  items 0x0C14 1 4 (fun t i => (t.sf.get i).toNat) (fun t i v => { t with sf := t.sf.set i (BitVec.ofNat 8 v) }) ++
  [ (0x0C40, 8, fun t => t.abort.code.toNat, fun t v => { t with abort := { t.abort with code := BitVec.ofNat 16 v } })
  , (0x0C48, 8, fun t => t.abort.origin.toNat, fun t v => { t with abort := { t.abort with origin := BitVec.ofNat 32 v } })
  , (0x0C50, 8, fun t => t.abort.ps, fun t v => { t with abort := { t.abort with ps := v } })
  , (0x0C58, 8, fun t => t.abt.toNat, fun t v => { t with abt := word v })
  , (0x0C60, 8, fun t => t.rbk.toNat, fun t v => { t with rbk := word v }) ] ++
  items 0x0C80 8 5 (fun t i => wordItem i t.ss) (fun t i v => { t with ss := t.ss.set i (word v) }) ++
  items 0x0CA8 8 5 (fun t i => wordItem i t.wt) (fun t i v => { t with wt := t.wt.set i (word v) })

/-- Item `i` of loop level `j`: pending count, running count, index, active. -/
def Nest.levelItem (n : Nest) (j i : Nat) : Nat := match i with
  | 0 => (n.pcnt.get j).toNat
  | 1 => (n.cnt.get j).toNat
  | 2 => (n.idx.get j).toNat
  | _ => (n.act.get j).toNat
def Nest.setLevel (n : Nest) (j i v : Nat) : Nest := match i with
  | 0 => { n with pcnt := n.pcnt.set j (BitVec.ofNat 32 v) }
  | 1 => { n with cnt := n.cnt.set j (BitVec.ofNat 32 v) }
  | 2 => { n with idx := n.idx.set j (BitVec.ofNat 32 v) }
  | _ => { n with act := n.act.set j (v.testBit 0) }

/-- Item `i` of address register `k`: pending base, running base, tag, pending coefficients, running coefficients. -/
def Nest.baseItem (n : Nest) (k i : Nat) : Nat :=
  if i = 0 then wordItem k n.pbase else if i = 1 then wordItem k n.base else if i = 2 then n.tag.get k
  else if i < 7 then wordItem (4 * k + (i - 3)) n.pcoef else wordItem (4 * k + (i - 7)) n.coef
def Nest.setBase (n : Nest) (k i v : Nat) : Nest :=
  if i = 0 then { n with pbase := n.pbase.set k (word v) } else if i = 1 then { n with base := n.base.set k (word v) }
  else if i = 2 then { n with tag := n.tag.set k v }
  else if i < 7 then { n with pcoef := n.pcoef.set (4 * k + (i - 3)) (word v) } else { n with coef := n.coef.set (4 * k + (i - 7)) (word v) }

/-- The loop-nest unit. -/
def nestItems : List (Item Thread) :=
  items 0x0D00 8 16 (fun t i => t.nest.levelItem (i / 4) (i % 4)) (fun t i v => { t with nest := t.nest.setLevel (i / 4) (i % 4) v }) ++
  items 0x0D80 8 176 (fun t i => t.nest.baseItem (i / 11) (i % 11)) (fun t i v => { t with nest := t.nest.setBase (i / 11) (i % 11) v })

/-- The block of thread `n`, up to where its layout is given. -/
def threadItems (n : Nat) : List (Item Thread) := scalarItems n ++ trapItems ++ vectorItems ++ nestItems
def threadBlock : Nat := 0x1300

/-- A window (R225), and what a tile record holds beside its windows (Table 16.11); where their fields stand is a DESIGN CHOICE (log entry 77). -/
def windowItems : List (Item Window) :=
  [ (0, 4, fun w => w.bank, fun w v => { w with bank := v }), (4, 4, fun w => w.size, fun w v => { w with size := v })
  , (8, 4, fun w => w.count, fun w v => { w with count := v }), (12, 4, fun w => w.c.toNat, fun w v => { w with c := BitVec.ofNat 32 v })
  , (16, 4, fun w => w.rel.toNat, fun w v => { w with rel := BitVec.ofNat 32 v }), (20, 4, fun w => w.status, fun w v => { w with status := v }) ]
def tileItems : List (Item Tile) :=
  (0, 8, fun t => t.xperm.toNat, fun t v => { t with xperm := BitVec.ofNat 16 v }) ::
  items 8 2 4 (fun t i => wordItem i t.lst) (fun t i v => { t with lst := t.lst.set i (word v) })

/-! ## Bytes of an area -/

/-- Bytes of a number at an offset, those that are not 0. -/
def numCells (o size v : Nat) : List (Nat × Byte) :=
  (((List.range size).map (fun i => o + i)).zip (bytesOfNat size v)).filter (fun e => e.2 != 0#8)

/-- A value's items as bytes. -/
def writeItems {α : Type} (l : List (Item α)) (a : Nat) (x : α) : List (Nat × Byte) := l.flatMap (fun i => numCells (a + i.1) i.2.1 (i.2.2.1 x))

/-- The number at an offset of a list of bytes. -/
def numAt (cells : List (Nat × Byte)) (o size : Nat) : Nat :=
  (cells.filter (fun c => decide (o ≤ c.1 ∧ c.1 < o + size))).foldl (fun n c => n + c.2.toNat * 2 ^ (8 * (c.1 - o))) 0

/-- A value with its items as bytes give them. -/
def readItems {α : Type} (l : List (Item α)) (a : Nat) (cells : List (Nat × Byte)) (x : α) : α :=
  l.foldl (fun y i => i.2.2.2 y (numAt cells (a + i.1) i.2.1)) x

/-- Where the record of tile `t` of a group lies in the group's (Table 16.11). -/
def tileRecord (t : Nat) : Nat := 0x200000 + 0x78000 * t

/-- The threads of a saved launch beside the numbers of their blocks: a filler's is block 0 (R309). -/
def blocksOf (filler : Bool) : List (Nat × Nat) := if filler then [(0, 8)] else (List.range 8).map (fun i => (i, i))

/-- First accumulator row of a saved launch: acc0 to acc3, or acc4 to acc7 for a filler. -/
def firstAcc (filler : Bool) : Nat := if filler then 64 else 0

/-- A tile record (Table 16.11) at offset `o` of a package's HBM. A filler's has its thread block and accumulators alone. -/
def State.layTile (s : State) (v : SaveArea) (filler : Bool) (p o : Nat) (e : Nat × Tile) : State :=
  let s1 := (blocksOf filler).foldl (fun a b =>
    let x := e.2.threads.get b.2
    a.lay p (o + 0x60000 + 0x2000 * b.1) threadBlock (if x.live then writeItems (threadItems b.2) 0 x else [])) s
  let s2 := s1.lay p (o + 0x70000) 4096 ((List.range 64).flatMap (fun i => numCells (64 * i) 64 (e.2.acc.get (firstAcc filler + i)).toNat))
  if filler then s2
  else
    let s3 := s2.lay p o 393216 (Memory.slice v.mem ((Space.tile e.1).key 0) 393216)
    let s4 := ((s3.lay p (o + 0x71000) 3072 (e.2.bfmt.flatMap (fun x => numCells (8 * x.1) 8 x.2.toNat))).lay p (o + 0x71C00) 512
      ((List.range 16).flatMap (fun i => writeItems windowItems (32 * i) (e.2.windows.get i)))).lay p (o + 0x71E00) 16 (writeItems tileItems 0 e.2)
    let bit (l : Nat) : Nat := if v.logged.contains ((Space.tile e.1).key 0 / 64 + l) then 1 else 0
    if v.logged.isEmpty then s4.lay p (o + 0x76000) 768 []
    else s4.lay p (o + 0x76000) 768 ((List.range 768).flatMap (fun b =>
      numCells b 1 ((List.range 8).foldl (fun n i => n + bit (8 * b + i) * 2 ^ i) 0)))

/-- The part of a save in a package, at offset `o` of its HBM: header, group records and copied pages (Table 16.10). -/
def State.layPart (s : State) (v : SaveArea) (p o : Nat) : State :=
  let l := s.launch v.lid
  let gs := v.groups.filter (fun g => g.1 / 2048 == p)
  let pages := v.pages.filter (fun g => g.1 / 32768 / 8 == p)
  let head := numCells 0 8 ((l.records.find? (fun r => r.1 == p)).elim 0 Prod.snd) ++ numCells 8 8 l.tag ++ numCells 16 2 l.ctx ++
    numCells 18 2 gs.length ++ numCells 20 4 pages.length
  let s1 := s.lay p o 24 head
  let s2 := (gs.zip (List.range gs.length)).foldl (fun a e =>
    let r := o + groupRecord e.2
    let b := if l.isFiller then a else a.lay p r 0x1C0000 (Memory.slice v.mem ((Space.group e.1.1).key 0) 0x1C0000)
    (v.tiles.filter (fun t => groupOf t.1 == e.1.1)).foldl (fun c t => c.layTile v l.isFiller p (r + tileRecord (t.1 % 16)) t) b) s1
  (pages.zip (List.range pages.length)).foldl (fun a e =>
    a.lay p (o + groupRecord gs.length + 65536 * e.2) 65536
      (Memory.slice e.1.2 ((Space.tensor (e.1.1 / 32768)).key (65536 * (e.1.1 % 32768))) 65536)) s2

/-- A save is written out into its areas of the pools (R309). -/
def State.layAreas (s : State) (v : SaveArea) (areas : List (Nat × Nat × Nat)) : State :=
  areas.foldl (fun a e => a.layPart v e.1 (s.areaAt e.1 e.2.1)) s
def State.laySave (s : State) (lid : Nat) : State :=
  match s.saves.find? (fun v => v.lid == lid) with
  | none => s
  | some v => s.layAreas v (s.launch lid).areas

/-! ## Seal buffers (R322) -/

/-- A thread record of the seal of interval `n` (Table 17.5). -/
def SealRecord.cells (r : SealRecord) (n : Nat) : List (Nat × Byte) :=
  let octet (j : Nat) : Nat := 8 + 8 * ((r.base + j) % 12)
  numCells 0x000 8 n ++
  (List.range 7).flatMap (fun i => numCells (0x008 + 8 * i) 8 (wordItem (i + 1) r.globals)) ++
  (List.range 24).flatMap (fun i => numCells (0x040 + 8 * i) 8 (wordItem (octet (i / 8) + i % 8) r.octets)) ++
  (List.range 16).flatMap (fun i => numCells (0x100 + 8 * i) 8 (wordItem i r.abase)) ++
  numCells 0x180 4 r.q0.toNat ++ numCells 0x184 4 r.q1.toNat ++ numCells 0x188 4 r.q2.toNat ++
  numCells 0x18C 1 (r.n0.toNat + 2 * r.n1.toNat) ++ numCells 0x18D 3 (256 * (r.depth % 32) + 16 * (r.lo % 16) + r.base % 16) ++
  numCells 0x190 8 r.tie.toNat ++ numCells 0x198 8 r.tvec.toNat ++
  (List.range 5).flatMap (fun i => numCells (0x1A0 + 8 * i) 8 (wordItem i r.ss)) ++
  (List.range 4).flatMap (fun i => numCells (0x1C8 + i) 1 (r.sf.get i).toNat) ++ numCells 0x1CC 1 r.chk.toNat ++ numCells 0x1D0 8 r.nextBatch

/-- A seal buffer of the seal of interval `n` (Table 17.4). -/
def SealBuffer.cells (b : SealBuffer) (n : Nat) : List (Nat × Byte) :=
  let thread (i : Nat) : List (Nat × Byte) := match b.threads.get i with
    | some r => (r.cells n).map (fun c => (480 * i + c.1, c.2))
    | none => []
  let window (i : Nat) : List (Nat × Byte) :=
    let w := b.windows.get i
    numCells (0xF00 + 12 * i) 4 w.c.toNat ++ numCells (0xF04 + 12 * i) 4 w.rel.toNat ++ numCells (0xF08 + 12 * i) 4 w.status
  (List.range 8).flatMap thread ++ (List.range 16).flatMap window ++ numCells 0xFC0 8 b.xperm.toNat ++
  (List.range 4).flatMap (fun i => numCells (0xFC8 + 2 * i) 2 (wordItem i b.lst))

/-- The seal buffer of a tile for interval `m`, in banks 328 to 335. -/
def bufferAt (m : Nat) : Nat := 0x52000 + 4096 * (m % 2)

/-- The seal of interval `n` writes the other buffer of a tile. -/
def State.layBuffer (s : State) (k n : Nat) (b : SealBuffer) : State :=
  let a := bufferAt (n + 1)
  (s.clearRange (.tile k) a 4096).pokeAt (.tile k) ((b.cells n).map (fun c => (a + c.1, c.2)))

/-! ## Reading an area back (R311) -/

/-- A saved tile as its record reads. -/
def State.readTile (s : State) (filler : Bool) (p o : Nat) (t : Tile) : Tile :=
  let at_ (a n : Nat) : List (Nat × Byte) := Memory.slice s.mem ((Space.hbm p).key (o + a)) n
  let acc := at_ 0x70000 4096
  let t1 := { t with
    threads := (blocksOf filler).foldl (fun (ts : Tab Thread) b =>
      let x := ts.get b.2
      if x.live then ts.set b.2 (readItems (threadItems b.2) 0 (at_ (0x60000 + 0x2000 * b.1) threadBlock) x) else ts) t.threads
    acc := (List.range 64).foldl (fun (a : Tab Vec) i => a.set (firstAcc filler + i) (BitVec.ofNat 512 (numAt acc (64 * i) 64))) t.acc }
  if filler then t1
  else
    let f := at_ 0x71000 3072
    let w := at_ 0x71C00 512
    { readItems tileItems 0 (at_ 0x71E00 16) t1 with
      bfmt := (List.range 384).foldl (fun (a : Tab Word) b => a.set b (word (numAt f (8 * b) 8))) []
      windows := (List.range 16).foldl (fun (a : Tab Window) i => a.set i (readItems windowItems (32 * i) w (t.windows.get i))) [] }

/-- A save as the bytes of its areas give it: tile and group SRAM, registers, accumulators, formats, windows and copied pages. -/
def State.readAreas (s : State) (v : SaveArea) (areas : List (Nat × Nat × Nat)) : SaveArea :=
  let l := s.launch v.lid
  let at_ (p o n : Nat) : List (Nat × Byte) := Memory.slice s.mem ((Space.hbm p).key o) n
  areas.foldl (fun w e =>
    let p := e.1
    let o := s.areaAt p e.2.1
    let gs := w.groups.filter (fun g => g.1 / 2048 == p)
    let pages := w.pages.filter (fun g => g.1 / 32768 / 8 == p)
    let recs := gs.zip (List.range gs.length)
    let tileAt (k : Nat) : Option Nat := (recs.find? (fun r => r.1.1 == groupOf k)).map (fun r => o + groupRecord r.2 + tileRecord (k % 16))
    let shift (b : Nat) (l : List (Nat × Byte)) : List (Nat × Byte) := l.map (fun c => (b + c.1, c.2))
    let cells : List (Nat × Byte) := if l.isFiller then [] else
      recs.flatMap (fun r => shift ((Space.group r.1.1).key 0) (at_ p (o + groupRecord r.2) 0x1C0000)) ++
      w.tiles.flatMap (fun t => match tileAt t.1 with
        | some a => shift ((Space.tile t.1).key 0) (at_ p a 393216)
        | none => [])
    let ours (c : Host.Cell) : Bool := if keyKind c.1 = 0 then pkgOf (keyUnit c.1) == p else keyUnit c.1 / 2048 == p
    { w with
      tiles := w.tiles.map (fun t => match tileAt t.1 with
        | some a => (t.1, s.readTile l.isFiller p a t.2)
        | none => t)
      mem := cells.foldl (fun m c => Memory.put m c.1 c.2) (w.mem.filter (fun c => !ours c))
      pages := w.pages.map (fun g => match (pages.zip (List.range pages.length)).find? (fun x => x.1.1 == g.1) with
        | some x => (g.1, shift ((Space.tensor (g.1 / 32768)).key (65536 * (g.1 % 32768))) (at_ p (o + groupRecord gs.length + 65536 * x.2) 65536))
        | none => g) }) v
def State.readSave (s : State) (v : SaveArea) : SaveArea := s.readAreas v (s.launch v.lid).areas

/-- What a save seal has saved of a member, as its areas give it (R319). -/
def State.cutSave (s : State) (lid : Nat) : Option SaveArea :=
  s.cut.bind (fun w => (w.saves.find? (fun v => v.lid == lid)).map (fun v =>
    s.readAreas v ((w.areas.filter (fun a => a.1 == lid)).map Prod.snd)))

end Sys2Proof.Machine
end

