-- ==== Sys2Proof/Machine/Recovery.lean ====
section
/-!
DEFINITION. Recovery intervals (chapter 17): the commit of an interval, seal records, escrow release, rollback and uncorrectable
faults; and the discarding of a launch's work, which rollback and KILL share (R325, R334).
-/

namespace Sys2Proof.Machine

/-- A stream program that runs, waits or is held occupies its pslot (R219). -/
def Prog.busy (p : Prog) : Bool := decide (1 ≤ p.st ∧ p.st ≤ 3)

/-- A program that has not ended stops, its moves dropped, with a status of its own unless it has met one (R238, R334). -/
def Prog.cut (p : Prog) (status : Nat) : Prog :=
  if p.busy then { p with st := 5, moves := [], verdict := 0, status := if p.status = 0 then status else p.status } else { p with moves := [] }

/-! ## A launch's end -/

/-- Writes a state and reason into a launch's queue entries (R61). -/
def State.setStatus (s : State) (lid st reason : Nat) : State :=
  let l := s.launch lid
  l.entries.foldl (fun a e =>
    match a.ctxPa e.1 l.ctx (e.2.2 + 2) with
    | some pa => a.hbmPut pa [BitVec.ofNat 8 reason, BitVec.ofNat 8 st]
    | none => a) s

/-- A selection begins in a registrar that makes none; while one runs, another follows it (R59). -/
def State.askSelection (s : State) (p : Nat) : State :=
  if (s.mg p 0x10) = 0#64 || s.bootFailed then s
  else match (s.pkg p).selecting with
    | 0 => (s.updPkg p (fun x => { x with selecting := 1 })).schedule s.cyc (.selection p)
    | 1 => s
    | _ => s.updPkg p (fun x => { x with again := true })

/-- Context virtual address of the entry at the head of a queue (R57). -/
def State.headAddr (s : State) (p q : Nat) : Nat := (s.desc p q).base + 128 * ((s.desc p q).head % 2 ^ (s.desc p q).n)

/-- The head of a queue retires: the head index, which the registrar owns, goes up, past entries that a KILL has removed (R57, R77). -/
def State.retireHead (s : State) (p q : Nat) : State :=
  let a := s.descAddr p q
  let h := ((s.desc p q).head + 1) % 4294967296
  let gone := ((s.pkg p).queues.get q).removed
  let next := gone.foldl (fun h _ => if gone.contains h then (h + 1) % 4294967296 else h) h
  let passed (i : Nat) : Bool := decide ((i + 4294967296 - h) % 4294967296 < (next + 4294967296 - h) % 4294967296)
  ((s.physPut (a + 0x18) (bytesOfNat 4 next)).updPkg p (fun x =>
    { x with queues := x.queues.upd q (fun y => { y with removed := y.removed.filter (fun i => !passed i) }) })).askSelection p

/-- A thread whose launch has left the tile: it issues nothing more; its registers keep what they hold until the next set-up. -/
def Thread.gone (t : Thread) : Thread :=
  { t with live := false, wait := .none, retained := false, arr := none, ticks := 0, nested := none, subst := [], refill := [] }

/-- The tiles of a launch are free again: its threads are gone, and its groups' named barriers with them. A filler's queue is empty now, and its
tiles may retire (R330). -/
def State.freeTiles (s : State) (lid : Nat) : State :=
  let l := s.launch lid
  let ks := s.tilesOf lid
  let s1 := ks.foldl (fun a k => a.updTile k (fun t =>
    let ts := t.threads.each (fun i x => if (i == 8) == l.isFiller then x.gone else x)
    if l.isFiller then { t with filler := none, threads := ts, mqFill := [], fillParked := false }
    else { (default : Tile) with filler := t.filler, fillWindows := t.fillWindows, mqFill := t.mqFill, fillParked := t.fillParked
                                 threads := ts, bfmt := t.bfmt, xperm := t.xperm, lst := t.lst, windows := t.windows
                                 acc := t.acc, mNext := t.mNext })) s
  let s2 := if l.isFiller then s1 else (dedup (ks.map groupOf)).foldl (fun a g => a.updGroup g (fun x => { x with barriers := [] })) s1
  let s3 := if l.isFiller then ks.foldl State.askRetire s2 else s2
  l.place.packages.foldl (fun a p => a.askSelection p) s3

/-- The held items of tiles, transfers and programs of a launch leave the dies: their tickets become invalid (R334). -/
def State.dropTickets (s : State) (lid : Nat) (ids : List Nat) : State :=
  let mine (it : HeldItem) : Bool := match it with
    | .none => false
    | .tile l _ _ _ _ _ _ _ => l == lid
    | .xfer x _ _ _ _ => ids.contains x
    | .prog l _ _ _ _ _ => l == lid
  { s with dies := s.dies.each (fun _ d => { d with held := d.held.filter (fun (h : Nat × HeldItem) => !mine h.2) }) }

/-- Windows of a launch's tiles take a status (Table 11.7); a kill only. -/
def State.windowStatus (s : State) (lid st : Nat) : State :=
  (s.tilesOf lid).foldl (fun a k => a.updTile k (fun t =>
    let f (w : Tab Window) : Tab Window := w.each (fun _ v => { v with status := st })
    if (s.launch lid).isFiller then { t with fillWindows := f t.fillWindows } else { t with windows := f t.windows })) s

/-- The pslot of a program's run. -/
def State.pslotOf (s : State) (run : Nat) : Option Nat := (s.progs.find? (fun e => e.2.run == run)).map Prod.fst

/-- An event that would bring work of a launch, on its tiles as primary or filler, to its end. -/
def worksFor (ks : List Nat) (filler : Bool) : Instr → Bool
  | .streamMoveLand _ k w _ => ks.contains k && decide (16 ≤ w) == filler
  | .windowCounterIncrement k w _ => ks.contains k && decide (16 ≤ w) == filler
  | .copyEnd k t => ks.contains k && (t % 16 == 8) == filler
  | .sepollSample k t _ _ => ks.contains k && (t == 8) == filler
  | .kmintDone k t _ _ => ks.contains k && (t == 8) == filler
  | .krevEffect k t _ _ => ks.contains k && (t == 8) == filler
  | .csetDone k t _ _ => ks.contains k && (t == 8) == filler
  | .cfreeDone k t _ _ => ks.contains k && (t == 8) == filler
  | _ => false

/-- The tiles that hold a launch, or held it when it was saved. -/
def State.homeTiles (s : State) (lid : Nat) : List Nat :=
  match s.tilesOf lid, s.saves.find? (fun v => v.lid == lid) with
  | [], some v => v.tiles.map Prod.fst
  | ks, _ => ks

/-- The transfers of a launch, where it runs or in its save area. -/
def State.allXfers (s : State) (lid : Nat) : List (Nat × Xfer) :=
  s.xfers.filterMap (fun e => e.2.bind (fun x => if x.lid = lid then some (e.1, x) else none)) ++
    (s.saves.filter (fun v => v.lid == lid)).flatMap SaveArea.xfers

/-- A fabric instruction that a thread waits for is dropped: a mint that is made already is undone with the interval where there is one, a
revocation is not made and its reservation freed, a cohort being freed stays live (R295). -/
def State.dropFabric (s : State) (lid : Nat) (undo : Bool) : Instr → State
  | .kmintDone _ _ _ key =>
    if undo && key != 0#64 then
      { s with fabricLog := ⟨(s.launch lid).podSeal, 0, field key 27 25, field key 24 16⟩ :: s.fabricLog } else s
  | .krevEffect k t _ _ => if (s.thread k t).spare = 1 then s.updPkg (pkgOf k) (fun q => { q with escrowUsed := q.escrowUsed - 8 }) else s
  | .cfreeDone _ _ _ w => { s with cohorts := s.cohorts.upd (w % 4096) (fun h => { h with freeing := false }) }
  | _ => s

/-- Collective `c` (a cohort, or 4,096 plus a plan) delivers to one of these tiles. -/
def State.reaches (s : State) (ks : List Nat) (c : Nat) : Bool :=
  (if c < 4096 then (s.cohorts.get c).members.map Member.tile else (s.plans.get (c - 4096)).leaders).any ks.contains

/-- Open buckets and firings that reach tiles of a launch that rolls back are discarded whole, deliveries on their way included; the
contributors that do not roll back get ABORTED (R295, R325 step 1). -/
def State.dropCollectives (s : State) (ks : List Nat) : State :=
  let bs := s.buckets.filter (fun b => s.reaches ks b.cohort)
  let fs := s.firings.filter (fun f => s.reaches ks (4096 + f.plan))
  let lost := bs.flatMap (fun b => (b.contribs ++ b.flying).map Contribution.xid) ++ fs.flatMap (fun f => f.members.map Prod.snd)
  lost.foldl (fun a x => a.finish x 7) { s with
    buckets := s.buckets.filter (fun b => !s.reaches ks b.cohort)
    firings := s.firings.filter (fun f => !s.reaches ks (4096 + f.plan))
    events := s.events.filter (fun e => match e.2 with
      | .collectiveDelivery c _ _ _ _ _ => !s.reaches ks c
      | _ => true) }

/-- A killed launch's contributions and firings are gone, and its members are absent from then on: an open bucket of its context's cohorts that
it has a part in fails, or is gone where nothing is left of it, and a firing that has not run ends ABSENT for the members that are left (R287,
R295; DEDUCED, log entry 105). -/
def State.absentFrom (s : State) (lid : Nat) (ks : List Nat) (ids : List Nat) : State :=
  let l := s.launch lid
  let theirs (b : Bucket) : Bool := (s.cohorts.get b.cohort).ctx == l.ctx && (s.cohorts.get b.cohort).members.any (fun m => ks.contains m.tile)
  let stripped := s.buckets.map (fun b =>
    { b with contribs := b.contribs.filter (fun c => !ids.contains c.xid), flying := b.flying.filter (fun c => !ids.contains c.xid)
             present := if theirs b then b.present.filter (fun k => !ks.contains k) else b.present })
  let left := stripped.filter (fun b => b.sent || !b.opened || !b.contribs.isEmpty || decide (b.failed ≠ 0))
  let kept := left.filter (fun b => b.opened || !b.flying.isEmpty)
  let s1 := (kept.filter (fun b => b.opened && !b.sent && theirs b)).foldl (fun a b => a.failBucket b.cohort b.seq b.cast 4) { s with buckets := kept }
  let lost (f : Firing) : Bool := !f.ran && !(s.plans.get f.plan).superstep && (s.plans.get f.plan).ctx == l.ctx &&
    (s.plans.get f.plan).leaders.any ks.contains
  let others (f : Firing) : List (Nat × Nat) := f.members.filter (fun m => !ids.contains m.2 && !(ks.contains m.1 && m.2 == 0))
  (s.firings.filter lost).foldl (fun a f => (others f).foldl (fun b m => b.finish m.2 4) a)
    { s1 with firings := ((s1.firings.filter (fun f => !lost f)).map (fun f => { f with members := others f })).filter (fun f => f.ran || !f.members.isEmpty) }

/-- What is in flight for a launch is dropped: pending results, matrix queues, copies, fabric instructions, transfers and held deposits,
bells, held stream writes, moves on their way, contributions and firings, remote transactions not yet performed, and its escrow of the open
interval with what its dropped writes had reserved (R210, R295, R325 step 1, R334 step 2). Programs end with `st`: 7 at a rollback, 8 at a kill. -/
def State.discardWork (s : State) (lid st : Nat) : State :=
  let l := s.launch lid
  let ks := s.tilesOf lid
  let xs := s.allXfers lid
  let ids := xs.map Prod.fst
  let s0 := (s.events.filter (fun e => worksFor ks l.isFiller e.2)).foldl (fun a e => a.dropFabric lid (st == 7 && l.recover) e.2) (s.dropTickets lid ids)
  let s1 := ks.foldl (fun a k => a.updTile k (fun t =>
    let ts := t.threads.each (fun i x => if l.threads.contains i then
      { x with pend := [], wait := Wait.none, retained := false, arr := none, nested := none, subst := [], heldFrom := none } else x)
    if l.isFiller then { t with threads := ts, mqFill := [], fillParked := false, copies := t.copies.del 8, copyWait := t.copyWait.del 8 }
    else { t with threads := ts, mq := [], parked := false, ticket := 0
                  copies := (List.range 8).foldl (fun c i => c.del i) t.copies
                  copyWait := (List.range 8).foldl (fun c i => c.del i) t.copyWait })) s0
  let mine (w : EscrowWrite) : Bool := w.ctx == l.ctx && w.pod == l.podSeal && !w.released
  let kept (p : Nat) : Nat := xs.foldl (fun n e => if !e.2.final ∧ pkgOf e.2.tile = p then n + (s.irrevocable e.2).getD 0 else n) 0
  let freed (p : Nat) (q : Pkg) : Nat := (q.escrow.filter mine).foldl (fun n w => n + w.size) (kept p)
  let revokes (i : Nat) (r : Region) : Bool := r.revoking && s.pkgs.any (fun e => e.2.escrow.any (fun w => mine w && w.kind == 2 && w.addr == i))
  let remote (e : Instr) : Bool := match e with
    | .keyCheck src _ _ _ _ tag _ => src == s.podModule && ids.contains tag
    | _ => false
  let s2 : State := { s1 with
    events := s1.events.filter (fun e => !worksFor ks l.isFiller e.2 && !remote e.2)
    outbox := s1.outbox.filter (fun e => match e.owner with | some x => !ids.contains x | none => true)
    xfers := s1.xfers.filter (fun e => !ids.contains e.1)
    bells := s1.bells.filter (fun b => b.lid != lid)
    streamWrites := s1.streamWrites.filter (fun w => w.lid != lid)
    progs := s1.progs.each (fun _ p => if p.lid = lid then p.cut st else p)
    saves := s1.saves.map (fun (v : SaveArea) => if v.lid = lid then { v with xfers := [], progs := v.progs.map (fun e => (e.1, e.2.cut st)) } else v)
    pkgs := s1.pkgs.each (fun i q =>
      { q with txns := q.txns.filter (fun t => t.src != s.podModule || !ids.contains t.tag)
               escrowUsed := q.escrowUsed - freed i q, escrow := q.escrow.filter (fun w => !mine w)
               regions := q.regions.each (fun e r => if revokes (512 * i + e) r then { r with revoking := false } else r) }) }
  if st = 7 then s2.dropCollectives (s.homeTiles lid)
  else
    let s3 := s2.absentFrom lid (s.homeTiles lid) ids
    if l.isFiller then ks.foldl State.askRetire s3 else s3

/-! ## From a selection to the start (Table 4.7) -/

/-- What a group instruction store is known by: the context and the image handle (R74), plus 1. -/
def Launch.textKey (l : Launch) : Nat := l.image + 281474976710656 * l.ctx + 1

/-- The launch's text is resident in every group of its placement (R74). -/
def State.resident (s : State) (lid : Nat) : Bool :=
  let l := s.launch lid
  (s.groupsOf lid).all (fun g => (if l.isFiller then (s.group g).fillText else (s.group g).text) == l.textKey)

/-- Cycles of a start broadcast (stage 3): the package, module or pod bell's. -/
def State.startTime (s : State) (lid : Nat) : Nat :=
  let l := s.launch lid
  if l.top = 4 then l.bellTime 4 else if l.place.packages.length ≤ 1 then 64 else 180

/-- Bytes of a save area in a package (Table 16.10). -/
def SaveArea.sizeIn (a : SaveArea) (p pages : Nat) : Nat := saveBytes ((a.groups.filter (fun g => g.1 / 2048 == p)).length) pages

/-- Zero-load cycles of a save or of a restore, the packages working at once (R311). -/
def saveTime (sizes : List Nat) : Nat := 1000 + sizes.foldl (fun m n => max m (ceilDiv n 6144)) 0

/-- The restore of a saved launch, its copied pages included. -/
def State.restoreTime (s : State) (lid : Nat) : Nat :=
  match s.saves.find? (fun v => v.lid == lid) with
  | some v => saveTime ((List.range 8).map (fun p => v.sizeIn p (v.pages.filter (fun g => g.1 / 32768 / 8 == p)).length))
  | none => 0

/-- The stages that follow the text: a saved launch is restored first (R72), another is started by broadcast. -/
def State.afterText (s : State) (lid : Nat) : State :=
  if (s.launch lid).state = .saved then s.schedule (s.cyc + s.restoreTime lid) (.contextRestore lid)
  else s.schedule (s.cyc + s.startTime lid) (.startBroadcast lid)

/-- Every registrar that a launch touches holds its tiles for it (R73). -/
def Launch.allReported (l : Launch) : Bool := l.place.packages.all (fun p => l.reports.contains p)

/-- A selected launch whose tiles are free goes on: stage 2 is skipped for resident text (R74). -/
def State.proceed (s : State) (lid : Nat) : State :=
  if !(s.launch lid).waitsFor.isEmpty || !(s.launch lid).allReported then s
  else if s.resident lid then s.afterText lid
  else s.schedule (s.cyc + 600 + ceilDiv (s.launch lid).textSize 256) (.textLoad lid)

/-- Launches that wait for tiles no longer wait for this one (R72). -/
def State.freed (s : State) (lid : Nat) : State :=
  let ws := s.launches.filter (fun e => e.2.waitsFor.contains lid)
  ws.foldl (fun a e =>
    let rest := e.2.waitsFor.filter (fun x => x != lid)
    let a1 := a.updLaunch e.1 (fun x => { x with waitsFor := rest })
    if rest.isEmpty then a1.proceed e.1 else a1) s

/-- A KILL entry retires: its signal is made, and its status is DONE, or `reason` when it is rejected (R61, R77). -/
def State.retireKill (s : State) (ctx : Nat) (k : Nat × Nat × Nat × Word) (reason : Nat) : State :=
  let p := k.1 % 8
  let a1 := if k.2.2.1 = 0 then s else s.addCounter p ctx k.2.2.1 k.2.2.2
  let a2 := match a1.ctxPa p ctx (k.2.1 + 2) with
    | some pa => a1.hbmPut pa [BitVec.ofNat 8 reason, if reason = 0 then 3#8 else 4#8]
    | none => a1
  a2.retireHead p (k.1 / 8)

/-- What of a save seal's cut a later SEAL or the end of a launch leaves: that of the others (R313, R319). -/
def State.cutBut (s : State) (lid : Nat) : Option Cut :=
  s.cut.map (fun w => { saves := w.saves.filter (fun v => v.lid != lid), areas := w.areas.filter (fun a => a.1 != lid)
                        writes := w.writes.filter (fun x => x.lid != lid), bells := w.bells.filter (fun b => b.lid != lid) })

/-- A launch is killed: status KILLED, its tiles free, its save area gone, the heads of a launch that had not started retired, and its
KILL entries retired with their signals (R77, R334). -/
def State.killed (s : State) (lid : Nat) : State :=
  let l := s.launch lid
  let s1 := (s.setStatus lid 5 0).freeTiles lid
  let s2 := (s1.updLaunch lid (fun x => { x with state := .killed, killers := [], reports := [], areas := [] })).freed lid
  let s3 : State := { s2 with saves := s2.saves.filter (fun v => v.lid != lid), cut := s2.cutBut lid }
  let heads := l.entries.filter (fun e => decide (l.tag ≠ 0 ∧ l.started = 0 ∧ (s.desc e.1 e.2.1).count ≠ 0 ∧ s.headAddr e.1 e.2.1 = e.2.2))
  l.killers.foldl (fun a k => a.retireKill l.ctx k 0) (heads.foldl (fun a e => a.retireHead e.1 e.2.1) s3)

/-- A launch has not ended. -/
def LState.live : LState → Bool
  | .none => false
  | .killed => false
  | .done => false
  | _ => true

/-- The fillers attached to a launch, one that is being restored included. -/
def State.fillersOf (s : State) (lid : Nat) : List Nat :=
  (s.launches.filter (fun e => e.2.isFiller && e.2.host == lid && e.2.state.live && (e.2.state != .saved || !e.2.reports.isEmpty))).map Prod.fst

/-- Launches that wait for a launch's tiles wait for its fillers' saves too (R67, R72). -/
def State.waitForFillers (s : State) (lid : Nat) : State :=
  let fs := s.fillersOf lid
  { s with launches := s.launches.each (fun _ l => if l.waitsFor.contains lid then { l with waitsFor := dedup (l.waitsFor ++ fs) } else l) }

/-! ## Commit (R321, R323) -/

/-- Members of the module's seal domains: running and preempted primary launches with recovery enabled (R313), until their completion
commit (R331) or their kill. -/
def State.members (s : State) : List Nat :=
  (s.launches.filter (fun e => e.2.recover && !e.2.isFiller && !e.2.committed && (match e.2.state with
    | .none => false | .reserved => false | .starting => false | .stopping 3 => false | .killed => false | .done => false | _ => true))).map Prod.fst

/-- Members of one domain: the module's own, or its pod seal domain (R313). -/
def State.membersIn (s : State) (pod : Bool) : List Nat := s.members.filter (fun l => (s.launch l).podSeal == pod)

/-- Packages that a domain's members touch. -/
def State.domainPkgs (s : State) (pod : Bool) : List Nat := dedup ((s.membersIn pod).flatMap (fun l => (s.launch l).place.packages))

/-- A write leaves the escrow for its destination (R323): host memory, a peer, or a revocation in the region table. -/
def State.releaseWrite (s : State) (p : Nat) (w : EscrowWrite) : State :=
  match w.kind with
  | 0 => (s.poke .host w.addr w.data).schedule (s.cyc + 1600 + ceilDiv w.data.length 16) (.escrowAck p w.id)
  | 1 =>
    let m := w.tag / 4294967296
    s.sendTxn (some w.id) 0 p (10 + w.tile % 4) 1 m (w.tag % 4294967296) w.addr w.data.length w.id w.data
  | _ =>
    (s.updPkg (w.addr / 512) (fun x => { x with regions := x.regions.upd (w.addr % 512) (fun r =>
      if r.revoking then { r with v := false, revoking := false, gen := (r.gen + 1) % 16 } else r) })).schedule (s.cyc + 120) (.escrowAck p w.id)

/-- A write follows another to the same peer by another link: it waits for that one, so that they are performed in release order (R265). -/
def State.otherWay (s : State) (p : Nat) (v w : EscrowWrite) : Bool :=
  v.kind == 1 && w.kind == 1 && v.tag / 4294967296 == w.tag / 4294967296 &&
    s.route p (v.tag / 4294967296) (v.tag % 4294967296) != s.route p (w.tag / 4294967296) (w.tag % 4294967296)

/-- The writes that may leave now of those of an interval, in application order: one that waits for an earlier one holds those after it. -/
def State.mayLeave (s : State) (p : Nat) : List EscrowWrite → List EscrowWrite → List EscrowWrite
  | _, [] => []
  | before, w :: r => if before.any (fun v => s.otherWay p v w) then [] else w :: s.mayLeave p (w :: before) r

/-- Writes of a package that have been released leave in application order, those of an interval once every write of the interval before it
has been performed (R265, R323). -/
def State.sendEscrow (s : State) (p : Nat) : State :=
  match (s.pkg p).escrow.find? EscrowWrite.released with
  | none => s
  | some h =>
    let goes := s.mayLeave p [] ((s.pkg p).escrow.filter (fun w => w.released && w.pod == h.pod && w.interval == h.interval))
    let out := goes.filter (fun w => !w.sent)
    let s1 := s.updPkg p (fun x => { x with escrow := x.escrow.map (fun w => if out.any (fun v => v.id == w.id) then { w with sent := true } else w) })
    out.foldl (fun a w => a.releaseWrite p w) s1

/-- The escrow writes of a domain's open interval. -/
def State.openEscrow (s : State) (pod : Bool) : List Nat :=
  s.pkgs.flatMap (fun e => (e.2.escrow.filter (fun w => w.pod == pod && decide (w.interval = (s.rinOf pod).toNat))).map EscrowWrite.id)

/-- A domain's escrow of the open interval is released, package by package (R265, R323). -/
def State.releaseEscrow (s : State) (pod : Bool) : State :=
  let n := (s.rinOf pod).toNat
  s.pkgs.foldl (fun a e =>
    (a.updPkg e.1 (fun x => { x with escrow := x.escrow.map (fun w => if w.pod = pod ∧ w.interval = n then { w with released := true } else w) })).sendEscrow
      e.1) s

/-- The launch that a tile's undo log, or a group's undo area, works for belongs to a domain. -/
def Tile.logsFor (t : Tile) (s : State) (pod : Bool) : Bool := match t.prim with
  | some l => (s.launch l).podSeal == pod
  | none => !pod
def State.groupLogsFor (s : State) (g : Nat) (pod : Bool) : Bool := (s.tile (16 * g)).logsFor s pod

/-- A tile whose undo log is empty, with no register logged. -/
def Tile.noLog (t : Tile) : Tile := { t with undoPrim := 0, undoExch := 0, fillPrim := 0, fillExch := 0, log := [], regLogged := [] }

/-- A tile with the undo log of another image of it. -/
def Tile.withLog (t i : Tile) : Tile :=
  { t with undoPrim := i.undoPrim, undoExch := i.undoExch, fillPrim := i.fillPrim, fillExch := i.fillExch, log := i.log, regLogged := i.regLogged
           drainP := i.drainP, drainX := i.drainX }

/-- Lines of undo entries. -/
def linesIn (l : List UndoEntry) : List Nat := (l.filter (fun e => e.kind != 2)).map (fun e => e.place / 64)

/-- Entries of a domain that have come to a package's HBM undo region: those of its entries that neither a tile's log nor a group's area holds
(R316, R317). -/
def State.inRegion (s : State) (pod : Bool) (p : Nat) : Nat :=
  let home (e : UndoEntry) : Nat := if e.kind ≤ 2 then pkgOf e.tile else undoHome e.place
  let above : Nat :=
    (s.tiles ++ s.saves.flatMap SaveArea.tiles).foldl (fun n e => if pkgOf e.1 = p ∧ e.2.logsFor s pod then n + e.2.undoPrim + e.2.undoExch else n) 0 +
      s.groups.foldl (fun n e => if e.1 / 2048 = p ∧ s.groupLogsFor e.1 pod then n + e.2.undo else n) 0
  min (s.pkg p).undo ((s.undo.filter (fun e => e.pod == pod && home e == p)).length - above)

/-- A domain's logged flags are clear, and its undo entries gone from every log (R314, R321, R325). A region holds what entries of the other
domain have come to it. -/
def State.clearLogs (s : State) (pod : Bool) : State :=
  let gone := s.undo.filter (fun e => e.pod == pod)
  let kept := s.undo.filter (fun e => e.pod != pod)
  let flags := linesIn gone
  let clear (t : Tab Bool) : Tab Bool := if kept.isEmpty then [] else flags.foldl (fun a l => Tab.set a l false) t
  let s1 := s.groups.foldl (fun a e => if e.2.undo = 0 ∨ !s.groupLogsFor e.1 pod then a else a.dropGroupLog e.1 e.2.undo) s
  { s1 with
    undo := kept, logged := clear s1.logged, fabricLog := s1.fabricLog.filter (fun c => c.pod != pod), fullSince := none, sealAsked := false
    saves := s1.saves.map (fun (v : SaveArea) => if (s.launch v.lid).podSeal = pod then
      { v with logged := [], tiles := v.tiles.map (fun e => (e.1, e.2.noLog)) } else v)
    tiles := s1.tiles.each (fun _ t => if t.logsFor s pod then t.noLog else t)
    pkgs := s1.pkgs.each (fun i p => { p with undo := s.inRegion (!pod) i }) }

/-- Write halves that stand at an application which a full region holds go on (R318). -/
def State.wakeStuck (s : State) : State :=
  s.bells.foldl (fun a b => if b.phase = 1 ∧ b.fullFrom.isSome then a.schedule (max s.cyc b.upto) (.writeHalf b.lid b.lvl b.inst) else a) s

/-- The commit step of SEAL in a domain: the interval's undo entries are discarded, its logged flags cleared, rin advances and the
interval's escrow is released (R314, R321). -/
def State.commit (s : State) (pod : Bool) : State :=
  let n := s.rinOf pod + 1#32
  let s1 := (s.releaseEscrow pod).clearLogs pod
  let s2 : State := { s1 with rin := if pod then s.rin else n, podRin := if pod then n else s.podRin }
  (s2.recordAll (s.domainPkgs pod) 0x02 n.toNat).wakeStuck

/-- R323: an acknowledged write frees its space, and the next interval's may leave; a launch whose completion waits for it is looked at
again (R332). -/
def State.ackWrite (s : State) (p x : Nat) : State :=
  let w := (s.pkg p).escrow.find? (fun w => w.id == x)
  match w with
  | none => s
  | some w =>
    let s1 := (s.updPkg p (fun q => { q with escrow := q.escrow.filter (fun v => v.id != x), escrowUsed := q.escrowUsed - w.size })).sendEscrow p
    (s.launches.filter (fun e => e.2.committed && !e.2.completed)).foldl (fun a e => a.schedule a.cyc (.launchComplete e.1)) s1

/-! ## Seal records (R322, Tables 17.4 and 17.5) -/

/-- The record of a thread whose SEAL's result goes to `rd`, with its superstep counters as the release leaves them. -/
def Thread.sealRecord (t : Thread) (c : Nat) (rd : Nat) : SealRecord :=
  let r := t.land (c + 64)
  { globals := (List.range 7).foldl (fun a i => Tab.set a (i + 1) (r.regs.get (i + 1))) []
    octets := ([t.base % 12, (t.base + 1) % 12, (t.base + 2) % 12].flatMap (fun o => (List.range 8).map (fun i => 8 + 8 * o + i))).foldl
      (fun a n => a.set n (r.regs.get n)) []
    abase := t.nest.base, q0 := t.q0, q1 := t.q1, q2 := t.q2, n0 := t.n0, n1 := t.n1, base := t.base, lo := t.lo, depth := t.depth
    tie := t.tie, tvec := t.tvec, ss := t.ss, sf := t.sf, chk := t.chk, nextBatch := t.nextBatch, rd := rd }

/-- The seal buffer of a tile: a record for every thread that has arrived at the SEAL. -/
def State.sealBuffer (s : State) (k : Nat) (rd : Nat → Nat) : SealBuffer :=
  let t := s.tile k
  { threads := (List.range 8).foldl (fun a i =>
      let x := t.threads.get i
      if x.live && !x.halted then a.set i (some (x.sealRecord s.cyc (rd i))) else a) []
    windows := t.windows, xperm := t.xperm, lst := t.lst }

/-- The register values that SEAL leaves at release, and rollback with it (R321): vectors, masks, matrix masks and the nest. -/
def Thread.sealed (t : Thread) : Thread :=
  { t with vregs := [], mregs := [], mrow := 0xFFFF#16, mcol := 0xFFFF#16
           pend := t.pend.filter (fun p => p.cls == 0)
           nest := { (default : Nest) with base := t.nest.base, pbase := t.nest.base } }

/-- acc0 to acc3 read 0 (R321). -/
def Tile.clearAcc (t : Tile) : Tile := { t with acc := t.acc.filter (fun e => decide (64 ≤ e.1)) }

/-! ## Rollback (R324 to R327) -/

/-- A thread as its record says (R325 step 4). `abt` is the register's value. -/
def Thread.rolledBack (t : Thread) (r : SealRecord) (abt : Word) : Thread :=
  let n := t.rbk + 1#64
  let x := { t with
    halted := false, stopped := false, pend := [], regs := r.octets.foldl (fun a (e : Nat × Word) => a.set e.1 e.2) r.globals
    base := r.base, lo := r.lo, depth := r.depth, q0 := r.q0, q1 := r.q1, q2 := r.q2, n0 := r.n0, n1 := r.n1
    tie := r.tie, chk := r.chk, inTrap := false, tvec := r.tvec, nested := none, rbk := n, abt := abt
    abort := default, ss := r.ss, sf := r.sf, nextBatch := r.nextBatch, badStatus := 0, wait := .none, retained := false, ticks := 0
    subst := [], arr := none, heldFrom := none, lines := [], refill := [], nest := { t.nest with base := r.abase } }
  let y := x.sealed
  if r.rd = 0 then y else { y with regs := y.regs.set (y.phys r.rd) n }

/-- One undo entry is written back, in the save area of a writer that is saved (R325 steps 2 and 3, R326). -/
def State.replayEntry (s : State) (e : UndoEntry) : State :=
  let v := word (natOfBytes e.old)
  let f (t : Tile) : Tile :=
    if e.place = 0x004 then { t with xperm := v.setWidth 16 } else { t with bfmt := t.bfmt.set (e.place - 0x100) v }
  if e.kind ≤ 3 ∧ (s.launch e.lid).state = .saved then
    { s with saves := s.saves.map (fun (a : SaveArea) =>
        if a.lid ≠ e.lid then a
        else if e.kind = 2 then { a with tiles := a.tiles.map (fun x => if x.1 = e.tile then (x.1, f x.2) else x) }
        else { a with mem := Memory.putAll a.mem e.place e.old }) }
  else if e.kind = 2 then s.updTile e.tile f
  else { s with mem := Memory.putAll s.mem e.place e.old }

/-- A change of the fabric's tables in the open interval is undone, its generation advanced (R295). -/
def State.undoFabric (s : State) (c : FabricChange) : State :=
  let region (v : Bool) : State := s.updPkg c.pkg (fun x => { x with regions := x.regions.upd c.index (fun r =>
    { r with v := v, revoking := false, gen := (r.gen + 1) % 16 }) })
  let cohort (v : Bool) : State := { s with cohorts := s.cohorts.upd c.index (fun h => { h with live := v, freeing := false, gen := (h.gen + 1) % 16 }) }
  let plan (v : Bool) : State := { s with plans := s.plans.upd c.index (fun h => { h with live := v, freeing := none, gen := (h.gen + 1) % 16 }) }
  match c.kind with
  | 0 => region false
  | 1 => region true
  | 2 => cohort false
  | 3 => cohort true
  | 4 => plan false
  | _ => plan true

/-- Cycles of a domain's replay: the slowest tile log, the slowest group area, then the fullest region (Table 17.6). -/
def State.replayTime (s : State) (pod : Bool) : Nat :=
  let most (l : List Nat) : Nat := l.foldl max 0
  2 * most ((s.tiles.filter (fun e => e.2.logsFor s pod)).map (fun e => e.2.undoPrim + e.2.undoExch)) +
    2 * most ((s.groups.filter (fun e => s.groupLogsFor e.1 pod)).map (fun e => e.2.undo)) + 200 + most (s.pkgs.map (fun e => s.inRegion pod e.1))

/-- The domain of a rollback as its events name it, in bit 16 above the abort code; bit 17 names the arrival of the stop, and bit 18 the end of
the replay. -/
def domainBit (pod : Bool) : BitVec 32 := if pod then 0x10000#32 else 0#32
def stopBit : BitVec 32 := 0x20000#32
def replayBit : BitVec 32 := 0x40000#32

/-- A domain is rolling back (Table 17.3). -/
def State.rollingDomain (s : State) (pod : Bool) : Bool := s.events.any (fun e => match e.2 with
  | .rollbackDone c _ => bit c 16 == pod
  | _ => false)

/-- A domain is rolling back, and its replay has not ended (R326). -/
def State.replaying (s : State) (pod : Bool) : Bool := s.events.any (fun e => match e.2 with
  | .rollbackDone c _ => bit c 16 == pod && (bit c 17 || bit c 18)
  | _ => false)

/-- A member that stands on its tiles is rolling back. -/
def State.rollingBack (s : State) (l : Nat) : State :=
  s.updLaunch l (fun x => if x.state = .saved then x else { x with state := .stopping 4 })

/-- An event of a save seal under way. -/
def ofSaveSeal : Instr → Bool
  | .saveSeal _ => true
  | .gangStop _ why => why % 10 == 2
  | _ => false

/-- Rollback of a domain begins (R325 step 1): its stop is on its way over the domain's bell. A fault during rollback starts it over, and a save
seal under way is called off (Table 17.3). `code` and `origin` are the record selected for class 0xF, or 0. -/
def State.startRollback (s : State) (pod : Bool) (code origin : BitVec 32) : State :=
  let ms := s.membersIn pod
  if ms.isEmpty then s
  else
    let s0 := { s.recordAll (s.domainPkgs pod) 0x03 (s.rinOf pod).toNat with
      events := s.events.filter (fun e => match e.2 with
        | .rollbackDone c _ => bit c 16 != pod
        | x => !ofSaveSeal x) }
    let s1 := if s.events.any (fun e => ofSaveSeal e.2) then s0.schedule (s.cyc + 1) (.saveSeal 6) else s0
    (ms.foldl State.rollingBack s1).schedule (s.cyc + 180) (.rollbackDone (stopBit ||| domainBit pod ||| code) origin)

/-- The stop of a rollback reaches a member: its threads stop, everything of it in flight is discarded, and its fillers are killed (R325 step
1, R326). -/
def State.freeze (s : State) (l : Nat) : State :=
  let fs := (s.fillersOf l).foldl (fun b f => ((b.discardWork f 8).killed f)) s
  let d := (fs.discardWork l 7).rollingBack l
  (d.tilesOf l).foldl (fun b k => (List.range 8).foldl (fun c t =>
    if (c.thread k t).live then c.updThread k t (fun x => { x with stopped := true }) else c) b) d

/-- The stop of a domain's rollback arrives, and the replay begins (R325 steps 1 and 2). -/
def State.freezeDomain (s : State) (pod : Bool) (code origin : BitVec 32) : State :=
  ((s.membersIn pod).foldl State.freeze s).schedule (s.cyc + s.replayTime pod)
    (.rollbackDone (replayBit ||| domainBit pod ||| (code.setWidth 16).setWidth 32) origin)

/-- The replay of a domain ends: every entry of a context that still has a member is written back, newest first, and the reload of the threads
begins (R325 steps 2 to 4). Lines that reach HBM count as writes for the registrars' matches (R59). Entries stay until the rollback ends
(Table 17.3). -/
def State.replayDomain (s : State) (pod : Bool) (code origin : BitVec 32) : State :=
  let ms := s.membersIn pod
  let own := s.undo.filter (fun e => e.pod == pod && ms.any (fun l => (s.launch l).ctx == e.ctx))
  let keys := (own.filter (fun e => e.kind == 5)).flatMap (fun e => (List.range e.old.length).map (fun i => e.place + i))
  ((own.foldl State.replayEntry s).noteKeys keys).schedule (s.cyc + 4 + 8 * (ms.map (fun l => (s.launch l).nthr)).foldl max 0)
    (.rollbackDone (domainBit pod ||| (code.setWidth 16).setWidth 32) origin)

/-- A tile as a save seal's cut holds it, with rbk raised (R319), and the log that it has now; its matrix commands start anew after cycle `n`. -/
def Tile.fromCut (c t : Tile) (n : Nat) : Tile :=
  { (c.withLog t) with
      parked := false, ticket := 0, filler := t.filler, fillWindows := t.fillWindows, mqFill := t.mqFill, sealBuf := t.sealBuf
      mq := c.mq.map (fun q => { q with stage := 0, issued := n })
      threads := c.threads.each (fun i x =>
        if i = 8 then t.threads.get 8
        else { x.resumeLoad with stopped := false, rbk := (t.threads.get i).rbk + 1#64, lines := [], refill := [] }) }

/-- A window as a seal buffer's record says, under the definition that it has now (Table 17.4). -/
def Window.fromRecord (w r : Window) : Window := { w with c := r.c, rel := r.rel, status := r.status, landed := r.landed }

/-- A tile without work of its primary threads: no park, no commands and no copies. -/
def Tile.idle (t : Tile) : Tile :=
  { t with parked := false, ticket := 0, mq := [], copies := (List.range 8).foldl (fun c i => c.del i) t.copies
           copyWait := (List.range 8).foldl (fun c i => c.del i) t.copyWait }

/-- A tile as its seal buffer says (R325 steps 3 and 4). A thread without a record had halted at the seal and stays so, and a tile without one
stays retired (R15, R322). -/
def Tile.fromSeal (t : Tile) (abt : Word) : Tile :=
  let b := t.sealBuf
  ({ t.idle with
      windows := (List.range 16).foldl (fun w i => Tab.set w i ((t.windows.get i).fromRecord (b.windows.get i))) []
      lst := b.lst, xperm := b.xperm, barCount := [], retired := t.retired && b.threads.isEmpty
      threads := t.threads.each (fun i x => match b.threads.get i with
        | some r => x.rolledBack r abt
        | none => x) }).clearAcc

/-- Tile `k` as a member's last seal, which may be a save seal, has it. -/
def Tile.fromLast (t : Tile) (k : Nat) (cut : Option SaveArea) (n : Nat) (abt : Word) : Tile :=
  match cut.bind (fun v => v.tiles.find? (fun e => e.1 == k)) with
  | some e => e.2.fromCut t n
  | none => t.fromSeal abt

/-- A tile's primary threads stay stopped: its launch is saved. -/
def Tile.heldStill (t : Tile) : Tile :=
  { t with threads := t.threads.each (fun i x => if i < 8 ∧ x.live ∧ !x.halted then { x with stopped := true } else x) }

/-- A transfer as a save seal's cut holds it: one that was held for the proctor tries again (R319). -/
def Xfer.again (x : Xfer) : Xfer := if x.ticket ≠ 0 then { x with verdict := 1 } else x

/-- What a transfer does that goes on after a stop: one with a reply is tried again, a get or an AMOR that waited for room in the log looks again. -/
def Xfer.goesOn (x : Xfer) (id : Nat) : List Instr :=
  if x.final then [] else if x.verdict ≠ 0 then [.engineRetry 0 id]
  else match x.kind with
    | .get => if x.local_done then [.getLand id] else []
    | .amo _ _ _ => if x.space = 4 ∧ x.land ≠ 0 then [.e2eStatus id 0 x.data] else []
    | _ => []

/-- A copy that waits for room in the log looks again from cycle `c` on (R181). -/
def State.lookAgain (s : State) (k t c : Nat) : State := if (s.tile k).copyWait.get t = 0 then s else s.schedule c (.copyEnd k (t + 16))

/-- The named barriers that a save has of a group. -/
def SaveArea.barriersOf (v : SaveArea) (g : Nat) : Tab Barrier := ((v.groups.find? (fun e => e.1 == g)).map (fun e => e.2.barriers)).getD []

/-- The held work of a save seal's cut stands again for the members of a domain, from cycle `c` on, or in the save area of one that is
saved; irrevocable writes reserve their room anew (R210, R319, R326). -/
def State.restoreCut (s : State) (pod : Bool) (c : Nat) : State :=
  match s.cut with
  | none => s
  | some cut =>
    let vs := ((s.membersIn pod).filter (fun l => (s.launch l).hadSeal)).filterMap (fun l => cut.saves.find? (fun v => v.lid == l))
    let mine (l : Nat) : Bool := vs.any (fun v => v.lid == l)
    let live := vs.filter (fun v => (s.launch v.lid).state == .running)
    let xs := live.flatMap SaveArea.xfers
    let ps := live.flatMap SaveArea.progs
    let room (p : Nat) : Nat := (vs.flatMap SaveArea.xfers).foldl (fun n e => if !e.2.final ∧ pkgOf e.2.tile = p then n + (s.irrevocable e.2).getD 0 else n) 0
    let s1 : State := { s with
      xfers := xs.foldl (fun (t : Tab (Option Xfer)) e => Tab.set t e.1 (some e.2.again)) s.xfers
      progs := ps.foldl (fun (t : Tab Prog) e => Tab.set t e.1 (if e.2.busy then { e.2 with st := 1, verdict := 0, due := c } else e.2)) s.progs
      streamWrites := s.streamWrites ++ cut.writes.filter (fun w => mine w.lid)
      bells := s.bells ++ (cut.bells.filter (fun b => mine b.lid)).map (fun b => if b.phase = 6 then { b with phase := 0 } else b)
      groups := (live.flatMap SaveArea.groups).foldl (fun (t : Tab Group) e => Tab.upd t e.1 (fun g => { g with barriers := e.2.barriers })) s.groups
      pkgs := s.pkgs.each (fun p q => { q with escrowUsed := q.escrowUsed + room p })
      saves := s.saves.map (fun (v : SaveArea) => match vs.find? (fun w => w.lid == v.lid) with
        | none => v
        | some w => { v with xfers := w.xfers.map (fun e => (e.1, e.2.again)), groups := v.groups.map (fun g => (g.1, { g.2 with barriers := w.barriersOf g.1 }))
                             progs := w.progs.map (fun e => (e.1, if e.2.busy then { e.2 with st := 2, verdict := 0 } else e.2)) }) }
    let s2 := xs.foldl (fun a e => (e.2.again.goesOn e.1).foldl (fun b i => b.schedule c i) a) s1
    (cut.bells.filter (fun b => live.any (fun v => v.lid == b.lid))).foldl (fun a b =>
      if b.phase = 0 ∨ b.phase = 6 then a.schedule (c + (s.launch b.lid).bellTime b.lvl) (.arrivalBellDone b.lid b.lvl b.inst)
      else if b.phase = 1 then a.schedule c (.writeHalf b.lid b.lvl b.inst) else a.schedule c (.bellRelease b.lid b.lvl b.inst)) s2

/-- The code of a GSTOP's stop by proctor tile `k`, as its events name it (Table 16.9): 1, and above it who asks. -/
def gstopCode (k : Nat) : Nat := 1 + 100 * (k + 1)

/-- A GSTOP or a pre-emption that a rollback has cut short is made anew once the member runs. -/
def State.stopAgain (s : State) (l c : Nat) : State :=
  let s1 := match (s.launch l).stopper with
    | some k => s.schedule c (.gangStop l (gstopCode k))
    | none => s
  if s.launches.any (fun e => e.2.waitsFor.contains l) then s1.schedule c (.gangStop l 0) else s1

/-- The levels of a member that hold no thread still at work count as reported; the others' reports are dropped, and are made again (R332). -/
def State.unreport (s : State) (l : Nat) (empty : Nat → Nat → Bool) : State :=
  let stale (e : Instr) : Bool := match e with
    | .completionReport m lvl i => m == l && !empty lvl i
    | .completionCommit m => m == l && !empty 3 0
    | _ => false
  ({ s with events := s.events.filter (fun e => !stale e.2) }).updLaunch l (fun x =>
    { x with grpDone := x.grpDone.filter (empty 0), dieDone := x.dieDone.filter (empty 1)
             pkgDone := x.pkgDone.filter (empty 2), topDone := x.topDone && empty 3 0 })

/-- A registrar's watchdog looks at a launch W × 1,024 cy after its last progress, and at no other time (R76). W is the interval of the launch's
context in the package whose registrar selected it first (DESIGN CHOICE, log entry 98). -/
def State.watch (s : State) (lid : Nat) : State :=
  let l := s.launch lid
  let w := s.ctxWatchdog l.pkg l.ctx
  let looks (e : Nat × Instr) : Bool := match e.2 with
    | .watchdogExpiry x _ => x == lid
    | _ => false
  let s1 : State := { s with events := s.events.filter (fun e => !looks e) }
  if w = 0 then s1 else s1.schedule (l.progress + w) (.watchdogExpiry lid l.progress)

/-- A member goes back to its last seal (R325 steps 3 to 5), in its save area where it is saved (R326); one without a seal is killed. -/
def State.rollMember (s : State) (code origin : BitVec 32) (c l : Nat) : State :=
  let la := s.launch l
  if !la.hadSeal then (s.discardWork l 8).killed l
  else
    let abt : Word := (word la.sealLevel <<< 48) ||| ((origin.setWidth 64) <<< 16) ||| (code.setWidth 16).setWidth 64
    let cut := s.cutSave l
    let back (k : Nat) (t : Tile) : Tile := t.fromLast k cut c abt
    let empty (ts : List (Nat × Tile)) (lvl i : Nat) : Bool := ts.all (fun e => instOf lvl e.1 != i || e.2.retired)
    if la.state = .saved then
      let roll (v : SaveArea) : SaveArea :=
        { v with tiles := v.tiles.map (fun x => (x.1, (back x.1 x.2).heldStill)), groups := v.groups.map (fun g => (g.1, { g.2 with barriers := [] })) }
      let ts := (s.saves.filter (fun v => v.lid == l)).flatMap (fun v => (roll v).tiles)
      ({ s with saves := s.saves.map (fun (v : SaveArea) => if v.lid = l then roll v else v) }).unreport l (empty ts)
    else
      let ks := s.tilesOf l
      let b := ks.foldl (fun d k => d.updTile k (back k)) s
      let b1 := (dedup (ks.map groupOf)).foldl (fun d g => d.updGroup g (fun x => { x with barriers := [] })) b
      let b2 := ks.foldl (fun d k => (List.range 8).foldl (fun e t =>
        if (e.thread k t).live && !(e.thread k t).halted then ((e.updThread k t (fun x => { x with stopped := false })).primeThread k t c).lookAgain k t c else e) d) b1
      let b3 := ks.foldl (fun d k => d.mxAdvance k 0) b2
      let b4 := (b3.unreport l (empty (ks.map (fun k => (k, b3.tile k))))).updLaunch l (fun x => { x with state := .running, progress := c, watched := false })
      ((ks.foldl State.askRetire b4).watch l).stopAgain l c

/-- rbk as the threads of a member have it, in its save area where it is saved (Table 17.8). -/
def State.rbkOf (s : State) (l : Nat) : Nat :=
  match s.tilesOf l, s.saves.find? (fun v => v.lid == l) with
  | k :: _, _ => (s.thread k 0).rbk.toNat
  | [], some v => ((v.tiles.head?.map (fun (e : Nat × Tile) => (e.2.threads.get 0).rbk)).getD 0).toNat
  | [], none => 0

/-- The stop of a rollback arrives, its replay ends, or the domain's threads have been reloaded (R325 steps 1 to 4, R326): the members then
issue after the start broadcast and the first fetch (step 5). -/
def execRollbackDone (code origin : BitVec 32) (s : State) : Out :=
  let pod := bit code 16
  if bit code 17 then .next (s.freezeDomain pod code origin)
  else if bit code 18 then .next (s.replayDomain pod code origin)
  else
  let ms := s.membersIn pod
  let s2 := (s.fabricLog.filter (fun e => e.pod == pod)).foldl State.undoFabric s
  let c := s.cyc + 180 + 22
  let s4 := ms.foldl (fun a l => a.rollMember code origin c l) (s2.clearLogs pod)
  let s5 := s4.restoreCut pod c
  let rbk := (ms.head?.map s5.rbkOf).getD 0
  .next (((ms.filter (fun l => (s.launch l).state == .saved)).foldl State.laySave s5).recordAll (s.domainPkgs pod) 0x04 rbk)

/-! ## Uncorrectable faults (R324, R328, R368) -/

/-- A launch's context maps a place of a package's HBM, in one of the packages that it touches, by a page whose unl is as given. -/
def State.mapsPlace (s : State) (unl : Bool) (l index place : Nat) : Bool :=
  (s.launch l).place.packages.any (fun p => s.maps unl (549755813888 * index + place) [0, 1, 2, 3] (s.ctxRoot p (s.launch l).ctx))

/-- A place in a tensor store or in HBM lies outside recovery: in a tensor with unl, in a host-owned region, or on a page that a member maps with
unl (R324, R327, R335). -/
def State.unlogged (s : State) (unit index place : Nat) : Bool :=
  if unit = 11 then s.unlTensor index (place / 65536)
  else decide (unit = 12) && (s.hostOwned index place ||
    s.members.any (fun l => s.mapsPlace true l index place))

/-- The thread that a fault in a tile is laid to: that of its register file, the filler for its accumulators, or thread 0 (R105, R368). -/
def faultThread (unit place : Nat) : Nat := if unit = 9 then place / 256 else if unit = 2 ∧ 4 ≤ place then 8 else 0

/-- A fault strikes what is a launch's: a tile it holds or a thread of it there, a group that it stands on, a tensor-store page that it has read
or written, or a page of HBM that its context maps (R310, R324). -/
def State.concerns (s : State) (l unit index place : Nat) : Bool :=
  if unit = 10 then (List.range 16).any (fun i => (s.tile (16 * index + i)).prim == some l)
  else if unit = 11 then (s.launch l).touched.contains (32768 * index + place / 65536)
  else if unit = 12 then s.mapsPlace false l index place
  else s.lidOf index (faultThread unit place) == some l

/-- An uncorrectable error: `unit` as Table 16.3, `index` the tile, group, die or package, `place` the address, the accumulator, or
thread * 256 + class and number. A member's launch rolls back; otherwise the tile parks, its filler alone where the fault is the filler's, or the
memory's line gives POISON. -/
def execUncorrectableFault (unit index place : Nat) (s : State) : Out :=
  let onTile := unit = 6 ∨ unit = 9 ∨ unit = 2
  let die := if onTile then dieOf index else if unit = 10 then index / 256 else if unit = 11 then index else 8 * index
  let free := s.unlogged unit index place
  let hit (pod : Bool) : Bool := !free && (s.membersIn pod).any (fun l => s.concerns l unit index place)
  let source := if onTile then index % 4096 else if unit = 10 then 0x4000 + index % 256 else 0x4000
  let s1 := (s.record die 0x05 source unit).updDie die (fun x => { x with frozen := true })
  let key := if unit = 10 then (Space.group index).key place else if unit = 11 then (Space.tensor index).key place
    else (Space.hbm index).key place
  let t := faultThread unit place
  let lid := (s.launches.find? (fun e => e.2.state.live && s.concerns e.1 unit index place)).map Prod.fst
  let msg : Message := { (default : Message) with
    kind := 3, unit := unit, location := if unit = 9 then word (place % 256) else word place, source := if onTile then sourceOf index t else 0
    ctx := match lid with | some l => (s.launch l).ctx | none => 0
    item := if onTile then (s.thread index t).faultPc.toNat else 0 }
  let poisoned : State := { s1 with poison := s1.poison.set (key / 64) true }
  if free then .next poisoned
  else if hit false ∨ hit true then
    .next ([false, true].foldl (fun a d => if hit d then a.startRollback d 0 0 else a) (s1.post die 20 msg))
  else if onTile then
    if (s.lidOf index t).isSome ∨ isProctor index then .next (s1.park index t (.tile (lid.getD 0) index t 3 unit 0 false false) msg) else .next s1
  else .next (poisoned.post die 20 msg)

end Sys2Proof.Machine
end

