-- ==== Sys2Proof/Machine/TileMem.lean ====
section
/-!
DEFINITION. Tile loads, stores, atomics, vector memory, and bank copy and fill (R183 to R191). Each scalar or vector form is one size,
address form and value over a shared operation.
-/

namespace Sys2Proof.Machine

/-! ## Scalar loads and stores (R183) -/

/-- wd := f(T[ea, n]), latency 3. -/
def State.load (s : State) (d : BitVec 5) (regs : List (Option TrapReq)) (ea : Word) (n : Nat) (f : Nat → Word) : Out :=
  s.guarded (regs ++ s.eaChecks n [ea]) fun s => .next ((s.writeW d 3 (f (s.num (.tile s.curTile) ea.toNat n))).retire)

/-- `ldt.sz wd, [wa+off]`. -/
def State.loadOff (s : State) (d a : BitVec 5) (i : BitVec 9) (n : Nat) (f : Nat → Word) : Out :=
  s.load d [s.chkW a] (s.eaOffset a i n) n f

/-- `ldt.sz wd, [ak]`. -/
def State.loadAreg (s : State) (d : BitVec 5) (k : BitVec 4) (n : Nat) (f : Nat → Word) : Out := s.load d [] (s.eaAreg k.toNat) n f

def asB (x : Nat) : Word := sext 8 (word x)
def asBu (x : Nat) : Word := zext 8 (word x)
def asH (x : Nat) : Word := sext 16 (word x)
def asHu (x : Nat) : Word := zext 16 (word x)
def asW (x : Nat) : Word := sext 32 (word x)
def asWu (x : Nat) : Word := zext 32 (word x)

def execLdtB (d a : BitVec 5) (i : BitVec 9) (s : State) : Out := s.loadOff d a i 1 asB
def execLdtBu (d a : BitVec 5) (i : BitVec 9) (s : State) : Out := s.loadOff d a i 1 asBu
def execLdtH (d a : BitVec 5) (i : BitVec 9) (s : State) : Out := s.loadOff d a i 2 asH
def execLdtHu (d a : BitVec 5) (i : BitVec 9) (s : State) : Out := s.loadOff d a i 2 asHu
def execLdtW (d a : BitVec 5) (i : BitVec 9) (s : State) : Out := s.loadOff d a i 4 asW
def execLdtWu (d a : BitVec 5) (i : BitVec 9) (s : State) : Out := s.loadOff d a i 4 asWu
def execLdtD (d a : BitVec 5) (i : BitVec 9) (s : State) : Out := s.loadOff d a i 8 word
def execLdtBAreg (d : BitVec 5) (k : BitVec 4) (s : State) : Out := s.loadAreg d k 1 asB
def execLdtBuAreg (d : BitVec 5) (k : BitVec 4) (s : State) : Out := s.loadAreg d k 1 asBu
def execLdtHAreg (d : BitVec 5) (k : BitVec 4) (s : State) : Out := s.loadAreg d k 2 asH
def execLdtHuAreg (d : BitVec 5) (k : BitVec 4) (s : State) : Out := s.loadAreg d k 2 asHu
def execLdtWAreg (d : BitVec 5) (k : BitVec 4) (s : State) : Out := s.loadAreg d k 4 asW
def execLdtWuAreg (d : BitVec 5) (k : BitVec 4) (s : State) : Out := s.loadAreg d k 4 asWu
def execLdtDAreg (d : BitVec 5) (k : BitVec 4) (s : State) : Out := s.loadAreg d k 8 word

/-- T[ea, n] := ws[8n−1:0]. -/
def State.store (s : State) (d : BitVec 5) (regs : List (Option TrapReq)) (ea : Word) (n : Nat) : Out :=
  s.guarded (regs ++ [s.chkW d] ++ s.eaChecks n [ea]) fun s =>
    s.threadStore (spread ea.toNat (bytesOfNat n (s.readW d).toNat)) id

def State.storeOff (s : State) (d a : BitVec 5) (i : BitVec 9) (n : Nat) : Out := s.store d [s.chkW a] (s.eaOffset a i n) n
def State.storeAreg (s : State) (d : BitVec 5) (k : BitVec 4) (n : Nat) : Out := s.store d [] (s.eaAreg k.toNat) n

def execSttB (d a : BitVec 5) (i : BitVec 9) (s : State) : Out := s.storeOff d a i 1
def execSttH (d a : BitVec 5) (i : BitVec 9) (s : State) : Out := s.storeOff d a i 2
def execSttW (d a : BitVec 5) (i : BitVec 9) (s : State) : Out := s.storeOff d a i 4
def execSttD (d a : BitVec 5) (i : BitVec 9) (s : State) : Out := s.storeOff d a i 8
def execSttBAreg (d : BitVec 5) (k : BitVec 4) (s : State) : Out := s.storeAreg d k 1
def execSttHAreg (d : BitVec 5) (k : BitVec 4) (s : State) : Out := s.storeAreg d k 2
def execSttWAreg (d : BitVec 5) (k : BitVec 4) (s : State) : Out := s.storeAreg d k 4
def execSttDAreg (d : BitVec 5) (k : BitVec 4) (s : State) : Out := s.storeAreg d k 8

/-! ## Atomics (R184) -/

/-- A value of 8n bits read as signed. -/
def signedOf (n x : Nat) : Int := if 2 ^ (8 * n - 1) ≤ x then (x : Int) - ((2 ^ (8 * n) : Nat) : Int) else (x : Int)

/-- The new value that an atomic writes, of old value, wb and the width in bytes. -/
def amAdd (n old b : Nat) : Nat := (old + b) % 2 ^ (8 * n)
def amSwap (_n _old b : Nat) : Nat := b
def amMin (n old b : Nat) : Nat := if signedOf n old ≤ signedOf n b then old else b
def amMax (n old b : Nat) : Nat := if signedOf n b ≤ signedOf n old then old else b
def amAnd (_n old b : Nat) : Nat := old &&& b
def amOr (_n old b : Nat) : Nat := old ||| b
def amXor (_n old b : Nat) : Nat := old ^^^ b

/-- Width in bytes of fn7[3]. -/
def amWidth (w : BitVec 1) : Nat := if w = 1#1 then 8 else 4

/-- What wd receives. -/
def amOld (n old : Nat) : Word := if n = 4 then asW old else word old

/-- Read and write in the issue cycle; wd takes the old value after 4 cy. -/
def State.atomic (s : State) (d a b : BitVec 5) (w : BitVec 1) (f : Nat → Nat → Nat → Nat) : Out :=
  let n := amWidth w
  s.guarded ([s.chkW a, s.chkW b] ++ s.eaChecks n [s.readW a]) fun s =>
    let ea := (s.readW a).toNat
    let old := s.num (.tile s.curTile) ea n
    s.threadStore (spread ea (bytesOfNat n (f n old ((s.readW b).toNat % 2 ^ (8 * n))))) (fun x => x.writeW d 4 (amOld n old))

def execAmtAdd (d a b : BitVec 5) (w : BitVec 1) (s : State) : Out := s.atomic d a b w amAdd
def execAmtSwap (d a b : BitVec 5) (w : BitVec 1) (s : State) : Out := s.atomic d a b w amSwap
def execAmtMin (d a b : BitVec 5) (w : BitVec 1) (s : State) : Out := s.atomic d a b w amMin
def execAmtMax (d a b : BitVec 5) (w : BitVec 1) (s : State) : Out := s.atomic d a b w amMax
def execAmtAnd (d a b : BitVec 5) (w : BitVec 1) (s : State) : Out := s.atomic d a b w amAnd
def execAmtOr (d a b : BitVec 5) (w : BitVec 1) (s : State) : Out := s.atomic d a b w amOr
def execAmtXor (d a b : BitVec 5) (w : BitVec 1) (s : State) : Out := s.atomic d a b w amXor

/-- A compare that fails writes nothing and logs nothing (R181). -/
def execAmtCas (d a b : BitVec 5) (w : BitVec 1) (s : State) : Out :=
  let n := amWidth w
  s.guarded ([s.chkW a, s.chkW b, s.chkW d] ++ s.eaChecks n [s.readW a]) fun s =>
    let ea := (s.readW a).toNat
    let old := s.num (.tile s.curTile) ea n
    if old = (s.readW d).toNat % 2 ^ (8 * n) then
      s.threadStore (spread ea (bytesOfNat n ((s.readW b).toNat % 2 ^ (8 * n)))) (fun x => x.writeW d 4 (amOld n old))
    else .next ((s.writeW d 4 (amOld n old)).retire)

/-! ## Vector loads and stores (R185, R186) -/

/-- Active lanes take the four bytes at their addresses. -/
def State.vload (s : State) (d : BitVec 5) (m : BitVec 3) (regs : List (Option TrapReq)) (lat : Nat) (ea : Nat → Word) : Out :=
  s.guarded (regs ++ [s.chkOld d m, s.chkM m.toNat] ++ s.eaChecks 4 ((s.lanes m.toNat).map ea)) fun s =>
    .next ((s.setLanes d m lat (fun i => BitVec.ofNat 32 (s.num (.tile s.curTile) (ea i).toNat 4))).retire)

/-- Active lanes are stored in ascending order. -/
def State.vstore (s : State) (d : BitVec 5) (m : BitVec 3) (regs : List (Option TrapReq)) (ea : Nat → Word) : Out :=
  s.guarded (regs ++ [s.chkV d, s.chkM m.toNat] ++ s.eaChecks 4 ((s.lanes m.toNat).map ea)) fun s =>
    s.threadStore ((s.lanes m.toNat).flatMap (fun i => spread (ea i).toNat (bytesOfNat 4 (lane (s.readV d) i).toNat))) id

def execVldt (d a o : BitVec 5) (m : BitVec 3) (s : State) : Out := s.vload d m [s.chkW a] 4 (s.eaRow a o)
def execVstt (d a o : BitVec 5) (m : BitVec 3) (s : State) : Out := s.vstore d m [s.chkW a] (s.eaRow a o)
def execVldts (d a b : BitVec 5) (m : BitVec 3) (s : State) : Out := s.vload d m [s.chkW a, s.chkW b] 4 (s.eaStride a b)
def execVstts (d a b : BitVec 5) (m : BitVec 3) (s : State) : Out := s.vstore d m [s.chkW a, s.chkW b] (s.eaStride a b)
def execVgath (d a b : BitVec 5) (m : BitVec 3) (s : State) : Out := s.vload d m [s.chkW a, s.chkV b] 6 (s.eaGather a b)
def execVscat (d a b : BitVec 5) (m : BitVec 3) (s : State) : Out := s.vstore d m [s.chkW a, s.chkV b] (s.eaGather a b)

/-! ## Bank copy and fill (R187 to R191) -/

/-- One side of a copy: bank, format register, first element and half-bytes per element. -/
structure Side where
  bank : Nat
  w : Word
  first : Nat
  nib : Nat
  deriving DecidableEq, Repr

/-- Fields of the descriptor (Table 10.4). -/
def descN (x : Word) : Nat := field x 10 0
def descSi (x : Word) : Nat := field x 20 11
def descDi (x : Word) : Nat := field x 30 21
def descMode (x : Word) : RMode := RMode.ofCode (field x 32 31)

/-- TADDR of a side (R188). A bank number above 383 names no bank, so no format gives its elements a size: their offset counts 1 B an element
(DESIGN CHOICE, log entry 94). -/
def Side.outside (x : Side) (n : Nat) : Option TrapReq :=
  if 384 ≤ x.bank then some ⟨Cause.taddr, word (1024 * x.bank + x.first * x.nib / 2)⟩
  else trapIf (decide (2048 < (x.first + n) * x.nib)) Cause.taddr (word (1024 * (x.bank + 1)))

/-- SPILLPROT of a bank (R188). -/
def State.bankProt (s : State) (b : Nat) : Option TrapReq := trapIf (s.bankReserved s.curTile b) Cause.spillProt (word (1024 * b))

/-- The companion of a D8B side must be E8 and not raw; tval is the companion (R188, DEDUCED, log entry 14). -/
def State.companion (s : State) (x : Side) : List (Option TrapReq) :=
  if bfD8b x.w then
    [s.bankProt (bfBank x.w), trapIf (!bfE8 (s.bfmt s.curTile (bfBank x.w))) Cause.bankFmt (word (bfBank x.w))]
  else []

/-- Bytes that `n` elements of a side touch. -/
def Side.span (x : Side) (n : Nat) : Nat := ((x.first + n) * x.nib + 1) / 2 - x.first * x.nib / 2

/-- A copy's duration D without its first-touched lines (R191). -/
def copyTime (bs : List (Nat × Byte)) (srcBytes : Nat) (quant : Bool) : Nat :=
  2 + ceilDiv srcBytes 64 + ceilDiv bs.length 64 + if quant then 4 else 0

/-- First-touched lines of a copy; the filler's log nothing (R181). -/
def State.copyLines (s : State) (k t : Nat) (bs : List (Nat × Byte)) : Nat := if t = 8 then 0 else s.freshOf k bs

/-- From now a copy runs for D cycles, its first-touched lines included: they are logged as it starts, its bytes stand by its last cycle,
and the thread issues again after it (R181, R191). -/
def State.runCopy (s : State) (k t d : Nat) (bs : List (Nat × Byte)) : State :=
  let c := s.cyc + d + s.copyLines k t bs
  let s1 := if t = 8 then s else s.logTile k 0 (bs.flatMap (fun b => tileLines k b.1 1))
  (s1.schedule c (.copyEnd k t)).updThread k t (fun x => { x with notBefore := max x.notBefore c })

/-- A copy issues. While its lines do not fit in the primary share it waits before its first write, and its duration grows by the wait
(R181). -/
def State.startCopy (s : State) (bs : List (Nat × Byte)) (srcBytes : Nat) (quant : Bool) : Out :=
  let k := s.curTile
  let t := s.curThread
  let d := copyTime bs srcBytes quant
  let s1 := (s.updTile k (fun x => { x with copies := x.copies.set t bs })).retire
  if s.noRoom k (s.copyLines k t bs) then
    .next (((s1.updTile k (fun x => { x with copyWait := x.copyWait.set t d })).schedule (s.cyc + 1) (.copyEnd k (t + 16))).holdUntil (s.cyc + 1 + d))
  else .next (s1.runCopy k t d bs)

/-- FMTRES at a copy (R41, Table 2.6): the tile parks with nothing written. -/
def State.copyFault (s : State) (e : FmtErr) : State := s.parkFmt 1 e.place e.scale e.value e.code (word e.loc)

/-- A source whose own format passes BANKFMT holds a code that raises FMTRES (R188). -/
def State.sourceFmtres (s : State) (x : Side) (n : Nat) : Bool :=
  !bfE8 x.w && (!bfD8b x.w || bfE8 (s.bfmt s.curTile (bfBank x.w))) &&
    (match runValues (s.tileRd s.curTile) x.bank x.w s.thr.subst x.first n with
    | .error _ => true
    | .ok _ => false)

/-- A check that is made unless an FMTRES, whose code is lower, is due: BANKFMT gives way to it (R188, R298). -/
def unlessFmtres (due : Bool) (r : Option TrapReq) : Option TrapReq := if due && (r.map TrapReq.cause == some Cause.bankFmt) then none else r

def execCopyb (d a c : BitVec 5) (s : State) : Out :=
  let desc := s.readW c
  let n := descN desc
  let sb := field (s.readW a) 8 0
  let db := field (s.readW d) 8 0
  let sw := s.bfmt s.curTile sb
  let dw := s.bfmt s.curTile db
  let bytes := bfRaw sw || bfRaw dw
  let nib (w : Word) : Nat := if bytes then 2 else elemNibbles (bfFmt w)
  let src : Side := ⟨sb, sw, descSi desc, nib sw⟩
  let dst : Side := ⟨db, dw, descDi desc, nib dw⟩
  s.guarded ([s.chkW a, s.chkW c, s.chkW d,
      trapIf (decide (field desc 63 33 ≠ 0 ∨ n = 0 ∨ 1024 < n)) Cause.illegal desc,
      src.outside n, dst.outside n, s.bankProt sb, s.bankProt db]
      ++ (s.companion src ++ s.companion dst
      ++ [trapIf (!bytes && (bfE8 sw != bfE8 dw)) Cause.bankFmt (word (if bfE8 sw then sb else db))]).map
        (unlessFmtres (!bytes && s.sourceFmtres src n))) fun s =>
    if bytes || (bfE8 sw && bfE8 dw) then
      s.startCopy (spread (1024 * db + dst.first) (s.tbytes (1024 * sb + src.first) n)) n (bfD8b dw)
    else if bfFmt sw = bfFmt dw ∧ bfFmt sw ≠ 10 then
      let codes := (List.range n).map (fun i => elemCode (s.tileRd s.curTile) sb (bfFmt sw) (src.first + i))
      s.startCopy (codeBytes (s.tileRd s.curTile) db (bfFmt dw) dst.first codes) (src.span n) false
    else
      match runValues (s.tileRd s.curTile) sb sw s.thr.subst src.first n with
      | .error e => .next (s.copyFault e)
      | .ok xs =>
        match encodeRun (s.tileRd s.curTile) db dw dst.first (descMode desc) xs with
        | .error i =>
          let j := src.first + i
          .next (s.copyFault ⟨j, false, true, valueBits (bfFmt sw) (elemCode (s.tileRd s.curTile) sb (bfFmt sw) j) (xs.getD i .nan), elemAddr sb (bfFmt sw) j⟩)
        | .ok bs =>
          let blocks := if bfFmt sw = 10 then (dedup ((List.range n).map (fun i => blockOf (bfAxis sw) (src.first + i)))).length else 0
          s.startCopy bs (src.span n + blocks) (bfD8b dw)

def execFillb (d a c : BitVec 5) (s : State) : Out :=
  let desc := s.readW c
  let n := descN desc
  let db := field (s.readW d) 8 0
  let dw := s.bfmt s.curTile db
  let dst : Side := ⟨db, dw, descDi desc, if bfRaw dw then 2 else elemNibbles (bfFmt dw)⟩
  s.guarded ([s.chkW a, s.chkW c, s.chkW d,
      trapIf (decide (field desc 63 33 ≠ 0 ∨ n = 0 ∨ 1024 < n ∨ descSi desc ≠ 0)) Cause.illegal desc,
      dst.outside n, s.bankProt db] ++ s.companion dst
      ++ [trapIf (bfE8 dw) Cause.bankFmt (word db)]) fun s =>
    let v := s.readW a
    if bfRaw dw then s.startCopy (spread (1024 * db + dst.first) (List.replicate n (v.setWidth 8))) 0 false
    else if bfFmt dw = 6 then
      s.startCopy (codeBytes (s.tileRd s.curTile) db 6 dst.first (List.replicate n (v.toNat % 4294967296))) 0 false
    else
      let x := if fmtIsInt (bfFmt dw) then FVal.ofInteger v.toInt
               else fval (((substAt s.thr.subst 0).getD v).setWidth 32)
      match encodeRun (s.tileRd s.curTile) db dw dst.first (descMode desc) (List.replicate n x) with
      | .error _ => .next (s.copyFault ⟨0, false, true, zext 32 v, 0⟩)
      | .ok bs => s.startCopy bs 0 (bfD8b dw)

/-- A copy waits on for room in the primary share; a wait for the group undo area or a full region counts in wt.escr (R181, R318). -/
def State.waitCopy (s : State) (k t d : Nat) : State :=
  let c := s.cyc
  (s.schedule (c + 1) (.copyEnd k (t + 16))).updThread k t (fun x =>
    let y := { x with notBefore := max x.notBefore (c + 1 + d) }
    if s.groupFull k || s.regionFull then y.addWait 4 1 else y)

/-- The end of a copy: its bytes stand (R191); or, named by 16 above its thread, a look at the log's room for one that waits before its first
write (R181). -/
def execCopyEnd (k x : Nat) (s : State) : Out :=
  let t := x % 16
  let bs := (s.tile k).copies.get t
  let d := (s.tile k).copyWait.get t
  if d ≠ 0 then
    if s.noRoom k (s.copyLines k t bs) then .next (s.waitCopy k t d)
    else .next ((s.updTile k (fun x => { x with copyWait := x.copyWait.del t })).runCopy k t d bs)
  else .next (((s.pokeAt (.tile k) bs).updTile k (fun x => { x with copies := x.copies.del t })).askRetire k)

end Sys2Proof.Machine
end

