-- ==== Sys2Proof/Machine/Transfer.lean ====
section
/-!
DEFINITION. Transfers (chapter 11): the checks at issue, gets and their landing, deposits and level atomics up to their application,
held transfers, batches and fences.
-/

namespace Sys2Proof.Machine

/-! ## The operands (R192 to R195) -/

/-- A transfer instruction's operands: space (0 G, 1 S, 2 M, 3 H, 4 R, 5 T), what it is, and its three registers. -/
structure XReq where
  space : Nat
  get : Bool
  depa : Bool
  /-- Largest tile-side byte count. -/
  limit : Nat
  inv : Bool
  ad : Word
  loc : Word
  len : Word
  deriving DecidableEq, Repr

/-- Fields of the length word (Table 11.3). -/
def XReq.n (r : XReq) : Nat := field r.len 19 0
def XReq.cv (r : XReq) : Bool := bit r.len 24
def XReq.mode (r : XReq) : Nat := field r.len 26 25
def XReq.tag (r : XReq) : Nat := field r.len 63 32

/-- The tile bank's format register. -/
def State.xbank (s : State) (r : XReq) : Word := s.bfmt s.curTile (r.loc.toNat / 1024)

/-- The directory entry that an S transfer names. -/
def State.xdir (s : State) (r : XReq) : TensorDir := s.tensorDir (dieOf s.curTile) (r.tag % 65536)

/-- Level-side format. -/
def State.xfmt (s : State) (r : XReq) : Nat := if r.space = 1 then (s.xdir r).fmt else field r.len 23 20

/-- Bytes of a level-side element: 1 for bytes. -/
def State.xelem (s : State) (r : XReq) : Nat :=
  if r.space = 1 then (s.xdir r).elem else if r.cv then max 1 (fmtBits (field r.len 23 20) / 8) else 1

/-- Bl and Bt (R195). -/
def State.xlevel (s : State) (r : XReq) : Nat := r.n * s.xelem r
def State.xtile (s : State) (r : XReq) : Nat := if r.cv then (r.n * elemNibbles (bfFmt (s.xbank r)) + 1) / 2 else s.xlevel r

/-- First reserved offset of a G run (R193, Table 11.2). -/
def State.groupReserved (s : State) (a n : Nat) : Option Nat :=
  let lo := if s.recovering s.curTile then 0x140000 else 0x1C0000
  if lo < a + n then some (max a lo) else none

/-- The tile a T transfer names, as a module tile. -/
def State.xtarget (s : State) (r : XReq) : Option Nat := s.tileOfId ((s.lidOf s.curTile s.curThread).getD 0) (field r.ad 63 32)

/-- A transfer that takes an entry of its tile's share of the deposit area: a deposit, DEPA, DEPB or level atomic (R216). -/
def XKind.isDep : XKind → Bool
  | .dep => true
  | .depb => true
  | .depa => true
  | .amo _ _ _ => true
  | _ => false

/-- Entries of a tile's share of the deposit area in use (R216). -/
def State.heldEntries (s : State) (k : Nat) : Nat :=
  (s.xfers.filter (fun e => match e.2 with | some x => x.tile == k && !x.final && x.kind.isDep | none => false)).length

/-- A format that no value conversion takes (R195). -/
def fmtBarred (f : Nat) : Bool := decide (f = 5 ∨ 10 ≤ f)

/-- The checks of R195, R206 and R216 at issue. -/
def State.xferChecks (s : State) (r : XReq) : List (Option TrapReq) :=
  let a := r.ad.toNat
  let l := r.loc.toNat
  let bl := s.xlevel r
  let bt := s.xtile r
  let w := s.xbank r
  let f := s.xfmt r
  let sz := elemNibbles (bfFmt w) / 2
  let ta := field r.ad 18 0
  let t := s.thr
  let mine := s.xfers.filter (fun e => match e.2 with | some x => x.tile == s.curTile && !x.final | none => false)
  [ trapIf (decide (r.n = 0 ∨ field r.len 31 27 ≠ 0 ∨ (if r.space = 1 then 65536 ≤ r.tag else r.space ≠ 4 ∧ r.tag ≠ 0) ∨
      ((r.space = 1 ∨ r.cv = false) ∧ field r.len 23 20 ≠ 0) ∨ (r.space = 5 ∧ r.inv = true) ∨ r.limit < bt ∨
      (r.depa = true ∧ (r.cv = true ∨ r.n % 8 ≠ 0)))) Cause.illegal r.len
  , trapIf (r.cv && decide (sz ≠ 0 ∧ l % sz ≠ 0)) Cause.align r.loc
  , trapIf (r.cv && decide (r.space ≠ 1 ∧ r.space ≠ 5 ∧ a % s.xelem r ≠ 0)) Cause.align r.ad
  , trapIf (r.depa && decide (ta % 8 ≠ 0)) Cause.align r.ad
  , trapIf (match r.space with
      | 0 => decide (2097152 ≤ a) || isProctor s.curTile
      | 2 => decide (281474976710656 ≤ a)
      | 4 => decide (281474976710656 ≤ a)
      | 5 => if r.depa then decide (field r.ad 31 22 ≠ 0 ∨ field r.ad 19 19 ≠ 0) else decide (field r.ad 31 19 ≠ 0)
      | _ => false) Cause.taddr r.ad
  , trapIf (decide (393216 < l + bt)) Cause.taddr r.loc
  , trapIf (match r.space with
      | 0 => decide (2097152 < a + bl)
      | 2 => decide (281474976710656 < a + bl)
      | 4 => decide (281474976710656 < a + bl)
      | 3 => decide (18446744073709551616 < a + bl)
      | 5 => decide (t.ident.ntile.toNat ≤ field r.ad 63 32) || (!r.depa && decide (393216 < ta + bl)) ||
             (!r.get && !r.depa && decide ((s.xtarget r).map groupOf ≠ some (groupOf s.curTile)))
      | _ => false) Cause.taddr r.ad
  , trapIf (r.cv && decide (l / 1024 ≠ (l + bt - 1) / 1024)) Cause.taddr r.loc
  , (s.firstReserved s.curTile l bt).map (fun b => ⟨Cause.spillProt, word b⟩)
  , (if r.space = 5 ∧ r.depa = false then s.firstReserved s.curTile ta bl else none).map (fun b => ⟨Cause.spillProt, word b⟩)
  , (if r.space = 0 then s.groupReserved a bl else none).map (fun b => ⟨Cause.spillProt, word b⟩)
  , trapIf (r.cv && fmtBarred f) Cause.bankFmt (word f)
  , trapIf (r.cv && (bfRaw w || bfE8 w)) Cause.bankFmt (word (l / 1024))
  , trapIf (r.cv && bfD8b w && !bfE8 (s.bfmt s.curTile (bfBank w))) Cause.bankFmt (word (l / 1024))
  , trapIf (!r.get && decide (64 ≤ s.heldEntries s.curTile)) Cause.batchOv 2#64
  , trapIf (r.get && decide (32 ≤ (mine.filter (fun e => match e.2 with
      | some x => x.kind == .get && x.thread == s.curThread
      | none => false)).length)) Cause.batchOv 3#64 ]

/-- The engine holds a transfer for the proctor (R200, R42): kind 1 FMTRES, 2 XLATE. -/
def State.holdXfer (s : State) (id kind detail flags place : Nat) (value loc : Word) : State :=
  let x := s.xfer id
  let d := dieOf x.tile
  match s.ticketFor d (.xfer id kind place (flags.testBit 0 && kind == 1) (flags.testBit 1 && kind == 1)) with
  | (tk, s1) =>
    let c := s.cyc
    (s1.updXfer id (fun v => { v with ticket := tk, sentAt := c, segs := if kind = 2 then [] else v.segs })).post d 20
      { (default : Message) with kind := kind, flags := flags, source := sourceOf x.tile x.thread, ctx := (s.launch x.lid).ctx, unit := 3
                                 detail := detail, value := value, location := loc, item := x.batch, ticket := tk }

/-! ## Conversion (R196) -/

/-- The bytes of tile SRAM as a capture holds them. -/
def capRd (l : List (Nat × Byte)) : Nat → Byte := fun a => ((l.find? (fun e => e.1 == a)).map Prod.snd).getD 0#8

/-- First element of the tile side. -/
def Xfer.first (x : Xfer) : Nat := (x.local_ % 1024) * 2 / max 1 (elemNibbles (bfFmt x.bfmt))

/-- Level-side bytes from captured tile-side bytes; between equal formats the codes as they are (DEDUCED, log entry 81). -/
def Xfer.toLevel (x : Xfer) : Except FmtErr (List Byte) :=
  let rd := capRd x.cap
  let b := x.local_ / 1024
  let f := bfFmt x.bfmt
  if !x.cv then .ok (x.cap.map Prod.snd)
  else if f = x.fmt then .ok ((List.range x.n).flatMap (fun i => bytesOfNat (fmtBits f / 8) (elemCode rd b f (x.first + i))))
  else match runValues rd b x.bfmt x.subst x.first x.n with
    | .error e => .error e
    | .ok vs =>
      let vs := (vs.zip (List.range vs.length)).map (fun e => match substAt x.subst (2000000 + e.2) with
        | some v => fval (v.setWidth 32)
        | none => e.1)
      match levelBytes x.fmt (RMode.ofCode x.mode) vs with
      | .ok l => .ok l
      | .error i =>
        let j := x.first + i
        .error ⟨2000000 + i, false, true, valueBits f (elemCode rd b f j) (vs.getD i .nan), elemAddr b f j⟩

/-- The tile-side bytes a get writes from the level-side bytes; between equal formats the codes as they are (DEDUCED, log entry 81). -/
def Xfer.toTile (x : Xfer) (rd : Nat → Byte) (bs : List Byte) : Except FmtErr (List (Nat × Byte)) :=
  let b := x.local_ / 1024
  let f := bfFmt x.bfmt
  if !x.cv then .ok (spread x.local_ bs)
  else
    let cs := levelCodes x.fmt bs x.n
    let step := if x.space = 1 then 1 else fmtBits x.fmt / 8
    if f = x.fmt then .ok (codeBytes rd b f x.first cs)
    else match levelValues x.fmt x.subst x.addr step cs 0 with
      | .error e => .error e
      | .ok vs =>
        let vs := (vs.zip (List.range vs.length)).map (fun e => match substAt x.subst (2000000 + e.2) with
          | some v => fval (v.setWidth 32)
          | none => e.1)
        match encodeRun rd b x.bfmt x.first (RMode.ofCode x.mode) vs with
        | .ok l => .ok l
        | .error i => .error ⟨2000000 + i, false, true, valueBits x.fmt (cs.getD i 0) (vs.getD i .nan), x.addr + i * step⟩

/-- The transfer's FMTRES (Table 2.6). -/
def State.holdFmt (s : State) (id : Nat) (e : FmtErr) : State :=
  s.holdXfer id 1 Cause.fmtres ((if e.scale then 1 else 0) + (if e.value then 2 else 0)) e.place e.code (word e.loc)

/-! ## Landing (R203, R211, R227) -/

/-- Level-side bytes of a get that are behind an uncorrectable error or a lost repair, by position (R211). -/
def State.poisoned (s : State) (x : Xfer) : List Nat :=
  let keys := x.segs.flatMap (fun g => (List.range g.len).map (fun i => g.key + i))
  let lost := decide (x.space = 1) && (s.die (dieOf x.tile)).lost.contains (columnOf x.tile)
  ((keys.zip (List.range keys.length)).filter (fun e => lost || s.poison.get (e.1 / 64))).map Prod.snd

/-- Tile addresses that poisoned level-side bytes would have written. -/
def Xfer.poisonedAddrs (x : Xfer) (l : List Nat) : List Nat :=
  if !x.cv then l.map (fun i => x.local_ + i)
  else
    let z := max 1 (fmtBits x.fmt / 8)
    let tz := max 1 (elemNibbles (bfFmt x.bfmt) / 2)
    (dedup (l.map (fun i => i / z))).flatMap (fun e => (List.range tz).map (fun j => elemAddr (x.local_ / 1024) (bfFmt x.bfmt) (x.first + e) + j))

/-- What a waiting BWAIT lost from cycle `c` on is counted in wt.xfer. -/
def State.countFrom (s : State) (x : Xfer) (c : Nat) : State :=
  match (s.thread x.tile x.thread).wait with
  | .batch _ _ =>
    let d := s.cyc - max c (s.thread x.tile x.thread).waitFrom
    s.updThread x.tile x.thread (fun t => { t.addWait 2 d with spare := t.spare + d })
  | _ => s

/-- The end of a transfer is what a waiting BWAIT waits for (R215). -/
def State.endsBatch (s : State) (id : Nat) : Bool :=
  let x := s.xfer id
  match (s.thread x.tile x.thread).wait with
  | .batch n _ => decide ((s.updXfer id (fun v => { v with final := true })).unfinished x.tile x.thread ≤ n)
  | _ => false

/-- Bytes that a get writes stand against an earlier-issued one of its thread and space that lands later (R203). -/
def State.overtake (s : State) (id : Nat) (as : List Nat) : State :=
  let x := s.xfer id
  { s with xfers := s.xfers.each (fun i e => match e with
    | some y =>
      if i < id ∧ y.kind = .get ∧ y.tile = x.tile ∧ y.thread = x.thread ∧ y.space = x.space then
        some { y with skip := y.skip ++ as.filter (fun a => y.cv || decide (y.local_ ≤ a ∧ a < y.local_ + s.xferBytes y)) }
      else e
    | none => none) }

/-- Bytes of a get land as the exchange share has room for them (R181, R227); the wait for it counts as the get's (R318). The get is
final with the last of them. -/
def State.landBytes (s : State) (id : Nat) (ws : List (Nat × Byte)) : State :=
  let x := s.xfer id
  match s.landExchange x.tile (x.thread == 8) (ws.filter (fun w => !x.skip.contains w.1)) with
  | (s1, [], _) =>
    let s2 := if x.space < 4 ∧ x.land < s.cyc ∧ s.endsBatch id then s1.countFrom x x.land else s1
    (s2.touch x.lid x.segs).finish id x.status
  | (s1, rest, _) => (s1.updXfer id (fun v => { v with cap := rest })).schedule (s.cyc + 1) (.getLand id)

/-- A get's data land in tile SRAM, converted (R196); units behind an uncorrectable error are not written (R211). -/
def State.landGet (s : State) (id : Nat) : State :=
  let x := s.xfer id
  if x.local_done then s.landBytes id x.cap
  else match x.toTile (s.tileRd x.tile) x.data with
    | .error e => s.holdFmt id e
    | .ok ws =>
      let bad := x.poisonedAddrs (s.poisoned x)
      let ws := ws.filter (fun w => !bad.contains w.1)
      let s1 := if bad.isEmpty then s else s.record (dieOf x.tile) 0x0D (x.tile % 4096) (columnOf x.tile)
      let s2 := s1.updXfer id (fun v => { v with local_done := true, status := if bad.isEmpty then 0 else 6 })
      (s2.overtake id (ws.map Prod.fst)).landBytes id ws

/-- GET_LAND (Table 11.6): the get becomes readable. One that has been put off since is left to its later event. -/
def execGetLand (id : Nat) (s : State) : Out :=
  match s.xfers.get id with
  | none => .next s
  | some x => if x.final || decide (x.ticket ≠ 0 ∨ s.cyc < x.land) then .next s else .next (s.landGet id)

/-! ## Routing to the space (R197 to R202, R212, R282) -/

/-- The translation cache of a tile's transfer engine: its group's; a proctor's engine uses its package's. -/
def cacheOf (k : Nat) : Cache := if isProctor k then .pkg (pkgOf k) else .group (groupOf k)

/-- Coordinates of an S address. -/
def coordsOf (a : Nat) : List Nat := [a % 65536, a / 65536 % 65536, a / 4294967296 % 65536, a / 281474976710656 % 65536]

/-- An M transfer reaches HBM of another package. -/
def Xfer.far (x : Xfer) : Bool := x.space == 2 && x.segs.any (fun g => keyUnit g.key != pkgOf x.tile)

/-- An M transfer with the pieces that its run lies in, and the scope that they give it (R18). -/
def Xfer.placed (x : Xfer) (l : List Seg) : Xfer :=
  { x with segs := l, scope := if l.any (fun g => pteCb g.entry || keyUnit g.key != pkgOf x.tile) then 3 else 2 }

/-- Zero-load count of a get from the start of its service (Table 11.6). -/
def Xfer.service (x : Xfer) (bl rot : Nat) (far : Bool) : Nat :=
  let bt := if x.cv then (x.n * elemNibbles (bfFmt x.bfmt) + 1) / 2 else bl
  let b := max bl bt
  (if x.cv then 4 else 0) +
  (match x.space with
   | 0 => 14 + ceilDiv (b * rot) 64
   | 1 => 40 + ceilDiv (b * rot) 8
   | 2 => 200 + ceilDiv b 32 + if far then 96 else 0
   | _ => 1600 + ceilDiv b 16)

/-- H addresses lie in the package's CXL window (R335). -/
def State.inWindow (s : State) (p a n : Nat) : Bool := decide ((s.mg p 0x38).toNat ≤ a ∧ a + n ≤ (s.mg p 0x40).toNat)

/-- Reason for which a page refuses a transfer. -/
def Xfer.refuse (x : Xfer) : Word → Option Nat :=
  match x.kind with
  | .get => refuseRead
  | .amo _ _ _ => refuseAtomic
  | _ => refuseWrite

/-- R bulk virtual channel (Table 15.3). -/
def bulkVc (k t : Nat) : Nat := if t = 8 then 14 else 10 + k % 4

/-- A deposit or level atomic is captured and translated: an arrival waits for no more (R218). It has completed locally with that, a
DEPB only with its source read (R208, R214). -/
def State.captured (s : State) (id : Nat) : State :=
  if (s.xfer id).kind = .depb then s.updXfer id (fun v => { v with ready := true }) else s.localDone id

/-- Cycle by which the thread's earlier gets of the space that write a byte of this one's region land (R203). -/
def State.earlierLand (s : State) (id : Nat) : Nat :=
  let x := s.xfer id
  (s.xfersOf x.tile x.thread).foldl (fun a e =>
    if e.1 < id ∧ e.2.kind = .get ∧ e.2.space = x.space ∧ e.2.ticket = 0 ∧
        x.local_ < e.2.local_ + s.xferBytes e.2 ∧ e.2.local_ < x.local_ + s.xferBytes x then max a e.2.land else a) 0

/-- A transfer leaves for its space, at issue and again after a walk or a reply. A get of G, S, M or H reads its source as it is issued
(R204): no write half falls before its service, and what another agent writes meanwhile it does not see. -/
def State.startXfer (s : State) (id : Nat) : State :=
  let x := s.xfer id
  let k := x.tile
  let isGet := x.kind == .get
  let bl := s.xferBytes x
  let land (a : State) (base : Nat) (far : Bool) : State :=
    let y := a.xfer id
    let bs := if y.segs = x.segs ∧ x.data ≠ [] then x.data else a.segBytes y.segs
    let c := max (base + x.service bl (a.thread k x.thread).rot far) (if 2 ≤ x.space then a.earlierLand id else 0)
    let a1 := a.updXfer id (fun v => { v with land := c, ready := true, data := bs })
    let a2 := if x.space = 0 then a1.updThread k x.thread (fun t => { t with gEnd := c })
      else if x.space = 1 then a1.updThread k x.thread (fun t => { t with sEnd := c }) else a1
    a2.schedule c (.getLand id)
  match x.space with
  | 0 =>
    let s1 := s.updXfer id (fun v => { v with segs := [⟨(Space.group (groupOf k)).key x.addr, bl, 0#64⟩], scope := 0 })
    if isGet then land s1 (max s.cyc (s.thread k x.thread).gEnd) false else s1.captured id
  | 1 =>
    let d := s.tensorDir (dieOf k) x.tag
    let co := coordsOf x.addr
    let run := if d.accepts x.tag (!isGet) co x.n 1 then s.tensorRun (dieOf k) d co x.n else none
    match run with
    | none => s.holdXfer id 2 7 (if isGet then 0 else 4) 0 (word x.addr) (word x.tag)
    | some l =>
      let s1 := s.updXfer id (fun v => { v with segs := l, scope := 1, fmt := if x.cv then d.fmt else v.fmt })
      if isGet then land s1 (max (max s.cyc ((s.tile k).columnFree x.thread)) (s.thread k x.thread).sEnd) false else s1.captured id
  | 2 =>
    match s.mapRun (cacheOf k) (s.launch x.lid).ctx x.refuse (bl / 4096 + 2) x.addr bl with
    | (s1, cost, r) =>
      if 0 < cost then
        let s2 := match r with
          | .ok l => if isGet then s.updXfer id (fun v => { v.placed l with data := s.segBytes l }) else s
          | .error _ => s
        s2.schedule (s.cyc + cost) (.translationWalkDone (dieOf k) 0 id)
      else match r with
        | .error e => s1.holdXfer id 2 e.1 (if isGet then 0 else 4) 0 (word e.2) 0#64
        | .ok l =>
          let s2 := s1.updXfer id (fun v => v.placed l)
          if isGet then land s2 s.cyc (s2.xfer id).far else s2.captured id
  | 3 =>
    if s.inWindow (pkgOf k) x.addr bl then
      let s1 := s.updXfer id (fun v => { v with segs := [⟨(Space.host).key x.addr, bl, 0#64⟩], scope := 3 })
      if isGet then land s1 s.cyc false else s1.captured id
    else s.holdXfer id 2 8 (if isGet then 0 else 4) 0 (word x.addr) 0#64
  | 4 =>
    match s.peerOf x.lid x.tag with
    | none => s.finish id 3
    | some m =>
      let amo := match x.kind with | .amo _ _ _ => true | _ => false
      if amo && (s.launch x.lid).recover && !s.inDomain x.lid m then s.holdXfer id 2 11 4 0 (word x.addr) 0#64
      else
        let c := s.cyc
        let s1 := s.updXfer id (fun v => { v with scope := (s.launch x.lid).top, ready := true })
        if isGet then
          (s1.updXfer id (fun v => { v with sent := true, sentAt := c })).sendTxn (some id) 40 (pkgOf k) (bulkVc k x.thread) 2 m x.tag x.addr bl id
            (bytesOfNat 4 bl)
        else s1.captured id
  | _ =>
    let target := s.tileOfId x.lid (x.addr / 4294967296)
    let s1 := s.updXfer id (fun v => { v with scope := match target with | some j => scopeOf k j | none => 4 })
    if isGet then s1.updXfer id (fun v => { v with ready := true }) else s1.captured id

/-! ## Issue -/

/-- Escrow of a package (R323). -/
def escrowSize : Nat := 67108864

/-- A transfer enters its thread's open batch (R214). The format register of a converting one's bank is read here, at issue, and a later MTSR to
it has no effect on the transfer (DESIGN CHOICE, log entry 96). -/
def State.newXfer (s : State) (r : XReq) (kind : XKind) : Nat × Xfer × State :=
  let id := s.nextXfer
  let x : Xfer := { (default : Xfer) with
    kind := kind, tile := s.curTile, thread := s.curThread, lid := (s.lidOf s.curTile s.curThread).getD 0, batch := s.thr.nextBatch
    space := r.space, addr := r.ad.toNat, local_ := r.loc.toNat, n := r.n, cv := r.cv, fmt := s.xfmt r, mode := r.mode, tag := r.tag
    inv := r.inv, issued := s.cyc, bfmt := s.xbank r }
  (id, x, { s with xfers := s.xfers.set id (some x), nextXfer := id + 1 })

/-- A get (R203). -/
def State.get (s : State) (space : Nat) (inv : Bool) (t a l : BitVec 5) : Out :=
  let r : XReq := ⟨space, true, false, 393216, inv, s.readW a, s.readW t, s.readW l⟩
  s.guarded ([s.chkW a, s.chkW l, s.chkW t] ++ s.xferChecks r) fun s =>
    match s.newXfer r .get with
    | (id, _, s1) => .next (s1.retire.startXfer id)

/-- The captured bytes of the tile side: its elements, and the scale bytes of a D8B side. -/
def State.capture (s : State) (x : Xfer) (bt : Nat) : List (Nat × Byte) :=
  let b := x.local_ / 1024
  let scales := if x.cv && bfD8b x.bfmt then
      (dedup ((List.range x.n).map (fun i => blockOf (bfAxis x.bfmt) (x.first + i)))).map (fun j => scaleAddr b (bfBank x.bfmt) j) else []
  ((List.range bt).map (fun i => x.local_ + i) ++ scales).map (fun a => (a, s.byte (.tile x.tile) a))

/-- Captured bytes become the bytes to apply, and the transfer goes on to its space; or it is held for FMTRES (R196, R206). -/
def State.convertDep (s : State) (id : Nat) : State :=
  let x := s.xfer id
  match x.toLevel with
  | .error e => s.holdFmt id e
  | .ok bs => (s.updXfer id (fun v => { v with data := bs })).startXfer id

/-- A write that needs room in the escrow waits for it (R210); else `go` with the room reserved. -/
def State.withEscrow (s : State) (x : Xfer) (go : State → Out) : Out :=
  match s.irrevocable x with
  | none => go s
  | some n =>
    let p := pkgOf s.curTile
    if escrowSize < (s.pkg p).escrowUsed + n then .next ((s.stall).updThr (fun t => t.addWait 4 t.rot))
    else go (s.updPkg p (fun q => { q with escrowUsed := q.escrowUsed + n }))

/-- A deposit that captures at issue (R206). -/
def State.deposit (s : State) (space : Nat) (depa : Bool) (t a l : BitVec 5) : Out :=
  let r : XReq := ⟨space, false, depa, 256, false, s.readW a, s.readW t, s.readW l⟩
  s.guarded ([s.chkW a, s.chkW l, s.chkW t,
      trapIf (depa && isProctor s.curTile) Cause.illegal s.thisWord] ++ s.xferChecks r) fun s =>
    match s.newXfer r (if depa then .depa else .dep) with
    | (id, x, _) =>
      s.withEscrow x fun s =>
        let bt := s.xtile r
        let s1 := { s with xfers := s.xfers.set id (some { x with cap := s.capture x bt }), nextXfer := id + 1 }
        .next ((s1.retire.holdUntil (s.cyc + ceilDiv bt 64)).convertDep id)

/-- A DEPB: nothing is captured at issue (R208). -/
def State.bulkDeposit (s : State) (space : Nat) (t a l : BitVec 5) : Out :=
  let r : XReq := ⟨space, false, false, 393216, false, s.readW a, s.readW t, s.readW l⟩
  s.guarded ([s.chkW a, s.chkW l, s.chkW t] ++ s.xferChecks r) fun s =>
    match s.newXfer r .depb with
    | (id, x, _) =>
      s.withEscrow x fun s =>
        .next ((({ s with xfers := s.xfers.set id (some x), nextXfer := id + 1 }).retire).startXfer id)

/-- A level atomic (R212). -/
def State.levelAtomic (s : State) (space op : Nat) (t a v : BitVec 5) : Out :=
  let cas := op = 4
  let rem := space = 4
  let vc := v + 1#5
  let vk := v + 2#5
  let ad := s.readW a
  let wr := s.readW t
  let lim := if rem then 29 else if cas then 30 else 31
  let n := if space = 0 then 2097152 else 281474976710656
  s.guarded ([trapIf (decide (lim < v.toNat)) Cause.illegal s.thisWord, s.chkW a, s.chkW v, s.chkW t,
      if cas then s.chkW vc else none, if rem then s.chkW vk else none,
      trapIf (decide (wr.toNat % 8 ≠ 0)) Cause.align wr, trapIf (decide (ad.toNat % 8 ≠ 0)) Cause.align ad,
      trapIf (decide (n < ad.toNat + 8) || (decide (space = 0) && isProctor s.curTile)) Cause.taddr ad,
      trapIf (decide (393216 < wr.toNat + 8)) Cause.taddr wr,
      (s.firstReserved s.curTile wr.toNat 8).map (fun b => ⟨Cause.spillProt, word b⟩),
      (if space = 0 then s.groupReserved ad.toNat 8 else none).map (fun b => ⟨Cause.spillProt, word b⟩),
      trapIf (decide (64 ≤ s.heldEntries s.curTile)) Cause.batchOv 2#64]) fun s =>
    let id := s.nextXfer
    let x : Xfer := { (default : Xfer) with
      kind := .amo op (s.readW v) (if cas then s.readW vc else 0#64), tile := s.curTile, thread := s.curThread
      lid := (s.lidOf s.curTile s.curThread).getD 0, batch := s.thr.nextBatch, space := space, addr := ad.toNat, local_ := wr.toNat, n := 8
      tag := if rem then (s.readW vk).toNat % 4294967296 else 0, issued := s.cyc }
    .next ((({ s with xfers := s.xfers.set id (some x), nextXfer := id + 1 }).retire).startXfer id)

def execGetg (t a l : BitVec 5) (v : BitVec 1) (s : State) : Out := s.get 0 (v == 1#1) t a l
def execGets (t a l : BitVec 5) (v : BitVec 1) (s : State) : Out := s.get 1 (v == 1#1) t a l
def execGetm (t a l : BitVec 5) (v : BitVec 1) (s : State) : Out := s.get 2 (v == 1#1) t a l
def execGeth (t a l : BitVec 5) (v : BitVec 1) (s : State) : Out := s.get 3 (v == 1#1) t a l
def execGetr (t a l : BitVec 5) (v : BitVec 1) (s : State) : Out := s.get 4 (v == 1#1) t a l
def execGett (t a l : BitVec 5) (s : State) : Out := s.get 5 false t a l

/-- A word that the tables do not assign traps ILLEGAL when it would issue, with the word in tval (R88). A GETT with .INV, a word of Table 5.8 that no
row of the opcode table holds, traps as a get of space T that asks for it: with the length word (R195). -/
def execUnassignedWord (w : BitVec 32) (s : State) : Out :=
  if w.extractLsb' 25 7 = 0x0D#7 ∧ w.extractLsb' 4 6 = 0x27#6 then s.get 5 true (w.extractLsb' 10 5) (w.extractLsb' 15 5) (w.extractLsb' 20 5)
  else .next (s.takeTrap ⟨Cause.illegal, w.setWidth 64⟩)

def execDepg (t a l : BitVec 5) (s : State) : Out := s.deposit 0 false t a l
def execDeps (t a l : BitVec 5) (s : State) : Out := s.deposit 1 false t a l
def execDepm (t a l : BitVec 5) (s : State) : Out := s.deposit 2 false t a l
def execDeph (t a l : BitVec 5) (s : State) : Out := s.deposit 3 false t a l
def execDepr (t a l : BitVec 5) (s : State) : Out := s.deposit 4 false t a l
def execDept (t a l : BitVec 5) (s : State) : Out := s.deposit 5 false t a l
def execDepa (t a l : BitVec 5) (s : State) : Out := s.deposit 5 true t a l

def execDepbG (t a l : BitVec 5) (s : State) : Out := s.bulkDeposit 0 t a l
def execDepbS (t a l : BitVec 5) (s : State) : Out := s.bulkDeposit 1 t a l
def execDepbM (t a l : BitVec 5) (s : State) : Out := s.bulkDeposit 2 t a l
def execDepbH (t a l : BitVec 5) (s : State) : Out := s.bulkDeposit 3 t a l
def execDepbR (t a l : BitVec 5) (s : State) : Out := s.bulkDeposit 4 t a l
def execDepbT (t a l : BitVec 5) (s : State) : Out := s.bulkDeposit 5 t a l

def execAmogAdd (t a v : BitVec 5) (s : State) : Out := s.levelAtomic 0 0 t a v
def execAmomAdd (t a v : BitVec 5) (s : State) : Out := s.levelAtomic 2 0 t a v
def execAmorAdd (t a v : BitVec 5) (s : State) : Out := s.levelAtomic 4 0 t a v
def execAmogMin (t a v : BitVec 5) (s : State) : Out := s.levelAtomic 0 1 t a v
def execAmomMin (t a v : BitVec 5) (s : State) : Out := s.levelAtomic 2 1 t a v
def execAmorMin (t a v : BitVec 5) (s : State) : Out := s.levelAtomic 4 1 t a v
def execAmogMax (t a v : BitVec 5) (s : State) : Out := s.levelAtomic 0 2 t a v
def execAmomMax (t a v : BitVec 5) (s : State) : Out := s.levelAtomic 2 2 t a v
def execAmorMax (t a v : BitVec 5) (s : State) : Out := s.levelAtomic 4 2 t a v
def execAmogSwap (t a v : BitVec 5) (s : State) : Out := s.levelAtomic 0 3 t a v
def execAmomSwap (t a v : BitVec 5) (s : State) : Out := s.levelAtomic 2 3 t a v
def execAmorSwap (t a v : BitVec 5) (s : State) : Out := s.levelAtomic 4 3 t a v
def execAmogCas (t a v : BitVec 5) (s : State) : Out := s.levelAtomic 0 4 t a v
def execAmomCas (t a v : BitVec 5) (s : State) : Out := s.levelAtomic 2 4 t a v
def execAmorCas (t a v : BitVec 5) (s : State) : Out := s.levelAtomic 4 4 t a v

/-! ## Walks (R199) -/

/-- A die walker finishes: the caches take the translations, and the transfer or program that missed tries again. -/
def State.walkDone (s : State) (id : Nat) : State :=
  match s.xfers.get id with
  | none => s
  | some x =>
    let bl := s.xferBytes x
    match s.mapRun (cacheOf x.tile) (s.launch x.lid).ctx x.refuse (bl / 4096 + 2) x.addr bl with
    | (s1, _, .error e) => s1.holdXfer id 2 e.1 (if x.kind == .get then 0 else 4) 0 (word e.2) 0#64
    | (s1, _, .ok _) => s1.startXfer id

/-- TRANSLATION_WALK_DONE: kind 0 a transfer, 1 a page of a context that a stream program's move has asked for, which the cache of the
package's stream engines takes. -/
def execTranslationWalkDone (d kind id : Nat) (s : State) : Out :=
  if kind = 0 then .next (s.walkDone id).nudgeBells
  else .next (s.translate (.pkg (d / 8)) (id / 68719476736) (4096 * (id % 68719476736))).1

/-! ## Application (R207 to R212) -/

/-- An irrevocable write of a launch enters the escrow with the interval's number (R210, R323). -/
def State.escrow (s : State) (k kind addr tag : Nat) (l : Launch) (bs : List Byte) : State :=
  let id := s.nextXfer
  let p := pkgOf k
  let w : EscrowWrite := { id := id, tile := k, kind := kind, addr := addr, tag := tag, data := bs, ctx := l.ctx, pod := l.podSeal
                           interval := (s.rinOf l.podSeal).toNat, released := false, sent := false }
  { s.updPkg p (fun q => { q with escrow := q.escrow ++ [w] }) with nextXfer := id + 1 }

/-- A transaction starts `wait` cycles from now on its way to a peer, and waits for its end-to-end status (R264, R275, R278). -/
def State.sendXfer (s : State) (wait id op m : Nat) (bs : List Byte) : State :=
  let x := s.xfer id
  let c := s.cyc
  (s.updXfer id (fun v => { v with sent := true, sentAt := c })).sendTxn (some id) (wait + 40) (pkgOf x.tile) (bulkVc x.tile x.thread) op m x.tag
    x.addr bs.length id bs

/-- One deposit or level atomic is applied (R209): the state, and the lines it logged first. A transfer to a peer starts `wait` cycles from now,
once the fixed part of its write half has passed (R278), and reaches its final state with its end-to-end status. -/
def State.applyXfer (s : State) (wait id : Nat) : State × Nat :=
  let x := s.xfer id
  let l := s.launch x.lid
  match x.kind with
  | .amo op v cmp =>
    if x.space = 4 then
      match s.peerOf x.lid x.tag with
      | some m => (s.sendXfer wait id 4 m (bytesOfNat 8 op ++ bytesOfNat 8 v.toNat ++ bytesOfNat 8 cmp.toNat), 0)
      | none => (s.finish id 3, 0)
    else
      let old := word (natOfBytes (s.segBytes x.segs))
      let w := amoWrites op old cmp
      let nl := (if w then s.segFresh x.lid x.segs else 0) + if x.thread = 8 then 0 else (s.newTileLines x.tile [(x.local_, 8)]).length
      let s1 := if w then (s.writeSegs x.lid x.tile x.segs (bytesOfNat 8 (amoNew op old v cmp).toNat)).noteKeys (segKeys x.segs) else s
      let s2 := if x.thread = 8 then s1.poke (.tile x.tile) x.local_ (bytesOfNat 8 old.toNat) else s1.storeTile x.tile 1 x.local_ (bytesOfNat 8 old.toNat)
      (s2.finish id 0, nl)
  | _ =>
    match x.space with
    | 3 =>
      if l.recover && x.thread != 8 then ((s.escrow x.tile 0 x.addr 0 l x.data).finish id 0, 0)
      else ((s.poke .host x.addr x.data).finish id 0, 0)
    | 4 =>
      match s.peerOf x.lid x.tag with
      | none => (s.finish id 3, 0)
      | some m =>
        if (s.irrevocable x).isSome then ((s.escrow x.tile 1 x.addr (x.tag + 4294967296 * m) l x.data).finish id 0, 0)
        else (s.sendXfer wait id 1 m x.data, 0)
    | 5 =>
      match s.tileOfId x.lid (x.addr / 4294967296) with
      | none => (s.finish id 1, 0)
      | some j =>
        let a := x.addr % 524288
        let nl := (s.newTileLines j [(a, x.data.length)]).length
        let s1 := if x.thread = 8 then s.poke (.tile j) a x.data else s.storeTile j 1 a x.data
        (s1.finish id 0, nl)
    | _ =>
      let nl := s.segFresh x.lid x.segs
      ((((s.writeSegs x.lid x.tile x.segs x.data).noteKeys (segKeys x.segs)).touch x.lid x.segs).finish id 0, nl)

/-! ## Batches and fences (R214 to R217) -/

def execBseal (s : State) : Out :=
  s.guarded [trapIf (decide (16 ≤ s.unfinished s.curTile s.curThread)) Cause.batchOv 1#64] fun s =>
    .next ((s.updThr (fun t => { t with nextBatch := t.nextBatch + 1 })).retire)

def execBwait (d a : BitVec 5) (s : State) : Out :=
  s.guarded [s.chkW a] fun s =>
    let n := (s.readW a).toNat
    let k := s.curTile
    let t := s.curThread
    if s.unfinished k t ≤ n then
      .next (((s.writeW d 1 (s.batchWord k t)).updThr (fun x => { x with badStatus := 0 })).retire)
    else .next ((s.retire.enterWait (.batch n d.toNat)).updThr (fun x => { x with spare := 0 }))

def execXfence (a b : BitVec 5) (s : State) : Out :=
  s.guarded [trapIf (decide (4 < a.toNat ∨ 4 < b.toNat)) Cause.illegal s.thisWord] fun s => .next (s.retire.holdUntil (s.cyc + 4))

/-! ## Replies and end-to-end status -/

/-- The time a held transfer made a waiting BWAIT lose (R200). -/
def State.countHeld (s : State) (id : Nat) : State := s.countFrom (s.xfer id) (s.xfer id).sentAt

/-- The time beyond its zero-load count that a GETR made a BWAIT lose which ends with it (R278). -/
def State.countLate (s : State) (id : Nat) : State :=
  let x := s.xfer id
  match s.peerOf x.lid x.tag with
  | some m =>
    if x.kind == .get && s.endsBatch id then s.countFrom x (x.sentAt + s.getrTime (pkgOf x.tile) m x.tag x.addr (s.xferBytes x)) else s
  | none => s

/-- A held transfer tries again or goes on after a reply (R305): a conversion from the bytes already read, those of a get included (R42;
DESIGN CHOICE, log entry 21), walks and keys anew. A DEPT that its target did not permit waits for its next write half (R206). -/
def State.retryXfer (s : State) (id : Nat) : State :=
  let x := s.xfer id
  let c := s.cyc
  let s1 := (s.updXfer id (fun v => { v with ticket := 0, verdict := 0, land := if v.kind = .get then c else v.land })).countHeld id
  if x.kind == .get then
    if x.segs.isEmpty && !(4 ≤ x.space && x.sent) && x.space != 5 then s1.startXfer id
    else s1.schedule c (.getLand id)
  else if x.kind == .depb then
    if x.cap.isEmpty then (if x.ready then s1 else s1.startXfer id)
    else match x.toLevel with
      | .error e => s1.holdFmt id e
      | .ok bs => s1.updXfer id (fun v => { v with data := bs })
  else if x.ready then s1
  else if x.cap.isEmpty then s1.startXfer id
  else s1.convertDep id

/-- One delivery of a bucket has landed or been dropped, or another module has answered for its members with a status: the last makes its
contributors final. -/
def State.bucketLanded (s : State) (b : Bucket) (st : Nat) : State :=
  let v := if st = 0 then b.status else st
  let mine (x : Bucket) : Bool := x.cohort == b.cohort && x.seq == b.seq && x.cast == b.cast
  if b.left ≤ 1 then
    let s1 := b.contribs.foldl (fun a f => a.finish f.xid v) s
    { s1 with buckets := s1.buckets.filter (fun x => !mine x) }
  else { s with buckets := s.buckets.map (fun x => if mine x then { x with left := x.left - 1, status := v } else x) }

/-- Another module answers a multicast (R286, R287). -/
def State.castAnswer (s : State) (id st : Nat) : State :=
  match s.buckets.find? (fun b => b.cast == id && b.sent && decide (0 < b.left)) with
  | some b => s.bucketLanded b st
  | none => s.finish id st

/-- The status of a remote transaction returns (R264, R275, R282), with a GETR's data or an AMOR's old value, which waits for room in the logs
(R318). -/
def execE2eStatus (id st : Nat) (bytes : List Byte) (s : State) : Out :=
  match s.xfers.get id with
  | none =>
    .next ((s.pkgs.filter (fun e => e.2.escrow.any (fun w => w.id == id))).foldl (fun a e => a.ackWrite e.1 id) s)
  | some x =>
    if x.final || !x.sent then .next s
    else if x.kind = .mcast then .next ((s.countLate id).castAnswer id (st % 16))
    else if st ≠ 0 then .next ((s.countLate id).finish id (st % 16))
    else match x.kind with
      | .get =>
        let c := s.cyc
        let s1 := (s.countLate id).updXfer id (fun v => { v with data := bytes })
        .next (if x.cv then s1.schedule (c + 4) (.getLand id) else s1.landGet id)
      | .amo _ _ _ =>
        let c := s.cyc
        if x.thread ≠ 8 ∧ s.tileShut x.tile (s.newTileLines x.tile [(x.local_, 8)]) then
          .next ((s.updXfer id (fun v => { v with data := bytes, land := c })).schedule (c + 1) (.e2eStatus id st bytes)) else
        let s1 := if x.thread = 8 then s.poke (.tile x.tile) x.local_ (bytes.take 8) else s.storeTile x.tile 1 x.local_ (bytes.take 8)
        .next (s1.finish id 0)
      | _ => .next (s.finish id 0)

/-- R275: 360,000 cy without an end-to-end status is a FABRIC fault: rollback with recovery, else a message to the die's proctor. -/
def execE2eTimeout (id : Nat) (s : State) : Out :=
  match s.xfers.get id with
  | none => .next (match (s.pkgs.flatMap (fun e => e.2.escrow)).find? (fun w => w.id == id) with
    | some w => s.startRollback w.pod 0 0
    | none => s)
  | some x =>
    if x.final then .next s
    else
      let s1 := (s.countLate id).finish id 5
      if (s.launch x.lid).recover && x.thread != 8 then .next (s1.startRollback (s.launch x.lid).podSeal 0 0)
      else .next (s1.post (dieOf x.tile) 20 { (default : Message) with kind := 6, source := sourceOf x.tile x.thread
                                                                       ctx := (s.launch x.lid).ctx, unit := 7, item := x.batch })

/-- R323: a released write is acknowledged, and its space is free. -/
def execEscrowAck (p x : Nat) (s : State) : Out := .next ((s.ackWrite p x).nudgeBells)

end Sys2Proof.Machine
end

