-- ==== Sys2Proof/Machine/Stream.lean ====
section
/-!
DEFINITION. Stream engines and arrival windows (chapter 12): the commands of stream programs, their moves and landings, and the tile's
instructions that start them and wait for windows.
-/

namespace Sys2Proof.Machine

/-! ## Pslots and handles (R219) -/

/-- A pslot: die D is 128D + 8e + slot, package P is 8192 + 128P + 8e + slot. -/
def pslotKey (pkgKind : Bool) (unit engine slot : Nat) : Nat := (if pkgKind then 8192 else 0) + 128 * unit + 8 * engine + slot
/-- A package engine's pslot. -/
def pslotPkg (key : Nat) : Bool := decide (8192 ≤ key)
/-- The die that holds an engine: die 0 of its package for a package engine (R224). -/
def pslotDie (key : Nat) : Nat := if pslotPkg key then 8 * ((key - 8192) / 128) else key / 128
/-- The handle of a pslot (R219). -/
def pslotHandle (key : Nat) : Nat := (if pslotPkg key then 32768 else 0) + 2048 * (key % 128 / 8) + 256 * (key % 8)
/-- The pslot that a handle names, seen from tile `k`. -/
def handleKey (k h : Nat) : Nat :=
  let pk := decide (h / 32768 % 2 = 1)
  pslotKey pk (if pk then pkgOf k else dieOf k) (h / 2048 % 16) (h / 256 % 8)

/-- The level of an engine: die 1, package 2. -/
def engineLevel (key : Nat) : Nat := if pslotPkg key then 2 else 1
/-- Its level instance. -/
def engineInst (key : Nat) : Nat := if pslotPkg key then (key - 8192) / 128 else key / 128

/-! ## Windows (R225) -/

/-- Window `w` of a tile, 0 to 15 the primary's and 16 to 19 the filler's. -/
def State.window (s : State) (k w : Nat) : Window := if w < 16 then (s.tile k).windows.get w else (s.tile k).fillWindows.get (w - 16)
def State.updWindow (s : State) (k w : Nat) (f : Window → Window) : State :=
  s.updTile k (fun t => if w < 16 then { t with windows := t.windows.upd w f } else { t with fillWindows := t.fillWindows.upd (w - 16) f })
/-- The window a thread names. -/
def winOf (t w : Nat) : Nat := if t = 8 then 16 + w else w

/-- The permit (R226). -/
def Window.permits (x : Window) : Bool := decide ((x.c - x.rel).toNat < x.count)
/-- WAITA's condition (R235). -/
def Window.covers (x : Window) (n : BitVec 32) : Bool := decide ((x.c - n).toNat < 2147483648) || decide (x.status ≠ 0)
/-- WAITA's result. -/
def Window.word (x : Window) : Word := (x.c.setWidth 64 <<< 32) ||| Machine.word (x.status % 16)
/-- Tile address of slot `i` of the arrival sequence. -/
def Window.slot (x : Window) (i : Nat) : Nat := 1024 * x.bank + i % max 1 x.count * x.size

/-- Threads that wait on a window whose condition now holds go on: the result is readable in the own slot after the cycle in which the
condition holds (R235, Table 22.2). -/
def State.settleWindow (s : State) (k w : Nat) : State :=
  let x := s.window k w
  (if w < 16 then List.range 8 else [8]).foldl (fun a t =>
    match (a.thread k t).wait with
    | .window v n rd =>
      if winOf t v = w ∧ x.covers (BitVec.ofNat 32 n) then
        let d := (a.thread k t).waited s.cyc
        ((a.updThread k t (fun y => y.addWait 1 d)).wakeAt k t (s.cyc + 1) (some 1)).deliverW k t rd x.word
      else a
    | _ => a) s

/-- Programs that wait look again at their command. -/
def State.wakeProgs (s : State) : State :=
  let c := s.cyc
  { s with progs := s.progs.each (fun _ p => if p.st = 2 ∧ p.due ≤ c then { p with st := 1, due := c } else p) }

/-- They look again in the next cycle: a WDEF takes effect from then on (R225). -/
def State.wakeNext (s : State) : State :=
  let c := s.cyc
  { s with progs := s.progs.each (fun _ p => if p.st = 2 ∧ p.due ≤ c then { p with st := 1, due := c + 1 } else p) }

/-! ## Commands (R221 to R224) -/

def State.curP (s : State) : Prog := s.prog s.curProg
def State.updP (s : State) (f : Prog → Prog) : State := s.updProg s.curProg f

/-- The next command runs in the next cycle (R223). -/
def State.stepP (s : State) (f : Prog → Prog) : Out :=
  let c := s.cyc
  .next (s.updP (fun p => { f p with pc := p.pc + 1, due := c + 1, subst := [] }))

/-- A wait at a command; `due` beyond this cycle keeps it from being woken early. -/
def State.waitP (s : State) (due : Nat) : State := s.updP (fun p => { p with st := 2, due := due })

/-- A program fault or FMTRES: the program is held at its command (R224, R42). -/
def State.holdProg (s : State) (key kind detail flags place : Nat) (scale value : Bool) (v loc : Word) : State :=
  let d := pslotDie key
  match s.ticketFor d (.prog (s.prog key).lid (s.prog key).run kind place scale value) with
  | (tk, s1) =>
    (s1.updProg key (fun p => { p with st := 3 })).post d (if pslotPkg key then 64 else 20)
      { (default : Message) with kind := kind, flags := flags, source := key % 128 / 8, ctx := (s.launch (s.prog key).lid).ctx
                                 unit := if pslotPkg key then 5 else 4, detail := detail, value := v, location := loc
                                 item := pslotHandle key, ticket := tk }

/-- R224, with XLATE detail 9. -/
def State.progFault (s : State) : State := s.holdProg s.curProg 2 9 0 0 false false 0#64 0#64
def State.faultIf (s : State) (c : Bool) (go : Out) : Out := if c then .next s.progFault else go

/-- The value formed by z, gk and imm32 (Table 12.1). -/
def State.scValue (s : State) (imm : BitVec 32) (z : BitVec 1) (g : BitVec 2) : Word :=
  if z = 1#1 then sext 32 imm else s.curP.g.get g.toNat + sext 32 imm

def execScSeta (imm : BitVec 32) (h : BitVec 16) (z : BitVec 1) (g : BitVec 2) (f : BitVec 4) (s : State) : Out :=
  let v := s.scValue imm z g
  s.faultIf (decide (4 < f.toNat) || decide (f ≠ 0#4 ∧ h ≠ 0#16))
    (s.stepP (fun p => if f = 0#4 then { p with aBase := v, aTag := h } else { p with aS := p.aS.set (f.toNat - 1) v }))

def execScSetb (imm : BitVec 32) (h : BitVec 16) (kind : BitVec 3) (z : BitVec 1) (g : BitVec 2) (f : BitVec 4) (s : State) : Out :=
  let v := s.scValue imm z g
  s.faultIf (decide (4 < f.toNat) || decide (f ≠ 0#4 ∧ (h ≠ 0#16 ∨ kind ≠ 0#3)) || decide (1 < kind.toNat) ||
      decide (kind = 1#3 ∧ 16 ≤ h.toNat))
    (s.stepP (fun p => if f = 0#4 then { p with bBase := v, bKind := kind.toNat, bTag := h } else { p with bS := p.bS.set (f.toNat - 1) v }))

def execScLoop (imm : BitVec 32) (z : BitVec 1) (g : BitVec 2) (f : BitVec 4) (s : State) : Out :=
  let v := s.scValue imm z g
  s.faultIf (decide (3 < f.toNat)) (s.stepP (fun p => { p with cnt := p.cnt.set f.toNat (v.setWidth 32), idx := p.idx.set f.toNat 0#32 }))

def execScNext (t : BitVec 16) (f : BitVec 4) (s : State) : Out :=
  let i := s.curP.idx.get f.toNat + 1#32
  let c := s.cyc
  s.faultIf (decide (3 < f.toNat))
    (if i.toNat < (s.curP.cnt.get f.toNat).toNat then
      .next (s.updP (fun p => { p with idx := p.idx.set f.toNat i, pc := t.toNat, due := c + 1, subst := [] }))
    else s.stepP (fun p => { p with idx := p.idx.set f.toNat 0#32 }))

def execScJump (t : BitVec 16) (s : State) : Out :=
  let c := s.cyc
  .next (s.updP (fun p => { p with pc := t.toNat, due := c + 1, subst := [] }))

/-- A cursor's value: one sum modulo 2^64, or four 16-bit fields without carry between them (R221). -/
def cursorSum (base : Word) (st : Tab Word) (idx : Tab (BitVec 32)) : Word :=
  (List.range 4).foldl (fun a j => a + st.get j * (idx.get j).setWidth 64) base
def cursorCoords (base : Word) (st : Tab Word) (idx : Tab (BitVec 32)) : Nat :=
  (List.range 4).foldl (fun a f =>
    let v := (List.range 4).foldl (fun b j => b + field (st.get j) (16 * f + 15) (16 * f) * (idx.get j).toNat) (field base (16 * f + 15) (16 * f))
    a + v % 65536 * 65536 ^ f) 0

/-- Level address of a cursor: coordinates in S, 48 bits in M. -/
def Prog.levelAddr (p : Prog) (key : Nat) (base : Word) (st : Tab Word) : Nat :=
  if pslotPkg key then (cursorSum base st p.idx).toNat % 281474976710656 else cursorCoords base st p.idx

/-- Where B of kind 1 points: the module tile and window, or none where R224 refuses. -/
def State.bWindow (s : State) (key : Nat) : Option (Nat × Nat) :=
  let p := s.prog key
  let a := cursorSum p.bBase p.bS p.idx
  match s.tileOfId p.lid (field a 63 32) with
  | none => none
  | some k =>
    let fl := (s.launch p.lid).isFiller
    if instOf (engineLevel key) k = engineInst key ∧ (!fl || p.bTag.toNat < 4) then some (k, (if fl then 16 else 0) + p.bTag.toNat % 16) else none

/-- The launch's counter of a level at an engine's instance (R223). -/
def State.levelCounter (s : State) (lid key lvl : Nat) : Nat :=
  ((s.membersOf lid).filter (fun m => instOf (engineLevel key) m.1 == engineInst key)).foldl
    (fun a m => max a ((s.thread m.1 m.2).ss.get lvl).toNat) 0

def execScWaitp (s : State) : Out :=
  match if s.curP.bKind = 1 then s.bWindow s.curProg else none with
  | none => .next s.progFault
  | some (k, w) => if (s.window k w).permits then s.stepP id else .next (s.waitP s.cyc)

/-- SC.BARR (R223). The epoch is left as the command is reached: the write half that ends it waits for no more than that, and the counter
it waits for moves only after that write half (R228; DEDUCED, log entry 16). -/
def execScBarr (imm : BitVec 32) (z : BitVec 1) (g : BitVec 2) (f : BitVec 4) (s : State) : Out :=
  let v : BitVec 32 := (s.scValue imm z g).setWidth 32
  let key := s.curProg
  let own := engineLevel key
  s.faultIf (decide (f.toNat = 0 ∨ 4 < f.toNat ∨ f.toNat < own))
    (let s1 := if f.toNat = own then (s.updP (fun p => { p with epoch := v })).nudgeBells else s
     if v.toNat ≤ s.levelCounter s.curP.lid key f.toNat then s1.stepP id else .next (s1.waitP s.cyc))

/-- A launch that may now be complete is looked at again (R332). -/
def State.askComplete (s : State) (lid : Nat) : State :=
  if (s.launch lid).topDone && !(s.launch lid).completed then s.schedule s.cyc (.completionCommit lid) else s

def execScEnd (s : State) : Out :=
  if s.curP.moves.isEmpty then
    let lid := s.curP.lid
    .next (((s.updP (fun p => { p with st := 4 })).nudgeBells).askComplete lid)
  else .next (s.waitP s.cyc)

/-- SC.ARRIVE (R223): once the program's moves into the window have landed, its counter goes up, 2 cy after the last landing (R227). -/
def execScArrive (s : State) : Out :=
  match if s.curP.bKind = 1 then s.bWindow s.curProg else none with
  | none => .next s.progFault
  | some (k, w) =>
    if s.curP.moves.contains (32 * k + w) then .next (s.waitP s.cyc)
    else
      let c := max s.cyc (s.curP.lastLand + 2)
      .next ((s.waitP (c + 1)).schedule c (.windowCounterIncrement k w s.curP.run))

/-- A counter goes up for the run of a program that waits in SC.ARRIVE, which goes on (R227); a stopped one increments nothing (R232). -/
def execWindowCounterIncrement (k w run : Nat) (s : State) : Out :=
  match s.pslotOf run with
  | none => .next s
  | some key =>
    if (s.prog key).st = 2 then
      let c := s.cyc
      let s1 := s.updWindow k w (fun x => { x with c := x.c + 1#32 })
      .next ((s1.updProg key (fun p => { p with st := 1, pc := p.pc + 1, due := c + 1, subst := [] })).settleWindow k w)
    else .next s

/-! ## Moves (R226 to R229, R367) -/

/-- The pieces that a move reads at A or writes at B, the reading's element size and format, and the walk's count; or the detail of
Table 16.4 with the faulting address. -/
def State.moveSide (s : State) (key : Nat) (write : Bool) (addr tag n : Nat) : State × Nat × Except (Nat × Nat) (List Seg × Nat × Nat) :=
  let lid := (s.prog key).lid
  if pslotPkg key then
    let refuse := fun w => if write then (if pteCb w then some 9 else refuseWrite w) else refuseRead w
    match s.mapRun (.pkg (engineInst key)) (s.launch lid).ctx refuse (n / 4096 + 2) addr n with
    | (s1, c, .ok l) => (s1, c, .ok (l, 1, 0))
    | (s1, c, .error e) => (s1, c, .error e)
  else
    let d := engineInst key
    let t := s.tensorDir d tag
    let co := coordsOf addr
    match if t.accepts tag write co n 1 then s.tensorRun d t co n else none with
    | some l => (s, 0, .ok (l, t.elem, t.fmt))
    | none => (s, 0, .error (7, addr))

/-- A read meets poison or a lost repair (R329): a program fault. -/
def State.badRead (s : State) (k : Option Nat) (l : List Seg) : Bool :=
  l.any (fun g => (linesOf g.key g.len).any (fun x => s.poison.get x)) ||
  (match k with
   | some t => l.any (fun g => keyKind g.key == 3) && (s.die (dieOf t)).lost.contains (columnOf t)
   | none => false)

/-- A move's walks end `cost` cycles from now: the package's cache takes the pages of its runs then (R199). The move takes its cycle all the
same, and its data land later (R223, Table 12.6). -/
def State.walkPages (s : State) (key cost : Nat) (runs : List (Nat × Nat)) : State :=
  if cost = 0 then s
  else
    let ctx := (s.launch (s.prog key).lid).ctx
    let pages (r : Nat × Nat) : List Nat := (List.range ((r.1 + r.2 - 1) / 4096 - r.1 / 4096 + 1)).map (fun i => r.1 / 4096 + i)
    (runs.flatMap pages).foldl (fun a v => a.schedule (s.cyc + cost) (.translationWalkDone (8 * engineInst key) 1 (ctx * 68719476736 + v))) s

/-- A read that meets a lost repair or poison writes a record (R328, R329), by the tile whose window it was for; for a write to a level
memory, whose path crosses no tile's column, by no tile (DESIGN CHOICE, log entry 103). -/
def State.recordRead (s : State) (key : Nat) (k : Option Nat) : State := match k with
  | some t => s.record (dieOf t) 0x0D (t % 4096) (columnOf t)
  | none => s.record (pslotDie key) 0x0D 0x4000 0

/-- A failure of translation or of the directory on a move (R224). -/
def State.moveFail (s : State) (write : Bool) (e : Nat × Nat) : Out :=
  .next (s.holdProg s.curProg 2 e.1 (if write then 4 else 0) 0 false false (word e.2) 0#64)

/-- The destination bytes of a move into a window: those of the source, or its elements converted (R367), between
equal formats the codes as they are (DEDUCED, log entry 81). -/
def State.moveBytes (s : State) (k : Nat) (dst : Nat) (conv : Option RMode) (fmt n : Nat) (src step : Nat) (bs : List Byte) : Except FmtErr (List (Nat × Byte)) :=
  match conv with
  | none => .ok (spread dst bs)
  | some md =>
    let b := dst / 1024
    let w := s.bfmt k b
    let first := dst % 1024 * 2 / max 1 (elemNibbles (bfFmt w))
    let cs := levelCodes fmt bs n
    let sub := s.curP.subst
    if bfFmt w = fmt then .ok (codeBytes (s.tileRd k) b fmt first cs)
    else match levelValues fmt sub src step cs 0 with
      | .error e => .error e
      | .ok vs =>
        let vs := (vs.zip (List.range vs.length)).map (fun e => match substAt sub (2000000 + e.2) with
          | some v => fval (v.setWidth 32)
          | none => e.1)
        match encodeRun (s.tileRd k) b w first md vs with
        | .ok l => .ok l
        | .error i => .error ⟨2000000 + i, false, true, valueBits fmt (cs.getD i 0) (vs.getD i .nan), src + i * step⟩

/-- A move of n units; `conv` gives the mode and source format of SC.MOVEQ. -/
def State.move (s : State) (n : Nat) (conv : Option (RMode × Nat)) : Out :=
  let key := s.curProg
  let p := s.curP
  let pk := pslotPkg key
  let src := p.levelAddr key p.aBase p.aS
  let badFmt := match conv with
    | none => false
    | some (_, f) => if pk then fmtBarred f else decide (f ≠ 0)
  if decide (n = 0 ∨ 65536 < n) || badFmt || (pk && p.aTag != 0#16) then .next s.progFault
  else
    let units := match conv with
      | some (_, f) => if pk then n * (fmtBits f / 8) else n
      | none => n
    if p.bKind = 0 then
      if conv.isSome then .next s.progFault
      else
        let dst := p.levelAddr key p.bBase p.bS
        match s.moveSide key false src p.aTag.toNat units with
        | (_, _, .error e) => s.moveFail false e
        | (s1, c1, .ok (l, z, _)) =>
          match s1.moveSide key true dst p.bTag.toNat units with
          | (_, _, .error e) => s.moveFail true e
          | (s2, c2, .ok (m, zd, _)) =>
            let walks := max c1 c2
            if s.badRead none l then .next (s.recordRead key none).progFault
            else if z ≠ zd then .next s.progFault
            else
              let s2 := (if walks = 0 then s2 else s).walkPages key walks [(src, units), (dst, units)]
              let keys := m.flatMap (fun g => (List.range g.len).map (fun i => g.key + i))
              let w : StreamWrite := { key := key, run := p.run, lid := p.lid, epoch := p.epoch, bytes := keys.zip (s.segBytes l)
                                       unl := (m.filter Seg.unl).flatMap (fun g => linesOf g.key g.len) }
              { (s2.touch p.lid (l ++ m)) with streamWrites := s2.streamWrites ++ [w] }.stepP id
    else
      match s.bWindow key with
      | none => .next s.progFault
      | some (k, w) =>
        let x := s.window k w
        if !x.permits then .next (s.waitP s.cyc)
        else
          match s.moveSide key false src p.aTag.toNat units with
          | (_, _, .error e) => s.moveFail false e
          | (s1, c1, .ok (l, z, fd)) =>
              let s1 := (if c1 = 0 then s1 else s).walkPages key c1 [(src, units)]
              let off := (cursorSum p.bBase p.bS p.idx).toNat % 4294967296
              let dst := x.slot x.c.toNat + off
              let bf := s.bfmt k (dst / 1024)
              let nib := elemNibbles (bfFmt bf)
              let bl := units * z
              let bt := if conv.isSome then (n * nib + 1) / 2 else bl
              let fmt := match conv with
                | some (_, f) => if pk then f else fd
                | none => 0
              let refuse := conv.isSome && (bfRaw bf || bfE8 bf || decide (12 ≤ bfFmt bf) || (bfD8b bf && !bfE8 (s.bfmt k (bfBank bf))) ||
                decide (dst / 1024 ≠ (dst + bt - 1) / 1024) || decide (2 ≤ nib ∧ dst % (nib / 2) ≠ 0))
              if s.badRead (some k) l then .next (s.recordRead key (some k)).progFault
              else if x.size < off + bt || refuse then .next s.progFault
              else match s.moveBytes k dst (conv.map Prod.fst) fmt n src (if pk then fmtBits fmt / 8 else 1) (s.segBytes l) with
                | .error e => .next (s.holdProg key 1 Cause.fmtres ((if e.scale then 1 else 0) + (if e.value then 2 else 0)) e.place e.scale e.value
                    e.code (word e.loc))
                | .ok bs =>
                  let b := max bl bt
                  let far := pk && l.any (fun g => keyUnit g.key != engineInst key)
                  let t := (if pk then 200 + ceilDiv b 32 + ceilDiv b 8 + (if far then 96 else 0) else 40 + ceilDiv b 8) + (if conv.isSome then 4 else 0) + c1
                  let c := s.cyc
                  let mark := 32 * k + w
                  let s2 := ((s1.touch p.lid l).updP (fun q => { q with moves := mark :: q.moves
                                                                        wrote := if q.wrote.contains mark then q.wrote else mark :: q.wrote }))
                  (s2.schedule (c + t) (.streamMoveLand p.run k w bs)).stepP id

def execScMove (n : BitVec 20) (s : State) : Out := s.move n.toNat none
def execScMoveq (n : BitVec 20) (mode : BitVec 2) (f : BitVec 4) (s : State) : Out := s.move n.toNat (some (RMode.ofCode mode.toNat, f.toNat))

/-- A move's bytes land through the exchange port (R227), as the exchange share has room for their lines; each line logged adds a cycle.
They land for a program that has stopped since (R232). -/
def execStreamMoveLand (run k w : Nat) (bytes : List (Nat × Byte)) (s : State) : Out :=
  match s.landExchange k (decide (16 ≤ w)) bytes with
  | (s1, rest, nl) =>
    let c := s.cyc
    let landed (p : Prog) : Prog := { p with lastLand := max p.lastLand (c + nl), moves := if rest.isEmpty then p.moves.erase (32 * k + w) else p.moves }
    let s2 := match s.pslotOf run with
      | some key => (s1.updProg key landed).wakeProgs
      | none => s1
    .next (if rest.isEmpty then s2 else s2.schedule (c + 1) (.streamMoveLand run k w rest))

/-- A held stream level write is applied after the deposits of its write half, and its lines logged (R209, R228). -/
def State.applyStreamWrite (s : State) (w : StreamWrite) : State × Nat :=
  let free (a : Nat) : Bool := w.unl.contains (a / 64)
  let nl := (dedup (w.bytes.flatMap (fun b => s.levelFresh w.lid (free b.1) b.1 1))).length
  ((w.bytes.foldl (fun a b => a.writeLevel w.lid 0 (free b.1) b.1 [b.2]) s).noteKeys (w.bytes.map Prod.fst), nl)

/-! ## Tile instructions (R230 to R236) -/

/-- Whether a thread may name window `w`: a filler's windows are 0 to 3 (R225). -/
def State.winCheck (s : State) (w : Nat) : Option TrapReq := trapIf (decide (s.curThread = 8 ∧ 3 < w)) Cause.illegal s.thisWord

def execSestart (a b : BitVec 5) (s : State) : Out :=
  let w := s.readW a
  let rs := [b, b + 1#5, b + 2#5, b + 3#5]
  let l := s.launchOf s.curTile s.curThread
  s.guarded ([trapIf (decide (28 < b.toNat ∨ field w 63 16 ≠ 0 ∨ field w 7 6 ≠ 0)) Cause.illegal s.thisWord,
      trapIf (decide (l.progs.length ≤ field w 5 0)) Cause.illegal w, s.chkW a] ++ rs.map s.chkW) fun s =>
    let key := handleKey s.curTile w.toNat
    if (s.prog key).busy then .next ((s.stall).updThr (fun t => t.addWait 1 t.rot))
    else
      let run := s.nextXfer
      let p : Prog := { (default : Prog) with
        run := run, lid := (s.lidOf s.curTile s.curThread).getD 0, tile := s.curTile, thread := s.curThread, number := field w 5 0
        g := (rs.zip (List.range 4)).foldl (fun t e => t.set e.2 (s.readW e.1)) []
        epoch := (s.thr.ss.get (engineLevel key)).setWidth 32, st := 2, due := s.cyc + (if pslotPkg key then 96 else 24) }
      .next (({ s with progs := s.progs.set key p, nextXfer := run + 1 }.schedule p.due (.streamProgramStart key)).retire)

/-- The program's first command may run (R231). -/
def execStreamProgramStart (key : Nat) (s : State) : Out :=
  let c := s.cyc
  .next (if (s.prog key).st = 2 ∧ (s.prog key).pc = 0 ∧ (s.prog key).due = c then s.updProg key (fun p => { p with st := 1 }) else s)

def execSestop (a : BitVec 5) (s : State) : Out :=
  s.guarded [s.chkW a] fun s =>
    let key := handleKey s.curTile (s.readW a).toNat
    let p := s.prog key
    let lid := (s.lidOf s.curTile s.curThread).getD 0
    if p.busy ∧ p.lid = lid then .next (((s.updProg key (fun p => { p with st := 5, verdict := 0 })).nudgeBells.askComplete lid).retire) else .next s.retire

/-- The state word of a pslot, as a launch sees it (R233). -/
def State.pollWord (s : State) (lid key : Nat) : Word :=
  let p := s.prog key
  if p.st = 0 ∨ p.lid ≠ lid then 0#64 else word (p.st + 16 * (p.status % 16) + 256 * (p.pc % 65536))

def execSepoll (d a : BitVec 5) (s : State) : Out :=
  s.guarded [s.chkW a] fun s =>
    let key := handleKey s.curTile (s.readW a).toNat
    .next (((s.retire).enterWait .poll).schedule (s.cyc + (if pslotPkg key then 96 else 24)) (.sepollSample s.curTile s.curThread key d.toNat))

/-- The state is read and delivered (R233). -/
def execSepollSample (k t key rd : Nat) (s : State) : Out :=
  if (s.thread k t).wait = .poll then .next ((s.wake k t none).deliverW k t rd (s.pollWord ((s.lidOf k t).getD 0) key)) else .next s

/-- The window definition of WDEF's operands, with R234's checks. -/
def State.wdefChecks (s : State) (k : Nat) (a b : Word) (filler : Bool) : List (Option TrapReq) :=
  let base := field a 24 16
  let size := field b 31 0
  let count := field b 63 32
  let stop := 1024 * base + size * count - 1
  [ trapIf (decide (field a 15 4 ≠ 0 ∨ field a 63 25 ≠ 0 ∨ size = 0 ∨ size % 64 ≠ 0 ∨ count = 0 ∨ 256 < count) ||
      (filler && decide (3 < field a 3 0))) Cause.illegal b
  , trapIf (decide (393215 < stop)) Cause.taddr (word stop)
  , (if 393215 < stop then none else s.firstReserved k (1024 * base) (size * count)).map (fun r => ⟨Cause.spillProt, word r⟩) ]

def windowDef (a b : Word) : Window := { (default : Window) with bank := field a 24 16, size := field b 31 0, count := field b 63 32 }

def execWdef (a b : BitVec 5) (s : State) : Out :=
  let x := s.readW a
  let y := s.readW b
  s.guarded ([s.chkW a, s.chkW b] ++ s.wdefChecks s.curTile x y (s.curThread == 8)) fun s =>
    let w := winOf s.curThread (field x 3 0)
    .next ((((s.updWindow s.curTile w (fun _ => windowDef x y)).settleWindow s.curTile w).wakeNext).retire)

def execWaita (d a : BitVec 5) (w : BitVec 4) (s : State) : Out :=
  s.guarded [s.winCheck w.toNat, s.chkW a] fun s =>
    let n : BitVec 32 := (s.readW a).setWidth 32
    let x := s.window s.curTile (winOf s.curThread w.toNat)
    if x.covers n then .next ((s.writeW d 1 x.word).retire)
    else .next ((s.retire).enterWait (.window w.toNat n.toNat d.toNat))

def execRela (a : BitVec 5) (w : BitVec 4) (s : State) : Out :=
  s.guarded [s.winCheck w.toNat, s.chkW a] fun s =>
    let v : BitVec 32 := (s.readW a).setWidth 32
    .next (((s.updWindow s.curTile (winOf s.curThread w.toNat) (fun x => { x with rel := x.rel + v })).wakeProgs).retire)

/-! ## Replies and launch programs -/

/-- The command at which a program is held is a move into a window, which it names (R235). -/
def State.moveWindow (s : State) (key : Nat) : List Nat :=
  let op := match s.command key with
    | some w => field w 63 58
    | none => 0
  if op ≠ 3 ∧ op ≠ 4 then []
  else match if (s.prog key).bKind = 1 then s.bWindow key else none with
    | some (k, w) => [32 * k + w]
    | none => []

/-- A program fails: the windows it has written take XLATE_FAIL, and the one that a faulting move would have written (R235). -/
def State.failProg (s : State) (key : Nat) : State :=
  let p := s.prog key
  let s1 := s.updProg key (fun p => { p with st := 6, verdict := 0, status := if p.status = 0 then 1 else p.status })
  ((p.wrote ++ s.moveWindow key).foldl (fun a m => (a.updWindow (m / 32) (m % 32) (fun x => if x.status = 0 then { x with status := 1 } else x)).settleWindow
    (m / 32) (m % 32)) s1).nudgeBells.askComplete p.lid

/-- The programs of the launch's stream list start (R237), and stage 6 with its record begins (R328, R355); an occupied pslot delays them. -/
def execStreamListStart (lid : Nat) (s : State) : Out :=
  let l := s.launch lid
  let tile0 := (s.tileOfId lid 0).getD 0
  if l.state ≠ .starting then .next s
  else if l.streams.any (fun e => (s.prog e.1).busy) then .next (s.schedule (s.cyc + 1) (.streamListStart lid))
  else
    let s1 := l.streams.foldl (fun a e =>
      { a with nextXfer := a.nextXfer + 1
               progs := a.progs.set e.1 { (default : Prog) with run := a.nextXfer, lid := lid, tile := tile0, thread := 9, number := e.2.1, st := 1, due := s.cyc
                                                                g := (e.2.2.zip (List.range 4)).foldl (fun t v => t.set v.2 v.1) [] } }) s
    .next ((s1.recordAll l.place.packages 0x08 l.ctx).schedule (s.cyc + 22) (.firstFetch lid))

end Sys2Proof.Machine
end

