-- ==== Sys2Proof/Machine/Fabric.lean ====
section
/-!
DEFINITION. Remote keys (R279 to R281), cohorts, in-switch reduction and multicast (R283 to R290), plans and their firings (R291 to
R293), and a switch that fails (R275).
-/

namespace Sys2Proof.Machine

/-! ## Keys (R279 to R281) -/

/-- A minting request. -/
structure Mint where
  order : Nat
  tile : Nat
  thread : Nat
  rd : Nat
  region : Region
  deriving DecidableEq, Repr, Inhabited

/-- Mints of one cycle take entries in ascending id.tile order: the entries that the earlier ones of this cycle hold, and one free
entry more, are given out anew (R280). -/
def State.mint (s : State) (m : Mint) : State :=
  let c := s.cyc + 24
  let p := pkgOf m.tile
  let tab := (s.pkg p).regions
  let keyOf (e : Nat) (r : Region) : Word := (regionKey p e r).setWidth 64
  let prior := s.events.filterMap (fun e => match e.2 with
    | .kmintDone k t rd key => if e.1 = c ∧ pkgOf k = p ∧ key ≠ 0#64 then
        some (field key 24 16, (⟨(s.thread k t).ident.tile.toNat, k, t, rd, tab.get (field key 24 16)⟩ : Mint)) else none
    | _ => none)
  let free := ((List.range 512).filter (fun e => decide (e ≠ 0) && !(tab.get e).v)).head?
  let es := sortBy id (prior.map Prod.fst ++ free.toList)
  let reqs := sortBy Mint.order (prior.map Prod.snd ++ [m])
  let events := s.events.filter (fun e => match e.2 with
    | .kmintDone k _ _ key => !(decide (e.1 = c ∧ pkgOf k = p) && key != 0#64)
    | _ => true)
  (reqs.zip (List.range reqs.length)).foldl (fun a ri =>
    match es[ri.2]? with
    | none => a.schedule c (.kmintDone ri.1.tile ri.1.thread ri.1.rd 0#64)
    | some e =>
      let gen := (tab.get e).gen
      let r : Region := { ri.1.region with gen := gen, check := Config.checkValue p e gen }
      (a.updPkg p (fun x => { x with regions := x.regions.set e r })).schedule c (.kmintDone ri.1.tile ri.1.thread ri.1.rd (keyOf e r)))
    { s with events := events }

def execKmint (d a b : BitVec 5) (s : State) : Out :=
  let x := s.readW a
  let y := s.readW b
  let n := field y 47 0
  s.guarded [s.chkW a, s.chkW b,
      trapIf (decide (field y 59 48 ≠ 0 ∨ n = 0 ∨ n % 64 ≠ 0 ∨ field x 63 48 ≠ 0 ∨ field y 63 61 = 0)) Cause.illegal y,
      trapIf (decide (x.toNat % 64 ≠ 0)) Cause.align x,
      trapIf (decide (281474976710656 < field x 47 0 + n)) Cause.taddr x] fun s =>
    let lid := (s.lidOf s.curTile s.curThread).getD 0
    let r : Region := { (default : Region) with v := true, r := bit y 62, w := bit y 63, a := bit y 61, ext := bit y 60
                                                ctx := (s.launch lid).ctx, base := field x 47 0, len := n, lid := lid }
    .next ((s.retire.enterWait .fabric).mint ⟨s.thr.ident.tile.toNat, s.curTile, s.curThread, d.toNat, r⟩)

/-- A waiting thread takes the result of a fabric instruction. -/
def State.fabricResult (s : State) (k t rd : Nat) (ctr : Option Nat) (v : Word) : State :=
  if (s.thread k t).wait = .fabric then (s.wake k t ctr).deliverW k t rd v else s

/-- A change of the fabric's tables by a launch with recovery is remembered for rollback (R295). -/
def State.logFabric (s : State) (k t kind p i : Nat) : State :=
  if (s.launchOf k t).recover then { s with fabricLog := ⟨(s.launchOf k t).podSeal, kind, p, i⟩ :: s.fabricLog } else s

def execKmintDone (k t rd : Nat) (key : Word) (s : State) : Out :=
  let s1 := if key = 0#64 then s else s.logFabric k t 0 (field key 27 25) (field key 24 16)
  .next (s1.fabricResult k t rd none key)

/-- The entry a key names is valid, of the key's generation, with ext set, for a launch with recovery: its revocation is an irrevocable
write (R210). -/
def State.krevHeld (s : State) (k t : Nat) (key : BitVec 32) : Bool :=
  let r := (s.pkg (field key 27 25)).regions.get (field key 24 16)
  (s.launchOf k t).recover && r.v && decide (r.gen = field key 31 28) && r.ext && !r.revoking && decide (t ≠ 8)

def execKrev (d a : BitVec 5) (s : State) : Out :=
  s.guarded [s.chkW a] fun s =>
    let key : BitVec 32 := (s.readW a).setWidth 32
    let p := pkgOf s.curTile
    let go (s : State) (n : Nat) : Out :=
      let at_ := s.cyc + (if field key 27 25 = p then 24 else 120)
      .next (((s.retire.enterWait .fabric).updThr (fun t => { t with spare := n })).schedule at_
        (.krevEffect s.curTile s.curThread d.toNat key))
    if s.krevHeld s.curTile s.curThread key then
      if escrowSize < (s.pkg p).escrowUsed + 8 then .next ((s.stall).updThr (fun t => t.addWait 4 t.rot))
      else go (s.updPkg p (fun q => { q with escrowUsed := q.escrowUsed + 8 })) 1
    else go s 0

/-- The revocation reaches the owning package's table (R281). One that is held, of an entry whose revocation is pending already, changes
nothing more. -/
def execKrevEffect (k t rd : Nat) (key : BitVec 32) (s : State) : Out :=
  let p := field key 27 25
  let e := field key 24 16
  let r := (s.pkg p).regions.get e
  let l := s.launchOf k t
  let ctx := l.ctx
  let reserved := (s.thread k t).spare = 1
  let st := if !r.v || decide (r.gen ≠ field key 31 28) then 2
    else if decide (e = 0) || decide (r.check ≠ key.setWidth 16) || decide (r.ctx ≠ ctx) then 3 else 0
  let hold := st = 0 ∧ s.krevHeld k t key
  let s0 := s.updThread k t (fun x => { x with spare := 0 })
  let s1 := if reserved ∧ ¬ hold then s0.updPkg (pkgOf k) (fun q => { q with escrowUsed := q.escrowUsed - 8 }) else s0
  let s2 := if st ≠ 0 ∨ (r.revoking ∧ l.recover ∧ t ≠ 8) then s1
    else if hold then
      (s1.updPkg p (fun x => { x with regions := x.regions.upd e (fun y => { y with revoking := true }) })).escrow k 2 (512 * p + e) 0 l []
    else (s1.updPkg p (fun x => { x with regions := x.regions.upd e (fun y =>
      { y with v := false, revoking := false, gen := (y.gen + 1) % 16 }) })).logFabric k t 1 p e
  .next (s2.fabricResult k t rd none (word st))

/-! ## Cohorts (R283 to R285) -/

/-- A member entry (R283): the member, or none where it is out of range. -/
def State.memberOf (s : State) (w : Word) : Option Member :=
  let m := field w 63 48
  if field w 25 19 ≠ 0 ∨ (if s.inPod then m < s.podFirst ∨ s.podFirst + s.podCount ≤ m else m ≠ 0) then none
  else
    let tile := 4096 * (8 * field w 47 45 + field w 44 42) + field w 41 30
    some { tile := if m = s.podModule ∨ !s.inPod then tile else tile + 1048576 * (m + 1), window := field w 29 26, base := field w 18 0 }

/-- A VC is closed on the ports of a tree that passes package switches (R277). -/
def State.vcClosed (s : State) (ks : List Nat) (v : Nat) : Bool :=
  decide (3 ≤ rootLevel ks) && ks.any (fun k => (s.pkg (pkgOf k)).closed.any (fun c => c.2 == v))

/-- Two trees share a port. -/
def sharePort (a b : List Nat) : Bool := let ps := portsOf a; (portsOf b).any ps.contains

/-- A reduction VC is open on every port of the tree that spans the tiles, and no live cohort or plan holds it there. -/
def State.vcOpen (s : State) (ks : List Nat) (v : Nat) : Bool :=
  !s.vcClosed ks v && !s.cohorts.any (fun h => h.2.live && h.2.vc == v && sharePort ks (h.2.members.map Member.tile)) &&
    !s.plans.any (fun h => h.2.live && h.2.vcs.contains v && sharePort ks h.2.leaders)

/-- The lowest open reduction VC from 2 to 9 (R284). -/
def State.freeVc (s : State) (ks : List Nat) : Option Nat := ((List.range 8).map (fun i => i + 2)).find? (s.vcOpen ks)

/-- A switch of the tree holds 1,024 cohorts already. -/
def State.switchFull (s : State) (ks : List Nat) : Bool :=
  (switchesOf ks).any (fun w => decide (1024 ≤ (s.cohorts.filter (fun h => h.2.live && (switchesOf (h.2.members.map Member.tile)).contains w)).length))

/-- Zero-load count of setting up or freeing a cohort, without the list (R284, R285). The smallest instance that holds a lone member is its group,
as for members that share one; R365's remark that a one-die run's CSET, with one member, counts 100 is not followed (DEDUCED, log entry 108). -/
def State.cohortTime (s : State) (ks : List Nat) : Nat := match rootLevel ks with
  | 0 => 40
  | 1 => 60
  | 2 => 100
  | 3 => 200
  | 4 => 400
  | _ => 400 + 2 * podPath (s.podModule :: otherModules ks)

/-- Control flits leave for the other modules of a cohort that is set up (`free` 0) or freed (1) (Table 15.3; log entry 35). -/
def State.sendControlFlits (s : State) (word free : Nat) (ks : List Nat) : State :=
  (otherModules ks).foldl (fun a m =>
    match Config.controlFlit (2 * word + free) m with
    | (tag, off, body) => a.sendTxn none 40 (pkgOf s.curTile) 0 10 m (word + 65536 * s.podModule) off body.length tag body) s

def execCset (d a b : BitVec 5) (s : State) : Out :=
  let x := s.readW a
  let y := s.readW b
  let n := field y 12 0
  let at_ := x.toNat
  s.guarded [s.chkW a, s.chkW b,
      trapIf (decide (field y 15 14 ≠ 0 ∨ field y 63 32 ≠ 0 ∨ n = 0 ∨ 4096 < n)) Cause.illegal x,
      trapIf (decide (at_ % 8 ≠ 0)) Cause.align x,
      trapIf (decide (393216 < at_ + 8 * n)) Cause.taddr x,
      trapIf (s.firstReserved s.curTile at_ (8 * n)).isSome Cause.spillProt x] fun s =>
    let ms := (List.range n).map (fun i => s.memberOf (word (s.num (.tile s.curTile) (at_ + 8 * i) 8)))
    let good := ms.filterMap id
    let ks := good.map Member.tile
    let c := s.cyc + ceilDiv (8 * n) 64 + s.cohortTime ks
    let fail (r : Nat) : Word × State := (word r <<< 60, s)
    let lid := (s.lidOf s.curTile s.curThread).getD 0
    let res : Word × State :=
      if ms.any Option.isNone || decide ((dedup ks).length ≠ n) then fail 4
      else match ((List.range 4096).find? (fun i => decide (i ≠ 0) && !(s.cohorts.get i).live)) with
        | none => fail 1
        | some i =>
          match s.freeVc ks with
          | none => fail 2
          | some v =>
            if s.switchFull ks then fail 3
            else
              let h : Cohort := { live := true, gen := (s.cohorts.get i).gen, ctx := (s.launch lid).ctx, lid := lid, members := good
                                  elementKeyed := bit y 13, timeout := 1024 * field y 31 16, vc := v, freeing := false }
              (word (i + 4096 * h.gen + 65536 * v), (({ s with cohorts := s.cohorts.set i h }).logFabric s.curTile s.curThread 2 0 i).sendControlFlits (i + 4096 * h.gen) 0 ks)
    .next ((res.2.retire.enterWait .fabric).schedule c (.csetDone s.curTile s.curThread d.toNat res.1))

def execCsetDone (k t rd : Nat) (v : Word) (s : State) : Out := .next (s.fabricResult k t rd none v)

/-- The cohort a word names for a context, if it is live on this module. -/
def State.cohortAt (s : State) (w ctx : Nat) : Option (Nat × Cohort) :=
  let i := w % 4096
  let h := s.cohorts.get i
  if h.live && decide (i ≠ 0 ∧ h.gen = w / 4096 % 16 ∧ h.ctx = ctx) then some (i, h) else none

def execCfree (d a : BitVec 5) (s : State) : Out :=
  s.guarded [s.chkW a] fun s =>
    match s.cohortAt (field (s.readW a) 15 0) (s.launchOf s.curTile s.curThread).ctx with
    | none => .next ((s.writeW d 1 1#64).retire)
    | some (i, h) =>
      let c := s.cyc + s.cohortTime (h.members.map Member.tile)
      let s1 := { s with cohorts := s.cohorts.set i { h with freeing := true } }
      .next (((s1.retire.enterWait .fabric).updThr (fun t => { t with spare := c })).schedule c
        (.cfreeDone s.curTile s.curThread d.toNat (i + 4096 * h.gen)))

/-- A bucket of a cohort is still open, or a flit of the cohort is on its way, up or down, in this module or from it into others. -/
def State.cohortBusy (s : State) (i : Nat) : Bool :=
  s.xfers.any (fun e => match e.2 with
    | some x => x.space == 6 && x.sent && !x.final && x.tag == i
    | none => false) ||
  s.buckets.any (fun b => b.cohort == i && (!b.flying.isEmpty || (b.opened && !(decide (b.failed ≠ 0 ∧ b.failAt ≤ s.cyc)) && (!b.sent || decide (0 < b.left)))))

/-- A cohort's id is free again, its generation advanced (R285). -/
def State.freeCohort (s : State) (k t c : Nat) : State :=
  let h := s.cohorts.get c
  (({ s with cohorts := s.cohorts.upd c (fun h => { h with live := false, freeing := false, gen := (h.gen + 1) % 16 })
             buckets := s.buckets.filter (fun b => b.cohort != c || (b.sent && decide (0 < b.left))) }).logFabric k t 3 0 c).sendControlFlits
    (c + 4096 * h.gen) 1 (h.members.map Member.tile)

/-- CFREE of cohort word `w` ends once every open bucket has completed or failed (R285); of two that wait for one word, the first to end
frees it. -/
def execCfreeDone (k t rd w : Nat) (s : State) : Out :=
  let c := w % 4096
  let h := s.cohorts.get c
  let named := h.live && decide (h.gen = w / 4096)
  if (s.thread k t).wait ≠ .fabric then .next s
  else if named && s.cohortBusy c then .next (s.schedule (s.cyc + 1) (.cfreeDone k t rd w))
  else
    let d := s.cyc - (s.thread k t).spare
    let s1 := if named then s.freeCohort k t c else s
    let s2 := s1.updThread k t (fun x => { x.addWait 2 d with spare := 0 })
    .next (s2.fabricResult k t rd (if d = 0 then none else some 2) 0#64)

/-! ## The adder tree (R288) -/

/-- RoundBF16(x, RNE), widened. -/
def roundBf (x : Lane) : Lane := BitVec.ofNat 32 (bf16.round .rne (fval x)) <<< 16
/-- Add(x, y, root) of R288. -/
def addNode (wide rf root : Bool) (x y : Lane) : Lane :=
  let t := f32 ((fval x).add (fval y))
  if wide || (root && rf) then t else roundBf t
/-- Leaf(x) of R288, widened. -/
def leafOf (wide bf : Bool) (x : Lane) : Lane := if wide || bf then f32 (fval x) else roundBf x

/-- The node over the keys that agree above bit `p`: the first node with contributions on both sides is the root (R149, R288).
A lone value is passed on as it is (DEDUCED, log entry 82). -/
def sumTree (add : Bool → Lane → Lane → Lane) : Nat → Bool → List (Nat × Lane) → Option Lane
  | 0, _, l => (l.head?).map Prod.snd
  | p + 1, root, l =>
    let a := l.filter (fun e => !e.1.testBit p)
    let b := l.filter (fun e => e.1.testBit p)
    if a.isEmpty || b.isEmpty then sumTree add p root l else comb (add root) (sumTree add p false a) (sumTree add p false b)

/-- Some binary tree over the contributions: which one is not stated (R288). -/
def arrivalSum (add : Bool → Lane → Lane → Lane) (pick : Nat → Nat) : Nat → List Lane → Option Lane
  | 0, l => l.head?
  | f + 1, l =>
    if l.length ≤ 1 then l.head?
    else
      let i := pick f % l.length
      let r := l.eraseIdx i
      let j := pick f / l.length % r.length
      arrivalSum add pick f (add (r.length == 1) (l.getD i 0#32) (r.getD j 0#32) :: r.eraseIdx j)

/-- Element `e` of a contribution's bytes as FP32. -/
def elemF (bf : Bool) (bs : List Byte) (e : Nat) : Lane :=
  if bf then BitVec.ofNat 32 (natOfBytes ((bs.drop (2 * e)).take 2)) <<< 16 else BitVec.ofNat 32 (natOfBytes ((bs.drop (4 * e)).take 4))

/-- The result of a reduction: `wide` sums in FP32, `rf` delivers FP32. -/
def reduceBytes (wide rf arr bf : Bool) (n seed : Nat) (cs : List (Nat × List Byte)) : List Byte :=
  (List.range n).flatMap (fun e =>
    let ls := cs.map (fun c => (c.1, leafOf wide bf (elemF bf c.2 e)))
    let r := if arr then arrivalSum (addNode wide rf) (Config.arrivalPick (seed + e)) ls.length (ls.map Prod.snd) else sumTree (addNode wide rf) 48 true ls
    let v := r.getD 0#32
    if wide || rf then bytesOfNat 4 v.toNat else bytesOfNat 2 (v.toNat / 65536))

/-! ## MLRED and MCAST (R286) -/

/-- A contribution or a multicast, at its package switch `wait` cycles from now, leaves for other modules, and waits for their end-to-end
statuses, from its last flit on (Table 15.1, R275). -/
def State.sendCast (s : State) (wait id vc key seq : Nat) (f : Contribution) : List Nat → State
  | [] => s
  | m :: r =>
    let x := s.xfer id
    let c := s.cyc
    let cast := decide (x.kind = .mcast)
    let size := if cast then 1 else if f.bf then 2 else 4
    ((s.updXfer id (fun v => { v with sent := true, sentAt := c })).sendBucket (if r.isEmpty then some id else none) wait (pkgOf x.tile)
      (if cast then bulkVc x.tile x.thread else vc) (if cast then 8 else 6) m key seq id size f.data).sendCast wait id vc key seq f r

/-- A contribution or a multicast is captured and leaves for the root switch, or for the module that owns its cohort. -/
def State.contribute (s : State) (kind : XKind) (cw seq owner at_ n : Nat) (c : Contribution) : State :=
  let id := s.nextXfer
  let k := s.curTile
  let t := s.curThread
  let x : Xfer := { (default : Xfer) with
    kind := kind, tile := k, thread := t, lid := (s.lidOf k t).getD 0, batch := s.thr.nextBatch, space := 6, local_ := at_, n := n
    tag := cw % 4096, issued := s.cyc, local_done := true, ready := true }
  let i := cw % 4096
  let h := s.cohorts.get i
  let ks := h.members.map Member.tile
  let after := s.cyc + ceilDiv n 64
  let due := after + (if !h.live then legOf 0 else if !ks.contains k then legOf (meets ks k).1 else if h.others.isEmpty then legOf (rootLevel ks) else 40)
  let f : Contribution := { c with xid := id, tile := k, gen := cw / 4096 % 16, data := s.tbytes at_ n, at_ := after, due := due }
  let cast := if kind = .mcast then id else 0
  let mine (b : Bucket) : Bool := b.cohort == i && b.seq == seq && b.cast == cast
  let bs := if s.buckets.any mine then s.buckets.map (fun b => if mine b then { b with flying := b.flying ++ [f] } else b)
    else s.buckets ++ [{ (default : Bucket) with cohort := i, seq := seq, cast := cast, flying := [f] }]
  let s1 := ({ s with xfers := s.xfers.set id (some x), nextXfer := id + 1 }).retire.holdUntil after
  if owner = s.podModule then { s1 with buckets := bs }.schedule due (.bucketOpen i seq)
  else s1.sendCast (ceilDiv n 64 + 40) id (Config.farVc owner cw + 2) (cw + 65536 * owner) seq f [owner]

/-- Checks on a collective's source region (R195, R216). -/
def State.castChecks (s : State) (at_ n : Nat) (bad : Bool) : List (Option TrapReq) :=
  [ trapIf bad Cause.illegal s.thisWord
  , trapIf (decide (393216 < at_ + n)) Cause.taddr (word at_)
  , (s.firstReserved s.curTile at_ n).map (fun b => ⟨Cause.spillProt, word b⟩)
  , trapIf (decide (64 ≤ s.heldEntries s.curTile)) Cause.batchOv 2#64 ]

def execMlred (k a b : BitVec 5) (w x : BitVec 1) (s : State) : Out :=
  let wa := s.readW a
  let wb := s.readW b
  let wk := s.readW k
  let rf := bit wb 19
  let bf := bit wb 20
  let n := field wb 44 32
  let wide := w = 1#1
  let l := field wk 53 48
  let e0 := field wk 47 0
  let bytes := n * if bf then 2 else 4
  s.guarded ([s.chkW a, s.chkW b, s.chkW k] ++ s.castChecks (field wb 18 0) bytes
      (decide (field wb 31 21 ≠ 0 ∨ field wb 63 45 ≠ 0 ∨ n = 0 ∨ 4096 < n ∨ (rf = true ∧ wide) ∨ field wk 63 54 ≠ 0 ∨ e0 % 2 ^ l ≠ 0))) fun s =>
    .next (s.contribute .mlred (field wa 15 0) (field wa 47 16) (field wa 63 48) (field wb 18 0) bytes
      { (default : Contribution) with w32 := decide wide, arr := decide (x = 1#1), rf := rf, bf := bf, n := n, key0 := e0, keyl := l })

def execMcast (a b : BitVec 5) (s : State) : Out :=
  let wa := s.readW a
  let wb := s.readW b
  let n := field wb 46 32
  s.guarded ([s.chkW a, s.chkW b] ++ s.castChecks (field wb 18 0) n
      (decide (field wb 31 19 ≠ 0 ∨ field wb 63 47 ≠ 0 ∨ n = 0 ∨ 16384 < n))) fun s =>
    .next (s.contribute .mcast (field wa 15 0) (field wa 47 16) (field wa 63 48) (field wb 18 0) n { (default : Contribution) with n := n })

/-! ## Buckets (R287, R358) -/

/-- Contributions that cannot make one bucket (R287). -/
def clash (keyed : Bool) (x y : Contribution) : Bool :=
  x.n != y.n || x.bf != y.bf || x.rf != y.rf || x.w32 != y.w32 || x.arr != y.arr || x.tile == y.tile ||
  (keyed && decide (x.key0 < y.key0 + 2 ^ y.keyl ∧ y.key0 < x.key0 + 2 ^ x.keyl))

/-- A flit dropped at a switch, and its issuer's status (R285, R287). -/
def State.staleFlit (s : State) (w : Nat × Nat) (f : Contribution) : State := (s.countStale w.1 w.2).finish f.xid 4

/-- A contribution of a cohort that spans modules goes on from its package switch to the racks (R286). -/
def State.sendOut (s : State) (c seq : Nat) (h : Cohort) (f : Contribution) : State :=
  s.sendCast 0 f.xid h.vc (c + 4096 * h.gen + 65536 * s.podModule) seq f (h.others.take 1)

/-- A bucket has failed in this cycle: a contribution that reaches the root now does not come after the failure (R358). -/
def State.failedNow (s : State) (c : Nat) (b : Bucket) : Bool :=
  decide (b.failAt = s.cyc + s.legTo ((s.cohorts.get c).members.map Member.tile) + 2)

/-- One contribution reaches the root switch, or the switch that drops it: a word that is not live is met at the issuer's group switch, a tile
that is no member at the first switch that holds the cohort's state (R285, R287). -/
def State.arriveAtRoot (s : State) (c seq cast : Nat) (f : Contribution) : State :=
  let h := s.cohorts.get c
  let b := s.bucketAt c seq cast
  let ks := h.members.map Member.tile
  let s0 := s.updBucket c seq cast (fun b => { b with flying := b.flying.filter (fun g => g.xid != f.xid) })
  let ctx := (s.launch (s.xfer f.xid).lid).ctx
  let root := (rootLevel ks, switchOf (rootLevel ks) f.tile)
  if !h.live || decide (c = 0 ∨ h.gen ≠ f.gen) then s0.staleFlit (0, groupOf f.tile) f
  else if !ks.contains f.tile || decide (h.ctx ≠ ctx) then s0.staleFlit (meets ks f.tile) f
  else if (h.freeing && !b.opened) || (decide (b.failed ≠ 0) && !s.failedNow c b) then s0.staleFlit root f
  else if cast = 0 && !h.others.isEmpty && !s.vcClosed ks h.vc then
    { s0 with buckets := s0.buckets.filter (fun x => x.cohort != c || x.seq != seq || x.cast != 0 || x.opened || !x.flying.isEmpty) }.sendOut c seq h f
  else if !b.opened && decide (16 ≤ (s.buckets.filter (fun x => x.cohort == c && x.opened && !x.sent && x.failed == 0)).length) then
    (s.updBucket c seq cast (fun b => { b with flying := b.flying.map (fun g => if g.xid = f.xid then { g with due := s.cyc + 1 } else g) })).schedule
      (s.cyc + 1) (.bucketOpen c seq)
  else
    let here := if b.opened then b.present else ks.filter (fun k => s.present k h.ctx)
    let s1 := s0.updBucket c seq cast (fun b => { b with opened := true, contribs := b.contribs ++ [f], present := here })
    let s2 := if !b.opened && decide (0 < h.timeout ∧ cast = 0) then s1.schedule (s.cyc + h.timeout) (.bucketTimeout c seq) else s1
    if s.vcClosed ks h.vc then s2.failBucket c seq cast 5
    else if cast ≠ 0 then s2.schedule s.cyc (.bucketComplete c seq)
    else if ks.any (fun k => !here.contains k) || b.contribs.any (clash h.elementKeyed f) then s2.failBucket c seq cast 4
    else if b.contribs.length + 1 = h.members.length then s2.schedule s.cyc (.bucketComplete c seq)
    else s2

/-- Contributions of a sequence reach the root switch in this cycle; the first opens the bucket and absence is judged (R358). -/
def execBucketOpen (c seq : Nat) (s : State) : Out :=
  let mine := s.buckets.filter (fun b => b.cohort == c && b.seq == seq)
  .next (mine.foldl (fun a b => (b.flying.filter (fun f => decide (f.due ≤ s.cyc))).foldl (fun x f => x.arriveAtRoot c seq b.cast f) a) s)

/-- A bucket's failure reaches every contributor, and every member that is not absent from it (R287, R358). -/
def State.spreadFailure (s : State) (h : Cohort) (b : Bucket) : State :=
  let s1 := h.members.foldl (fun a m =>
    if b.present.contains m.tile then
      (a.updWindow m.tile m.window (fun x => if x.status = 0 then { x with status := b.failed } else x)).settleWindow m.tile m.window
    else a) s
  (b.contribs.foldl (fun a f => a.finish f.xid b.failed) s1).updBucket b.cohort b.seq b.cast (fun x => { x with contribs := [] })

/-- Levels of the tree over element keys, from the lowest key level up to the root (R290). -/
def keyDepth (cs : List Contribution) : Nat :=
  let f := cs.headD default
  let lo := cs.foldl (fun a g => min a g.keyl) 63
  let span := cs.foldl (fun a g => a ||| (g.key0 ^^^ f.key0)) 0
  (if span = 0 then lo else span.log2 + 1) - lo

/-- The root switch has its result: deliveries leave for the members, a multicast's flits for the other modules (R289, R290). -/
def State.sendResult (s : State) (h : Cohort) (b : Bucket) : State :=
  let ks := h.members.map Member.tile
  let f := b.contribs.headD default
  let rank (t : Nat) : Nat := ks.findIdx (fun k => k == t)
  let bytes := if b.cast ≠ 0 then f.data
    else reduceBytes f.w32 f.rf f.arr f.bf f.n s.nonce (b.contribs.map (fun g => (if h.elementKeyed then g.key0 else rank g.tile, g.data)))
  if b.cast = 0 && h.members.any (fun m => !s.fitsSlot m bytes.length) then s.failBucket b.cohort b.seq b.cast 4
  else
    let dest := if b.cast = 0 then h.members else h.here.filter (fun m => s.fitsSlot m bytes.length && b.present.contains m.tile)
    let lev := legOf (min 4 (rootLevel ks))
    let depth := if b.cast ≠ 0 then 0 else if h.elementKeyed then keyDepth b.contribs else clog2 h.members.length
    let t := max s.cyc (b.contribs.foldl (fun a g => max a g.at_) 0 + lev + 4 * depth + lev + ceilDiv bytes.length 64)
    let left := dest.length + h.others.length
    let s1 := s.updBucket b.cohort b.seq b.cast (fun x => { x with sent := true, left := left, status := if dest.length = h.here.length then 0 else 4 })
    let s2 := dest.foldl (fun a m => a.schedule t (.collectiveDelivery b.cohort m.tile m.window m.base b.seq bytes)) { s1 with nonce := s.nonce + f.n }
    let s3 := s2.sendCast 0 f.xid h.vc (b.cohort + 4096 * h.gen + 65536 * s.podModule) b.seq f h.others
    if left = 0 then b.contribs.foldl (fun a g => a.finish g.xid 4) { s3 with buckets := s3.buckets.filter (fun x => x.cast != b.cast || x.cast == 0) } else s3

def execBucketComplete (c seq : Nat) (s : State) : Out :=
  let h := s.cohorts.get c
  let mine := s.buckets.filter (fun b => b.cohort == c && b.seq == seq && b.opened && !b.sent && !b.contribs.isEmpty)
  .next (mine.foldl (fun a b =>
    if b.failed ≠ 0 then (if b.failAt ≤ s.cyc then a.spreadFailure h b else a)
    else if b.cast ≠ 0 ∨ b.contribs.length = h.members.length then a.sendResult h b else a) s)

/-- R287: a member without a contribution when the timeout passes is absent. -/
def execBucketTimeout (c seq : Nat) (s : State) : Out :=
  let b := s.bucketAt c seq 0
  if b.opened ∧ b.failed = 0 ∧ b.contribs.length < (s.cohorts.get c).members.length then
    .next ((s.updBucket c seq 0 (fun x => { x with present := x.present.filter (fun k => x.contribs.any (fun f => f.tile == k)) })).failBucket c seq 0 4)
  else .next s

/-! ## Delivery into windows (R289) -/

/-- The counter moves over every bucket that has landed in sequence. -/
def Window.advance (x : Window) : Nat → Window
  | 0 => x
  | n + 1 =>
    if x.landed.contains x.c.toNat then Window.advance { x with c := x.c + 1#32, landed := x.landed.filter (fun q => q != x.c.toNat) } n else x

/-- Those whose contributions or firings a delivery carries. -/
def State.givers (s : State) (c seq : Nat) : List Nat :=
  if c < 4096 then (s.buckets.filter (fun b => b.cohort == c && b.seq == seq && b.sent)).flatMap (fun b => b.contribs.map Contribution.xid)
  else (s.firings.filter (fun f => f.plan + 4096 == c && f.seq == seq && f.ran)).flatMap (fun f => f.members.map Prod.snd)

/-- One delivery of a bucket or firing has landed or been dropped; the last makes its contributors final. -/
def State.delivered (s : State) (c seq : Nat) : State :=
  if c < 4096 then
    match s.buckets.find? (fun b => b.cohort == c && b.seq == seq && b.sent && decide (0 < b.left)) with
    | none => s
    | some b => s.bucketLanded b 0
  else
    match s.firings.find? (fun f => f.plan + 4096 == c && f.seq == seq && f.ran) with
    | none => s
    | some f =>
      if f.left = 1 then
        let s1 := f.members.foldl (fun a m => a.finish m.2 0) s
        { s1 with firings := s1.firings.filter (fun x => x.plan + 4096 != c || x.seq != seq) }
      else { s with firings := s.firings.map (fun x => if x.plan + 4096 = c ∧ x.seq = seq then { x with left := x.left - 1 } else x) }

/-- A delivery whose window, as it is defined now, has no room for it, or lies in a reserved bank there (R175, R287, R289): it is dropped, the
window takes status ABSENT, and so do its contributors (DESIGN CHOICE, log entry 104). -/
def State.dropDelivery (s : State) (c k w seq : Nat) : State :=
  let s1 := (s.updWindow k w (fun x => if x.status = 0 then { x with status := 4 } else x)).settleWindow k w
  ((s.givers c seq).foldl (fun a x => a.finish x 4) s1).delivered c seq

/-- A bucket's data reach a member (R289): they wait for a permit, at the package switch while the tile is stopped or its launch saved
(R295), and for room in the exchange share, line by line (R181). Once the last of them has landed, a delivery of no bytes is left, which moves
the counter 2 cy later, and a cycle more for every line logged (R227, R290). -/
def execCollectiveDelivery (c k w base seq : Nat) (bytes : List Byte) (s : State) : Out :=
  let ctx := if c < 4096 then (s.cohorts.get c).ctx else (s.plans.get (c - 4096)).ctx
  let x := s.window k w
  let now := s.cyc
  let here := match (s.tile k).prim with
    | some l => (s.launch l).ctx == ctx
    | none => false
  let again := s.schedule (now + 1) (.collectiveDelivery c k w base seq bytes)
  if here then
    let a := x.slot seq + base
    if (s.launchOf k 0).state ≠ .running then .next again
    else if bytes.isEmpty then
      .next (((s.updWindow k w (fun y => ({ y with landed := (seq % 4294967296) :: y.landed }).advance (y.landed.length + 1))).settleWindow k w).delivered
        c seq)
    else if ¬ ((BitVec.ofNat 32 seq - x.rel).toNat < x.count) then .next again
    else if x.size < base + bytes.length ∨ 393216 < a + bytes.length ∨ (s.firstReserved k a bytes.length).isSome then .next (s.dropDelivery c k w seq)
    else match s.landExchange k false (spread a bytes) with
      | (s1, [], nl) => .next (s1.schedule (now + 2 + nl) (.collectiveDelivery c k w base seq []))
      | (_, b :: _, _) =>
        let n := b.1 - a
        .next ((s.landExchange k false (spread a (bytes.take n))).1.schedule (now + 1) (.collectiveDelivery c k w (base + n) seq (bytes.drop n)))
  else if s.saves.any (fun v => (s.launch v.lid).ctx == ctx && v.tiles.any (fun t => t.1 == k)) then .next again
  else .next (s.delivered c seq)

/-! ## Plans (R291 to R293) -/

/-- Units on a unit's line along an axis (1 X, 2 Y, 3 XY), by rank, and its coordinate there. -/
def lineOf (axis mx my r : Nat) : List Nat := match axis with
  | 1 => (List.range mx).map (fun i => r / mx * mx + i)
  | 2 => (List.range my).map (fun i => r % mx + mx * i)
  | _ => List.range (mx * my)
def coordOf (axis mx r : Nat) : Nat := match axis with
  | 1 => r % mx
  | 2 => r / mx
  | _ => r

/-- SeatDim(E, g, mode, ux, uy) of R55, over a mesh: offset and extent. -/
def seatRange (extent granule mode mx my r : Nat) : Nat × Nat :=
  let n := match mode with
    | 1 => mx
    | 2 => my
    | 3 => mx * my
    | _ => 1
  let i := if mode = 0 ∨ 3 < mode then 0 else coordOf mode mx r
  let chunk := granule * ceilDiv extent (n * granule)
  (i * chunk, min chunk (extent - i * chunk))

/-- The block of a unit in the source seating and in the destination's: a range per dimension. A dimension whose mode does not change has no
step, and keeps its granule. -/
def Plan.from (p : Plan) (r : Nat) : List (Nat × Nat) := p.dims.map (fun d => seatRange d.extent d.granule d.mode p.mx p.my r)
def Plan.to (p : Plan) (r : Nat) : List (Nat × Nat) :=
  p.dims.map (fun d => seatRange d.extent (if d.mode = d.toMode then d.granule else d.toGranule) d.toMode p.mx p.my r)

/-- Elements of a block. -/
def blockSize (b : List (Nat × Nat)) : Nat := b.foldl (fun n d => n * d.2) 1

/-- Element `i` of a block, dimension 0 running fastest, as its coordinates; and the place of coordinates in a block, none outside it. -/
def blockCoords : List (Nat × Nat) → Nat → List Nat
  | [], _ => []
  | d :: r, i => (d.1 + i % max 1 d.2) :: blockCoords r (i / max 1 d.2)
def blockPlace : List (Nat × Nat) → List Nat → Option Nat
  | [], _ => some 0
  | d :: r, c => match c, blockPlace r (c.drop 1) with
    | x :: _, some i => if d.1 ≤ x ∧ x < d.1 + d.2 then some (x - d.1 + d.2 * i) else none
    | _, _ => none

/-- Code `i` of a run of codes of `w` bits, and a run of codes as bytes. -/
def codeAt (w : Nat) (bs : List Byte) (i : Nat) : Option Nat :=
  if w = 4 then (bs[i / 2]?).map (fun b => if i % 2 = 0 then b.toNat % 16 else b.toNat / 16)
  else
    let l := (bs.drop (i * (w / 8))).take (w / 8)
    if l.length = w / 8 then some (natOfBytes l) else none
def packCodes (w : Nat) : List Nat → List Byte
  | [] => []
  | [a] => bytesOfNat (max 1 (w / 8)) a
  | a :: b :: r => if w = 4 then BitVec.ofNat 8 (a % 16 + 16 * b) :: packCodes w r else bytesOfNat (w / 8) a ++ packCodes w (b :: r)

/-- A step that reduces, and the format it leaves. -/
def reduces (st : Nat × Nat × Nat) : Bool := st.1 == 2 || st.1 == 3

/-- The value that unit `r` has or can have of an element after the steps, the last first (Table 15.7): a reduction adds the values of its
line, keyed by the units' ranks, or by their coordinates on the line in an element-keyed plan (R288, R292); another step takes the element
from the line's unit that has it. `bf`: sources in BF16; `x` tells elements apart. -/
def Plan.value (p : Plan) (seed x : Nat) (src : Nat → Option Nat) (bf : Bool) : List (Nat × Nat × Nat) → Nat → Option Nat
  | [], r => src r
  | st :: before, r =>
    let line := lineOf st.2.1 p.mx p.my r
    let held := line.filterMap (fun u => (p.value seed x src bf before u).map (fun v => (u, v)))
    if reduces st then
      let isBf := if before.any reduces then !p.w32 else bf
      let z := if isBf then 2 else 4
      if held.isEmpty then none
      else some (natOfBytes (reduceBytes p.w32 false p.arr isBf 1 (seed + x)
        (held.map (fun u => (if p.elementKeyed then coordOf st.2.1 p.mx u.1 else u.1, bytesOfNat z u.2)))))
    else match held.find? (fun u => u.1 == r) with
      | some u => some u.2
      | none => (held.head?).map Prod.snd

/-- Bits of an element of the sources and of the results. -/
def Plan.bitsIn (p : Plan) : Nat := fmtBits p.fmt
def Plan.bitsOut (p : Plan) : Nat := if p.steps.any reduces then (if p.w32 then 32 else 16) else p.bitsIn

/-- The bytes of its block that a unit gives to a firing: at most the bucket (Table 15.6). -/
def Plan.take (p : Plan) (r : Nat) : Nat := min p.bytes (ceilDiv (blockSize (p.from r) * p.bitsIn) 8)

/-- The result of unit `r`, from what the units give. -/
def Plan.result (p : Plan) (seed : Nat) (data : List (List Byte)) (r : Nat) : List Byte :=
  let b := p.to r
  packCodes p.bitsOut ((List.range (blockSize b)).filterMap (fun i =>
    let c := blockCoords b i
    let x := (blockPlace (p.dims.map (fun d => (0, d.extent))) c).getD 0
    p.value seed x (fun u => (blockPlace (p.from u) c).bind (codeAt p.bitsIn (data.getD u []))) (p.fmt == 8) p.steps.reverse r))

/-- Pieces of a tensor in ascending coordinate order, dimension 0 first. -/
def State.tensorFlat (s : State) (d h n : Nat) : List Seg :=
  let t := s.tensorDir d h
  (List.range (ceilDiv n (max 1 t.elem))).filterMap (fun i =>
    let e0 := max 1 (t.extent 0)
    let e1 := max 1 (t.extent 1)
    let e2 := max 1 (t.extent 2)
    (s.tensorAddr d t (i % e0) (i / e0 % e1) (i / e0 / e1 % e2) (i / e0 / e1 / e2)).map (fun a =>
      { key := (Space.tensor d).key a, len := t.elem, entry := word t.flags }))

/-- Where a unit's run lies (Table 15.6): at its leader tile, in a tensor of its die, or at a context virtual address. Pages refuse a read or a
write as any (R200). -/
def State.unitSegs (s : State) (p : Plan) (write : Bool) (k addr n : Nat) : List Seg :=
  if p.unit ≤ 1 then [⟨(Space.tile k).key addr, n, 0#64⟩]
  else if p.unit = 2 then s.tensorFlat (dieOf k) addr n
  else match ((s.setCache (.pkg (pkgOf k)) []).mapRun (.pkg (pkgOf k)) p.ctx (if write then refuseWrite else refuseRead) (n / 4096 + 2) addr n).2.2 with
    | .ok l => l
    | .error _ => []

/-- The pieces cover a run. -/
def covers (l : List Seg) (n : Nat) : Bool := decide (l.foldl (fun a g => a + g.len) 0 = n)

/-- What the leaders give to a firing: pieces by unit rank. -/
def State.planSources (s : State) (p : Plan) : List (List Seg) :=
  p.leaders.zipWith (fun k r => s.unitSegs p false k p.src (p.take r)) (List.range p.leaders.length)

/-- The runs that a firing delivers, by unit rank. -/
def State.planRuns (s : State) (p : Plan) : List (List Byte) :=
  let data := (s.planSources p).map s.segBytes
  (List.range data.length).map (p.result s.nonce data)

/-- Every source can be read. -/
def State.sourcesGood (s : State) (p : Plan) : Bool :=
  (s.planSources p).zipWith (fun l r => covers l (p.take r)) (List.range p.leaders.length) |>.all id

/-- Tensor-store pages that a firing's pieces lie in are marked for the leaders' launches (R310). -/
def State.touchAll (s : State) (p : Plan) (ls : List (List Seg)) : State :=
  (p.leaders.zip ls).foldl (fun a e => match (a.tile e.1).prim with
    | some l => a.touch l e.2
    | none => a) s

/-- Levels of the adder tree of a plan (R290). -/
def Plan.depth (p : Plan) : Nat :=
  if p.vcs.isEmpty then 0
  else if p.elementKeyed then ((p.steps.filter reduces).map (fun st => clog2 (lineOf st.2.1 p.mx p.my 0).length)).foldl max 0
  else clog2 (p.mx * p.my)

/-- The live plan a handle names (R292). -/
def State.planAt (s : State) (h : BitVec 32) : Option (Nat × Plan) :=
  let i := field h 27 16
  let p := s.plans.get i
  if p.live && decide (i ≠ 0 ∧ p.gen = field h 31 28 ∧ p.kind = field h 15 12 ∧ p.scope = field h 11 8 ∧ field h 7 0 = 0) then some (i, p) else none

/-- A member fires a sequence; a window plan runs once every member has (R293). -/
def State.fire (s : State) (i seq : Nat) (ms : List (Nat × Nat)) : State :=
  let p := s.plans.get i
  let mine (f : Firing) : Bool := f.plan == i && f.seq == seq && !f.ran
  let fs := if s.firings.any mine then s.firings.map (fun f => if mine f then { f with members := f.members ++ ms } else f)
    else s.firings ++ [{ plan := i, seq := seq, members := ms, ran := false, left := 0 }]
  let s1 := { s with firings := fs }
  let all := fs.any (fun f => mine f && p.leaders.all (fun k => f.members.any (fun m => m.1 == k)))
  if !p.superstep && all then s1.schedule s.cyc (.planFiring i seq) else s1

def execCfire (a : BitVec 5) (s : State) : Out :=
  if isProctor s.curTile then .next (s.takeTrap ⟨Cause.illegal, s.thisWord⟩)
  else s.guarded [s.chkW a] fun s =>
    let id := s.nextXfer
    let k := s.curTile
    let v := s.readW a
    let plan := (s.planAt (v.setWidth 32)).filter (fun e => e.2.leaders.contains k && e.2.ctx == (s.launchOf k s.curThread).ctx)
    let x : Xfer := { (default : Xfer) with
      kind := .cfire, tile := k, thread := s.curThread, lid := (s.lidOf k s.curThread).getD 0, batch := s.thr.nextBatch, space := 6
      scope := match plan with | some e => e.2.scope | none => 0
      issued := s.cyc, local_done := true, ready := true }
    let s1 := ({ s with xfers := s.xfers.set id (some x), nextXfer := id + 1 }).retire
    match plan with
    | none => .next (s1.finish id 3)
    | some (i, _) => .next (s1.fire i (field v 63 32) [(k, id)])

/-- A firing that has not run ends without an effect, with a status for every member that has fired. -/
def State.dropFiring (s : State) (f : Firing) (st : Nat) : State :=
  f.members.foldl (fun a m => a.finish m.2 st) { s with firings := s.firings.filter (fun g => g.plan != f.plan || g.seq != f.seq || g.ran) }

/-- A firing of a plan over several modules leaves for them: the leaders' bytes as contributions under the plan's handle, which end with their
end-to-end status. What comes back is the outside's (log entry 35). -/
def State.sendFiring (s : State) (p : Plan) (i : Nat) (f : Firing) : State :=
  let c := s.cyc
  let last := p.others.getLast?
  let handle := 268435456 * p.gen + 65536 * i + 4096 * p.kind + 256 * p.scope
  let firer (k : Nat) : Nat := ((f.members.find? (fun x => x.1 == k)).map Prod.snd).getD 0
  let s1 : State := { s with firings := s.firings.filter (fun g => g.plan != f.plan || g.seq != f.seq || g.ran) }
  let s2 := (p.leaders.zip ((s.planSources p).map s.segBytes)).foldl (fun a e => p.others.foldl (fun b m =>
    b.sendBucket (if some m = last then some (firer e.1) else none) 40 (pkgOf e.1) (p.vcs.headD (bulkVc e.1 0)) 6 m handle f.seq (firer e.1) (max 1 (p.bitsIn / 8)) e.2) a) s1
  f.members.foldl (fun a m => a.updXfer m.2 (fun x => { x with sent := true, sentAt := c })) s2

/-- The firing of a plan now runs: its results have `n` deliveries. -/
def State.running (s : State) (f : Firing) (n : Nat) : State :=
  { s with firings := s.firings.map (fun g => if g.plan = f.plan ∧ g.seq = f.seq ∧ !g.ran then { g with ran := true, left := n } else g) }

/-- A window plan's firing runs: sources are read, and results leave for the members' windows (R289, R290, R293). A result that would pass the
end of a member's slot fails it whole (R287). -/
def execPlanFiring (i seq : Nat) (s : State) : Out :=
  let p := s.plans.get i
  match s.firings.find? (fun f => f.plan == i && f.seq == seq && !f.ran) with
  | none => .next s
  | some f =>
    if p.vcs.any (s.vcClosed p.leaders) then .next (s.dropFiring f 5)
    else if !s.sourcesGood p then .next (s.dropFiring f 1)
    else
      let s0 := s.touchAll p (s.planSources p)
      if !p.others.isEmpty then .next (s0.sendFiring p i f)
      else
        let runs := s.planRuns p
        if (p.leaders.zip runs).any (fun e => !s.fitsSlot ⟨e.1, p.window, p.dst⟩ e.2.length) then .next (s0.dropFiring f 4)
        else
          let lev := legOf (rootLevel p.leaders)
          .next ((p.leaders.zip runs).foldl (fun a e =>
            a.schedule (s.cyc + lev + 4 * p.depth + lev + ceilDiv e.2.length 64 + if e.2.isEmpty then 2 else 0) (.collectiveDelivery (4096 + i) e.1 p.window p.dst seq e.2))
            { s0.running f p.leaders.length with nonce := s.nonce + blockSize (p.dims.map (fun d => (0, d.extent))) })

/-- Where the results of a superstep plan go, by unit rank, with their bytes. -/
def State.planTargets (s : State) (p : Plan) : List (Nat × List Seg × List Byte) :=
  (p.leaders.zip (s.planRuns p)).map (fun e => (e.1, s.unitSegs p true e.1 p.dst e.2.length, e.2))

/-- A result has a place: tile SRAM outside the reserved banks, or pages that take it (R175, R200). -/
def State.targetGood (s : State) (p : Plan) (e : Nat × List Seg × List Byte) : Bool :=
  if p.unit ≤ 1 then decide (p.dst + e.2.2.length ≤ 393216) && (s.firstReserved e.1 p.dst e.2.2.length).isNone else covers e.2.1 e.2.2.length

/-- Every member fired the sequence. -/
def Plan.complete (p : Plan) (f : Firing) : Bool := p.leaders.all (fun k => f.members.any (fun m => m.1 == k))

/-- A superstep plan's firing waits for room in the logs (R318). -/
def State.firingShut (s : State) (f : Firing) : Bool :=
  let p := s.plans.get f.plan
  p.complete f && p.others.isEmpty && s.sourcesGood p && (s.planTargets p).any (fun e =>
    if p.unit ≤ 1 then s.tileShut e.1 (s.newTileLines e.1 [(p.dst, e.2.2.length)]) else s.levelShut (((s.tile e.1).prim).getD 0) e.2.1)

/-- A superstep plan's firing in its write half: the lines it logs first and its bytes. One that lacks a member ends ABSENT, one on a closed VC
FABRIC (R277, R293). -/
def State.applyFiring (s : State) (f : Firing) : State × Nat × Nat :=
  let p := s.plans.get f.plan
  let ts := s.planTargets p
  if !p.complete f then (s.dropFiring f 4, 0, 0)
  else if p.vcs.any (s.vcClosed p.leaders) then (s.dropFiring f 5, 0, 0)
  else if !s.sourcesGood p then (s.dropFiring f 1, 0, 0)
  else
    let s0 := (s.touchAll p (s.planSources p)).touchAll p (ts.map (fun e => e.2.1))
    if !p.others.isEmpty then (s0.sendFiring p f.plan f, 0, 0)
    else if ts.any (fun e => !s.targetGood p e) then (s.dropFiring f 4, 0, 0)
    else
      let s1 := ts.foldl (fun (a : State × Nat) e =>
        if p.unit ≤ 1 then (a.1.storeTile e.1 1 p.dst e.2.2, a.2 + (a.1.newTileLines e.1 [(p.dst, e.2.2.length)]).length)
        else
          let lid := ((a.1.tile e.1).prim).getD 0
          ((a.1.writeSegs lid e.1 e.2.1 e.2.2).noteKeys (segKeys e.2.1), a.2 + a.1.segFresh lid e.2.1)) (s0, 0)
      ({ s1.1.dropFiring f 0 with nonce := s.nonce + blockSize (p.dims.map (fun d => (0, d.extent))) }, s1.2,
        ts.foldl (fun n e => n + e.2.2.length) 0)

/-! ## A switch that fails (R275) -/

/-- The way of a transfer to a package passes a switch: its tile's switches up to the package's, the module switch, the owner's package
switch. -/
def passes (lvl index k owner : Nat) : Bool :=
  if lvl < 3 then switchOf lvl k == index else if lvl = 3 then pkgOf k == index || owner == index else pkgOf k != owner

/-- Every flit that a switch holds is lost end to end (R275): open buckets at it and contributions on their way through it, deliveries and
remote transactions that pass it, and what its links would send, or send again. Their sources raise FABRIC faults 360,000 cy after they sent
their last flits.
Levels: 0 group, 1 block, 2 die, 3 package, 4 module. -/
def execSwitchFailure (lvl index : Nat) (s : State) : Out :=
  let below (k root : Nat) : Bool := decide (lvl ≤ root) && switchOf lvl k == index
  let rootOf (b : Bucket) : Nat := rootLevel ((s.cohorts.get b.cohort).members.map Member.tile)
  let lost (b : Bucket) : Bool := !b.sent && decide (rootOf b = lvl) &&
    (match (s.cohorts.get b.cohort).members with | m :: _ => switchOf lvl m.tile == index | [] => false)
  let through (b : Bucket) (f : Contribution) : Bool := below f.tile (rootOf b)
  let ids := s.buckets.flatMap (fun b => (if lost b then b.contribs ++ b.flying else b.flying.filter (through b)).map (fun f => (f.xid, f.at_)))
  let mine (x : Nat) : Xfer := s.xfer x
  let gone (e : Instr) : Bool := match e with
    | .collectiveDelivery c k _ _ _ _ =>
      below k (rootLevel (if c < 4096 then (s.cohorts.get c).members.map Member.tile else (s.plans.get (c - 4096)).leaders))
    | .keyCheck src _ key _ _ tag _ =>
      if src = s.podModule then passes lvl index (mine tag).tile (field key 27 25) else decide (lvl = 3 ∧ field key 27 25 = index)
    | .e2eStatus x _ _ => passes lvl index (mine x).tile ((mine x).tag / 33554432 % 8)
    | _ => false
  let held (e : Sending) : Bool := if lvl = 3 then e.pkg == index else match e.owner with
    | some x => decide (lvl < 3) && switchOf lvl (mine x).tile == index
    | none => false
  let s1 : State := { s with
    buckets := (s.buckets.filter (fun b => !lost b)).map (fun b => { b with flying := b.flying.filter (fun f => !through b f) })
    events := s.events.filter (fun e => !gone e.2)
    outbox := s.outbox.filter (fun e => !held e) }
  let s2 := if lvl = 3 then s1.updPkg index (fun q => { q with txns := [], links := q.links.each (fun _ l => l.map (fun x => { x.unsend s.cyc with retry := [] })) }) else s1
  let late := (s.events.filter (fun e => gone e.2)).flatMap (fun e => match e.2 with
    | .collectiveDelivery c _ _ _ seq _ => (s.givers c seq).map (fun x => (x, s.cyc))
    | _ => []) ++ (s.outbox.filter held).filterMap (fun e => e.ends.map (fun x => (x, e.due)))
  .next ((ids ++ late).foldl (fun a x => a.schedule (max s.cyc (x.2 + 360000)) (.e2eTimeout x.1)) s2)

end Sys2Proof.Machine
end

