-- ==== Sys2Proof/Machine/Bells.lean ====
section
/-!
DEFINITION. Bells, supersteps and aborts (chapter 13): arrival, the exchange with its read and write halves, release, pending aborts,
SEAL, named barriers and TSYNC.
-/

namespace Sys2Proof.Machine

/-! ## Bell networks (R240 to R242) -/

/-- Members of a launch at a level instance. -/
def State.atInst (s : State) (lid lvl inst : Nat) : List (Nat × Nat) := (s.membersOf lid).filter (fun m => instOf lvl m.1 == inst)

/-- Members that have not halted (R15). -/
def State.awake (s : State) (lid lvl inst : Nat) : List (Nat × Nat) :=
  (s.atInst lid lvl inst).filter (fun m => !(s.thread m.1 m.2).halted)

/-- Every member of the instance has arrived, at a SYNC or at a SEAL. -/
def State.gathered (s : State) (lid lvl inst : Nat) (isSeal : Bool) : Bool :=
  let ms := s.awake lid lvl inst
  !ms.isEmpty && ms.all (fun m => match (s.thread m.1 m.2).arr with
    | some a => a.lvl == lvl && a.isSeal == isSeal
    | none => false)

def State.bellAt (s : State) (lid lvl inst : Nat) : Option Bell := s.bells.find? (fun b => b.lid == lid && b.lvl == lvl && b.inst == inst)
def State.updBell (s : State) (lid lvl inst : Nat) (f : Bell → Bell) : State :=
  { s with bells := s.bells.map (fun b => if b.lid = lid ∧ b.lvl = lvl ∧ b.inst = inst then f b else b) }
def State.dropBell (s : State) (lid lvl inst : Nat) : State :=
  { s with bells := s.bells.filter (fun b => b.lid != lid || b.lvl != lvl || b.inst != inst) }

/-- A pod bell's flits leave for the other modules of the launch on VC 1 (R240, Table 15.3). What the other modules do at the bell is
outside the model (log entry 35). -/
def State.podBell (s : State) (lid : Nat) : State :=
  let l := s.launch lid
  (l.place.moduleList.filter (fun m => m != s.podModule)).foldl (fun a m =>
    match Config.podBellFlit lid m with
    | (tag, key, body) => a.sendTxn none 0 0 1 9 m key 0 body.length tag body) s

/-- A bell of a level starts to ring, on its way up or down. -/
def State.toll (s : State) (lid lvl : Nat) : State := if lvl < 4 then s else s.podBell lid

/-- The last member has arrived: the arrival bell rings, after a save seal that has been asked for (R318, R319). -/
def State.ring (s : State) (lid lvl inst : Nat) (isSeal : Bool) : State :=
  let l := s.launch lid
  let b : Bell := { (default : Bell) with lid := lid, lvl := lvl, inst := inst, last := s.cyc, isSeal := isSeal }
  if s.sealAsked && l.recover && !l.isFiller && decide (lvl = l.sealLevel) && !isSeal then
    { s with bells := { b with phase := 6 } :: s.bells }.schedule s.cyc (.saveSeal 0)
  else ({ s with bells := b :: s.bells }.schedule (s.cyc + l.bellTime lvl) (.arrivalBellDone lid lvl inst)).toll lid lvl

/-- A member has arrived or halted: a bell of the instance rings when every member has arrived at SYNC, or every one at SEAL (R15, R241,
R321). A SEAL of one launch commits for every member of its domain (R313). -/
def State.checkBell (s : State) (lid lvl inst : Nat) : State :=
  if (s.bellAt lid lvl inst).isSome then s
  else if s.gathered lid lvl inst false then s.ring lid lvl inst false
  else if s.gathered lid lvl inst true then s.ring lid lvl inst true
  else s

/-! ## SYNC (R243, R244) -/

/-- R218: every deposit and atomic of the thread is locally complete or has failed. -/
def State.depsReady (s : State) (k t : Nat) : Bool := (s.xfersOf k t).all (fun e => !e.2.kind.isDep || e.2.ready || e.2.final)

/-- The slot goes by in a wait that counter `i` counts. -/
def State.stallCounted (s : State) (i : Nat) : State := (s.stall).updThr (fun t => t.addWait i t.rot)

/-- The waits before an arrival: SEAL's for its gets, counted, and for its matrix queue (R321), and the structural ones (R244 steps 1 and 2). -/
def State.beforeArrival (s : State) (gets queue : Bool) (go : State → Out) : Out :=
  if gets then .next (s.stallCounted 2)
  else if !s.matrixSettled s.curTile s.curThread || queue then .next s.stall
  else if !s.depsReady s.curTile s.curThread then .next (s.stallCounted 2)
  else go s

/-- The member arrives (R241, R244 steps 3 to 5). -/
def State.arrive (s : State) (lvl op : Nat) (v : Word) (rd : Nat) (isSeal : Bool) : State :=
  let k := s.curTile
  let lid := (s.lidOf k s.curThread).getD 0
  let lv := (s.launch lid).level lvl
  let c := s.cyc
  let s1 := (s.retire.enterWait .bell).updThr (fun t =>
    { t with arr := some { lvl := lv, op := op, val := v, at_ := c, rd := rd, isSeal := isSeal, held := t.abort } })
  s1.checkBell lid lv (instOf lv k)

def execSync (d a : BitVec 5) (p : BitVec 4) (l : BitVec 3) (s : State) : Out :=
  if isProctor s.curTile then .next (s.takeTrap ⟨Cause.illegal, s.thisWord⟩)
  else s.beforeArrival false false fun s =>
    s.guarded [s.chkW a] fun s => .next (s.arrive l.toNat p.toNat (s.readW a) d.toNat false)

/-! ## Reductions (Table 13.2, R245) -/

/-- Levels of the tree at a bell's level, in a launch over `n` modules: 2^p leaves. -/
def treeLevels (lvl n : Nat) : Nat := match lvl with
  | 0 => 7
  | 1 => 15
  | 2 => 18
  | 3 => 21
  | _ => 21 + clog2 n

/-- wd of a reduction over the contributions, each with its member index, on a tree of `p` levels. -/
def reduceWord (p op : Nat) (l : List (Nat × Word)) : Word :=
  let vs := l.map Prod.snd
  let lanes := l.map (fun e => (e.1, (e.2.setWidth 32 : Lane)))
  match op with
  | 1 => vs.foldl (fun a b => a + b) 0#64
  | 2 => vs.foldl (fun a b => if b.toInt < a.toInt then b else a) 0x7FFFFFFFFFFFFFFF#64
  | 3 => vs.foldl (fun a b => if a.toInt < b.toInt then b else a) 0x8000000000000000#64
  | 4 => vs.foldl (fun a b => if b.toNat < a.toNat then b else a) 0xFFFFFFFFFFFFFFFF#64
  | 5 => vs.foldl (fun a b => if a.toNat < b.toNat then b else a) 0#64
  | 6 => vs.foldl (fun a b => a &&& b) 0xFFFFFFFFFFFFFFFF#64
  | 7 => vs.foldl (fun a b => a ||| b) 0#64
  | 8 => vs.foldl (fun a b => a ^^^ b) 0#64
  | 9 => zext 32 ((sumTree (fun _ x y => f32 ((fval x).add (fval y))) p true lanes).getD 0#32)
  | 10 => zext 32 ((sumTree (fun _ => minF) p true lanes).getD 0x7F800000#32)
  | 11 => zext 32 ((sumTree (fun _ => maxF) p true lanes).getD 0xFF800000#32)
  | _ => 0#64

/-- Member index of a launch's thread (R242). -/
def State.memberIndex (s : State) (lid lvl k t : Nat) : Nat := 8 * (s.launch lid).rank s.podModule lvl k + t % 8

/-! ## The exchange (R246 to R249) -/

/-- The transfers of a launch inside an instance that satisfy a test, in issue order. -/
def State.inExchange (s : State) (lid lvl inst : Nat) (f : Xfer → Bool) : List (Nat × Xfer) :=
  s.xfers.filterMap (fun e => match e.2 with
    | some x => if x.lid = lid ∧ instOf lvl x.tile = inst ∧ !x.final ∧ f x then some (e.1, x) else none
    | none => none)

/-- Timetable order: tile, then thread, then issue (R209). -/
def timetable (l : List (Nat × Xfer)) : List (Nat × Xfer) := sortBy (fun e => 16 * e.2.tile + e.2.thread) l

/-- B: the larger of the tile-side and the level-side byte count (R247). -/
def State.bigSide (s : State) (x : Xfer) : Nat :=
  let bl := s.xferBytes x
  max bl (if x.cv then (x.n * elemNibbles (bfFmt x.bfmt) + 1) / 2 else bl)

/-- Cycles that a conversion adds. -/
def Xfer.convTime (x : Xfer) : Nat := if x.cv then 4 else 0

/-- The cycle in which a get lands at zero load, a walk still under way included; 0 for one that the proctor holds or has held, whose delay
is no part of a zero-load count (R13, R248). -/
def State.landing (s : State) (id : Nat) (x : Xfer) : Nat :=
  if x.ticket ≠ 0 ∨ x.sentAt ≠ 0 then 0
  else if x.ready then x.land
  else match s.events.find? (fun e => match e.2 with | .translationWalkDone _ k i => k == 0 && i == id | _ => false) with
    | some e => e.1 + x.service (s.xferBytes x) (s.thread x.tile x.thread).rot x.far
    | none => 0

/-- Gets that must have landed before the write halves up to a level: those of G, S, M and T by the read halves (R218, R246), and those of a
peer, which see its memory as it stood at superstep start (R269). -/
def Xfer.readBy (x : Xfer) (lvl : Nat) : Bool :=
  x.kind == .get && (match x.space with
    | 0 => true
    | 1 => decide (1 ≤ lvl)
    | 2 => decide (2 ≤ lvl ∧ x.scope ≤ lvl)
    | 4 => decide (x.scope ≤ lvl)
    | 5 => decide (x.scope ≤ lvl)
    | _ => false)

/-- A sum per instance, and the longest. -/
def addTo (t : Tab Nat) (i n : Nat) : Tab Nat := t.upd i (fun x => x + n)
def longest (t : Tab Nat) : Nat := t.foldl (fun a e => max a e.2) 0

/-- One level's read halves, starting at cycle `c`: the GETTs of the level's scope are served and the phase's length returned. -/
def State.readPhase (s : State) (lid lvl inst v c : Nat) : State × Nat :=
  let mine := timetable (s.inExchange lid lvl inst (fun x => x.kind == .get && x.space == 5 && x.scope == v && decide (x.ticket = 0)))
  let fixed := match v with
    | 0 => 4
    | 1 => 10
    | 2 => 64
    | 3 => 180
    | _ => 180 + 2 * (s.launch lid).podPath
  let sums := mine.foldl (fun t e => addTo t (instOf v e.2.tile) (fixed + ceilDiv (s.bigSide e.2) 64 + e.2.convTime)) ([] : Tab Nat)
  let bound := (s.inExchange lid lvl inst (fun x => x.readBy v && decide (x.space < 4))).foldl (fun a e => max a (s.landing e.1 e.2)) 0
  let s1 := mine.foldl (fun a e =>
    match a.tileOfId lid (e.2.addr / 4294967296) with
    | none => a.finish e.1 1
    | some j =>
      let bs := a.bytes (.tile j) (e.2.addr % 524288) (a.xferBytes e.2)
      (a.updXfer e.1 (fun x => { x with data := bs })).landGet e.1) s
  (s1, max (longest sums) (bound - c))

/-- The read halves from group up to a level (R246). -/
def State.readHalves (s : State) (lid lvl inst : Nat) : State × Nat :=
  (List.range (lvl + 1)).foldl (fun a v =>
    match a.1.readPhase lid lvl inst v (s.cyc + a.2) with
    | (s1, n) => (s1, a.2 + n)) (s, 0)

/-- The abort record that an arrival bell selects (R252): the highest code, then the lowest origin. -/
def State.selectAbort (s : State) (lid lvl inst : Nat) : Option (BitVec 16 × BitVec 32) :=
  (s.awake lid lvl inst).foldl (fun best m =>
    match (s.thread m.1 m.2).arr with
    | none => best
    | some a =>
      if a.held.code = 0#16 ∨ lvl < a.held.ps then best
      else match best with
        | none => some (a.held.code, a.held.origin)
        | some b =>
          if b.1.toNat < a.held.code.toNat ∨ (b.1 = a.held.code ∧ a.held.origin.toNat < b.2.toNat) then some (a.held.code, a.held.origin)
          else best) none

/-- A gang-stop has taken the launch's threads: a bell that has not passed its arrival bell keeps its arrivals, and a write half that stands at
a full log stays there (R258, R308, R319). -/
def LState.frozen : LState → Bool
  | .heldStop => true
  | .saved => true
  | .stopping w => decide (w % 10 ≤ 2)
  | _ => false

/-- The arrival bell has rung: the abort is selected, and the read halves run (R246, R252); class 0xF at the seal level of a launch
with recovery rolls the domain back instead (R254). -/
def execArrivalBellDone (lid lvl inst : Nat) (s : State) : Out :=
  match s.bellAt lid lvl inst with
  | none => .next s
  | some b =>
    if b.phase ≠ 0 || (s.launch lid).state.frozen then .next s
    else
      let sel := s.selectAbort lid lvl inst
      let l := s.launch lid
      match (if l.recover && !l.isFiller && decide (lvl = l.sealLevel) then sel.filter (fun x => x.1.toNat / 4096 == 15) else none) with
      | some x => .next (s.startRollback l.podSeal (x.1.setWidth 32) x.2)
      | none =>
        match s.readHalves lid lvl inst with
        | (s1, hr) =>
          let c := s.cyc
          .next ((s1.updBell lid lvl inst (fun y => { y with phase := 1, abort := sel, upto := c + hr, zero := l.bellTime lvl + hr })).schedule
            (c + hr) (.writeHalf lid lvl inst))

/-! ## The write half (R206 to R210, R228) -/

/-- The superstep counter of a level at a level instance, as the launch's members hold it. -/
def State.counterOf (s : State) (lid lvl inst : Nat) : Nat :=
  ((s.atInst lid lvl inst).foldl (fun a m => max a ((s.thread m.1 m.2).ss.get lvl).toNat) 0) % 4294967296

/-- R228: a running program of the launch has not left the epoch that ends at its engine's level instance. -/
def State.programsBehind (s : State) (lid lvl inst : Nat) : Bool :=
  s.progs.any (fun e => e.2.busy && e.2.lid == lid && decide (engineLevel e.1 ≤ lvl) &&
    decide (instOf lvl (4096 * pslotDie e.1) = inst) && decide (e.2.epoch.toNat ≤ s.counterOf lid (engineLevel e.1) (engineInst e.1)))

/-- The deposit's target permits it (R206). -/
def State.permitted (s : State) (x : Xfer) : Bool :=
  if x.space = 5 && x.kind != .depa then
    match s.tileOfId x.lid (x.addr / 4294967296) with
    | some j => (s.tile j).xperm.getLsbD (x.tile % 16)
    | none => false
  else true

/-- What a write phase carries: the state, cycles by instance, packed bytes and dropped lists by 4 * tile + list, the longest peer
transaction by instance, and whether it stands at an application whose lines cannot be logged (R318); `start` is the time, from now, at which
its fixed part has passed. -/
structure WriteAcc where
  st : State
  start : Nat
  time : Tab Nat
  packed : Tab Nat
  full : List Nat
  peer : Tab Nat
  stuck : Bool

/-- An application waits for room in the logs (R318); `p` bytes of a DEPA's list stand before its own (R207). -/
def State.applyShut (s : State) (x : Xfer) (p : Nat) : Bool :=
  let tile (k a n : Nat) : Bool := s.tileShut k (s.newTileLines k [(a, n)])
  if x.thread = 8 then false
  else match x.kind, x.space with
    | .amo _ _ _, 4 => false
    | .amo _ _ _, _ => s.levelShut x.lid x.segs || tile x.tile x.local_ 8
    | _, 3 => false
    | _, 4 => false
    | _, 5 => match s.tileOfId x.lid (x.addr / 4294967296) with
      | some j => tile j (x.addr % 524288 + p) x.data.length
      | none => false
    | _, _ => s.levelShut x.lid x.segs

/-- Bytes that the items before a DEPA's have taken of its list (R207). -/
def WriteAcc.before (w : WriteAcc) (x : Xfer) : Nat :=
  if x.kind == .depa then (match w.st.tileOfId x.lid (x.addr / 4294967296) with
    | some j => w.packed.get (4 * j + x.addr / 1048576 % 4)
    | none => 0) else 0

/-- One DEPA item (R207): written at its base plus what its predecessors took, or dropped with the rest of its list. -/
def WriteAcc.append (w : WriteAcc) (id : Nat) (x : Xfer) : WriteAcc × Nat :=
  match w.st.tileOfId x.lid (x.addr / 4294967296) with
  | none => ({ w with st := w.st.finish id 1 }, 0)
  | some j =>
    let key := 4 * j + x.addr / 1048576 % 4
    let p := w.packed.get key
    let a := x.addr % 524288 + p
    if w.full.contains key || decide (393216 < a + x.n) || (w.st.firstReserved j a x.n).isSome then
      ({ w with st := w.st.finish id 9, full := key :: w.full }, 0)
    else
      let nl := (w.st.newTileLines j [(a, x.n)]).length
      let s1 := if x.thread = 8 then w.st.poke (.tile j) a x.data else w.st.storeTile j 1 a x.data
      ({ w with st := s1.finish id 0, packed := w.packed.set key (p + x.n) }, nl)

/-- One application, in its instance's time (Tables 13.3 and 13.4). -/
def WriteAcc.apply (w : WriteAcc) (v id : Nat) : WriteAcc :=
  let x := w.st.xfer id
  if w.stuck || w.st.applyShut x (w.before x) then { w with stuck := true }
  else
    let b := w.st.bigSide x
    let i := instOf v x.tile
    let amo := match x.kind with | .amo _ _ _ => true | _ => false
    let cost := x.convTime + (match v with
      | 0 => if amo then 2 else 1 + ceilDiv b 64
      | 1 => 2 + ceilDiv b 64
      | _ => 8 + ceilDiv b 32)
    if x.space = 4 && (w.st.irrevocable x).isNone then
      let t := match w.st.peerOf x.lid x.tag with
        | some m => w.st.peerTime (pkgOf x.tile) m x.tag x.addr b
        | none => 0
      match w.st.applyXfer w.start id with
      | (s1, _) => { w with st := s1, peer := w.peer.upd i (fun n => max n t) }
    else if x.kind == .depa then
      match w.append id x with
      | (w1, nl) => { w1 with time := addTo w1.time i (cost + nl) }
    else
      match w.st.applyXfer w.start id with
      | (s1, nl) => { w with st := s1, time := addTo w.time i (cost + nl) }

/-- The source reads of DEPBs (R208): bytes read as they stand, which completes the DEPB locally, or the DEPB held for FMTRES with them. -/
def State.readSource (s : State) (id : Nat) : State :=
  let x := s.xfer id
  let bt := if x.cv then (x.n * elemNibbles (bfFmt x.bfmt) + 1) / 2 else s.xferBytes x
  let y := { x with cap := s.capture x bt }
  let s1 := (s.updXfer id (fun v => { v with cap := y.cap })).localDone id
  match y.toLevel with
  | .error e => s1.holdFmt id e
  | .ok bs => s1.updXfer id (fun v => { v with data := bs })

/-- Pages still marked for saved launches. -/
def State.marksLeft (s : State) : Nat := s.saves.foldl (fun n a => n + a.marks.length) 0

/-- Held work of one level inside the exchange, free of any hold. -/
def State.heldAt (s : State) (lid lvl inst v : Nat) : List (Nat × Xfer) :=
  s.inExchange lid lvl inst (fun x => x.kind.isDep && x.scope == v && x.ready && !x.sent && decide (x.ticket = 0))

/-- Superstep firings of a level, inside the exchange (R293). -/
def State.firingsAt (s : State) (lid lvl inst v : Nat) : List Firing :=
  s.firings.filter (fun f => (s.plans.get f.plan).superstep && (s.plans.get f.plan).scope == v &&
    (match f.members with
     | m :: _ => instOf lvl m.1 == inst && (s.xfer m.2).lid == lid
     | [] => false))

/-- A stream program's held write, applied after the deposits (R228). -/
def WriteAcc.stream (w : WriteAcc) (p : StreamWrite) : WriteAcc :=
  if w.stuck || (w.st.regionFull && decide (0 < (w.st.applyStreamWrite p).2)) then { w with stuck := true }
  else match w.st.applyStreamWrite p with
    | (t, nl) =>
      { w with st := { t with streamWrites := t.streamWrites.filter (fun q => q != p) }
               time := addTo w.time (engineInst p.key) (1 + ceilDiv p.bytes.length 64 + nl) }

/-- A superstep plan's firing, applied after the deposits (R293). -/
def WriteAcc.fire (w : WriteAcc) (v : Nat) (f : Firing) : WriteAcc :=
  if w.stuck || w.st.firingShut f then { w with stuck := true }
  else match w.st.applyFiring f with
    | (t, nl, b) =>
      { w with st := t, time := addTo w.time (instOf v ((f.members.headD (0, 0)).1)) (nl + match v with
          | 0 => 1 + ceilDiv b 64
          | 1 => 2 + ceilDiv b 64
          | _ => 8 + ceilDiv b 32) }

/-- What the write halves of an exchange come to: the state, the words appended and the lists that are full, the zero-load cycles and those
of copy-on-write, and the level whose write half stands at an application (R318). -/
structure Halves where
  st : State
  packed : Tab Nat
  full : List Nat
  time : Nat
  cow : Nat
  stuck : Option Nat

/-- Fixed part of a write half (Table 13.4, R278). -/
def Launch.writeFixed (l : Launch) (v : Nat) : Nat := match v with
  | 0 => 0
  | 1 => 0
  | 2 => 64
  | 3 => 180
  | _ => 180 + l.podPath

/-- The write halves of one level, `before` cycles from now, from the application on at which they stood if they have `begun`. Their effects are made at once, so that
a reader outside the scope sees the new values from then on (DEDUCED, log entry 50). -/
def State.writePhase (s : State) (lid lvl inst v before : Nat) (begun : Bool) (packed : Tab Nat) (full : List Nat) : Halves :=
  let fixed := if begun then 0 else (s.launch lid).writeFixed v
  let xs := s.heldAt lid lvl inst v
  let s1 := (xs.filter (fun e => !s.permitted e.2)).foldl (fun a e => a.holdXfer e.1 2 6 4 0 (word e.2.addr) 0#64) s
  let ys := timetable (s1.heldAt lid lvl inst v)
  let reads := ys.filter (fun e => e.2.kind == .depb && e.2.cap.isEmpty)
  let tileReads := if v < 2 then reads.foldl (fun t e => addTo t e.2.tile (ceilDiv (s.bigSide e.2) 64 + e.2.convTime)) ([] : Tab Nat) else []
  let readTime := tileReads.foldl (fun (t : Tab Nat) e => Tab.upd t (instOf v e.1) (fun n => max n e.2)) []
  let s2 := reads.foldl (fun a e => a.readSource e.1) s1
  let zs := timetable (s2.heldAt lid lvl inst v)
  let order := if v < 2 then zs else sortBy (fun e => if e.2.kind == .depa then 0 else Config.orderKey s.nonce e.1) zs
  let ended (p : StreamWrite) : Bool :=
    p.lid == lid && engineLevel p.key == v && decide (instOf lvl (4096 * pslotDie p.key) = inst) &&
    decide (p.epoch.toNat ≤ s.counterOf lid v (engineInst p.key))
  let w0 : WriteAcc := { st := s2, start := before + fixed, time := readTime, packed := packed, full := full, peer := [], stuck := false }
  let w1 := order.foldl (fun w e => w.apply v e.1) w0
  let w2 := (sortBy StreamWrite.key (s.streamWrites.filter ended)).foldl WriteAcc.stream w1
  let w3 := (s.firingsAt lid lvl inst v).foldl (fun w f => w.fire v f) w2
  let s3 := { w3.st with nonce := w3.st.nonce + 1 }
  let times := w3.peer.foldl (fun (t : Tab Nat) e => Tab.upd t e.1 (fun n => max n e.2)) w3.time
  { st := s3, packed := w3.packed, full := w3.full
    time := if times.isEmpty then 0 else fixed + longest times
    cow := 2248 * (s.marksLeft - s3.marksLeft), stuck := if w3.stuck then some v else none }

/-- The write halves of an exchange, from the one on at which it stands up to its own level. -/
def State.writeHalves (s : State) (b : Bell) : Halves :=
  ((List.range (b.lvl + 1)).filter (fun v => decide (b.next ≤ v))).foldl (fun h v =>
    if h.stuck.isSome then h
    else
      let g := h.st.writePhase b.lid b.lvl b.inst v h.time (b.begun && v == b.next) h.packed h.full
      { g with time := h.time + g.time, cow := h.cow + g.cow })
    { st := s, packed := b.counts, full := b.shut, time := 0, cow := 0, stuck := none }

/-- What an aborted superstep discards (Table 13.5). -/
def State.discardHeld (s : State) (lid lvl inst : Nat) : State :=
  let s1 := (s.inExchange lid lvl inst (fun x => x.kind.isDep && decide (x.scope ≤ lvl ∧ x.ticket = 0) && !x.sent)).foldl (fun a e => a.finish e.1 7) s
  let gone (p : StreamWrite) : Bool :=
    p.lid == lid && decide (engineLevel p.key ≤ lvl ∧ instOf lvl (4096 * pslotDie p.key) = inst) &&
    decide (p.epoch.toNat ≤ s.counterOf lid (engineLevel p.key) (engineInst p.key))
  let runs := (s1.streamWrites.filter gone).map StreamWrite.run
  let s2 := { s1 with streamWrites := s1.streamWrites.filter (fun p => !gone p) }
  let s3 := { s2 with progs := s2.progs.each (fun _ p => if runs.contains p.run ∧ p.status = 0 then { p with status := 7 } else p) }
  ((List.range (lvl + 1)).flatMap (s.firingsAt lid lvl inst)).foldl (fun a f =>
    f.members.foldl (fun b m => b.finish m.2 7) { a with firings := a.firings.filter (fun g => g != f) }) s3

/-- A write half stands at an application, from the end of what it has made: it goes on once a seal has freed the region, or as the group
undo area drains (R316, R318). -/
def State.standWrite (s : State) (b : Bell) (h : Halves) (v : Nat) : State :=
  let e := s.cyc + h.time + h.cow
  let s1 := h.st.updBell b.lid b.lvl b.inst (fun y =>
    { y with next := v, begun := true, counts := h.packed, shut := h.full, upto := e, zero := b.zero + h.time, late := b.late, lateFrom := none
             full := b.full + (match b.fullFrom with | some f => s.cyc - f | none => 0), fullFrom := some e })
  if s1.regionFull then s1 else s1.schedule (e + groupDrain) (.writeHalf b.lid b.lvl b.inst)

/-- A write half stands for a get of a group or die exchange, or no longer does (R13). -/
def Bell.standLate (b : Bell) (late : Bool) (c : Nat) : Bell :=
  match b.lateFrom with
  | none => if late then { b with lateFrom := some c } else b
  | some f => if late then b else { b with late := b.late + (c - f), lateFrom := none }

/-- The least level at which a deposit or level atomic may come to be applied; known once it is ready. -/
def Xfer.leastScope (x : Xfer) : Nat := if x.ready then x.scope else match x.space with
  | 2 => 2
  | 3 => 3
  | 4 => 3
  | _ => x.scope

/-- A final exchange waits for the deposits and atomics of its scope that are not ready, or that the proctor holds: no later exchange would
apply them (R331). -/
def State.finalBehind (s : State) (b : Bell) : Bool :=
  b.isFinal && !(s.inExchange b.lid b.lvl b.inst (fun x => x.kind.isDep && !x.sent && (!x.ready || decide (x.ticket ≠ 0)) &&
    decide (x.leastScope ≤ b.lvl))).isEmpty

/-- The write half of an exchange, once its gets have landed and its programs have left the epoch (R228). -/
def execWriteHalf (lid lvl inst : Nat) (s : State) : Out :=
  match s.bellAt lid lvl inst with
  | none => .next s
  | some b0 =>
    let gets := !(s.inExchange lid lvl inst (fun x => x.readBy lvl)).isEmpty
    if b0.phase ≠ 1 ∨ s.cyc < b0.upto ∨ ((s.launch lid).state.frozen ∧ b0.fullFrom.isSome) then .next s
    else if gets || s.programsBehind lid lvl inst || s.finalBehind b0 then
      let late := gets && decide (lvl ≤ 1)
      let c := s.cyc
      .next (if late == b0.lateFrom.isSome then s else s.updBell lid lvl inst (fun y => y.standLate late c))
    else
      let b := b0.standLate false s.cyc
      let c := s.cyc
      let l := s.launch lid
      let h : Halves := if b.abort.isSome then { st := s.discardHeld lid lvl inst, packed := [], full := [], time := 0, cow := 0, stuck := none }
        else s.writeHalves b
      match h.stuck with
      | some v => .next (s.standWrite b h v)
      | none =>
        let bell := l.bellTime lvl
        let step (ph t z : Nat) : State :=
          (h.st.updBell lid lvl inst (fun y =>
            { y with phase := ph, upto := c + h.time + h.cow + t, zero := b.zero + h.time + z, counts := h.packed, late := b.late, lateFrom := none
                     full := b.full + (match b.fullFrom with | some f => c - f | none => 0), fullFrom := none })).schedule
            (c + h.time + h.cow + t) (.bellRelease lid lvl inst)
        if h.st.finalBehind b then
          .next (h.st.updBell lid lvl inst (fun y =>
            { y with upto := c + h.time + h.cow, zero := b.zero + h.time, counts := h.packed, shut := h.full, late := b.late, lateFrom := none }))
        else if b.isFinal then .next (step 3 0 0)
        else if b.isSeal then .next (step 2 (8 * l.nthr + 4) (8 * l.nthr + 4 + bell))
        else .next ((step 3 bell bell).toll lid lvl)

/-! ## Release (R244, R249, R252, R321) -/

/-- The pending abort that a release leaves (R252). -/
def AbortCode.climb (own : AbortCode) (lvl top : Nat) (sel : BitVec 16 × BitVec 32) : AbortCode :=
  let new := if own.ps ≤ lvl ∨ own.code.toNat < sel.1.toNat ∨ (sel.1 = own.code ∧ sel.2.toNat < own.origin.toNat)
    then { code := sel.1, origin := sel.2, ps := lvl + 1 } else own
  if top < new.ps then { new with code := 0#16 } else new

/-- A released member: its counters, waits and pending abort. Cycles that the write half stood behind a full log are counted in wt.escr alone,
and those that it stood for a get at group or die scope in wt.xfer (R13); a code that a proctor set after the arrival rides the next SYNC as it stands (R251). -/
def Thread.released (t : Thread) (b : Bell) (top c : Nat) : Thread :=
  match t.arr with
  | none => t
  | some a =>
    let ss := (List.range (b.lvl + 1)).foldl (fun (x : Tab Word) i => Tab.upd x i (fun v => v + 1#64)) t.ss
    let t1 := (((({ t with ss := ss, arr := none }).addWait 0 ((b.last - a.at_) + (c - (b.last + b.zero + b.hold + b.full + b.late)))).addWait 3 b.hold).addWait 4 b.full).addWait 2 b.late
    match b.abort with
    | none => t1
    | some sel =>
      let r := a.held.climb b.lvl top sel
      { t1 with abt := (word b.lvl <<< 48) ||| (sel.2.setWidth 64 <<< 16) ||| sel.1.setWidth 64
                abort := if t.abort = a.held then r else t.abort }

/-- wd of every member (Table 13.2); unspecified when members name different operators (R243). -/
def State.bellWord (s : State) (b : Bell) (k t : Nat) : Word :=
  let arrs := (s.awake b.lid b.lvl b.inst).filterMap (fun m => ((s.thread m.1 m.2).arr).map (fun a => (s.memberIndex b.lid b.lvl m.1 m.2, a)))
  let op := match arrs with
    | e :: _ => e.2.op
    | [] => 0
  if arrs.all (fun e => e.2.op == op) then reduceWord (treeLevels b.lvl (s.launch b.lid).place.modules) op (arrs.map (fun e => (e.1, e.2.val)))
  else Config.freeWord (s.nonce + s.memberIndex b.lid b.lvl k t)

/-- The list counts that a release leaves in a launch's tiles (R207). -/
def State.setLists (s : State) (b : Bell) : State :=
  if (s.launch b.lid).isFiller then s
  else (dedup ((s.atInst b.lid b.lvl b.inst).map Prod.fst)).foldl (fun a k => a.updTile k (fun t =>
    { t with lst := (List.range 4).foldl (fun (x : Tab Word) j => Tab.set x j (word (b.counts.get (4 * k + j) / 8))) [] })) s

/-- Release of a bell's members. -/
def State.release (s : State) (b : Bell) : State :=
  let l := s.launch b.lid
  let ms := s.awake b.lid b.lvl b.inst
  let c := s.cyc
  let s1 := ms.foldl (fun a m =>
    let x := s.thread m.1 m.2
    let rd := match x.arr with
      | some r => r.rd
      | none => 0
    let y := (a.updThread m.1 m.2 (fun t => t.released b l.top c)).wake m.1 m.2 (some 0)
    let z := if b.isSeal then y.updThread m.1 m.2 Thread.sealed else y
    z.deliverW m.1 m.2 rd (s.bellWord b m.1 m.2)) s
  let s2 := s1.setLists b
  let ks := dedup (ms.map Prod.fst)
  let s3 := if b.isSeal then
      (dedup (ks.map groupOf)).foldl (fun a g => a.updGroup g (fun x => { x with barriers := [] }))
        (ks.foldl (fun a k => a.updTile k (fun t => { t.clearAcc with barCount := [] })) s2)
    else s2
  let s4 := (s3.updLaunch b.lid (fun x => { x with progress := c, hadSeal := x.hadSeal || b.isSeal })).dropBell b.lid b.lvl b.inst
  let data := b.lvl + 8 * (s4.counterOf b.lid b.lvl b.inst % 536870912)
  let s5 := if b.lvl = 2 then s4.record (8 * b.inst) 0x01 0 data else if 2 < b.lvl then s4.recordAll l.place.packages 0x01 data else s4
  { s5 with nonce := s5.nonce + 2097152 * (1 + l.place.modules) }.wakeProgs

/-- The seal buffers of a SEAL, as its own release leaves the counters (R322). -/
def State.writeSeals (s : State) (b : Bell) : State :=
  let bump (t : Thread) : Thread := { t with ss := (List.range (b.lvl + 1)).foldl (fun (x : Tab Word) i => Tab.upd x i (fun v => v + 1#64)) t.ss }
  let ks := dedup ((s.atInst b.lid b.lvl b.inst).map Prod.fst)
  let s1 := (ks.foldl (fun a k => a.updTile k (fun t => { t with threads := t.threads.each (fun i x => if i < 8 then bump x else x) })) s).setLists b
  let rd (k i : Nat) : Nat := match (s.thread k i).arr with
    | some a => a.rd
    | none => 0
  let n := (s.rinOf (s.launch b.lid).podSeal).toNat
  ks.foldl (fun a k => (a.layBuffer k n (s1.sealBuffer k (rd k))).updTile k (fun t => { t with sealBuf := s1.sealBuffer k (rd k) })) s

/-- R339: power that the rise of a release asks for beyond what the launch's tiles draw, in mW. -/
def State.rampNeed (s : State) (lid : Nat) : Nat := 84 * (s.tilesOf lid).length - Config.measuredPower s.nonce lid

/-- A module bell release is a request to the ramp limiter (R339); a held one waits for its tick. -/
def State.requestRelease (s : State) (b : Bell) : State :=
  let hold := bit (s.mgMod.get 0x100) 0
  if decide (b.lvl ≠ 3) || !hold || (s.rampHeld.isEmpty && s.rampNeed b.lid == 0) then s.release b
  else
    let c := s.cyc
    { s.updBell b.lid b.lvl b.inst (fun y => { y with phase := 5, upto := c }) with
      rampHeld := s.rampHeld ++ [(8 * b.lid + b.lvl, c, if s.rampHeld.isEmpty then s.rampNeed b.lid + 1 else 0)], nonce := s.nonce + 1 }

/-- Every transaction of the exchange that left for a peer has its status (R264). -/
def State.peersDone (s : State) (b : Bell) : Bool := (s.inExchange b.lid b.lvl b.inst (fun x =>
  (x.kind.isDep || x.kind == .cfire) && x.sent && decide (x.scope ≤ b.lvl))).isEmpty

/-- Nothing of a launch runs on a tile any more (R330): its threads have halted, both matrix queues are empty, no copy runs, and every
transfer has reached its final state. -/
def State.tileQuiet (s : State) (lid k : Nat) : Bool :=
  let t := s.tile k
  (s.launch lid).threads.all (fun i => (t.threads.get i).halted && (t.copies.get i).isEmpty) && t.mq.isEmpty && t.mqFill.isEmpty &&
    s.xfers.all (fun e => match e.2 with
      | some x => x.lid != lid || x.tile != k || x.final
      | none => true)

/-- A tile has retired for a launch; a filler's tile, when nothing of the filler runs on it. -/
def State.retiredFor (s : State) (lid k : Nat) : Bool := if (s.launch lid).isFiller then s.tileQuiet lid k else (s.tile k).retired

/-- A group whose tiles have retired and whose final exchange has ended reports 4 cy later (R332, Table 18.1). -/
def State.askReport (s : State) (lid g : Nat) : State :=
  let ks := (s.tilesOf lid).filter (fun k => groupOf k == g)
  if !(s.launch lid).grpDone.contains g && ks.all (s.retiredFor lid) &&
      !s.bells.any (fun b => b.isFinal && b.lid == lid && instOf b.lvl (16 * g) == b.inst) then
    s.schedule (s.cyc + 4) (.completionReport lid 0 g)
  else s

/-- A final exchange has ended: its groups may report (R331, R332). -/
def State.endFinal (s : State) (b : Bell) : State :=
  (dedup ((s.atInst b.lid b.lvl b.inst).map (fun m => groupOf m.1))).foldl (fun a g => a.askReport b.lid g) (s.dropBell b.lid b.lvl b.inst)

/-- The commit step of a launch's SEAL: its domain's interval is committed, what a save seal's cut holds of it has served its use, and the
release bell follows (R319, R321). -/
def State.commitSeal (s : State) (b : Bell) : State :=
  let c := s.cyc
  let l := s.launch b.lid
  let s1 := ({ s with cut := s.cutBut b.lid }.writeSeals b).commit l.podSeal
  ((s1.updBell b.lid b.lvl b.inst (fun y => { y with phase := 3, upto := c + l.bellTime b.lvl })).schedule (c + l.bellTime b.lvl)
    (.bellRelease b.lid b.lvl b.inst)).toll b.lid b.lvl

/-- The commit and the release of an exchange (R249, R321). A rollback of the domain that has begun keeps the commit from being made
(Table 17.3). -/
def execBellRelease (lid lvl inst : Nat) (s : State) : Out :=
  match s.bellAt lid lvl inst with
  | none => .next s
  | some b =>
    if s.cyc < b.upto ∨ (b.phase ≠ 2 ∧ b.phase ≠ 3) ∨ !s.peersDone b then .next s
    else if b.isFinal then .next (s.endFinal b)
    else if b.phase = 2 then .next (if s.rollingDomain (s.launch lid).podSeal then s else s.commitSeal b)
    else .next (s.requestRelease b)

/-! ## Aborts (R251) -/

def execAbort (a : BitVec 5) (s : State) : Out :=
  s.guarded [s.chkW a] fun s =>
    .next ((s.updThr (fun t => { t with abort := { code := (s.readW a).setWidth 16, origin := t.ident.tile.setWidth 32, ps := 0 } })).retire)

def execAclr (s : State) : Out := .next ((s.updThr (fun t => { t with abort := { t.abort with code := 0#16 }, abt := 0#64 })).retire)

/-! ## SEAL (R320, R321) -/

/-- The oldest resident pair of octets is spilled as WSAVE does, in 4 own slots; the SEAL stays at Q0 meanwhile. Every octet that it will
spill is checked before the first is (R7). -/
def State.sealSpill (s : State) : Out :=
  let t := s.thr
  let lo1 := (t.lo + 1) % 12
  s.guarded ((List.range ((t.resident - 3) / 2 * 2)).map (fun i => s.chkOctet ((t.lo + i) % 12))) fun s =>
    let a := spillSlot s.curThread t.depth
    let bs := spread a (s.octetBytes t.lo ++ s.octetBytes lo1)
    if s.noRoom s.curTile (s.newTileLines s.curTile [(a, 128)]).length then .next s.stallLog
    else
      .next (((s.storeTileAt s.curTile 0 bs).updThr (fun x =>
        (({ x with lo := (t.lo + 2) % 12, depth := t.depth + 1 }.dropOctet t.lo).dropOctet lo1))).holdUntil (s.cyc + 4 * t.rot))

/-- The causes for which SEAL is ILLEGAL (R320). -/
def State.sealBad (s : State) : Bool :=
  let t := s.thr
  s.curThread == 8 || isProctor s.curTile ||
  (t.recov && ((List.range 4).any (fun j => t.nest.act.get j) || decide (16 < t.depth + (t.resident - 3) / 2)))

def execSeal (d : BitVec 5) (s : State) : Out :=
  let t := s.thr
  let k := s.curTile
  let lv := (s.launchOf k s.curThread).sealLevel
  if s.sealBad then .next (s.takeTrap ⟨Cause.illegal, s.thisWord⟩)
  else if t.recov then
    if 5 ≤ t.resident then s.sealSpill
    else s.beforeArrival ((s.xfersOf k s.curThread).any (fun e => e.2.kind == .get && !e.2.final)) (!(s.mqueue k 0).isEmpty) fun s =>
      .next (s.arrive lv 0 0#64 d.toNat true)
  else s.beforeArrival false false fun s => .next (s.arrive lv 0 0#64 d.toNat false)

/-! ## Named barriers (R256) -/

/-- Every primary thread of a tile has halted. -/
def State.tileHalted (s : State) (k : Nat) : Bool :=
  match (s.tile k).prim with
  | some l => (List.range (s.launch l).nthr).all (fun i => (s.thread k i).halted)
  | none => false

/-- A generation's arrivals are complete: 4 cy later, or 4 cy after the one before it, it completes. -/
def State.checkBarrier (s : State) (g id : Nat) : State :=
  let b := (s.group g).barriers.get id
  let tiles := (List.range 16).map (fun i => 16 * g + i)
  let here (k : Nat) : Bool := decide (b.done < (s.tile k).barCount.get id)
  let named := b.masks.get b.done
  if !b.due && tiles.any here && (List.range 16).all (fun i => !named.getLsbD i || here (16 * g + i) || s.tileHalted (16 * g + i)) then
    (s.updGroup g (fun x => { x with barriers := x.barriers.upd id (fun y => { y with due := true }) })).schedule
      (max s.cyc b.lastDone + 4) (.barrierGenerationComplete g id)
  else s

def execBara (a : BitVec 5) (i : BitVec 3) (s : State) : Out :=
  let k := s.curTile
  let g := groupOf k
  let id := i.toNat
  if s.curThread = 8 ∨ isProctor k then .next (s.takeTrap ⟨Cause.illegal, s.thisWord⟩)
  else s.guarded [s.chkW a] fun s =>
    let n := (s.tile k).barCount.get id
    if ((s.group g).barriers.get id).done + 2 ≤ n then .next (s.stallCounted 0)
    else
      let m : Mask := (s.readW a).setWidth 16
      let s1 := (s.updGroup g (fun x => { x with barriers := x.barriers.upd id (fun y => { y with masks := y.masks.upd n (fun o => o ||| m) }) })).updTile k
        (fun x => { x with barCount := x.barCount.set id (n + 1) })
      .next (s1.retire.checkBarrier g id)

/-- A generation completes; threads that wait for it go on, and the next generation is looked at. -/
def execBarrierGenerationComplete (g id : Nat) (s : State) : Out :=
  let b := (s.group g).barriers.get id
  if b.due then
    let c := s.cyc
    let s1 := s.updGroup g (fun x => { x with barriers := x.barriers.set id { b with done := b.done + 1, due := false, lastDone := c, masks := b.masks.del b.done } })
    let s2 := (List.range 16).foldl (fun a i => (List.range 8).foldl (fun e t =>
      let x := e.thread (16 * g + i) t
      match x.wait with
      | .barrier j n =>
        if j = id ∧ n ≤ b.done then (e.updThread (16 * g + i) t (fun y => y.addWait 0 (y.waited c))).wake (16 * g + i) t (some 0) else e
      | _ => e) a) s1
    .next (s2.checkBarrier g id)
  else .next s

def execBarw (i : BitVec 3) (s : State) : Out :=
  let k := s.curTile
  let n := (s.tile k).barCount.get i.toNat
  if s.curThread = 8 ∨ isProctor k then .next (s.takeTrap ⟨Cause.illegal, s.thisWord⟩)
  else if n ≤ ((s.group (groupOf k)).barriers.get i.toNat).done then .next s.retire
  else .next (s.retire.enterWait (.barrier i.toNat (n - 1)))

/-! ## TSYNC (R257) -/

/-- When every primary thread that has not halted waits at TSYNC, each goes on from the next cycle. -/
def State.checkTsync (s : State) (k : Nat) : State :=
  let ts := (List.range 8).filter (fun i => (s.thread k i).live && !(s.thread k i).halted)
  if !ts.isEmpty && ts.all (fun i => (s.thread k i).wait == .tsync) then
    let c := s.cyc
    ts.foldl (fun a i => ((a.updThread k i (fun x => { x.addWait 0 (x.waited c) with notBefore := max x.notBefore (c + 1) })).wake k i (some 0))) s
  else s

def execTsync (s : State) : Out :=
  if s.curThread = 8 then .next s.retire else .next ((s.retire.enterWait .tsync).checkTsync s.curTile)

end Sys2Proof.Machine
end

