-- ==== Sys2Proof/Machine/Proctor.lean ====
section
/-!
DEFINITION. Proctors (chapter 16): the mailbox and its messages (R302, R303), TICKs (R298, R300), replies and what they do to a held
item (R304, R305, Table 16.6), and the privileged words MBXRD, MBXPOST, XRESUME, UNPARK, GSTOP and IDLE (R306).
-/

namespace Sys2Proof.Machine

/-! ## Messages (Table 16.3) -/

/-- A message as it stands in memory, 32 bytes. -/
def messageBytes (m : Message) : List Byte :=
  [m.kind, m.flags].flatMap (bytesOfNat 1) ++ [m.source, m.ctx].flatMap (bytesOfNat 2) ++ [m.unit, m.detail].flatMap (bytesOfNat 1) ++
  [m.value, m.location].flatMap (fun w => bytesOfNat 8 w.toNat) ++ [m.item, m.ticket].flatMap (bytesOfNat 4)

/-- Rank of a message's poster among those of one cycle: tiles, then die stream engines, then package stream engines (R302). -/
def posterRank (m : Message) : Nat :=
  if m.unit = 4 ∧ m.kind ≠ 8 then 100000 + m.source % 16
  else if m.unit = 5 ∧ m.kind ≠ 8 then 200000 + m.source % 16
  else m.source % 4096

/-- Messages that a mailbox holds (R302). -/
def mailboxSize : Nat := 1024

/-- The proctor threads of a die, proctor 0 first. -/
def proctorThreads (d : Nat) : List (Nat × Nat) :=
  [262144 + 2 * d, 262145 + 2 * d].flatMap (fun k => (List.range 8).map (fun t => (k, t)))

/-- The oldest message is popped in cycle `c` into T[a, 32] of proctor thread (k, t), whose register takes 2^63 + the messages left; a held
poster's message then enters (R302, R306). -/
def State.popInto (s : State) (k t a rd c : Nat) : State :=
  let d := dieOf k
  match (s.die d).mailbox with
  | [] => s
  | m :: rest =>
    let waiting := (s.die d).waiting
    let s1 := s.updDie d (fun x => { x with mailbox := rest ++ waiting.take 1, waiting := waiting.drop 1 })
    let v : Word := 0x8000000000000000#64 + word (rest ++ waiting.take 1).length
    (s1.poke (.tile k) a (messageBytes m)).updThread k t (fun x =>
      let y := { x with wait := .none, retained := false, notBefore := max x.notBefore (c + 12) }
      if rd = 0 then y else y.push c 0 (y.phys rd) (c + 12) (v.setWidth 512))

/-- Threads of proctor `n` that wait in MBXRD take messages while there are any, in order of waiting (R306). Proctor 1's take theirs after proctor
0's words of the cycle, which take the older messages (R302). -/
def State.serveMailbox (s : State) (d n : Nat) : State :=
  (sortBy (fun e => (s.thread e.1 e.2).waitFrom) ((proctorThreads d).filter (fun e => e.1 % 2 == n))).foldl (fun a e =>
    match (a.thread e.1 e.2).wait with
    | .mailbox addr rd => if (a.die d).mailbox.isEmpty then a else a.popInto e.1 e.2 addr rd a.cyc
    | _ => a) s

/-- Threads of a die that wait in IDLE look again. -/
def State.wakeIdle (s : State) (d : Nat) : State :=
  (proctorThreads d).foldl (fun a e =>
    match (a.thread e.1 e.2).wait with
    | .idle _ => a.schedule a.cyc (.idleWake e.1 e.2 (a.thread e.1 e.2).waitFrom)
    | _ => a) s

/-- R302: a message enters the mailbox, or its poster holds it while the mailbox is full. Messages of one cycle enter in ascending
source order. -/
def execMailboxArrival (d : Nat) (msg : Message) (s : State) : Out :=
  let before := s.events.any (fun e => decide (e.1 ≤ s.cyc) && (match e.2 with
    | .mailboxArrival d' m => d' == d && decide (posterRank m < posterRank msg)
    | _ => false))
  if before then .next (s.schedule s.cyc (.mailboxArrival d msg))
  else
    let s1 := s.updDie d (fun x =>
      if x.mailbox.length < mailboxSize then { x with mailbox := x.mailbox ++ [msg] } else { x with waiting := x.waiting ++ [msg] })
    .next ((s1.serveMailbox d 0).wakeIdle d)

/-- Every agent has had its turn in this cycle: proctor 1's waits in MBXRD take what has arrived and is left (R302, R306), and flits that reach
their links enter them (R273). -/
def State.endCycle (s : State) : State :=
  (s.dies.foldl (fun a e => if e.2.mailbox.isEmpty then a else a.serveMailbox e.1 1) s).flush

/-- R306: IDLE ends when the mailbox is not empty or the wake time has come. -/
def execIdleWake (k t since : Nat) (s : State) : Out :=
  let x := s.thread k t
  match x.wait with
  | .idle u =>
    if x.waitFrom = since ∧ ((s.die (dieOf k)).mailbox ≠ [] ∨ (u ≠ 0 ∧ u ≤ s.cyc)) then .next (s.wake k t none) else .next s
  | _ => .next s

/-! ## TICK (R298, R300) -/

/-- A pending TICK ends an SWAIT that may take it (R126). -/
def State.tickSwait (s : State) (k t : Nat) : State :=
  let x := s.thread k t
  match x.wait with
  | .swait _ _ =>
    if decide (0 < x.ticks) && x.tie && !x.inTrap && !x.stopped && !(s.tile k).parked then s.wake k t none else s
  | _ => s

/-- A posted TICK becomes pending in each thread of the mask that runs; it merges with one already pending (R300). -/
def execTickArrival (k mask : Nat) (s : State) : Out :=
  let n := (s.launchOf k 0).nthr
  .next ((List.range 8).foldl (fun a t =>
    if mask.testBit t && (s.tile k).prim.isSome && decide (t < n) && !(s.thread k t).halted then
      (a.updThread k t (fun x => { x with ticks := x.ticks + 1 })).tickSwait k t
    else a) s)

/-- A pending TICK is taken in an own slot, before the instruction at Q0 (R298). -/
def execTickTaken (k t : Nat) (s : State) : Out :=
  let s1 := { s with curTile := k, curThread := t }
  let x := s1.thr
  if 0 < x.ticks ∧ x.tie = true ∧ x.inTrap = false then
    .next ((s1.takeTrap ⟨Cause.tick, word (min x.ticks 0xFFFF)⟩).updThr (fun y => { y with ticks := 0 }))
  else .next s

/-! ## Privileged words: common checks (R306) -/

/-- PRIV outside system mode, with the word in tval (Table 16.1). -/
def State.privCheck (s : State) : Option TrapReq := trapIf (!s.thr.sys) Cause.priv s.thisWord

/-- The checks of a descriptor or buffer address. -/
def State.descChecks (s : State) (v : Word) : List (Option TrapReq) :=
  [ trapIf (decide (field v 63 19 ≠ 0 ∨ 393216 < v.toNat + 32)) Cause.taddr v
  , trapIf (decide (v.toNat % 32 ≠ 0)) Cause.align v
  , (s.firstReserved s.curTile v.toNat 32).map (fun _ => ⟨Cause.spillProt, v⟩) ]

/-- The address passes its checks, so that the descriptor can be read. -/
def State.descOk (s : State) (v : Word) : Bool := (lowest (s.descChecks v)).isNone

/-- A word of proctor 1 takes its message after those of its proctor's threads that wait already. -/
def execMbxrd (d : BitVec 5) (w : BitVec 1) (s : State) : Out :=
  let a := s.readW d
  s.guarded (s.privCheck :: s.chkW d :: s.descChecks a) fun s =>
    let k := s.curTile
    let c := s.cyc
    let s := if k % 2 = 0 then s else s.serveMailbox (dieOf k) 1
    if !(s.die (dieOf k)).mailbox.isEmpty then .next (s.retire.popInto k s.curThread a.toNat d.toNat c)
    else if w = 0#1 then .next ((s.writeW d 12 0#64).retire.holdUntil (c + 12))
    else .next (s.retire.enterWait (.mailbox a.toNat d.toNat))

/-- Bytes `i` to `j` of the descriptor at `a` are 0. -/
def State.zeroes (s : State) (a i j : Nat) : Bool := (s.tbytes (a + i) (j + 1 - i)).all (fun b => b == 0#8)

/-- R306, Table 16.8. A PEER message carries the whole 24-byte payload (R368). -/
def execMbxpost (a : BitVec 5) (s : State) : Out :=
  let v := s.readW a
  let p := v.toNat
  let rd (o n : Nat) : Nat := s.num (.tile s.curTile) (p + o) n
  let kind := rd 0 1
  let dest := rd 2 2
  let bad := decide (kind ≠ 1 ∧ kind ≠ 2) || !s.zeroes p 4 7 ||
    (if kind = 1 then decide (4096 ≤ dest) || !s.zeroes p 8 31 else decide (64 ≤ dest) || !s.zeroes p 1 1)
  s.guarded (s.privCheck :: s.chkW a :: s.descChecks v ++ [trapIf (s.descOk v && bad) Cause.illegal v]) fun s =>
    let k := s.curTile
    let d := dieOf k
    if kind = 1 then .next (s.retire.schedule (s.cyc + 20) (.tickArrival (4096 * d + dest) (rd 1 1)))
    else
      let home := 8 * (dest % 8) + dest / 8
      let msg : Message := { (default : Message) with
        kind := 8, source := d / 8 + 8 * (d % 8) + 64 * (k % 2), value := word (rd 8 8), location := word (rd 16 8), item := rd 24 4, ticket := rd 28 4 }
      .next (s.retire.post home (if home / 8 = d / 8 then 64 else 180) msg)

def execIdle (a : BitVec 5) (s : State) : Out :=
  s.guarded [s.privCheck, s.chkW a] fun s =>
    let u := (s.readW a).toNat
    let k := s.curTile
    let c := s.cyc
    if !(s.die (dieOf k)).mailbox.isEmpty || decide (u ≠ 0 ∧ u ≤ c) then .next s.retire
    else
      let s1 := s.retire.enterWait (.idle u)
      .next (if u = 0 then s1 else s1.schedule u (.idleWake k s.curThread c))

/-! ## Replies (R305, Tables 16.5 and 16.6) -/

/-- A reply descriptor. -/
structure Reply where
  action : Nat
  code : Nat
  ticket : Nat
  sub : Word
  tile : Nat
  /-- Every reserved byte is 0. -/
  clean : Bool
  deriving DecidableEq, Repr

def State.reply (s : State) (a : Nat) : Reply :=
  let rd (o n : Nat) : Nat := s.num (.tile s.curTile) (a + o) n
  { action := rd 0 1, code := rd 2 2, ticket := rd 4 4, sub := word (rd 8 8), tile := rd 0x10 2
    clean := s.zeroes a 1 1 && s.zeroes a 0x12 0x1F && decide (rd 0x10 2 < 4096) && decide (rd 4 4 = 0 ∨ rd 0x10 2 = 0) }

/-- A substitute that Table 16.5 and R306 admit for a source value, a scale code or an element code. -/
def subOk (scale value : Bool) (v : Word) : Bool :=
  if value then decide (field v 63 32 = 0 ∧ field v 30 23 ≠ 255)
  else decide (field v 63 8 = 0) && (v != if scale then 255#64 else 0x80#64)

/-- R306: what the fields of a reply must satisfy whatever its item. -/
def Reply.wellFormed (r : Reply) : Bool :=
  r.clean && decide (r.action ≤ 2) && (decide (r.action = 2) == decide (r.code ≠ 0)) && (decide (r.action = 1) || r.sub == 0#64)

/-- UNPARK accepts the reply. -/
def State.unparkOk (s : State) (d : Nat) (r : Reply) : Bool :=
  r.wellFormed &&
  (if r.ticket = 0 then decide (r.action = 2) && (s.tile (4096 * d + r.tile)).prim.isSome
   else match (s.die d).held.get r.ticket with
     | .tile _ _ _ kind _ _ scale value => decide (r.action ≠ 1) || (decide (kind = 1) && subOk scale value r.sub)
     | _ => false)

/-- XRESUME accepts the reply. -/
def State.xresumeOk (s : State) (d : Nat) (r : Reply) : Bool :=
  r.wellFormed && decide (r.ticket ≠ 0) &&
  (match (s.die d).held.get r.ticket with
   | .xfer _ kind _ scale value => decide (r.action ≠ 1) || (decide (kind = 1) && subOk scale value r.sub)
   | .prog _ _ kind _ scale value => decide (r.action ≠ 1) || (decide (kind = 1) && subOk scale value r.sub)
   | _ => false)

/-- A thread takes an abort code: origin its own tile, ps 0; it replaces a pending code only when it is higher (R305). -/
def Thread.takeCode (t : Thread) (code : Nat) : Thread :=
  if t.live && !t.halted && decide (t.abort.code.toNat < code) then
    { t with abort := { code := BitVec.ofNat 16 code, origin := t.ident.tile.setWidth 32, ps := 0 } }
  else t

/-- The threads of a tile that take a code: the primary ones, or the filler for an item of its own. -/
def Tile.takeCode (t : Tile) (filler : Bool) (code : Nat) : Tile :=
  { t with threads := t.threads.each (fun i x => if (i == 8) == filler then x.takeCode code else x) }

/-- An item's tile, where the launch runs or, while it is saved, in its save area (R308). -/
def State.onTile (s : State) (lid k : Nat) (f : Tile → Tile) : State :=
  if (s.launch lid).state = .saved then
    ({ s with saves := s.saves.map (fun a =>
        if a.lid = lid then { a with tiles := a.tiles.map (fun e => if e.1 = k then (e.1, f e.2) else e) } else a) } : State).laySave lid
  else s.updTile k f

/-- Where a substitute goes in a parked tile (R42): to the instruction at the thread's Q0, or to the held matrix command. -/
def Tile.supply (t : Tile) (thread unit place : Nat) (v : Word) : Tile :=
  if unit = 2 then t.setQueue (ownerOf thread) ((t.queue (ownerOf thread)).map (fun c => if c.stage = 5 then { c with subst := ⟨place, v⟩ :: c.subst } else c))
  else { t with threads := t.threads.upd thread (fun x => { x with subst := ⟨place, v⟩ :: x.subst }) }

/-- The instruction that a stopped thread saved as epc0 will issue annulled (R116, Table 16.6). -/
def Thread.skip (t : Thread) : Thread :=
  if t.nested.isSome then { t with trap := { t.trap with tstat := t.trap.tstat ||| 1#64 } } else { t with n0 := true }

/-- The held command of a queue and those after it. -/
def fromHeld (q : List MCmd) : List Nat := (q.dropWhile (fun c => c.stage != 5)).map MCmd.id

/-- Another item of the die holds this tile's threads. -/
def State.stillHeld (s : State) (d lid k : Nat) (filler : Bool) : Bool :=
  (s.die d).held.any (fun e => match e.2 with
    | .tile l j t _ _ _ _ _ => l == lid && j == k && ((t == 8) == filler)
    | _ => false)

/-- A held command of a queue goes on. -/
def Tile.queueOn (t : Tile) (o : Nat) : Tile := t.setQueue o ((t.queue o).map (fun c => if c.stage = 5 then { c with stage := 0 } else c))

/-- A tile's park is over, the filler's or the primary's. -/
def Tile.unparked (t : Tile) (fill : Bool) : Tile := if fill then { t with fillParked := false } else { t with parked := false, ticket := 0 }

/-- The tile resumes at u + 32 and, where the reply is to its matrix engine's item, its engine goes on at u + 20; one saved meanwhile takes the
reply as recorded (R304, R306, R308). -/
def State.letGo (s : State) (d lid k : Nat) (filler engine : Bool) : State :=
  let o := if filler then 1 else 0
  if (s.launch lid).state = .saved then
    let again := s.stillHeld d lid k filler
    s.onTile lid k (fun t =>
      let t1 := if engine then t.queueOn o else t
      if again then t1 else t1.unparked filler)
  else
    let c := s.cyc
    let s1 := if engine && (s.mqueue k o).any (fun x => x.stage == 5) then s.schedule (c + 20) (.engineRetry 2 (2 * k + o)) else s
    if s.stillHeld d lid k filler then s1 else s1.schedule (c + 32) (.tileResume k o)

/-- Table 16.6 for a parked tile. -/
def State.replyTile (s : State) (d lid k thread kind unit place : Nat) (r : Reply) : State :=
  let filler := thread == 8
  let s1 :=
    if r.action = 1 then s.onTile lid k (fun t => t.supply thread unit place r.sub)
    else if r.action = 2 then
      let s2 := s.onTile lid k (fun t => t.takeCode filler r.code)
      if kind = 1 then s2.onTile lid k (fun t => t.supply thread unit place 0#64)
      else if kind = 2 then
        if (s.launch lid).state = .saved then
          s2.onTile lid k (fun t => t.setQueue (ownerOf thread) ((t.queue (ownerOf thread)).takeWhile (fun c => c.stage != 5)))
        else (fromHeld (s2.mqueue k (ownerOf thread))).foldl (fun a id => a.endCmd k (ownerOf thread) id) s2
      else s2.onTile lid k (fun t => { t with threads := t.threads.upd thread Thread.skip })
    else s
  s1.letGo d lid k filler (unit == 2 && decide (kind ≤ 2))

/-- A thread that started an engine's item, or every primary thread of the launch's tile 0, takes the code. -/
def State.codeTo (s : State) (lid k t code : Nat) : State :=
  s.onTile lid k (fun x => if t = 9 then x.takeCode (s.launch lid).isFiller code else { x with threads := x.threads.upd t (fun y => y.takeCode code) })

/-- A change of a transfer, or of its image in a save area. -/
def State.onXfer (s : State) (id : Nat) (f : Xfer → Xfer) : State :=
  match s.xfers.get id with
  | some _ => s.updXfer id f
  | none => { s with saves := s.saves.map (fun a => { a with xfers := a.xfers.map (fun e => if e.1 = id then (e.1, f e.2) else e) }) }

/-- The transfer, wherever it stands. -/
def State.findXfer (s : State) (id : Nat) : Xfer :=
  match s.xfers.get id with
  | some x => x
  | none => ((s.saves.flatMap SaveArea.xfers).find? (fun e => e.1 == id)).elim default Prod.snd

/-- A change of a stream program's run, or of its image in a save area. -/
def State.onProg (s : State) (run : Nat) (f : Prog → Prog) : State :=
  match s.pslotOf run with
  | some key => s.updProg key f
  | none => { s with saves := s.saves.map (fun a => { a with progs := a.progs.map (fun e => if e.2.run = run then (e.1, f e.2) else e) }) }

def State.findProg (s : State) (run : Nat) : Prog :=
  match s.pslotOf run with
  | some key => s.prog key
  | none => ((s.saves.flatMap SaveArea.progs).find? (fun e => e.2.run == run)).elim default Prod.snd

/-- Table 16.6 for a transfer or a stream program: the item keeps what the reply says of it, and its engine acts on that 20 cy later, or
at the restore of a saved launch (R308). A program that SESTOP has ended meanwhile takes nothing (R232). -/
def State.replyEngine (s : State) (it : HeldItem) (r : Reply) : State :=
  let c := s.cyc + 20
  let verdict := if r.action = 2 then 2 else 1
  let subst (place : Nat) (l : List Subst) : List Subst := if r.action = 1 then ⟨place, r.sub⟩ :: l else l
  match it with
  | .xfer id _ place _ _ =>
    let x := s.findXfer id
    let s1 := (s.onXfer id (fun v => { v with verdict := verdict, subst := subst place v.subst })).schedule c (.engineRetry 0 id)
    if r.action = 2 then s1.codeTo x.lid x.tile x.thread r.code else s1
  | .prog lid run _ place _ _ =>
    let p := s.findProg run
    if p.st ≠ 3 then s
    else
      let s1 := (s.onProg run (fun q => { q with verdict := verdict, subst := subst place q.subst })).schedule c (.engineRetry 1 run)
      if r.action = 2 then s1.codeTo lid p.tile p.thread r.code else s1
  | _ => s

def execUnpark (a : BitVec 5) (s : State) : Out :=
  let v := s.readW a
  let r := s.reply v.toNat
  let d := dieOf s.curTile
  s.guarded (s.privCheck :: s.chkW a :: s.descChecks v ++ [trapIf (s.descOk v && !s.unparkOk d r) Cause.illegal v]) fun s =>
    let s1 := s.retire
    if r.ticket = 0 then .next (s1.updTile (4096 * d + r.tile) (fun t => t.takeCode false r.code))
    else
      let s2 := s1.updDie d (fun x => { x with held := x.held.del r.ticket })
      match (s.die d).held.get r.ticket with
      | .tile lid k t kind unit place _ _ => .next (s2.replyTile d lid k t kind unit place r)
      | _ => .next s2

def execXresume (a : BitVec 5) (s : State) : Out :=
  let v := s.readW a
  let r := s.reply v.toNat
  let d := dieOf s.curTile
  s.guarded (s.privCheck :: s.chkW a :: s.descChecks v ++ [trapIf (s.descOk v && !s.xresumeOk d r) Cause.illegal v]) fun s =>
    let it := (s.die d).held.get r.ticket
    .next ((s.retire.updDie d (fun x => { x with held := x.held.del r.ticket })).replyEngine it r)

/-- R304: the threads that the park stopped reload their queues; each issues from this cycle on with its stall count passed and the wake of
R104 behind it. A
gang-stop that has reached them meanwhile keeps them stopped (R308). -/
def execTileResume (k fill : Nat) (s : State) : Out :=
  let tl := s.tile k
  if (if fill = 1 then tl.fillParked else tl.parked) then
    let c := s.cyc
    let s1 := s.updTile k (fun x => x.unparked (fill = 1))
    .next ((parkThreads (if fill = 1 then 8 else 0)).foldl (fun a t =>
      let x := a.thread k t
      if x.live && !x.halted && !x.stopped then
        ((a.updThread k t (fun y => { y.resumeLoad with notBefore := max y.notBefore c, stallDone := true, heldFrom := none })).requestFrom k t c).tickSwait k t
      else a) s1)
  else .next s

/-- A transfer that a reply lets go on goes on; one that it fails takes XLATE_FAIL (Table 16.6). -/
def State.answerXfer (s : State) (id : Nat) : State :=
  match s.xfers.get id with
  | none => s
  | some x => if x.verdict = 1 then (s.retryXfer id).nudgeBells else if x.verdict = 2 then (s.countHeld id).finish id 1 else s

/-- A program that a reply lets go on runs its command again; one that it fails ends (Table 16.6). -/
def State.answerProg (s : State) (run : Nat) : State :=
  match s.pslotOf run with
  | none => s
  | some key =>
    let c := s.cyc
    if (s.prog key).st ≠ 3 then s
    else if (s.prog key).verdict = 1 then s.updProg key (fun p => { p with st := 1, verdict := 0, due := c })
    else if (s.prog key).verdict = 2 then s.failProg key else s

/-- An engine goes on with a held item (R306): kind 0 a transfer, 1 a stream program's run, 2 a matrix queue (2 × tile + owner). -/
def execEngineRetry (kind id : Nat) (s : State) : Out :=
  match kind with
  | 0 => .next (s.answerXfer id)
  | 1 => .next (s.answerProg id)
  | 2 => .next ((s.updTile (id / 2) (fun t => t.queueOn (id % 2))).mxAdvance (id / 2) (id % 2))
  | _ => .next s

/-! ## GSTOP (R306, R307) -/

/-- Cycles of a gang-stop's broadcast: the bell of the smallest level that holds the placement (Table 16.9). -/
def State.stopTime (s : State) (lid : Nat) : Nat :=
  let ks := s.tilesOf lid
  let gs := (dedup (ks.map groupOf)).length
  let ds := (dedup (ks.map dieOf)).length
  let ps := (dedup (ks.map pkgOf)).length
  let l := s.launch lid
  l.bellTime (if l.top = 4 then 4 else if gs ≤ 1 then 0 else if ds ≤ 1 then 1 else if ps ≤ 1 then 2 else 3)

/-- A GSTOPPED message for a launch that has stopped, or for none (Table 16.4). -/
def State.postStopped (s : State) (d : Nat) (lid : Option Nat) : State :=
  s.post d 20 { (default : Message) with
    kind := 7, unit := 8, detail := if lid.isSome then 0 else 1, ctx := match lid with | some l => (s.launch l).ctx | none => 0 }

/-- GSTOP: a launch that another GSTOP holds, or is stopping, stays that one's (R306, R308). -/
def execGstop (a : BitVec 5) (s : State) : Out :=
  let v := s.readW a
  s.guarded [s.privCheck, s.chkW a, trapIf (decide (field v 63 12 ≠ 0)) Cause.illegal v] fun s =>
    let me := s.curTile
    let d := dieOf me
    let s1 := s.retire
    match (s.tile (4096 * d + v.toNat)).prim with
    | none => .next (s1.postStopped d none)
    | some lid =>
      .next ((s1.updLaunch lid (fun l => { l with stopper := if l.stopper.isSome then l.stopper else some me })).schedule (s.cyc + s.stopTime lid)
        (.gangStop lid (gstopCode me)))

/-- A launch held by this proctor's GSTOP resumes through a start broadcast; a launch that is not held is left alone. -/
def execGstopRelease (a : BitVec 5) (s : State) : Out :=
  let v := s.readW a
  s.guarded [s.privCheck, s.chkW a, trapIf (decide (field v 63 12 ≠ 0)) Cause.illegal v] fun s =>
    let me := s.curTile
    let s1 := s.retire
    match (s.tile (4096 * dieOf me + v.toNat)).prim with
    | none => .next s1
    | some lid =>
      let l := s.launch lid
      if l.state = .heldStop ∧ l.stopper = some me then
        .next ((s1.updLaunch lid (fun x => { x with stopper := none })).schedule (s.cyc + s.startTime lid) (.startBroadcast lid))
      else .next s1

end Sys2Proof.Machine
end

