-- ==== Sys2Proof/Machine/Preempt.lean ====
section
/-!
DEFINITION. Gang-stop, context save and restore (R307 to R312), save seals (R318, R319), and the stop that KILL makes (R334).
-/

namespace Sys2Proof.Machine

/-! ## Gang-stop (R307, R308) -/

/-- A completion tree's report, to the top level of a launch (Table 18.1). -/
def State.reportTime (s : State) (lid : Nat) : Nat := 4 + 20 + 64 + (if (s.launch lid).place.packages.length ≤ 1 then 0 else 180)

/-- A thread in SWAIT stops with its queue naming the SWAIT, which issues again (R308). -/
def Thread.unSwait (t : Thread) : Thread :=
  match t.wait with
  | .swait _ o =>
    if t.nested.isSome then
      { t with wait := .none
               trap := { t.trap with epc2 := t.trap.epc1, epc1 := t.trap.epc0, epc0 := zext 18 (word o)
                                     tstat := (t.trap.tstat &&& ~~~3#64) ||| ((t.trap.tstat &&& 1#64) <<< 1) } }
    else { t with wait := .none, q2 := t.q1, q1 := t.q0, q0 := BitVec.ofNat 18 o, n1 := t.n0, n0 := false, heldFrom := none }
  | _ => t

/-- A thread stops in its next own slot (Table 16.9, step 2). -/
def Thread.gangStop (t : Thread) : Thread := if t.live && !t.halted && !t.stopped then { t.unSwait.stopSave with stopped := true } else t

/-- A launch's threads stop. -/
def State.stopThreads (s : State) (lid why : Nat) : State :=
  let c := s.cyc
  ((s.membersOf lid).foldl (fun a m => a.updThread m.1 m.2 Thread.gangStop) s).updLaunch lid (fun l => { l with state := .stopping why, stopAt := c })

/-- A full region holds the result of an AMOR (R318). -/
def State.resultHeld (s : State) (x : Xfer) : Bool := s.regionFull && (x.goesOn 0).any (fun i => match i with | .e2eStatus _ _ _ => true | _ => false)

/-- An exchange that has passed its arrival bell runs to its release (R308), but for one that a full log holds at an application, in its write
half or with the result of an AMOR: the stop leaves it there (R319). Its members, which issue nothing until then, are stopped with the others. -/
def State.exchanging (s : State) (lid : Nat) : Bool :=
  s.bells.any (fun b => b.lid == lid && b.phase != 0 && b.phase != 6 && b.fullFrom.isNone && (s.inExchange lid b.lvl b.inst s.resultHeld).isEmpty)

/-- A start broadcast, or the first fetch after it, is on its way to a launch. -/
def State.resuming (s : State) (lid : Nat) : Bool := s.events.any (fun e => e.2 == .startBroadcast lid || e.2 == .firstFetch lid)

/-- A transfer that a gang-stop leaves as it is: final, held in the deposit area or for the proctor, a captured contribution (Table 16.9,
R295), or one whose landing a full region holds (R318). -/
def State.xferAtRest (s : State) (x : Xfer) : Bool :=
  x.final || decide (x.ticket ≠ 0) ||
  (match x.kind with
   | .get => (x.space == 5 && x.ready) || (s.regionFull && x.local_done)
   | .mlred => true
   | .mcast => true
   | .cfire => true
   | .amo _ _ _ => (x.ready && !x.sent) || s.resultHeld x
   | _ => x.ready && !x.sent)

/-- A look at the log's room by a copy, an MSTA or the landing of a transfer of a launch. -/
def State.looksFor (s : State) (lid : Nat) : Instr → Bool
  | .copyEnd k t => decide (16 ≤ t) && s.lidOf k (t % 16) == some lid
  | .mstaExecute k o id => s.lidOf k (8 * o) == some lid && (s.mqueue k o).any (fun c => c.id == id && c.stage == 6)
  | .getLand id => (s.xfer id).lid == lid && (s.xfer id).local_done
  | .e2eStatus id _ _ => (s.xfer id).lid == lid && s.resultHeld (s.xfer id)
  | _ => false

/-- The launch's engines have come to rest (Table 16.9, step 3), or stand where a full region holds them (R318, R319). -/
def State.atRest (s : State) (lid : Nat) : Bool :=
  let o := if (s.launch lid).isFiller then 1 else 0
  let full := s.regionFull
  (s.membersOf lid).all (fun m =>
    let x := s.thread m.1 m.2
    x.pend.all (fun p => decide (p.due ≤ s.cyc)) && x.wait != .fabric && x.wait != .poll &&
      (((s.tile m.1).copies.get m.2).isEmpty || (full && decide ((s.tile m.1).copyWait.get m.2 ≠ 0)))) &&
  (s.tilesOf lid).all (fun k => ((s.mqueue k o).takeWhile (fun c => c.stage != 5 && !(full && c.stage == 6))).isEmpty) &&
  !s.events.any (fun e => worksFor (s.tilesOf lid) (o == 1) e.2 && !(full && s.looksFor lid e.2)) && !s.exchanging lid &&
  s.xfers.all (fun e => match e.2 with
    | some x => x.lid != lid || s.xferAtRest x
    | none => true)

/-- What a full region holds of a launch looks no more until the launch goes on. -/
def State.dropLooks (s : State) (lid : Nat) : State := { s with events := s.events.filter (fun e => !s.looksFor lid e.2) }

/-- KILL stops and discards at once; its report follows (Table 18.2). A filler goes with its primary. -/
def State.killNow (s : State) (lid : Nat) : State :=
  let one (a : State) (l : Nat) : State := ((a.windowStatus l 8).stopThreads l 3).discardWork l 8
  ((s.fillersOf lid).foldl one (one s lid)).schedule (s.cyc + s.reportTime lid) (.killQuiesced lid)

/-- What a GSTOP's own event reports once it finds its launch stopped, or gone (R306): the die that asked gets the message. -/
def State.reportGstop (s : State) (code : Nat) (lid : Option Nat) : State :=
  if code / 100 = 0 then s else s.postStopped (dieOf (code / 100 - 1)) lid

/-- The stop has been reported (Table 16.9, step 4): pre-emption saves, GSTOP and a save seal hold. -/
def State.stopReported (s : State) (lid code : Nat) : State :=
  if code = 0 then
    let gs := s.groupsOf lid
    let t := saveTime ((List.range 8).map (fun p => saveBytes ((gs.filter (fun g => g / 2048 == p)).length) 0))
    s.schedule (s.cyc + t) (.contextSave lid)
  else (s.updLaunch lid (fun x => { x with state := .heldStop })).reportGstop code (some lid)

/-- A stop reaches a launch: `code` mod 100 is 0 pre-emption, 1 GSTOP, 2 save seal, 3 kill; 10 more is its look at the engines as they come to
rest (state `stopping why`), 20 more the report's arrival (state `stopping (why + 10)`); the hundreds say which proctor tile asks (`gstopCode`).
A stop that reaches a launch already stopped changes nothing (R308); a KILL of a member that is rolling back takes effect after the replay
(R326). -/
def execGangStop (lid code : Nat) (s : State) : Out :=
  let l := s.launch lid
  let why := code % 100
  let again : Out := .next (s.schedule (s.cyc + 1) (.gangStop lid code))
  if 20 ≤ why then .next (if l.state = .stopping (why - 10) then s.stopReported lid (code - 20) else s)
  else if 10 ≤ why then
    if l.state = .stopping (why - 10) then
      if s.atRest lid then
        .next (((s.dropLooks lid).updLaunch lid (fun x => { x with state := .stopping why })).schedule (s.cyc + s.reportTime lid) (.gangStop lid (code + 10)))
      else again
    else .next s
  else if why = 3 && s.members.contains lid && s.replaying l.podSeal then again
  else match l.state with
  | .running =>
    if why = 3 then .next (s.killNow lid)
    else if why = 0 ∧ (l.completed ∨ l.topDone) then .next s
    else
      let fs := if why = 0 then s.fillersOf lid else []
      .next ((fs.foldl (fun a f => a.schedule a.cyc (.gangStop f 0)) (if why = 0 then (s.stopThreads lid why).waitForFillers lid else s.stopThreads lid why)).schedule (s.cyc + 1) (.gangStop lid (code + 10)))
  | .stopping w =>
    if why = 3 then (if w = 3 then .next s else .next (s.killNow lid))
    else if w = 3 then .next (s.reportGstop code none)
    else if why = 1 ∧ 10 ≤ w ∧ w ≠ 11 then .next (s.reportGstop code (some lid))
    else again
  | .heldStop =>
    if why = 3 then .next (s.killNow lid)
    else if s.resuming lid then again
    else if why = 0 then
      let fs := s.fillersOf lid
      .next (fs.foldl (fun a f => a.schedule a.cyc (.gangStop f 0))
        (((s.updLaunch lid (fun x => { x with state := .stopping 10, stopper := none })).waitForFillers lid).stopReported lid 0))
    else .next (s.reportGstop code (some lid))
  | .starting => if why = 3 then .next (s.killNow lid) else again
  | .reserved => if why = 3 then .next (s.killNow lid) else again
  | .saved =>
    if why = 3 then .next ((s.discardWork lid 8).killed lid)
    else if why = 0 ∧ l.reports ≠ [] then again
    else .next (s.reportGstop code (some lid))
  | _ => .next (s.reportGstop code none)

/-! ## Context save (R309, R310) -/

/-- The parts of a tile that belong to its primary launch, taken from another image. -/
def Tile.withPrimary (t i : Tile) : Tile :=
  { i with filler := t.filler, threads := i.threads.set 8 (t.threads.get 8), mqFill := t.mqFill, fillWindows := t.fillWindows
           fillParked := t.fillParked, mNext := max t.mNext i.mNext
           acc := (List.range 64).foldl (fun (a : Tab Vec) n => Tab.set a (64 + n) (t.acc.get (64 + n))) i.acc
           copies := i.copies.set 8 (t.copies.get 8), copyWait := i.copyWait.set 8 (t.copyWait.get 8) }

/-- The parts that belong to its filler, taken from another image. -/
def Tile.withFiller (t i : Tile) : Tile :=
  { t with filler := i.filler, threads := t.threads.set 8 (i.threads.get 8), mqFill := i.mqFill, fillWindows := i.fillWindows
           fillParked := i.fillParked, mNext := max t.mNext i.mNext
           acc := (List.range 64).foldl (fun (a : Tab Vec) n => Tab.set a (64 + n) (i.acc.get (64 + n))) t.acc
           copies := t.copies.set 8 (i.copies.get 8), copyWait := t.copyWait.set 8 (i.copyWait.get 8) }

/-- A key lies in what a save of these tiles and groups keeps: all of tile SRAM, and group SRAM below 0x1C_0000 (Table 16.11). -/
def savedKey (ks gs : List Nat) (key : Nat) : Bool :=
  match keyKind key with
  | 0 => ks.contains (keyUnit key)
  | 1 => gs.contains (keyUnit key) && decide (keyOff key < 0x1C0000)
  | _ => false

/-- A reply to a tile of a launch that has been accepted and has not taken effect (R308). -/
def State.repliesFor (s : State) (lid : Nat) : Instr → Bool
  | .tileResume k o => s.lidOf k (8 * o) == some lid
  | .engineRetry 2 x => s.lidOf (x / 2) (8 * (x % 2)) == some lid
  | _ => false

/-- A launch as a save finds it: results that are due have landed, and replies accepted for its tiles are recorded (Table 16.9, R308). -/
def State.recorded (s : State) (lid : Nat) : State :=
  let c := s.cyc
  let s1 := (s.events.filter (fun e => s.repliesFor lid e.2)).foldl (fun a e => match e.2 with
    | .tileResume k o => a.updTile k (fun t => t.unparked (o = 1))
    | .engineRetry _ x => a.updTile (x / 2) (fun t => t.queueOn (x % 2))
    | _ => a) { s with events := s.events.filter (fun e => !s.repliesFor lid e.2) }
  (s1.membersOf lid).foldl (fun a m => a.updThread m.1 m.2 (Thread.land c)) s1

/-- The save area of a launch as it stands, recorded. -/
def State.saveArea (s : State) (lid : Nat) : SaveArea :=
  let l := s.launch lid
  let ks := s.tilesOf lid
  let gs := dedup (ks.map groupOf)
  { lid := lid, tiles := ks.map (fun k => (k, s.tile k))
    mem := if l.isFiller then [] else s.mem.filter (fun c => savedKey ks gs c.1)
    groups := gs.map (fun g => (g, s.group g))
    progs := s.progs.filter (fun e => e.2.lid == lid)
    xfers := s.xfers.filterMap (fun e => e.2.bind (fun x => if x.lid = lid then some (e.1, x) else none))
    logged := if l.isFiller then [] else (s.logged.keys).filter (fun n => savedKey ks [] (64 * n))
    marks := if l.isFiller then [] else l.touched
    pages := [] }

/-- The save ends: the launch leaves its tiles, and counts as the head of its queue again (R70, R72). -/
def execContextSave (lid : Nat) (s : State) : Out :=
  let l := s.launch lid
  match l.state with
  | .stopping 10 =>
    let s := s.recorded lid
    let a := s.saveArea lid
    let ids := a.xfers.map Prod.fst
    let s1 : State := { s with
      saves := s.saves ++ [a]
      progs := s.progs.filter (fun e => e.2.lid != lid)
      xfers := s.xfers.filter (fun e => !ids.contains e.1)
      logged := a.logged.foldl (fun (t : Tab Bool) n => Tab.set t n false) s.logged }
    let s2 := (s1.setStatus lid 7 0).freeTiles lid
    .next ((((s2.updLaunch lid (fun x => { x with state := .saved, preempted := true, reports := [], stopper := none })).takeAreas lid).laySave lid).freed lid)
  | _ => .next s

/-! ## Restore (R311) -/

/-- Cells written back, after the ranges they come from have been cleared. -/
def putCells (m : List Host.Cell) (cells : List Host.Cell) : List Host.Cell := cells.foldl (fun (a : List Host.Cell) c => Memory.put a c.1 c.2) m

/-- A copied page goes back to the tensor store. -/
def pageBack (m : List Host.Cell) (g : Nat × List Host.Cell) : List Host.Cell :=
  putCells (Memory.clear m ((Space.tensor (g.1 / 32768)).key (65536 * (g.1 % 32768))) 65536) g.2

/-- The restore ends: what the save area's bytes give, pages, memories, tiles, groups and programs stand as they were saved, and the start is broadcast. Programs wait
for their pslots. -/
def execContextRestore (lid : Nat) (s : State) : Out :=
  match s.saves.find? (fun v => v.lid == lid) with
  | none => .next s
  | some held =>
    let v := s.readSave held
    if (s.launch lid).state ≠ .saved then .next s
    else if v.progs.any (fun e => e.2.busy && (s.prog e.1).busy) then .next (s.schedule (s.cyc + 1) (.contextRestore lid))
    else
      let fl := (s.launch lid).isFiller
      let ks := v.tiles.map Prod.fst
      let gs := v.groups.map Prod.fst
      let mem := if fl then s.mem else putCells (v.pages.foldl pageBack (s.mem.filter (fun c => !savedKey ks gs c.1))) v.mem
      let s1 : State := { s with
        mem := mem
        saves := s.saves.filter (fun x => x.lid != lid)
        logged := v.logged.foldl (fun (t : Tab Bool) n => Tab.set t n true) s.logged
        progs := v.progs.foldl (fun (t : Tab Prog) e => if (s.prog e.1).busy then t else Tab.set t e.1 e.2) s.progs
        xfers := v.xfers.foldl (fun (t : Tab (Option Xfer)) e => Tab.set t e.1 (some e.2)) s.xfers }
      let s2 := v.tiles.foldl (fun a e =>
        if fl then a.updTile e.1 (fun t => t.withFiller e.2)
        else ((a.updTile e.1 (fun t => { (t.withPrimary e.2) with drainP := false, drainX := false })).startDrain e.1 0).startDrain e.1 1) s1
      let s3 := if fl then s2 else v.groups.foldl (fun a e => a.updGroup e.1 (fun g => { g with barriers := e.2.barriers })) s2
      let s4 := s3.updLaunch lid (fun l => { l with state := .heldStop, stopper := none, areas := [] })
      .next (s4.schedule (s.cyc + s4.startTime lid) (.startBroadcast lid))

/-! ## Going on after a stop -/

/-- A bell that a save seal held goes on. -/
def State.resumeBell (s : State) (b : Bell) : State :=
  let c := s.cyc
  match b.phase with
  | 0 => (s.schedule (c + (s.launch b.lid).bellTime b.lvl) (.arrivalBellDone b.lid b.lvl b.inst)).toll b.lid b.lvl
  | 6 => ((s.updBell b.lid b.lvl b.inst (fun x => { x with phase := 0 })).schedule (c + (s.launch b.lid).bellTime b.lvl)
      (.arrivalBellDone b.lid b.lvl b.inst)).toll b.lid b.lvl
  | 1 => s.schedule (max c b.upto) (.writeHalf b.lid b.lvl b.inst)
  | _ => s.schedule (max c b.upto) (.bellRelease b.lid b.lvl b.inst)

/-- A stopped thread goes on: it reloads its queue, unless its tile is parked, and may issue from this cycle on (R304, R311). -/
def State.resumeThread (s : State) (k t : Nat) : State :=
  let x := s.thread k t
  if x.live && !x.halted && x.stopped then
    let parked := if t = 8 then (s.tile k).fillParked else (s.tile k).parked
    let s1 := s.updThread k t (fun y => { (if parked then y else y.resumeLoad) with stopped := false, heldFrom := none })
    ((s1.primeThread k t s.cyc).tickSwait k t).lookAgain k t s.cyc
  else s

/-- The MSTAs of a queue that wait for room in the log look again. -/
def State.mstasAgain (s : State) (k o : Nat) : State :=
  ((s.mqueue k o).filter (fun c => c.stage == 6)).foldl (fun a c => a.schedule s.cyc (.mstaExecute k o c.id)) s

/-- A launch goes on after a stop or a restore: threads, matrix queues, programs, transfers with a recorded reply or a landing to end, and
bells. Its watchdog interval runs anew (R76). -/
def State.resumeLaunch (s : State) (lid : Nat) : State :=
  let c := s.cyc
  let o := if (s.launch lid).isFiller then 1 else 0
  let s1 := (s.membersOf lid).foldl (fun a m => a.resumeThread m.1 m.2) s
  let s2 := (s.tilesOf lid).foldl (fun a k => (a.mstasAgain k o).mxAdvance k o) s1
  let s3 : State := { s2 with progs := s2.progs.each (fun _ p => if p.lid = lid ∧ p.st = 2 then { p with st := 1, due := c } else p) }
  let s4 := s3.progs.foldl (fun a e => if e.2.lid = lid ∧ e.2.st = 3 ∧ e.2.verdict ≠ 0 then a.schedule c (.engineRetry 1 e.2.run) else a) s3
  let s5 := s4.xfers.foldl (fun a e => match e.2 with
    | some x => if x.lid = lid then (x.goesOn e.1).foldl (fun b i => b.schedule c i) a else a
    | none => a) s4
  let s6 := (s5.bells.filter (fun b => b.lid == lid)).foldl State.resumeBell s5
  (s6.updLaunch lid (fun l => { l with state := .running, preempted := false, progress := c, watched := false, stopper := none })).watch lid

/-! ## Save seals (R318, R319) -/

/-- The domain's members that stand on their tiles. -/
def State.placedMembers (s : State) : List Nat := s.members.filter (fun l => (s.launch l).state != .saved)

/-- A placed member has its module SYNC gathered and waiting for the save seal. -/
def State.atSealSync (s : State) (l : Nat) : Bool := s.bells.any (fun b => b.lid == l && b.phase == 6)

/-- The time of the save, and again of the restore, of every placed member. -/
def State.sealTime (s : State) (ms : List Nat) : Nat :=
  saveTime (ms.flatMap (fun l => (List.range 8).map (fun p => saveBytes (((s.groupsOf l).filter (fun g => g / 2048 == p)).length) 0)))

/-- What a save seal's cut keeps: the save of each placed member, that of each saved one, and the members' held stream writes and bells. -/
def State.takeCut (s : State) (ms : List Nat) : Cut :=
  let mine (l : Nat) : Bool := s.members.contains l
  { saves := ms.map (fun l => (s.recorded l).saveArea l) ++ s.saves.filter (fun v => mine v.lid), areas := []
    writes := s.streamWrites.filter (fun w => mine w.lid), bells := s.bells.filter (fun b => mine b.lid) }

/-- The saves of a cut's placed members are written out into the pools, each where it fits (R309, R319). -/
def State.layCut (s : State) (vs : List SaveArea) : State :=
  vs.foldl (fun a v => match a.areasFor v.lid with
    | some l => ({ a with cut := a.cut.map (fun w => { w with areas := w.areas ++ l.map (fun e => (v.lid, e)) }) } : State).layAreas v l
    | none => a) s

/-- An emergency seal's time is counted in wt.escr and not in the bells and counted waits that it interrupts (R13, R319). -/
def State.countEscrow (s : State) (l n : Nat) : State :=
  let s1 := (s.membersOf l).foldl (fun a m => a.updThread m.1 m.2 (fun t =>
    if t.halted then t else { t.addWait 4 n with
      spare := if t.wait.countedAtEnd then t.spare + n else t.spare, arr := t.arr.map (fun r => { r with at_ := r.at_ + n }) })) s
  { s1 with bells := s1.bells.map (fun b => if b.lid = l then { b with last := b.last + n, fullFrom := b.fullFrom.map (fun f => f + n), lateFrom := b.lateFrom.map (fun f => f + n) } else b) }

/-- The cut is taken and the interval of each domain that has members commits; the members go on after their restore. `why`: 1 requested, 2 emergency. -/
def State.sealCut (s : State) (ms : List Nat) (why : Nat) : State :=
  let t := s.sealTime ms
  let ready (l : Nat) : Nat := s.cyc + t + s.startTime l
  let ds := [false, true].filter (fun d => !(s.membersIn d).isEmpty)
  let s0 := s.recordAll (dedup (ds.flatMap s.domainPkgs)) 0x0A why
  let cut := s0.takeCut ms
  let s1 := ({ s0 with cut := some cut } : State).layCut (cut.saves.take ms.length)
  let s2 := s.members.foldl (fun a l => a.updLaunch l (fun x => { x with hadSeal := true })) (ds.foldl State.commit s1)
  ms.foldl (fun a l =>
    let b := if why = 2 then a.countEscrow l (ready l + 22 - (s.launch l).stopAt) else a
    if (s.launch l).stopper.isSome then b else b.schedule (ready l) (.startBroadcast l)) s2

/-- A save seal that a rollback of the other domain has called off: the members it has held go on, once they are held (Table 17.3). -/
def State.callOff (s : State) : State :=
  let mine (l : Nat) : Bool := (s.launch l).stopper.isNone && !s.resuming l
  let s1 := (s.placedMembers.filter (fun l => (s.launch l).state == .heldStop && mine l)).foldl (fun a l =>
    a.schedule (s.cyc + s.startTime l) (.startBroadcast l)) s
  let held (a : State) (l : Nat) : State := a.updLaunch l (fun x => { x with state := .heldStop })
  let late := s.placedMembers.filter (fun l => (s.launch l).state == .stopping 2 || (s.launch l).state == .stopping 12)
  if late.isEmpty then s1
  else (((late.filter s.atRest).foldl held s1)).schedule (s.cyc + 1) (.saveSeal 6)

/-- A save seal: 0 requested and 1 emergency at its start, 4 and 5 while the members stop, 2 and 3 when they have been saved, 6 called off. -/
def execSaveSeal (emergency : Nat) (s : State) : Out :=
  let ms := s.placedMembers
  match emergency with
  | 0 =>
    if s.sealAsked && !ms.isEmpty && ms.all s.atSealSync && ms.all (fun l => (s.launch l).state == .running) then
      .next ((ms.foldl (fun a l => a.schedule (s.cyc + s.stopTime l) (.gangStop l 2)) s).schedule (s.cyc + 1) (.saveSeal 4))
    else .next s
  | 1 => .next ((ms.foldl (fun a l => a.schedule (s.cyc + s.stopTime l) (.gangStop l 2)) s).schedule (s.cyc + 1) (.saveSeal 5))
  | 2 => .next (s.sealCut ms 1)
  | 3 => .next (s.sealCut ms 2)
  | 6 => .next s.callOff
  | n =>
    if ms.all (fun l => (s.launch l).state == .heldStop && !s.resuming l) then .next (s.schedule (s.cyc + s.sealTime ms) (.saveSeal (n - 2)))
    else .next (s.schedule (s.cyc + 1) (.saveSeal n))

/-- R318: a region that has been full for the emergency timeout has the registrar make an emergency save seal. -/
def execEmergencyTimeout (_p since : Nat) (s : State) : Out :=
  .next (if s.fullSince = some since then s.schedule s.cyc (.saveSeal 1) else s)

end Sys2Proof.Machine
end

