-- ==== Sys2Proof/Machine/Queue.lean ====
section
/-!
DEFINITION. What the registrar reads from HBM: launch records, images and seating plans (chapter 3) with the checks of R53, R55 and R65,
queue heads and entries (R57 to R62), and when a head is ready (R66, R69).
-/

namespace Sys2Proof.Machine

/-! ## Placements (R63 to R65) -/

/-- A placement field, and whether it breaks Table 4.6: a reserved kind, or a field that the kind does not use not 0. -/
def State.placementAt (s : State) (p ctx va : Nat) : Placement × Bool :=
  let b (o n : Nat) : Nat := s.ctxNum p ctx (va + o) n
  let pl : Placement := { kind := b 0 1, pkg := b 1 1, die := b 2 1, gx := b 4 1, gy := b 5 1, w := b 6 1, h := b 7 1, mask := b 8 8 }
  let rect := decide (pl.pkg = 0 ∧ pl.die = 0 ∧ pl.gx = 0 ∧ pl.gy = 0 ∧ pl.w = 0 ∧ pl.h = 0)
  (pl, decide (b 3 1 ≠ 0) || (match pl.kind with
    | 0 => decide (pl.mask ≠ 0)
    | 1 => !rect
    | 2 => !rect || decide (256 ≤ pl.mask)
    | 3 => !rect || decide (4294967296 ≤ pl.mask)
    | _ => true))

/-- A placement that R65 refuses, whatever launch names it. A pod is the pod seal domain as firmware has set it (MG.POD: first module and
count; DEDUCED, log entry 85). -/
def State.placeBad (s : State) (pl : Placement) (unused : Bool) : Bool :=
  let first := pl.mask % 65536
  let n := pl.mask / 65536 % 65536
  unused || (match pl.kind with
    | 0 => decide (pl.w = 0 ∨ pl.h = 0 ∨ 16 < pl.gx + pl.w ∨ 16 < pl.gy + pl.h ∨ 7 < pl.pkg ∨ 7 < pl.die)
    | 3 => !s.inPod || decide (n = 0 ∨ first < s.podFirst ∨ s.podFirst + s.podCount < first + n ∨ s.podModule < first ∨ first + n ≤ s.podModule)
    | _ => decide (pl.mask = 0))

/-- A group of this module lies in a placement. -/
def Placement.hasGroup (pl : Placement) (g : Nat) : Bool :=
  match pl.kind with
  | 0 => decide (g / 256 = 8 * pl.pkg + pl.die ∧ pl.gx ≤ g % 16 ∧ g % 16 < pl.gx + pl.w ∧ pl.gy ≤ g % 256 / 16 ∧ g % 256 / 16 < pl.gy + pl.h)
  | 1 => pl.mask.testBit (g / 256)
  | 2 => pl.mask.testBit (g / 2048)
  | _ => true

/-- The groups of a placement in a package. -/
def State.groupsIn (s : State) (p : Nat) (pl : Placement) : List Nat :=
  ((pl.groups s.podModule).map Prod.fst).filter (fun g => decide (g / 2048 = p))

/-! ## Seating plans (R54, R55) -/

def State.seatingAt (s : State) (p ctx va : Nat) : Seating :=
  let b (o n : Nat) : Nat := s.ctxNum p ctx (va + o) n
  { rank := b 0 1, unit := b 1 1, fmt := b 2 1, reserved := decide (b 3 5 ≠ 0 ∨ b 0x38 8 ≠ 0)
    dims := (List.range (min 4 (b 0 1))).map (fun d =>
      let o := 8 + 12 * d
      { extent := b o 4, granule := b (o + 4) 2, mode := b (o + 6) 1, slot := b (o + 7) 1, reserved := b (o + 8) 4 }) }

/-- Width and height of a unit in tiles (R64). -/
def unitSize (u : Nat) : Nat × Nat := match u with
  | 0 => (1, 1)
  | 1 => (4, 4)
  | 2 => (64, 64)
  | 3 => (512, 64)
  | _ => (4096, 64)

/-- Mesh axes that a mode names: X, Y (Table 3.8). -/
def modeAxes (m : Nat) : List Nat := match m with
  | 1 => [1]
  | 2 => [2]
  | 3 => [1, 2]
  | 4 => [1]
  | 5 => [2]
  | 6 => [1, 2]
  | _ => []

/-- A placement is a whole number of units (R55): dies make whole packages only where every die of a package is named. -/
def Placement.wholeUnits (pl : Placement) (u : Nat) : Bool :=
  decide (pl.grid.1 % (unitSize u).1 = 0 ∧ pl.grid.2 % (unitSize u).2 = 0) &&
  (pl.kind != 1 || u != 3 || (List.range 8).all (fun p => decide (pl.mask / 2 ^ (8 * p) % 256 = 0 ∨ pl.mask / 2 ^ (8 * p) % 256 = 255)))

/-- The list holds a number twice. -/
def repeats (l : List Nat) : Bool := decide ((dedup l).length ≠ l.length)

/-- R55, but for identity slots, which are unique over all plans of a record. -/
def Seating.good (t : Seating) (pl : Placement) : Bool :=
  !t.reserved && decide (1 ≤ t.rank ∧ t.rank ≤ 4 ∧ t.unit ≤ 4 ∧ t.fmt ≤ 11) && pl.wholeUnits t.unit &&
  t.dims.all (fun d => decide (1 ≤ d.extent ∧ 1 ≤ d.granule ∧ d.mode ≤ 6 ∧ (d.slot ≤ 7 ∨ d.slot = 255) ∧ d.reserved = 0)) &&
  !repeats (t.dims.flatMap (fun d => modeAxes d.mode))

/-- Identity slots that a plan names. -/
def Seating.slots (t : Seating) : List Nat := (t.dims.map SeatDim.slot).filter (fun x => decide (x ≤ 7))

/-- SeatDim(E, g, mode, ux, uy) of R55: offset and extent. -/
def SeatDim.seat (d : SeatDim) (mx my ux uy : Nat) : Nat × Nat :=
  let (n, i) := match d.mode with
    | 1 => (mx, ux)
    | 2 => (my, uy)
    | 3 => (mx * my, ux + mx * uy)
    | _ => (1, 0)
  let chunk := d.granule * ceilDiv d.extent (n * d.granule)
  (i * chunk, min chunk (d.extent - i * chunk))

/-- The offsets and extents of a tile at a grid position, by identity slot. -/
def seatsOf (plans : List Seating) (gw gh x y : Nat) : Tab (Word × Word) :=
  plans.foldl (fun t pl =>
    let w := (unitSize pl.unit).1
    let h := (unitSize pl.unit).2
    pl.dims.foldl (fun (t : Tab (Word × Word)) d =>
      if 7 < d.slot then t
      else
        let (off, ext) := d.seat (gw / w) (gh / h) (x / w) (y / h)
        Tab.set t d.slot (word off, word ext)) t) []

/-! ## Launch records (R51, R52) -/

/-- A launch record (Tables 3.5 and 3.6). -/
structure LaunchRecord where
  addr : Nat
  image : Nat
  entry : Nat
  ctl : BitVec 32
  place : Placement
  /-- The placement breaks Table 4.6. -/
  unused : Bool
  tag : Nat
  slots : BitVec 32
  /-- A reserved byte is not 0. -/
  reserved : Bool
  bfmtAt : Nat
  keyAt : Nat
  keyCount : Nat
  streamCount : Nat
  streamAt : Nat
  waits : List (Nat × Word)
  signals : List (Nat × Word)
  completion : Nat × Word
  deriving DecidableEq, Repr, Inhabited

/-- A launch record, at whatever address an entry names (R51; DEDUCED, log entry 83). -/
def State.recordAt (s : State) (p ctx va : Nat) : LaunchRecord :=
  let b (o n : Nat) : Nat := s.ctxNum p ctx (va + o) n
  let ev (o : Nat) : Nat × Word := (b o 8, word (b (o + 8) 8))
  let pl := s.placementAt p ctx (va + 0x10)
  { addr := va, image := b 0 8, entry := b 8 4, ctl := BitVec.ofNat 32 (b 0xC 4), place := pl.1, unused := pl.2, tag := b 0x20 8
    slots := BitVec.ofNat 32 (b 0x28 4), reserved := decide (b 0x13 1 ≠ 0 ∨ b 0x2E 2 ≠ 0 ∨ b 0xC0 64 ≠ 0), bfmtAt := b 0x30 8, keyAt := b 0x38 8
    keyCount := b 0x40 4, streamCount := b 0x44 4, streamAt := b 0x48 8
    waits := ([0, 1, 2, 3].map (fun i => ev (0x50 + 16 * i))).filter (fun e => decide (e.1 ≠ 0))
    signals := ([0, 1].map (fun i => ev (0x90 + 16 * i))).filter (fun e => decide (e.1 ≠ 0)), completion := ev 0xB0 }

def LaunchRecord.prio (r : LaunchRecord) : Nat := field r.ctl 31 26
def LaunchRecord.recover (r : LaunchRecord) : Bool := bit r.ctl 24
def LaunchRecord.seal (r : LaunchRecord) : Nat := field r.ctl 23 22
def LaunchRecord.nthr (r : LaunchRecord) : Nat := field r.ctl 12 9
def LaunchRecord.lcode (r : LaunchRecord) : Nat := field r.ctl 8 7
def LaunchRecord.grant (r : LaunchRecord) : Nat := field r.ctl 20 13

/-- The valid seating plans of a record. -/
def State.plansOf (s : State) (p ctx : Nat) (r : LaunchRecord) : List Seating :=
  ((List.range 4).filter (fun k => r.ctl.getLsbD (3 + k))).map (fun k => s.seatingAt p ctx (r.addr + 0x100 + 64 * k))

/-- The key table: key, peer module and tile address (R51). -/
def State.keysAt (s : State) (p ctx at_ n : Nat) : List (BitVec 32 × Nat × Nat) :=
  (List.range n).map (fun i =>
    let b (o n : Nat) : Nat := s.ctxNum p ctx (at_ + 16 * i + o) n
    (BitVec.ofNat 32 (b 0 4), b 4 2, b 8 4))
def State.keysOf (s : State) (p ctx : Nat) (r : LaunchRecord) : List (BitVec 32 × Nat × Nat) := s.keysAt p ctx r.keyAt r.keyCount

/-! ## Images (R43 to R45) -/

/-- A section: address of its first byte, size and entry count (Table 3.1). -/
def State.section_ (s : State) (p ctx img i : Nat) : Nat × Nat × Nat :=
  let b (o n : Nat) : Nat := s.ctxNum p ctx (img + 0x10 + 16 * i + o) n
  (img + b 0 8, b 8 4, b 12 4)

/-- Tile-data runs from an address up: tile address, length and where the bytes stand. -/
def State.runsFrom (s : State) (p ctx : Nat) : Nat → Nat → List (Nat × Nat × Nat)
  | 0, _ => []
  | n + 1, va =>
    let len := s.ctxNum p ctx (va + 4) 4
    (s.ctxNum p ctx va 4, len, va + 8) :: s.runsFrom p ctx n (va + 8 + 8 * ceilDiv len 8)

def State.runsIn (s : State) (p ctx : Nat) (x : Nat × Nat × Nat) : List (Nat × Nat × Nat) :=
  if x.2.1 = 0 then [] else s.runsFrom p ctx x.2.2 x.1

def State.runsOf (s : State) (p ctx img : Nat) : List (Nat × Nat × Nat) := s.runsIn p ctx (s.section_ p ctx img 1)

/-- B of Table 4.7. -/
def runBytes (l : List (Nat × Nat × Nat)) : Nat := l.foldl (fun n r => n + 8 + 8 * ceilDiv r.2.1 8) 0

/-- The window table: number and window. -/
def State.windowsIn (s : State) (p ctx : Nat) (x : Nat × Nat × Nat) : List (Nat × Window) :=
  if x.2.1 = 0 then []
  else (List.range x.2.2).map (fun i =>
    let b (o n : Nat) : Nat := s.ctxNum p ctx (x.1 + 16 * i + o) n
    (b 0 2, { (default : Window) with bank := b 2 2, size := b 4 4, count := b 8 4 }))
def State.windowsOf (s : State) (p ctx img : Nat) : List (Nat × Window) := s.windowsIn p ctx (s.section_ p ctx img 3)

/-- The command words of the image's stream programs. -/
def State.programsOf (s : State) (p ctx img : Nat) : List (List Word) :=
  let x := s.section_ p ctx img 4
  if x.2.1 = 0 then []
  else (List.range x.2.2).map (fun i =>
    let at_ := x.1 + s.ctxNum p ctx (x.1 + 16 * i) 4
    (List.range (s.ctxNum p ctx (x.1 + 16 * i + 4) 4)).map (fun j => word (s.ctxNum p ctx (at_ + 8 * j) 8)))

/-- Entry b of the bank format table that a record selects, given the image's section 2 (R45); 0 where the image has no such section. -/
def State.bankEntry (s : State) (p ctx bfmtAt : Nat) (x : Nat × Nat × Nat) (b : Nat) : Word :=
  if bfmtAt ≠ 0 then word (s.ctxNum p ctx (bfmtAt + 4 * b) 4)
  else if x.2.1 = 0 then 0#64 else word (s.ctxNum p ctx (x.1 + 4 * b) 4)

/-- A stream list entry (Table 12.5). -/
structure StreamEntry where
  kind : Nat
  pkg : Nat
  die : Nat
  engine : Nat
  slot : Nat
  prog : Nat
  g : List Word
  deriving DecidableEq, Repr, Inhabited

def State.streamsOf (s : State) (p ctx : Nat) (r : LaunchRecord) : List StreamEntry :=
  (List.range r.streamCount).map (fun i =>
    let b (o n : Nat) : Nat := s.ctxNum p ctx (r.streamAt + 64 * i + o) n
    { kind := b 0 1, pkg := b 1 1, die := b 2 1, engine := b 3 1, slot := b 4 1, prog := b 5 1
      g := (List.range 4).map (fun j => word (b (8 + 8 * j) 8)) })

def StreamEntry.pslot (e : StreamEntry) : Nat :=
  pslotKey (decide (e.kind = 1)) (if e.kind = 1 then e.pkg else 8 * e.pkg + e.die) e.engine e.slot

/-! ## The checks of R53 and R65 -/

/-- The first reason whose condition holds; 0 for none. -/
def firstReason : List (Bool × Nat) → Nat
  | [] => 0
  | (c, r) :: l => if c then r else firstReason l

/-- First reserved bank of a launch (Table 10.1). -/
def LaunchRecord.firstBank (r : LaunchRecord) (filler : Bool) : Nat := if r.recover && !filler then 328 else 368

/-- A byte of a section lies on a page that does not translate in this package, or may not be read (R43, R200). -/
def State.sectionAbsent (s : State) (p ctx : Nat) (x : Nat × Nat × Nat) : Bool :=
  (List.range (ceilDiv (x.1 % 4096 + x.2.1) 4096)).any (fun i => (s.ctxKey p ctx (x.1 / 4096 * 4096 + 4096 * i)).isNone)

/-- BADIMAGE: the header, the sections, the window table (R234) and the stream list (R237). What no condition of R53 names is accepted
(DEDUCED, log entry 83). -/
def State.badImage (s : State) (p ctx : Nat) (r : LaunchRecord) (filler : Bool) : Bool :=
  let img := r.image
  let b (o n : Nat) : Nat := s.ctxNum p ctx (img + o) n
  let xs := ((List.range 8).map (s.section_ p ctx img)).filter (fun x => decide (x.2.1 ≠ 0))
  let overlap := xs.any (fun x => decide (1 < (xs.filter (fun y => decide (x.1 < y.1 + y.2.1 ∧ y.1 < x.1 + x.2.1))).length))
  let limit := r.firstBank filler
  decide (img % 4096 ≠ 0 ∨ 281474976710656 ≤ img ∨ b 0 4 ≠ 0x4D49444B ∨ b 4 2 ≠ 1) ||
  xs.any (fun x => decide (x.1 < img + 256 ∨ img + b 8 8 < x.1 + x.2.1)) || overlap || decide (262144 < (s.section_ p ctx img 0).2.1) ||
  xs.any (s.sectionAbsent p ctx) ||
  (s.windowsOf p ctx img).any (fun w => decide ((if filler then 3 else 15) < w.1 ∨ w.2.size = 0 ∨ w.2.size % 64 ≠ 0 ∨ w.2.count = 0 ∨
    256 < w.2.count ∨ 1024 * limit < 1024 * w.2.bank + w.2.size * w.2.count)) ||
  decide (16 < r.streamCount) || (s.streamsOf p ctx r).any (fun e =>
    decide (1 < e.kind ∨ 7 < e.pkg ∨ 7 < e.die ∨ 15 < e.engine ∨ 7 < e.slot ∨ (s.programsOf p ctx img).length ≤ e.prog) ||
    (if e.kind = 1 then !r.place.packages.contains e.pkg
     else !(List.range 256).any (fun g => r.place.hasGroup (256 * (8 * e.pkg + e.die) + g))))

/-- A filler context is present in the package. -/
def State.anyFiller (s : State) (p : Nat) : Bool := (List.range 4096).any (fun c => s.ctxValid p c && s.ctxFiller p c)

/-- A key of the key table that this module can see not to be live: its region table is this module's (R280; DEDUCED, log entry 84). -/
def State.deadKey (s : State) (ctx : Nat) (k : BitVec 32 × Nat × Nat) : Bool :=
  if k.2.1 ≠ s.podModule then false
  else
    let e := field k.1 24 16
    let r := (s.pkg (field k.1 27 25)).regions.get e
    decide (e = 0) || !r.v || decide (r.gen ≠ field k.1 31 28 ∨ r.check ≠ k.1.setWidth 16 ∨ r.ctx ≠ ctx)

/-- The first applicable reason of R53 and R65 for a record of context `ctx` in a package, or 0. -/
def State.checkRecord (s : State) (p ctx : Nat) (r : LaunchRecord) : Nat :=
  let filler := s.ctxFiller p ctx
  let slot (k : Nat) : Nat := field r.slots (2 * k + 1) (2 * k)
  let fmts := (List.range 384).map (s.bankEntry p ctx r.bfmtAt (s.section_ p ctx r.image 2))
  let limit := r.firstBank filler
  let plans := s.plansOf p ctx r
  let ps := r.place.packages
  firstReason
    [ (s.badImage p ctx r filler, 1)
    , (decide (r.entry % 2 = 1 ∨ (s.section_ p ctx r.image 0).2.1 ≤ r.entry), 2)
    , (decide (47 < r.prio ∨ 1 < r.seal ∨ field r.ctl 2 0 ≠ 0) || (decide (r.seal = 1) && !s.inPod) ||
        (!filler && decide (r.nthr = 0 ∨ 2 ^ r.lcode < r.nthr)) || r.reserved, 3)
    , ((List.range 16).any (fun k => slot k == 3) ||
        (((List.range 16).any (fun k => slot k == 2) || (!filler && decide (r.grant ≠ 0))) && !s.anyFiller p), 4)
    , ((fmts.zip (List.range 384)).any (fun e => (!bit e.1 7 && decide (12 ≤ field e.1 3 0)) || (decide (limit ≤ e.2) && !bit e.1 7)), 5)
    , ((s.runsOf p ctx r.image).any (fun x => decide (x.2.1 ≠ 0 ∧ 1024 * limit < x.1 + x.2.1)), 6)
    , (plans.any (fun t => !t.good r.place) || repeats (plans.flatMap Seating.slots), 7)
    , (decide (64 < r.keyCount) || (s.keysOf p ctx r).any (s.deadKey ctx), 8)
    , (s.placeBad r.place r.unused || (decide (1 < ps.length) != decide (r.tag ≠ 0)) || !ps.contains p, 9) ]

/-! ## Event counters (R61, R62) -/

/-- EVFAULT: a counter address that is misaligned, too high or not translated, for a read or for an add. -/
def State.badCounter (s : State) (p ctx va : Nat) (add : Bool) : Bool :=
  decide (va % 8 ≠ 0 ∨ 281474976710656 ≤ va) || (s.ctxKey p ctx va).isNone || (add && (s.ctxPa p ctx va).isNone)

/-- A wait is satisfied (R62). -/
def State.waitMet (s : State) (p ctx : Nat) (e : Nat × Word) : Bool := decide (e.2.toNat ≤ s.ctxNum p ctx e.1 8)

/-- The line of a counter, which the registrar watches while a head is blocked on it (R59). -/
def State.counterLine (s : State) (p ctx va : Nat) : List Nat := ((s.ctxKey p ctx va).map (fun k => (549755813888 * keyUnit k + keyOff k) / 64)).toList

/-! ## Who holds the tiles (R66, R69, R309) -/

/-- A launch holds its tiles in a package: by a reservation, or by standing on them. -/
def Launch.holds (l : Launch) (p : Nat) : Bool :=
  l.place.packages.contains p && (match l.state with
    | .reserved => l.reports.contains p
    | .saved => l.reports.contains p
    | .starting => true
    | .running => true
    | .stopping _ => true
    | .heldStop => true
    | _ => false)

/-- Launches that hold any of these groups in a package, primaries or fillers. -/
def State.holders (s : State) (p self : Nat) (filler : Bool) (gs : List Nat) : List Nat :=
  (s.launches.filter (fun e => e.1 != self && e.2.isFiller == filler && e.2.holds p && gs.any e.2.place.hasGroup)).map Prod.fst

/-- A launch is already being saved. -/
def LState.beingSaved : LState → Bool
  | .stopping w => decide (w % 10 = 0)
  | _ => false

/-- A GSTOP holds a launch stopped, or is stopping it (R306). -/
def Launch.byGstop (l : Launch) : Bool := l.stopper.isSome && (match l.state with
  | .heldStop => true
  | .stopping w => w % 10 == 1
  | _ => false)

/-- A launch holds its tiles by a reservation: its start, or its start after a restore, is not being broadcast yet (R73). -/
def State.reservedOnly (s : State) (h : Nat) : Bool :=
  match (s.launch h).state with
  | .reserved => true
  | .saved => true
  | .starting => decide ((s.launch h).started = 0) && !s.resuming h
  | _ => false

/-- A holder can be moved out of the way: its reservation released to a spanning launch with a smaller tag (R73), or pre-empted (R69). One
whose start is broadcast is no reservation any more; one that a GSTOP holds stays (R306). -/
def State.obtainable (s : State) (prio tag h : Nat) : Bool :=
  let l := s.launch h
  if s.reservedOnly h then decide (tag ≠ 0 ∧ tag < l.tag)
  else match l.state with
  | .starting => decide (l.started ≠ 0) && l.preempt && decide (l.prio < prio) && s.saveFits h
  | _ => !l.byGstop && l.preempt && decide (l.prio < prio) && (l.state.beingSaved || s.saveFits h)

/-- Where a filler's text starts beside a primary's: the first 64-byte boundary after it (R89). -/
def fillBase (text : Nat) : Nat := 64 * ceilDiv text 64

/-- The primary a filler attaches to: of those in the package that grant it slots, contain its whole placement (groups `gs`) and leave its text
room, the one started earliest (R66). -/
def State.hostFor (s : State) (gs : List Nat) (p text : Nat) : Option Nat :=
  let ok := s.launches.filter (fun e => !e.2.isFiller && e.2.state == .running && !e.2.completed && e.2.grant != 0#8 && e.2.place.packages.contains p &&
    gs.all e.2.place.hasGroup && decide (fillBase e.2.textSize + text ≤ 262144))
  (ok.foldl (fun (best : Option (Nat × Launch)) e => match best with
    | none => some e
    | some b => if e.2.started < b.2.started then some e else some b) none).map Prod.fst

/-! ## Heads -/

/-- The head of a queue that is served: a preempted launch until it resumes, or the entry at the head index (R58, R70). -/
def State.headOf (s : State) (p q : Nat) : Option Head :=
  let d := s.desc p q
  if d.stops || ((s.pkg p).queues.get q).stopped then none
  else match s.launches.find? (fun e => e.2.preempted && e.2.state.live && e.2.entries.any (fun x => x.1 == p && x.2.1 == q)) with
    | some e => some (.resume e.1)
    | none => if d.count = 0 then none else
      let a := s.headAddr p q
      some (.entry a (s.ctxNum p (q / 64) a 1))

/-- A field of an entry. -/
def State.entryNum (s : State) (p q addr o n : Nat) : Nat := s.ctxNum p (q / 64) (addr + o) n

/-- The launch that an entry's LAUNCH has become, while it holds the head (R70, R73): reserved here, or about to start. -/
def State.heldEntry (s : State) (p q addr : Nat) : Bool :=
  s.launches.any (fun e => e.2.entries.contains (p, q, addr) && (match e.2.state with
    | .reserved => e.2.reports.contains p
    | .starting => e.2.tag != 0
    | .stopping _ => e.2.tag != 0 && e.2.started == 0
    | _ => false))

/-- A KILL entry waits for its target. -/
def State.killWaits (s : State) (p q addr : Nat) : Bool := s.launches.any (fun e => e.2.killers.any (fun k => k.1 == p + 8 * q && k.2.1 == addr))

/-- What a registrar finds of a head: it is rejected, ready at a priority and a cost, or blocked, on these counter lines. -/
inductive Verdict where
  | reject (reason : Nat)
  | ready (cost : Nat)
  | blocked (lines : List Nat)
  deriving DecidableEq, Repr, Inhabited

/-- Pre-empting a launch saves it: it holds its tiles by more than a reservation, and no save of it is under way. -/
def State.displaced (s : State) (h : Nat) : Bool := !s.reservedOnly h && !(s.launch h).state.beingSaved

/-- The groups of a placement on this module. -/
def State.allGroups (s : State) (pl : Placement) : List Nat := (pl.groups s.podModule).map Prod.fst

/-- Readiness of tiles: for a filler its host, for another its holders (R66, R69). A filler whose tiles another filler holds waits (DESIGN CHOICE,
log entry 97). -/
def State.tilesReady (s : State) (p self : Nat) (filler : Bool) (pl : Placement) (prio tag text : Nat) : Verdict :=
  let gs := s.groupsIn p pl
  if filler then
    if (s.hostFor (s.allGroups pl) p text).isSome && (s.holders p self true gs).isEmpty then .ready gs.length else .blocked []
  else
    let hs := s.holders p self false gs
    if hs.all (s.obtainable prio tag) && s.savesFit (hs.filter s.displaced) then .ready gs.length else .blocked []

/-- A LAUNCH at the head: R53, then R65, then its counters, then its wait events, then its tiles (R61, R69). -/
def State.judgeLaunch (s : State) (p q addr : Nat) : Verdict :=
  let ctx := q / 64
  let r := s.recordAt p ctx (s.entryNum p q addr 0x10 8)
  if s.heldEntry p q addr then .blocked []
  else
    let why := s.checkRecord p ctx r
    let adds := r.signals ++ [r.completion].filter (fun e => decide (e.1 ≠ 0))
    if why ≠ 0 then .reject why
    else if r.waits.any (fun e => s.badCounter p ctx e.1 false) || adds.any (fun e => s.badCounter p ctx e.1 true) then .reject 0x0B
    else
      let open_ := r.waits.filter (fun e => !s.waitMet p ctx e)
      if !open_.isEmpty then .blocked (open_.flatMap (fun e => s.counterLine p ctx e.1))
      else s.tilesReady p 0 (s.ctxFiller p ctx) r.place r.prio r.tag (s.section_ p ctx r.image 0).2.1

/-- Reserved fields of an entry that must be 0 (Tables 4.3 and 15.6, R294). -/
def State.entryReserved (s : State) (p q addr kind : Nat) : Bool :=
  let b := s.entryNum p q addr
  decide (b 1 1 ≠ 0 ∨ b 8 8 ≠ 0) || (match kind with
    | 2 => decide (b 0x30 1 / 16 % 8 ≠ 0 ∨ b 0x32 6 ≠ 0 ∨ b 0x50 48 ≠ 0)
    | 3 => decide (b 0x14 4 ≠ 0 ∨ b 0x1C 100 ≠ 0)
    | _ => false)

/-- A PLAN entry that frees a plan waits for its firings (R291). -/
def State.freeWaits (s : State) (p q addr : Nat) : Bool :=
  (s.entryNum p q addr 0x30 1).testBit 7 && (match s.planAt (BitVec.ofNat 32 (s.entryNum p q addr 0x4C 4)) with
    | some e => e.2.freeing.isSome
    | none => false)

/-- The registrar looks at a head (R61, R69, Table 4.4). -/
def State.judge (s : State) (p q : Nat) (h : Head) : Verdict :=
  let ctx := q / 64
  match h with
  | .resume lid =>
    let l := s.launch lid
    if l.reports.contains p || l.state != .saved then .blocked [] else s.tilesReady p lid l.isFiller l.place l.prio l.tag l.textSize
  | .entry a kind =>
    let b := s.entryNum p q a
    if kind = 0 ∨ 7 < kind ∨ s.entryReserved p q a kind then .reject 0x0A
    else match kind with
      | 1 => s.judgeLaunch p q a
      | 2 => if s.freeWaits p q a then .blocked [] else .ready 1
      | 5 =>
        if s.badCounter p ctx (b 0x10 8) false then .reject 0x0B
        else if s.waitMet p ctx (b 0x10 8, word (b 0x18 8)) then .ready 1 else .blocked (s.counterLine p ctx (b 0x10 8))
      | 6 => if s.badCounter p ctx (b 0x10 8) true then .reject 0x0B else .ready 1
      | 7 => if b 0x18 8 ≠ 0 ∧ s.badCounter p ctx (b 0x18 8) true then .reject 0x0B else if s.killWaits p q a then .blocked [] else .ready 1
      | _ => .ready 1

end Sys2Proof.Machine
end

