-- ==== Sys2Proof/Machine/Registrar.lean ====
section
/-!
DEFINITION. The registrar at work: the address match and selection by deficit round-robin (R58, R59, R68), the seven kinds of queue
entry (Table 4.4), plans (R291, R292, R294), a launch from its reservation to its first instruction (R70 to R75), and the watchdog (R76).
-/

namespace Sys2Proof.Machine

/-! ## Queues -/

/-- R58: a queue found bad or overrun stops, with one alarm; a stopped queue found good is served again, its deficit 0. -/
def State.checkQueue (s : State) (p q : Nat) : State :=
  let stops := (s.desc p q).stops
  let was := ((s.pkg p).queues.get q).stopped
  if stops && !was then (s.updPkg p (fun x => { x with queues := x.queues.upd q (fun y => { y with stopped := true }) })).alarm p (q / 64)
  else if !stops && was then
    (s.updPkg p (fun x => { x with queues := x.queues.upd q (fun y => { y with stopped := false }) })).physPut (s.descAddr p q + 0x1C) (bytesOfNat 4 0)
  else s

/-- A write to a watched line has reached the package's HBM (R59). -/
def execHbmWriteMatch (p a : Nat) (s : State) : Out :=
  let qs := (s.allQueues p).filter (fun q => s.descAddr p q / 64 == a / 64)
  .next ((qs.foldl (fun b q => b.checkQueue p q) s).askSelection p)

/-- A status write into an entry (R61). -/
def State.putStatus (s : State) (p q addr st reason : Nat) : State :=
  match s.ctxPa p (q / 64) (addr + 2) with
  | some pa => s.hbmPut pa [BitVec.ofNat 8 reason, BitVec.ofNat 8 st]
  | none => s

/-- A rejected head retires at once (R61). -/
def State.rejectHead (s : State) (p q addr reason : Nat) : State := (s.putStatus p q addr 4 reason).retireHead p q

/-- A head that has been served retires DONE. -/
def State.doneHead (s : State) (p q addr : Nat) : State := (s.putStatus p q addr 3 0).retireHead p q

/-! ## Selection (R68) -/

/-- A queue of the highest ready priority, as the deficit round-robin sees it. -/
structure Cand where
  q : Nat
  /-- The cost of its head, where the head is ready. -/
  cost : Option Nat
  quantum : Nat
  deficit : Nat
  deriving DecidableEq, Repr, Inhabited

/-- The deficit that a list of changes gives a queue, and the list with one more change. -/
def deficitOf (t : List (Nat × Nat)) (q d : Nat) : Nat := match t.find? (fun e => e.1 == q) with
  | some e => e.2
  | none => d
def setDeficit (t : List (Nat × Nat)) (q d : Nat) : List (Nat × Nat) := (q, d) :: t.filter (fun e => e.1 != q)

/-- The loop of Select(), over the queues in cyclic order from where the search starts: the queue chosen, and the deficits changed. -/
def drr (all : List Cand) : Nat → List Cand → List (Nat × Nat) → Option (Nat × List (Nat × Nat))
  | 0, _, _ => none
  | f + 1, [], t => drr all f all t
  | f + 1, c :: r, t =>
    let d := deficitOf t c.q c.deficit
    match c.cost with
    | some n => if n ≤ d then some (c.q, setDeficit t c.q (d - n)) else drr all f r (setDeficit t c.q (d + c.quantum))
    | none => drr all f r (setDeficit t c.q 0)

/-- A selection begins: queues are checked, failing heads are rejected, blocked counters are watched, and one ready head is chosen; the
entry is carried out, and the selection ends, 36 cy later (R68, R69, Table 4.7). -/
def State.selectBegin (s : State) (p : Nat) : State :=
  let c := s.cyc
  let qs := s.allQueues p
  let s0 := qs.foldl (fun a q => a.checkQueue p q) (s.updPkg p (fun x => { x with selecting := 2, again := false }))
  let heads : List (Nat × Head × Verdict) := qs.filterMap (fun q => (s0.headOf p q).map (fun h => (q, h, s0.judge p q h)))
  let s1 := heads.foldl (fun a e => match e.2.1, e.2.2 with
    | .entry addr _, .reject r => a.rejectHead p e.1 addr r
    | _, _ => a) s0
  let lines := dedup (heads.flatMap (fun e => match e.2.2 with
    | .blocked l => l
    | _ => []))
  let s2 := s1.updPkg p (fun x => { x with watch := lines })
  let ready : List (Nat × Nat) := heads.filterMap (fun e => match e.2.2 with
    | .ready n => some (e.1, n)
    | _ => none)
  let s3 := match ready with
    | [] => s2
    | _ =>
      let top := ready.foldl (fun (m : Nat) (e : Nat × Nat) => max m (s0.desc p e.1).prio) 0
      let served := qs.filter (fun q => !(s0.desc p q).stops && decide ((s0.desc p q).prio = top))
      let at_ := (s0.pkg p).ptr.get top
      let order := served.filter (fun q => decide (at_ ≤ q)) ++ served.filter (fun q => decide (q < at_))
      let cands := order.map (fun q => ({ q := q, cost := (ready.find? (fun (e : Nat × Nat) => e.1 == q)).map Prod.snd
                                          quantum := (s0.desc p q).quantum, deficit := (s0.desc p q).deficit } : Cand))
      match drr cands ((cands.length + 1) * 2050) cands [] with
      | none => s2
      | some (q, t) =>
        let s4 := t.foldl (fun (a : State) (e : Nat × Nat) => a.physPut (a.descAddr p e.1 + 0x1C) (bytesOfNat 4 e.2)) s2
        let s5 := s4.updPkg p (fun x => { x with ptr := x.ptr.set top q, again := true, chosen := (s0.headOf p q).map (fun h => (q, h)) })
        match s0.headOf p q with
        | some (.resume _) => s5.schedule (c + 36) (.launchEntry p q)
        | some (.entry _ kind) => s5.schedule (c + 36) (match kind with
            | 1 => .launchEntry p q
            | 2 => .planEntry p q
            | 3 => .collEntry p q
            | 4 => .sealEntry p q
            | 5 => .waitevEntry p q
            | 6 => .sigevEntry p q
            | _ => .killEntry p q)
        | none => s5
  s3.schedule (c + 36) (.selection p)

/-- A selection begins, or the running one ends; another follows it where a write has matched meanwhile or a head has been served
(R59). -/
def execSelection (p : Nat) (s : State) : Out :=
  match (s.pkg p).selecting with
  | 0 => .next s
  | 1 => .next (s.selectBegin p)
  | _ =>
    if (s.pkg p).again then
      .next ((s.updPkg p (fun x => { x with selecting := 1, again := false, chosen := none })).schedule (s.cyc + 1) (.selection p))
    else .next (s.updPkg p (fun x => { x with selecting := 0, chosen := none }))

/-! ## WAITEV, SIGEV, SEAL -/

/-- The head that the running selection has chosen of a queue (R59). -/
def State.chosenOf (s : State) (p q : Nat) : Option Head := match (s.pkg p).chosen with
  | some (x, h) => if x = q then some h else none
  | none => none

/-- The chosen head, an entry of a kind, is carried out where it is still ready. -/
def State.atHead (s : State) (p q kind : Nat) (go : Nat → State) : Out :=
  match s.chosenOf p q with
  | some (.entry a k) =>
    if k ≠ kind then .next s
    else match s.judge p q (.entry a k) with
      | .reject r => .next (s.rejectHead p q a r)
      | .ready _ => .next (go a)
      | .blocked _ => .next s
  | _ => .next s

def execWaitevEntry (p q : Nat) (s : State) : Out := s.atHead p q 5 (fun a => s.doneHead p q a)

def execSigevEntry (p q : Nat) (s : State) : Out :=
  s.atHead p q 6 (fun a => (s.addCounter p (q / 64) (s.entryNum p q a 0x10 8) (word (s.entryNum p q a 0x18 8))).doneHead p q a)

/-- R318: the seal request is posted, and the entry retires. -/
def execSealEntry (p q : Nat) (s : State) : Out := s.atHead p q 4 (fun a => { s with sealAsked := true }.doneHead p q a)

/-! ## LAUNCH (R69 to R73) -/

/-- What a record and its image's header give a launch (R51, R52); a filler runs with one thread, L = 1 and recovery off (R66). The start
of a filler's text waits for its host. -/
def State.newLaunch (s : State) (p q addr : Nat) (r : LaunchRecord) : Launch :=
  let ctx := q / 64
  let filler := s.ctxFiller p ctx
  let text := (s.section_ p ctx r.image 0).2.1
  { (default : Launch) with
    state := .reserved, ctx := ctx, pkg := p, prio := r.prio, preempt := bit r.ctl 25, recover := r.recover && !filler
    podSeal := decide (r.seal = 1), tag := r.tag, records := [(p, r.addr)], entries := [(p, q, addr)], image := r.image, entry := r.entry
    sections := (List.range 8).map (s.section_ p ctx r.image), bfmtAt := r.bfmtAt, keyAt := r.keyAt, keyCount := r.keyCount
    plans := s.plansOf p ctx r, textSize := text, textBase := 0, place := r.place, gw := r.place.grid.1, gh := r.place.grid.2
    lcode := if filler then 0 else r.lcode, nthr := if filler then 1 else r.nthr, chk := bit r.ctl 21, slots := r.slots
    grant := if filler then 0#8 else BitVec.ofNat 8 r.grant, isFiller := filler
    keys := (s.keysOf p ctx r).map (fun k => (k.1.toNat, k.2.1)), progs := s.programsOf p ctx r.image
    streams := (s.streamsOf p ctx r).map (fun e => (e.pslot, e.prog, e.g)), signals := r.signals
    completion := if r.completion.1 = 0 then none else some r.completion }

/-- Status of a launch's entries in one package. -/
def State.setStatusAt (s : State) (lid p st : Nat) : State :=
  ((s.launch lid).entries.filter (fun e => decide (e.1 = p))).foldl (fun a e => a.putStatus p e.2.1 e.2.2 st 0) s

/-- A holder makes way: a reservation is released, and what its start has come to is undone (R73), or the launch is gang-stopped and saved
(R72). -/
def State.displace (s : State) (p h : Nat) : State :=
  let l := s.launch h
  let drop (l : Launch) : Launch := { l with reports := l.reports.filter (fun x => x != p), state := if l.state = .saved then .saved else .reserved }
  if s.reservedOnly h then
    ((({ s with events := s.events.filter (fun e => e.2 != .textLoad h && e.2 != .contextRestore h) } : State).updLaunch h drop).setStatusAt h p
      (if l.state = .saved then 7 else 0)).askSelection p
  else if l.state.beingSaved then s else (s.takeAreas h).schedule (s.cyc + s.stopTime h) (.gangStop h 0)

/-- A launch takes its tiles in a package: it displaces their holders, whose fillers go with them, attaches to its host if it is a filler,
and reports. When every registrar it touches has reported, it goes on as soon as its tiles are free (R67, R70, R72, R73). -/
def State.reserve (s : State) (p lid : Nat) : State :=
  let l := s.launch lid
  let gs := s.groupsIn p l.place
  let hs := if l.isFiller then [] else s.holders p lid false gs
  let s1 := hs.foldl (fun a h => a.displace p h) s
  let waits := (hs ++ if l.isFiller then [] else s.holders p lid true gs).filter (fun h => !s.reservedOnly h)
  let host := if !l.isFiller then 0 else if l.reports.isEmpty then (s.hostFor (s.allGroups l.place) p l.textSize).getD 0 else l.host
  let s2 := s1.updLaunch lid (fun x =>
    { x with reports := x.reports ++ [p], waitsFor := dedup (x.waitsFor ++ waits), host := host
             textBase := if x.isFiller then fillBase (s.launch host).textSize else 0, progress := if x.reports.isEmpty then s.cyc else x.progress })
  let s3 := if l.tag = 0 then s2 else s2.setStatusAt lid p 1
  if (s3.launch lid).allReported then (s3.updLaunch lid (fun x => if x.state = .reserved then { x with state := .starting } else x)).proceed lid
  else if l.reports.isEmpty then s3.watch lid else s3

/-- A copy of a spanning launch that another registrar has already taken up (R73). -/
def State.sameLaunch (s : State) (ctx : Nat) (r : LaunchRecord) : Option Nat :=
  if r.tag = 0 then none
  else (s.launches.find? (fun e => e.2.state == .reserved && e.2.tag == r.tag && e.2.ctx == ctx && e.2.place == r.place)).map Prod.fst

/-- A selected LAUNCH: it reserves its tiles, and retires unless it spans packages (R70). A saved launch is selected again in the same
way (R72). -/
def execLaunchEntry (p q : Nat) (s : State) : Out :=
  match s.chosenOf p q with
  | some (.resume lid) =>
    match s.judge p q (.resume lid) with
    | .ready _ => .next (s.reserve p lid)
    | _ => .next s
  | _ => s.atHead p q 1 (fun a =>
      let r := s.recordAt p (q / 64) (s.entryNum p q a 0x10 8)
      match s.sameLaunch (q / 64) r with
      | some lid => (s.updLaunch lid (fun l =>
          { l with entries := (l.entries.filter (fun e => e != (p, q, a))) ++ [(p, q, a)]
                   records := (l.records.filter (fun e => e != (p, r.addr))) ++ [(p, r.addr)] })).reserve p lid
      | none =>
        let lid := s.nextLaunch
        let s1 := { s with launches := s.launches.set lid (s.newLaunch p q a r), nextLaunch := lid + 1 }.reserve p lid
        if r.tag = 0 then s1.retireHead p q else s1)

/-! ## Text and start (R74, R75) -/

/-- A section of a launch's image, as its selection read it. -/
def Launch.part (l : Launch) (i : Nat) : Nat × Nat × Nat := l.sections.getD i (0, 0, 0)

/-- A text is loaded into one group's instruction store (R74, R89). A primary's ends the residency of every other text there, a filler's that
of other fillers' and, where the two do not fit, of the primary's. -/
def State.loadText (s : State) (lid g : Nat) : State :=
  let l := s.launch lid
  let bs := (List.range l.textSize).map (fun i => s.ctxByte (g / 2048) l.ctx ((l.part 0).1 + i))
  let s1 := (s.clearRange (.istore g) l.textBase l.textSize).poke (.istore g) l.textBase bs
  s1.updGroup g (fun y =>
    if l.isFiller then
      let gone := decide (l.textBase < y.textSize)
      { y with fillText := l.textKey, fillTextSize := l.textSize, text := if gone then 0 else y.text, textSize := if gone then 0 else y.textSize }
    else { y with text := l.textKey, textSize := l.textSize, fillText := 0, fillTextSize := 0 })

def execTextLoad (lid : Nat) (s : State) : Out :=
  let l := s.launch lid
  if l.state = .starting ∨ l.state = .saved then .next (((s.groupsOf lid).foldl (fun a g => a.loadText lid g) s).afterText lid) else .next s

/-- The tile-data runs and keys of a launch, as writes into a tile of a package: address and bytes (R45, R51), keys
at whatever tile address their entries name (DEDUCED, log entry 83). -/
def State.tileWrites (s : State) (lid p : Nat) : List (Nat × List Byte) :=
  let l := s.launch lid
  (s.runsIn p l.ctx (l.part 1)).map (fun x => (x.1, (List.range x.2.1).map (fun i => s.ctxByte p l.ctx (x.2.2 + i)))) ++
    (s.keysAt p l.ctx l.keyAt l.keyCount).map (fun k => (k.2.2, bytesOfNat 4 k.1.toNat))

/-- The bank formats of a launch's tiles in a package (R45). -/
def State.bankTable (s : State) (lid p : Nat) : Tab Word :=
  let l := s.launch lid
  (List.range 384).foldl (fun (t : Tab Word) b => Tab.set t b (s.bankEntry p l.ctx l.bfmtAt (l.part 2) b)) []

/-- The windows of a launch's tiles in a package (R45). -/
def State.windowTable (s : State) (lid p : Nat) : Tab Window :=
  let l := s.launch lid
  (s.windowsIn p l.ctx (l.part 3)).foldl (fun (t : Tab Window) w => Tab.set t w.1 w.2) []

/-- Every tile of a launch is set up (stages 4 and 5) from its package's copy of the image: banks, formats, windows, identity, tile data and
keys (R45, R75), a filler's as a primary's. -/
def State.setUp (s : State) (lid : Nat) : State :=
  let l := s.launch lid
  l.place.packages.foldl (fun a p =>
    let bfmt := s.bankTable lid p
    let wins := s.windowTable lid p
    let writes := s.tileWrites lid p
    ((l.place.tiles s.podModule).filter (fun x => pkgOf x.1 == p)).foldl (fun b x =>
      writes.foldl (fun c w => c.poke (.tile x.1) w.1 w.2) (b.setupTile lid x.1 x.2.1 x.2.2 (seatsOf l.plans l.gw l.gh x.2.1 x.2.2) bfmt wins)) a) s

/-- B of Table 4.7, of the package that has most (R74). -/
def State.runTime (s : State) (lid : Nat) : Nat :=
  let l := s.launch lid
  (l.place.packages.map (fun p => runBytes (s.runsIn p l.ctx (l.part 1)))).foldl max 0

/-- The start broadcast ends (stage 3): status RUNNING; a spanning launch retires from its queues (R70). A launch that was stopped or
restored goes on after the first fetch (R311). -/
def execStartBroadcast (lid : Nat) (s : State) : Out :=
  let l := s.launch lid
  let c := s.cyc
  match l.state with
  | .starting =>
    let s1 := (s.updLaunch lid (fun x => { x with started := c, reports := [] })).setStatus lid 2 0
    let s2 := if l.tag = 0 then s1 else l.entries.foldl (fun a e => a.retireHead e.1 e.2.1) s1
    let s3 := s2.setUp lid
    let time := 20 + ceilDiv (s.runTime lid) 64 + l.keyCount
    .next (s3.schedule (c + time) (.streamListStart lid))
  | .heldStop =>
    let s1 := if l.reports.isEmpty then s else (s.updLaunch lid (fun x => { x with reports := [] })).setStatus lid 2 0
    .next (s1.schedule (c + 22) (.firstFetch lid))
  | _ => .next s

/-- The first fetch ends (stage 6): threads may issue from this cycle on, and the signal events are made (R62, R74). A filler waits for a
running primary, so the registrar looks at its heads again (R66). -/
def execFirstFetch (lid : Nat) (s : State) : Out :=
  let l := s.launch lid
  let c := s.cyc
  match l.state with
  | .starting =>
    let e := BitVec.ofNat 18 l.entry
    let s1 := (s.membersOf lid).foldl (fun a m => (a.startThread m.1 m.2 e).primeThread m.1 m.2 c) s
    let s2 := s1.updLaunch lid (fun x => { x with state := .running, progress := c, watched := false })
    let low := l.place.packages.headD l.pkg
    let s3 := l.signals.foldl (fun a v => a.addCounter low l.ctx v.1 v.2) s2
    let s4 := l.place.packages.foldl (fun a p => a.askSelection p) s3
    .next (s4.watch lid)
  | .heldStop => .next (s.resumeLaunch lid)
  | _ => .next s

/-! ## Watchdog (R73, R76) -/

/-- The watchdog looks at a launch that runs or is reserved: without progress since `since` it reports once, and looks again an interval later. The
alarm is that of the package whose registrar selected the launch first (DESIGN CHOICE, log entry 98). -/
def execWatchdogExpiry (lid since : Nat) (s : State) : Out :=
  let l := s.launch lid
  let w := s.ctxWatchdog l.pkg l.ctx
  if w = 0 ∨ (l.state ≠ .running ∧ !(s.reservedOnly lid && !l.reports.isEmpty)) then .next s
  else if l.progress ≠ since then .next ((s.updLaunch lid (fun x => { x with watched := false })).watch lid)
  else if l.watched then .next (s.schedule (s.cyc + w) (.watchdogExpiry lid since))
  else .next ((((s.updLaunch lid (fun x => { x with watched := true })).setStatus lid 6 0).alarm l.pkg l.ctx).schedule (s.cyc + w) (.watchdogExpiry lid since))

/-! ## KILL (R77, R334) -/

/-- An enqueued entry is killed before it is served: the head retires, another is passed over when its turn comes (R77). -/
def State.dropEntry (s : State) (p q idx : Nat) : State :=
  let d := s.desc p q
  let at_ := d.base + 128 * (idx % 2 ^ d.n)
  let s0 := s.updPkg p (fun x => { x with chosen := match x.chosen with
    | some (_, .entry a _) => if a = at_ then none else x.chosen
    | h => h })
  let s1 := s0.putStatus p q at_ 5 0
  if idx = d.head then s1.retireHead p q
  else s1.updPkg p (fun x => { x with queues := x.queues.upd q (fun y => { y with removed := y.removed ++ [idx] }) })

/-- Entries of a queue that can be enqueued: of a queue that has stopped those that its ring has places for (R57, R58). -/
def Desc.enqueued (d : Desc) : Nat := if 16 < d.n then 0 else min d.count (2 ^ d.n)

/-- Enqueued LAUNCH entries of a context in a package that satisfy a test on their record's address, in a stopped queue too: queue and
index. -/
def State.queuedLaunches (s : State) (p ctx : Nat) (f : Nat → Bool) : List (Nat × Nat) :=
  ((s.allQueues p).filter (fun q => decide (q / 64 = ctx))).flatMap (fun q =>
    let d := s.desc p q
    ((List.range d.enqueued).map (fun i => (d.head + i) % 4294967296)).filterMap (fun i =>
      let a := d.base + 128 * (i % 2 ^ d.n)
      if s.entryNum p q a 0 1 = 1 ∧ !((s.pkg p).queues.get q).removed.contains i ∧ f (s.entryNum p q a 0x10 8) then some (q, i) else none))

/-- A launch that a KILL may still find: reserved, starting, running, stopped or saved, its completion not taken (R333). -/
def Launch.alive (l : Launch) : Bool := !l.completed && l.state.live

/-- Enqueued copies of a spanning launch go in every registrar it touches (R77). -/
def State.dropCopies (s : State) (ctx tag : Nat) (ps : List Nat) : State :=
  ps.foldl (fun a p =>
    (a.queuedLaunches p ctx (fun va => (a.recordAt p ctx va).tag == tag)).foldl (fun b e =>
      let d := b.desc p e.1
      if b.heldEntry p e.1 (d.base + 128 * (e.2 % 2 ^ d.n)) then b else b.dropEntry p e.1 e.2) a) s

/-- A KILL finds a launch by a record that one of its entries names in this package, or by the tag of a copy that waits here while others
are held elsewhere; else an enqueued entry (R61, R77). Of several the first is taken, launches in order of selection and entries in order of
their queues (DESIGN CHOICE, log entry 99). -/
def execKillEntry (p q : Nat) (s : State) : Out :=
  s.atHead p q 7 (fun a =>
    let ctx := q / 64
    let target := s.entryNum p q a 0x10 8
    let k := (p + 8 * q, a, s.entryNum p q a 0x18 8, word (s.entryNum p q a 0x20 8))
    let r := s.recordAt p ctx target
    let queued := s.queuedLaunches p ctx (fun va => va == target)
    let live := s.launches.find? (fun e => e.2.ctx == ctx && e.2.alive &&
      (e.2.records.contains (p, target) || (!queued.isEmpty && decide (r.tag ≠ 0 ∧ e.2.tag = r.tag ∧ e.2.place = r.place ∧ e.2.started = 0))))
    match live with
    | some (lid, l) =>
      let s1 := s.updLaunch lid (fun x => { x with killers := x.killers ++ [k] })
      let s2 := if l.tag = 0 then s1 else s1.dropCopies ctx l.tag l.place.packages
      s2.schedule (s.cyc + s.stopTime lid) (.gangStop lid 3)
    | none =>
      match queued with
      | (x, i) :: _ =>
        let s1 := s.dropEntry p x i
        let s2 := if r.tag = 0 then s1 else s1.dropCopies ctx r.tag r.place.packages
        s2.retireKill ctx k 0
      | [] => s.retireKill ctx k 0x0C)

/-- KILL's step 4: the launch and its fillers are killed, and the KILL entries retire (R77, R334). -/
def execKillQuiesced (lid : Nat) (s : State) : Out :=
  if (s.launch lid).state = .stopping 3 then .next (((s.fillersOf lid).foldl State.killed s).killed lid) else .next s

/-! ## PLAN and COLL (R291, R292, R294) -/

/-- The step of a dimension by its two modes (Table 15.7): none where the pair is rejected, kind 0 where there is no step. Axes: 1 X,
2 Y, 3 XY. -/
def stepOf (a b : Nat) : Option (Nat × Nat × Nat) :=
  let split (m : Nat) : Bool := decide (1 ≤ m ∧ m ≤ 3)
  let psum (m : Nat) : Bool := decide (4 ≤ m ∧ m ≤ 6)
  if a = b then some (0, 0, 0)
  else if split a ∧ b = 0 then some (1, a, 0)
  else if psum a ∧ b = 0 then some (3, a - 3, 0)
  else if psum a ∧ b = a - 3 then some (2, a - 3, 0)
  else if a = 0 ∧ split b then some (5, b, 0)
  else if split a ∧ split b then some (4, a, b)
  else none

/-- The steps of a plan, in ascending dimension order; none where a pair is rejected. -/
def planSteps : List SeatDim → List SeatDim → Option (List (Nat × Nat × Nat))
  | [], _ => some []
  | _, [] => some []
  | a :: r, b :: t =>
    match stepOf a.mode b.mode, planSteps r t with
    | some st, some l => if a.extent ≠ b.extent then none else some (if st.1 = 0 then l else st :: l)
    | _, _ => none

/-- The kind of a plan handle (R292). -/
def planKind (steps : List (Nat × Nat × Nat)) : Nat := match steps with
  | [st] => st.1
  | _ => 6

/-- The leaders of the units of a mesh on this module, by unit rank: the lowest tile of each unit (R242, R292). -/
def State.leadersOf (s : State) (pl : Placement) (unit mx my : Nat) : List Nat :=
  let w := (unitSize unit).1
  let h := (unitSize unit).2
  let ts := pl.tiles s.podModule
  (List.range (mx * my)).filterMap (fun u =>
    let mine := (ts.filter (fun t => decide (t.2.1 / w = u % mx ∧ t.2.2 / h = u / mx))).map Prod.fst
    match mine with
    | [] => none
    | k :: r => some (r.foldl min k))

/-- The plan a body describes, or the reason it is rejected for. -/
def State.planOf (s : State) (p q addr : Nat) : Except Nat (Nat × Plan) :=
  let ctx := q / 64
  let b := s.entryNum p q addr
  let src := s.seatingAt p ctx (b 0x10 8)
  let dst := s.seatingAt p ctx (b 0x18 8)
  let pl := s.placementAt p ctx (addr + 0x20)
  let g := pl.1.grid
  let flags := b 0x30 1
  let mx := g.1 / (unitSize src.unit).1
  let my := g.2 / (unitSize src.unit).2
  if s.placeBad pl.1 pl.2 || !src.good pl.1 || !dst.good pl.1 || src.rank != dst.rank || src.unit != dst.unit || src.fmt != dst.fmt ||
      decide (15 < b 0x31 1) then .error 7
  else match planSteps src.dims dst.dims with
    | none => .error 7
    | some steps =>
      let reduces := steps.filter (fun st => decide (st.1 = 2 ∨ st.1 = 3))
      if (src.dims ++ dst.dims).any (fun d => decide (4 ≤ d.mode)) && src.fmt != 6 && src.fmt != 8 then .error 7
      else
        let ks := s.leadersOf pl.1 src.unit mx my
        match ((List.range 4096).filter (fun i => decide (i ≠ 0) && !(s.plans.get i).live)).head? with
        | none => .error 0x0E
        | some i =>
          let vcs := reduces.foldl (fun (acc : Option (List Nat)) _ => acc.bind (fun l =>
            (((List.range 8).map (fun v => v + 2)).find? (fun v => !l.contains v && s.vcOpen ks v)).map (fun v => l ++ [v]))) (some [])
          match vcs with
          | none => .error 0x0D
          | some vs =>
            let scope := if pl.1.kind = 3 then 4 else match ks with
              | [] => 0
              | k :: r => r.foldl (fun m x => max m (scopeOf k x)) 0
            .ok (i, { live := true, gen := (s.plans.get i).gen, kind := planKind steps, scope := scope, ctx := ctx, leaders := ks, mx := mx, my := my
                      others := if pl.1.kind = 3 then pl.1.moduleList.filter (fun m => m != s.podModule) else []
                      dims := (src.dims.zip dst.dims).map (fun e => { extent := e.1.extent, granule := e.1.granule, mode := e.1.mode
                                                                      toGranule := e.2.granule, toMode := e.2.mode })
                      steps := steps, fmt := src.fmt, w32 := flags.testBit 0, arr := flags.testBit 1, superstep := flags.testBit 2
                      elementKeyed := flags.testBit 3, window := b 0x31 1, src := b 0x38 8, dst := b 0x40 8, bytes := b 0x48 4, unit := src.unit
                      vcs := vs, freeing := none })

/-- The handle of a plan (R292). -/
def Plan.handle (h : Plan) (i : Nat) : Nat := 268435456 * h.gen + 65536 * i + 4096 * h.kind + 256 * h.scope

/-- A firing of a plan has not drained. -/
def State.planBusy (s : State) (i : Nat) : Bool := s.firings.any (fun f => f.plan == i)

/-- A PLAN entry of a queue waits for its plan's firings to drain, whether the queue is served meanwhile or not (R58, R291): its address and the
plan. -/
def State.freeingHead (s : State) (p q : Nat) : Option (Nat × Nat) :=
  s.plans.findSome? (fun e => e.2.freeing.bind (fun x => if x.1 = p ∧ x.2.1 = q then some (x.2.2, e.1) else none))

/-- A plan made (kind 4) or freed (5) by a context with a member is a change of the open interval of the member's domain (R295). -/
def State.planLog (s : State) (ctx kind i : Nat) : List FabricChange :=
  ([false, true].filter (fun pod => (s.membersIn pod).any (fun l => (s.launch l).ctx == ctx))).map (fun pod => ⟨pod, kind, 0, i⟩)

/-- A PLAN entry makes a plan and writes its handle, or frees one once its firings have drained (R291). -/
def execPlanEntry (p q : Nat) (s : State) : Out :=
  let result (s : State) (a v : Nat) : State := match s.ctxPa p (q / 64) (a + 4) with
    | some pa => s.hbmPut pa (bytesOfNat 4 v)
    | none => s
  let free (s : State) (a i : Nat) : State :=
    if s.planBusy i then ({ s with plans := s.plans.upd i (fun h => { h with freeing := some (p, q, a) }) }).schedule (s.cyc + 1) (.planEntry p q)
    else
      let s1 : State := { s with plans := s.plans.upd i (fun h => { h with live := false, freeing := none, gen := (h.gen + 1) % 16 })
                                 fabricLog := s.planLog (q / 64) 5 i ++ s.fabricLog }
      (result s1 a 0).doneHead p q a
  match s.freeingHead p q with
  | some (a, i) => .next (free s a i)
  | none => s.atHead p q 2 (fun a =>
      if (s.entryNum p q a 0x30 1).testBit 7 then
        match s.planAt (BitVec.ofNat 32 (s.entryNum p q a 0x4C 4)) with
        | none => (result s a 0).doneHead p q a
        | some (i, _) => free s a i
      else match s.planOf p q a with
        | .error r => s.rejectHead p q a r
        | .ok (i, h) =>
          let s1 : State := { s with plans := s.plans.set i h, fabricLog := s.planLog (q / 64) 4 i ++ s.fabricLog }
          (result s1 a (h.handle i)).doneHead p q a)

/-- A COLL entry fires its plan for every member (R294). -/
def execCollEntry (p q : Nat) (s : State) : Out :=
  s.atHead p q 3 (fun a =>
    match s.planAt (BitVec.ofNat 32 (s.entryNum p q a 0x10 4)) with
    | none => s.rejectHead p q a 7
    | some (i, h) =>
      if h.superstep || h.ctx != q / 64 then s.rejectHead p q a 7
      else (s.fire i (s.entryNum p q a 0x18 4) (h.leaders.map (fun k => (k, 0)))).doneHead p q a)

end Sys2Proof.Machine
end

