-- ==== Sys2Proof/Machine/Retire.lean ====
section
/-!
DEFINITION. Retirement (R122, R330 to R333): HALT, the final exchange, the reports that climb to the registrar, the commit of the open
interval, and the completion add.
-/

namespace Sys2Proof.Machine

/-- The highest level of a launch, at or below its top, whose instance around a tile has wholly halted (R331). -/
def State.haltedLevel (s : State) (lid k : Nat) : Option Nat :=
  ((List.range ((s.launch lid).top + 1)).takeWhile (fun v => (s.awake lid v (instOf v k)).isEmpty)).getLast?

/-- What a thread's end brings about at once: bells, barriers and TSYNC that waited for it alone, the final exchange of what has wholly
halted, and the tile's retirement. -/
def State.afterHalt (s : State) (lid k t : Nat) : State :=
  let c := s.cyc
  let halted := (s.launch lid).threads.all (fun i => (s.thread k i).halted)
  let s1 := if halted then s.updLaunch lid (fun l => { l with progress := c }) else s
  let s2 := (List.range ((s.launch lid).top + 1)).foldl (fun a v => a.checkBell lid v (instOf v k)) s1
  let s3 := if t = 8 then s2 else ((List.range 8).foldl (fun a i => a.checkBarrier (groupOf k) i) s2).checkTsync k
  let s4 := match s3.haltedLevel lid k with
    | some v => s3.schedule c (.finalExchange lid v (instOf v k))
    | none => s3
  s4.askRetire k

/-- R122: the thread never issues again; its pending results land, and a pending abort code and TICK are lost. -/
def execHalt (s : State) : Out :=
  let k := s.curTile
  let c := s.cyc
  let s1 := s.updThr (fun t => { t with halted := true, abort := { t.abort with code := 0#16 }, ticks := 0, lastIssue := c, heldFrom := none })
  match s.lidOf k s.curThread with
  | some lid => .next (s1.afterHalt lid k s.curThread)
  | none => .next s1

/-- R331: the exchange of a level instance that has wholly halted, with no arrival bell. -/
def execFinalExchange (lid lvl inst : Nat) (s : State) : Out :=
  if (s.bellAt lid lvl inst).isSome || !(s.awake lid lvl inst).isEmpty || (s.atInst lid lvl inst).isEmpty then .next s
  else
    let c := s.cyc
    let b : Bell := { (default : Bell) with lid := lid, lvl := lvl, inst := inst, last := c, phase := 1, isFinal := true, upto := c }
    match ({ s with bells := b :: s.bells } : State).readHalves lid lvl inst with
    | (s1, hr) => .next ((s1.updBell lid lvl inst (fun y => { y with upto := c + hr, zero := hr })).schedule (c + hr) (.writeHalf lid lvl inst))

/-- R330. -/
def execTileRetire (k : Nat) (s : State) : Out :=
  let t := s.tile k
  let s1 := match t.prim with
    | some lid => if !t.retired && s.tileQuiet lid k then (s.updTile k (fun x => { x with retired := true })).askReport lid (groupOf k) else s
    | none => s
  match t.filler with
  | some lid => .next (if s1.tileQuiet lid k then s1.askReport lid (groupOf k) else s1)
  | none => .next s1

/-- A launch is being killed, or is over: its reports are ignored (R333). -/
def Launch.over (l : Launch) : Bool :=
  !l.killers.isEmpty || (match l.state with
    | .none => true
    | .killed => true
    | .done => true
    | .stopping 3 => true
    | _ => false)

/-- A launch stopped or saved reports when it goes on. -/
def State.whileStopped (s : State) (lid : Nat) (e : Instr) (go : State) : Out :=
  if (s.launch lid).over then .next s else if (s.launch lid).state = .running then .next go else .next (s.schedule (s.cyc + 1) e)

/-- The top level of a launch has reported (R332). -/
def State.topReport (s : State) (lid : Nat) : State := (s.updLaunch lid (fun l => { l with topDone := true })).schedule s.cyc (.completionCommit lid)

/-- A report is made: of a group 0, a die 1, a package 2 or the module 3; the last of a unit's starts the unit's own (Table 18.1). -/
def execCompletionReport (lid lvl inst : Nat) (s : State) : Out :=
  let l := s.launch lid
  let c := s.cyc
  let gs := s.groupsOf lid
  s.whileStopped lid (.completionReport lid lvl inst) (match lvl with
    | 0 =>
      if l.grpDone.contains inst then s
      else
        let done := inst :: l.grpDone
        let s1 := s.updLaunch lid (fun x => { x with grpDone := done })
        if (gs.filter (fun g => g / 256 == inst / 256)).all done.contains then s1.schedule (c + 20) (.completionReport lid 1 (inst / 256)) else s1
    | 1 =>
      let done := inst :: l.dieDone
      let s1 := s.updLaunch lid (fun x => { x with dieDone := done })
      if (gs.filter (fun g => g / 2048 == inst / 8)).all (fun g => done.contains (g / 256)) then s1.schedule (c + 64) (.completionReport lid 2 (inst / 8))
      else s1
    | 2 =>
      let done := inst :: l.pkgDone
      let s1 := s.updLaunch lid (fun x => { x with pkgDone := done })
      if l.place.packages.length ≤ 1 then s1.topReport lid
      else if l.place.packages.all done.contains then s1.schedule (c + 180) (.completionReport lid 3 0) else s1
    | _ => s.topReport lid)

/-- The top level has reported and every stream program has ended: with recovery the open interval is committed (R331). -/
def execCompletionCommit (lid : Nat) (s : State) : Out :=
  let l := s.launch lid
  s.whileStopped lid (.completionCommit lid)
    (if l.topDone && !l.committed && !s.progs.any (fun e => e.2.lid == lid && e.2.busy) then
      let acks := if l.recover then s.openEscrow l.podSeal else []
      ((if l.recover then s.commit l.podSeal else s).updLaunch lid (fun x => { x with committed := true, acks := acks })).schedule s.cyc
        (.launchComplete lid)
    else s)

/-- Every escrow write that the launch's commit released has been acknowledged (R332). -/
def State.escrowDone (s : State) (lid : Nat) : Bool :=
  s.pkgs.all (fun p => p.2.escrow.all (fun w => !(s.launch lid).acks.contains w.id))

/-- The launch completes (R332): its fillers are stopped and saved (R67), and the registrar's add follows 36 cy later. -/
def execLaunchComplete (lid : Nat) (s : State) : Out :=
  let l := s.launch lid
  let c := s.cyc
  s.whileStopped lid (.launchComplete lid)
    (if l.committed && !l.completed && s.escrowDone lid then
      let s1 := (s.updLaunch lid (fun x => { x with completed := true })).recordAll l.place.packages 0x09 l.ctx
      (((s.fillersOf lid).foldl (fun a f => a.schedule (c + s.stopTime f) (.gangStop f 0)) s1).waitForFillers lid).schedule (c + 36) (.completionAdd lid)
    else s)

/-- The end of a launch: DONE, and its tiles are free (R332). -/
def State.finishLaunch (s : State) (lid : Nat) : State :=
  ((({ s with cut := s.cutBut lid }.setStatus lid 3 0).freeTiles lid).updLaunch lid (fun l => { l with state := .done, areas := [] })).freed lid

/-- The completion add issues; without a completion event the launch ends at once (R332). -/
def execCompletionAdd (lid : Nat) (s : State) : Out :=
  let l := s.launch lid
  if l.state = .done ∨ !l.completed then .next s
  else match l.completion with
    | none => .next (s.finishLaunch lid)
    | some _ => .next (s.schedule (s.cyc + 200) (.completionAddDone lid))

/-- The add is made at the HBM controller, by the registrar of the lowest-numbered package (R62, R332). -/
def execCompletionAddDone (lid : Nat) (s : State) : Out :=
  let l := s.launch lid
  if l.state = .done ∨ !l.completed then .next s
  else match l.completion with
    | none => .next (s.finishLaunch lid)
    | some e => .next ((s.addCounter (l.place.packages.headD l.pkg) l.ctx e.1 e.2).finishLaunch lid)

end Sys2Proof.Machine
end

