-- ==== Sys2Proof/Machine/Manage.lean ====
section
/-!
DEFINITION. The module's surroundings (R313, R328, R329, R335 to R341): management registers, the host's port, boot and attestation, the
ramp limiter, telemetry, cooling, and resets.
-/

namespace Sys2Proof.Machine

/-! ## Ramp limiter (R339, Table 18.5) -/

/-- σ in mW: the slew in units of 0.1 kW/ms over a tick of 0.001 ms. -/
def State.sigma (s : State) : Nat := 100 * field (s.mgMod.get 0x100) 31 16

/-- The head of the held requests: its launch and level, its request cycle, and what it still lacks plus 1 (0 before it is sampled). Held
requests are granted one at a time, in request order; the wait of the later ones is part of their hold. -/
def State.grantRamp (s : State) (step : Nat) : Nat → State
  | 0 => s
  | n + 1 =>
    match s.rampHeld with
    | [] => s
    | (key, since, left) :: rest =>
      let c := s.cyc
      match s.bellAt (key / 8) (key % 8) 0 with
      | none => ({ s with rampHeld := rest }).grantRamp 0 n
      | some b =>
        if b.phase ≠ 5 ∨ (s.launch b.lid).state.frozen then s
        else
          let hold := bit (s.mgMod.get 0x100) 0
          let need := if left = 0 then s.rampNeed b.lid else left - 1 - step
          if hold ∧ 0 < need then { s with rampHeld := (key, since, need + 1) :: rest, nonce := s.nonce + 1 }
          else
            let s1 : State := { s with rampHeld := rest, mgMod := s.mgMod.upd 0x110 (fun v => v + word (c - since)), nonce := s.nonce + 1 }
            ((s1.updBell b.lid b.lvl b.inst (fun y => { y with hold := c - since })).release { b with hold := c - since }).grantRamp 0 n

/-- RAMP.STAT: what the last tick left, and whether a release is held now (Table 18.5). -/
def State.rampStat (s : State) : Word := s.mgMod.get 0x108 ||| boolWord (!s.rampHeld.isEmpty)

/-- A tick: held releases, then the floor and the hardware filler, whose power and MMA count the spec leaves to measurement. -/
def execRampTick (s : State) : Out :=
  let s1 := (s.grantRamp s.sigma (s.rampHeld.length + 1)).schedule (s.cyc + 3600) .rampTick
  let power := Config.measuredPower s1.nonce 0
  let floor := s1.rampFloor - s1.sigma
  let filling := bit (s1.mgMod.get 0x100) 1 && decide (power < floor)
  let stat := (word (power / 1000) <<< 32) ||| (boolWord filling <<< 1)
  let fill := if filling then word (Config.measuredPower (s1.nonce + 1) 0) else 0#64
  .next { s1 with rampFloor := max floor power, nonce := s1.nonce + 2
                  mgMod := (s1.mgMod.set 0x108 stat).upd 0x118 (fun v => v + fill) }

/-! ## Telemetry and cooling (R340, R341) -/

/-- One package's record in the ring in package 0's HBM. While TEL.RING holds its reset value, which no write can give it, there is no ring and no
record (DESIGN CHOICE, log entry 107). -/
def State.telemetryOf (s : State) (p : Nat) : State :=
  let ring := s.mgMod.get 0x200
  if ring = 0#64 then s
  else
    let n := (s.pkg 0).telemetry
    let time := Config.ptpTime s.cyc
    let energy := (s.pkg p).energy + Config.measuredPower s.nonce (16 + p)
    let flags := s.rampStat.toNat % 4 + (if (s.pkg p).overTemp then 4 else 0)
    let bs := bytesOfNat 6 (time / 1000000000) ++ bytesOfNat 4 (time % 1000000000) ++ bytesOfNat 6 s.cyc ++
      bytesOfNat 4 (Config.measuredPower s.nonce (8 + p)) ++ bytesOfNat 8 energy ++ bytesOfNat 1 flags ++ bytesOfNat 3 0
    let s1 := (s.updPkg p (fun x => { x with energy := energy, overTemp := false })).updPkg 0 (fun x => { x with telemetry := n + 1 })
    s1.hbmPut (field ring 47 0 + 32 * (n % 2 ^ field ring 51 48)) bs

def execTelemetryTick (s : State) : Out :=
  let s1 := (List.range 8).foldl State.telemetryOf (s.schedule (s.cyc + 3600000) .telemetryTick)
  .next { s1 with nonce := s1.nonce + 1 }

def execOvertempWarning (p : Nat) (s : State) : Out := .next (s.updPkg p (fun x => { x with overTemp := true }))

/-- Every ring of some dies is frozen (R328). -/
def State.freezeRings (s : State) (ds : List Nat) : State := ds.foldl (fun a d => a.updDie d (fun x => { x with frozen := true })) s

def execThermalShutdown (p : Nat) (s : State) : Out :=
  .next { (s.record (8 * p) 0x05 0 8).freezeRings ((List.range 8).map (fun d => 8 * p + d)) with powered := false }

/-! ## Resets (R313, R328, R329) -/

/-- The first multiple of a period after a cycle. -/
def nextMultiple (n c : Nat) : Nat := (c / n + 1) * n

/-- What a die keeps through a reset: its ring, frozen, and the committed repairs. A warm reset remembers the repairs that are lost. -/
def Die.kept (d : Die) (warm : Bool) : Die :=
  { (default : Die) with
    blackBox := d.blackBox, frozen := true, committed := d.committed
    lost := if warm then dedup (d.lost ++ d.learned.filter (fun x => !d.committed.contains x)) else [] }

/-- Every die's ring is frozen, those without an entry included. -/
def keepDies (t : Tab Die) (warm : Bool) : Tab Die := (List.range 64).foldl (fun (a : Tab Die) d => Tab.set a d ((Tab.get t d).kept warm)) []

/-- Cold reset: everything is at its reset value but the rings, the committed repairs and host memory. -/
def execColdReset (s : State) : Out :=
  .next { State.reset with dies := keepDies s.dies false, mem := s.mem.filter (fun c => keyKind c.1 == 6) }

/-- Warm reset (R329): every launch ends, rin is 0, and cyc, the tensor stores with their directories and HBM are kept. -/
def execWarmReset (s : State) : Out :=
  let s1 := (List.range 64).foldl (fun a d => a.record d 0x0E 0 0) s
  .next { State.reset with
    cyc := s.cyc, dies := keepDies s1.dies true
    mem := s.mem.filter (fun c => decide (3 ≤ keyKind c.1 ∧ keyKind c.1 ≤ 6))
    events := insertBy Prod.fst (nextMultiple 3600000 s.cyc, .telemetryTick) [(nextMultiple 3600 s.cyc, .rampTick)]
    nonce := s.nonce }

/-- A repair is learned in a die's column; its path is whole again. -/
def execRepairLearned (d col : Nat) (s : State) : Out :=
  .next ((s.updDie d (fun x => { x with learned := dedup (x.learned ++ [col]), lost := x.lost.filter (fun y => y != col) })).record d 0x0B 0 col)

def execRepairCommit (d col : Nat) (s : State) : Out :=
  .next (if (s.die d).learned.contains col then
    (s.updDie d (fun x => { x with committed := dedup (x.committed ++ [col]) })).record d 0x0C 0 col else s)

/-! ## Boot and attestation (R301, R337, R338) -/

/-- A proctor starts: its threads at text offset 0, in system mode. -/
def State.startProctor (s : State) (k lc nthr : Nat) : State :=
  let id := { identOf 0 0 0 1 1 nthr s.idModule [] with grp := 0#64, die := word (dieOf k % 8), pkg := word (pkgOf k) }
  let s1 := (s.clearRange (.tile k) 0 393216).updTile k (fun t => { t with
    threads := (List.range (2 ^ lc)).foldl (fun ts i => ts.set i (freshThread false false false false true lc id 0 0 0)) [] })
  (List.range nthr).foldl (fun a t => (a.startThread k t 0).primeThread k t s.cyc) s1

/-- A package's firmware image is verified; verified firmware loads the system text into the store of each proctor, two in each die, and
starts it. A package that fails stays in reset until the next reset, and the module does not start (R337, `State.bootFailed`). -/
def execBoot (p : Nat) (image text : List Byte) (lc nthr : Nat) (s : State) : Out :=
  if (s.mg p 8).toNat % 4 = 2 then .next s
  else if Config.signatureGood p image then
    let s1 := ((List.range 16).map (fun j => 16 * p + j)).foldl (fun a j =>
      let b := { (a.clearRange (.system j) 0 262144).poke (.system j) 0 (text.take 262144) with sysText := a.sysText.set j (min text.length 262144) }
      b.startProctor (262144 + j) (lc % 4) (min nthr (2 ^ (lc % 4)))) s
    .next (s1.updPkg p (fun x => { x with mg := x.mg.set 8 1#64, firmware := image }))
  else
    .next { s.updPkg p (fun x => { x with mg := x.mg.set 8 ((Config.freeWord s.nonce &&& 0xFFFF0000#64) ||| 2#64) }) with nonce := s.nonce + 1 }

/-- An attestation request is answered, over what the package has measured: its firmware and the text of its proctors; the ROM and the fused
configuration are the package's own (R338). -/
def execSpdmRequest (p : Nat) (req : List Byte) (s : State) : Out :=
  let text := ((List.range 16).map (fun j => 16 * p + j)).map (fun j => s.bytes (.system j) 0 (s.sysText.get j))
  .next { s.updPkg p (fun x => { x with doe := Config.spdmReply s.nonce p x.firmware text req }) with nonce := s.nonce + 1 }

/-! ## Host (R335) -/

/-- The host reads or writes bytes of package HBM through an HDM-H window; outside the windows nothing answers. -/
def execCxlMemAccess (p : Nat) (write : Bool) (a : Nat) (bytes : List Byte) (s : State) : Out :=
  let n := bytes.length
  if !(List.range n).all (fun i => s.hostOwned p (a + i)) then .next s
  else if write then .next (s.hbmPut (549755813888 * p + a) bytes)
  else .next (s.updPkg p (fun x => { x with readOut := s.bytes (.hbm p) a n }))

/-! ## Management window (R336, Table 18.4) -/

/-- A value held to a range. -/
def clamp (lo hi n : Nat) : Nat := max lo (min hi n)

/-- What a read of the window gives (Table 18.4): the part code, the ring's read index, the module's one copy of a ramp or telemetry
register, or the package's register. -/
def State.mgRead (s : State) (p off : Nat) : Word :=
  if off = 0 then Config.partCode p
  else if off = 0x50 then word (16 * (s.die (8 * p)).bbIndex)
  else if off = 0x108 then s.rampStat
  else if 0x100 ≤ off then s.mgMod.get off
  else s.mg p off

/-- The value a write leaves in a register, with its bounds and reserved bits; none where the register takes no write. -/
def mgValue (off : Nat) (v : Word) : Option Word :=
  match off with
  | 0x10 => some v
  | 0x18 => some v
  | 0x20 => some (word (clamp 1 16 v.toNat))
  | 0x28 => some v
  | 0x38 => some v
  | 0x40 => some v
  | 0x100 => some (word (65536 * clamp 1 500 (field v 31 16) + v.toNat % 4))
  | 0x200 => some (word (field v 47 0 + 281474976710656 * max 4 (field v 51 48)))
  | _ => none

/-- A write takes effect: only from the management port or firmware (P). Registers with behaviour of their own are passed on. -/
def State.mgEffect (s : State) (p off : Nat) (v : Word) (trusted : Bool) : State :=
  if off = 0x30 then s.schedule s.cyc (.mgPod ⟨p, v⟩ trusted)
  else if off = 0x48 then s.schedule s.cyc (.mgLinkctl p v trusted)
  else if off = 0x50 then s.schedule s.cyc (.mgBbctl p v trusted)
  else if !trusted then s
  else match mgValue off v with
    | none => s
    | some w =>
      if 0x100 ≤ off then { s with mgMod := s.mgMod.set off w }
      else
        let s1 := s.updPkg p (fun x => { x with mg := x.mg.set off w })
        if off = 0x10 then s1.askSelection p else s1

/-- Due cycles of the writes that have reached a package and not taken effect. -/
def State.writesDue (s : State) (p : Nat) : List Nat :=
  s.events.filterMap (fun e => match e.2 with
    | .managementWrite q off _ _ => if q = p ∧ 65536 ≤ off then some e.1 else none
    | _ => none)

/-- A write reaches a package, and takes effect up to 1,000 cy later, after those before it; offsets from 65,536 up mark a write that
takes effect now. -/
def execManagementWrite (p off : Nat) (v : Word) (trusted : Bool) (s : State) : Out :=
  if 65536 ≤ off then .next (s.mgEffect p (off - 65536) v trusted)
  else
    let due := (s.writesDue p).foldl max (s.cyc + Config.writeDelay s.nonce % 1001)
    .next { s.schedule due (.managementWrite p (off + 65536) v trusted) with nonce := s.nonce + 1 }

/-- MG.LINKCTL: a management retrain over every lane (Table 15.2). -/
def execMgLinkctl (p : Nat) (v : Word) (trusted : Bool) (s : State) : Out :=
  let l := field v 2 0
  .next (if trusted && bit v 8 then (s.updLink p l (fun x => { x with faulted := 0#16 })).train p l 0xFFFF#16 else s)

/-- MG.BBCTL: thaws the rings of the package, and sets the read index. -/
def execMgBbctl (p : Nat) (v : Word) (trusted : Bool) (s : State) : Out :=
  .next (if trusted then
    ((List.range 8).map (fun d => 8 * p + d)).foldl (fun a d => a.updDie d (fun x =>
      { x with frozen := if bit v 0 then false else x.frozen, bbIndex := field v 15 4 })) s
  else s)

/-- MG.POD of a package: id.mod and the pod seal domain, which the module is in where its own number is one of the domain's. The module takes what
the last write to one of its packages gives (DESIGN CHOICE, log entry 106); forming a domain sets rin to 0, and the open interval is interval 0
(R313). -/
def execMgPod (v : PkgWrite) (trusted : Bool) (s : State) : Out :=
  let m := field v.value 15 0
  let first := field v.value 31 16
  let n := field v.value 47 32
  let in_ := decide (n ≠ 0 ∧ first ≤ m ∧ m < first + n)
  let forms := in_ && !(s.inPod && decide (s.podModule = m ∧ s.podFirst = first ∧ s.podCount = n))
  let s1 := s.updPkg v.pkg (fun x => { x with mg := x.mg.set 0x30 v.value })
  .next (if !trusted then s
    else { s1 with
      pkgs := if forms then s1.pkgs.each (fun _ x => { x with escrow := x.escrow.map (fun w => if w.released then w else { w with interval := 0 }) }) else s1.pkgs
      podModule := m, inPod := in_, podFirst := first, podCount := n, rin := if forms then 0#32 else s.rin, podRin := if forms then 0#32 else s.podRin })

end Sys2Proof.Machine
end

