-- ==== Sys2Proof/Machine/Dispatch.lean ====
section
/-!
DEFINITION. The dispatch: one arm per instruction, each one direct call of its meaning.
-/

namespace Sys2Proof.Machine

def exec (i : Instr) (s : State) : Host.Outcome State Fault Refusal :=
  match i with
  | .mmaLatch k o id => Sys2Proof.Machine.execMmaLatch k o id s
  | .mmaPass k o id p => Sys2Proof.Machine.execMmaPass k o id p s
  | .mmaRowsFinal k o id p => Sys2Proof.Machine.execMmaRowsFinal k o id p s
  | .mzeroExecute k o id => Sys2Proof.Machine.execMzeroExecute k o id s
  | .mwrExecute k o id => Sys2Proof.Machine.execMwrExecute k o id s
  | .mstaExecute k o id => Sys2Proof.Machine.execMstaExecute k o id s
  | .mstaEnd k o id => Sys2Proof.Machine.execMstaEnd k o id s
  | .copyEnd k t => Sys2Proof.Machine.execCopyEnd k t s
  | .translationWalkDone d kind id => Sys2Proof.Machine.execTranslationWalkDone d kind id s
  | .getLand x => Sys2Proof.Machine.execGetLand x s
  | .streamProgramStart key => Sys2Proof.Machine.execStreamProgramStart key s
  | .sepollSample k t h rd => Sys2Proof.Machine.execSepollSample k t h rd s
  | .streamMoveLand key k w bytes => Sys2Proof.Machine.execStreamMoveLand key k w bytes s
  | .windowCounterIncrement k w key => Sys2Proof.Machine.execWindowCounterIncrement k w key s
  | .streamListStart lid => Sys2Proof.Machine.execStreamListStart lid s
  | .arrivalBellDone lid lvl inst => Sys2Proof.Machine.execArrivalBellDone lid lvl inst s
  | .writeHalf lid lvl inst => Sys2Proof.Machine.execWriteHalf lid lvl inst s
  | .bellRelease lid lvl inst => Sys2Proof.Machine.execBellRelease lid lvl inst s
  | .barrierGenerationComplete g id => Sys2Proof.Machine.execBarrierGenerationComplete g id s
  | .kmintDone k t rd key => Sys2Proof.Machine.execKmintDone k t rd key s
  | .krevEffect k t rd key => Sys2Proof.Machine.execKrevEffect k t rd key s
  | .csetDone k t rd v => Sys2Proof.Machine.execCsetDone k t rd v s
  | .cfreeDone k t rd c => Sys2Proof.Machine.execCfreeDone k t rd c s
  | .bucketOpen c seq => Sys2Proof.Machine.execBucketOpen c seq s
  | .bucketComplete c seq => Sys2Proof.Machine.execBucketComplete c seq s
  | .bucketTimeout c seq => Sys2Proof.Machine.execBucketTimeout c seq s
  | .collectiveDelivery c k w base seq bytes => Sys2Proof.Machine.execCollectiveDelivery c k w base seq bytes s
  | .planFiring plan seq => Sys2Proof.Machine.execPlanFiring plan seq s
  | .frameReceive p l bytes => Sys2Proof.Machine.execFrameReceive p l bytes s
  | .ackTimeout p l since => Sys2Proof.Machine.execAckTimeout p l since s
  | .replayRequestTimeout p l seq => Sys2Proof.Machine.execReplayRequestTimeout p l seq s
  | .laneFault p l lane => Sys2Proof.Machine.execLaneFault p l lane s
  | .trainDone p l lanes last => Sys2Proof.Machine.execTrainDone p l lanes last s
  | .trainTimeout p l since => Sys2Proof.Machine.execTrainTimeout p l since s
  | .e2eStatus x st bytes => Sys2Proof.Machine.execE2eStatus x st bytes s
  | .e2eTimeout x => Sys2Proof.Machine.execE2eTimeout x s
  | .vcEscape p l seq => Sys2Proof.Machine.execVcEscape p l seq s
  | .bufferRepair p port c => Sys2Proof.Machine.execBufferRepair p port c s
  | .keyCheck src op key off n tag bytes => Sys2Proof.Machine.execKeyCheck src op key off n tag bytes s
  | .hbmWriteMatch p a => Sys2Proof.Machine.execHbmWriteMatch p a s
  | .selection p => Sys2Proof.Machine.execSelection p s
  | .launchEntry p q => Sys2Proof.Machine.execLaunchEntry p q s
  | .planEntry p q => Sys2Proof.Machine.execPlanEntry p q s
  | .collEntry p q => Sys2Proof.Machine.execCollEntry p q s
  | .sealEntry p q => Sys2Proof.Machine.execSealEntry p q s
  | .waitevEntry p q => Sys2Proof.Machine.execWaitevEntry p q s
  | .sigevEntry p q => Sys2Proof.Machine.execSigevEntry p q s
  | .killEntry p q => Sys2Proof.Machine.execKillEntry p q s
  | .killQuiesced lid => Sys2Proof.Machine.execKillQuiesced lid s
  | .textLoad lid => Sys2Proof.Machine.execTextLoad lid s
  | .startBroadcast lid => Sys2Proof.Machine.execStartBroadcast lid s
  | .firstFetch lid => Sys2Proof.Machine.execFirstFetch lid s
  | .watchdogExpiry lid since => Sys2Proof.Machine.execWatchdogExpiry lid since s
  | .lineRefill k t line => Sys2Proof.Machine.execLineRefill k t line s
  | .fillerFetch k line => Sys2Proof.Machine.execFillerFetch k line s
  | .tickArrival k mask => Sys2Proof.Machine.execTickArrival k mask s
  | .tickTaken k t => Sys2Proof.Machine.execTickTaken k t s
  | .threadPark k t since => Sys2Proof.Machine.execThreadPark k t since s
  | .swaitExpiry k t upto => Sys2Proof.Machine.execSwaitExpiry k t upto s
  | .idleWake k t since => Sys2Proof.Machine.execIdleWake k t since s
  | .mailboxArrival d msg => Sys2Proof.Machine.execMailboxArrival d msg s
  | .tileResume k fill => Sys2Proof.Machine.execTileResume k fill s
  | .engineRetry kind id => Sys2Proof.Machine.execEngineRetry kind id s
  | .gangStop lid why => Sys2Proof.Machine.execGangStop lid why s
  | .contextSave lid => Sys2Proof.Machine.execContextSave lid s
  | .contextRestore lid => Sys2Proof.Machine.execContextRestore lid s
  | .undoLogDrain k share => Sys2Proof.Machine.execUndoLogDrain k share s
  | .groupUndoDrain g => Sys2Proof.Machine.execGroupUndoDrain g s
  | .saveSeal emergency => Sys2Proof.Machine.execSaveSeal emergency s
  | .emergencyTimeout p since => Sys2Proof.Machine.execEmergencyTimeout p since s
  | .escrowAck p x => Sys2Proof.Machine.execEscrowAck p x s
  | .uncorrectableFault unit index place => Sys2Proof.Machine.execUncorrectableFault unit index place s
  | .rollbackDone code origin => Sys2Proof.Machine.execRollbackDone code origin s
  | .tileRetire k => Sys2Proof.Machine.execTileRetire k s
  | .finalExchange lid lvl inst => Sys2Proof.Machine.execFinalExchange lid lvl inst s
  | .completionReport lid lvl inst => Sys2Proof.Machine.execCompletionReport lid lvl inst s
  | .completionCommit lid => Sys2Proof.Machine.execCompletionCommit lid s
  | .launchComplete lid => Sys2Proof.Machine.execLaunchComplete lid s
  | .completionAdd lid => Sys2Proof.Machine.execCompletionAdd lid s
  | .completionAddDone lid => Sys2Proof.Machine.execCompletionAddDone lid s
  | .rampTick => Sys2Proof.Machine.execRampTick s
  | .telemetryTick => Sys2Proof.Machine.execTelemetryTick s
  | .overtempWarning p => Sys2Proof.Machine.execOvertempWarning p s
  | .thermalShutdown p => Sys2Proof.Machine.execThermalShutdown p s
  | .coldReset => Sys2Proof.Machine.execColdReset s
  | .warmReset => Sys2Proof.Machine.execWarmReset s
  | .repairLearned d col => Sys2Proof.Machine.execRepairLearned d col s
  | .repairCommit d col => Sys2Proof.Machine.execRepairCommit d col s
  | .boot p image text lc nthr => Sys2Proof.Machine.execBoot p image text lc nthr s
  | .spdmRequest p req => Sys2Proof.Machine.execSpdmRequest p req s
  | .cxlMemAccess p write a bytes => Sys2Proof.Machine.execCxlMemAccess p write a bytes s
  | .managementWrite p off v trusted => Sys2Proof.Machine.execManagementWrite p off v trusted s
  | .mgLinkctl p v trusted => Sys2Proof.Machine.execMgLinkctl p v trusted s
  | .mgBbctl p v trusted => Sys2Proof.Machine.execMgBbctl p v trusted s
  | .mgPod v trusted => Sys2Proof.Machine.execMgPod v trusted s
  | .unassignedWord w => Sys2Proof.Machine.execUnassignedWord w s
  | .trainingPatternArrival p l => Sys2Proof.Machine.execTrainingPatternArrival p l s
  | .switchFailure lvl index => Sys2Proof.Machine.execSwitchFailure lvl index s
  | .translationInvalidation kind index ctx page => Sys2Proof.Machine.execTranslationInvalidation kind index ctx page s
  | .scSeta imm h z g f => Sys2Proof.Machine.execScSeta imm h z g f s
  | .scSetb imm h kind z g f => Sys2Proof.Machine.execScSetb imm h kind z g f s
  | .scMove n => Sys2Proof.Machine.execScMove n s
  | .scMoveq n mode f => Sys2Proof.Machine.execScMoveq n mode f s
  | .scLoop imm z g f => Sys2Proof.Machine.execScLoop imm z g f s
  | .scNext t f => Sys2Proof.Machine.execScNext t f s
  | .scWaitp => Sys2Proof.Machine.execScWaitp s
  | .scArrive => Sys2Proof.Machine.execScArrive s
  | .scBarr imm z g f => Sys2Proof.Machine.execScBarr imm z g f s
  | .scJump t => Sys2Proof.Machine.execScJump t s
  | .scEnd => Sys2Proof.Machine.execScEnd s
  | .nop => Sys2Proof.Machine.execNop s
  | .halt => Sys2Proof.Machine.execHalt s
  | .trap c => Sys2Proof.Machine.execTrap c s
  | .eret => Sys2Proof.Machine.execEret s
  | .mfsr d n => Sys2Proof.Machine.execMfsr d n s
  | .mtsr a n => Sys2Proof.Machine.execMtsr a n s
  | .swait a => Sys2Proof.Machine.execSwait a s
  | .wsave => Sys2Proof.Machine.execWsave s
  | .wrest => Sys2Proof.Machine.execWrest s
  | .mbxrd d w => Sys2Proof.Machine.execMbxrd d w s
  | .mbxpost a => Sys2Proof.Machine.execMbxpost a s
  | .xresume a => Sys2Proof.Machine.execXresume a s
  | .gstop a => Sys2Proof.Machine.execGstop a s
  | .gstopRelease a => Sys2Proof.Machine.execGstopRelease a s
  | .unpark a => Sys2Proof.Machine.execUnpark a s
  | .idle a => Sys2Proof.Machine.execIdle a s
  | .add d a b => Sys2Proof.Machine.execAdd d a b s
  | .sub d a b => Sys2Proof.Machine.execSub d a b s
  | .addw d a b => Sys2Proof.Machine.execAddw d a b s
  | .subw d a b => Sys2Proof.Machine.execSubw d a b s
  | .and d a b => Sys2Proof.Machine.execAnd d a b s
  | .or d a b => Sys2Proof.Machine.execOr d a b s
  | .xor d a b => Sys2Proof.Machine.execXor d a b s
  | .andn d a b => Sys2Proof.Machine.execAndn d a b s
  | .sll d a b => Sys2Proof.Machine.execSll d a b s
  | .srl d a b => Sys2Proof.Machine.execSrl d a b s
  | .sra d a b => Sys2Proof.Machine.execSra d a b s
  | .mul d a b => Sys2Proof.Machine.execMul d a b s
  | .mulw d a b => Sys2Proof.Machine.execMulw d a b s
  | .mulh d a b => Sys2Proof.Machine.execMulh d a b s
  | .mulhu d a b => Sys2Proof.Machine.execMulhu d a b s
  | .div d a b => Sys2Proof.Machine.execDiv d a b s
  | .divu d a b => Sys2Proof.Machine.execDivu d a b s
  | .rem d a b => Sys2Proof.Machine.execRem d a b s
  | .remu d a b => Sys2Proof.Machine.execRemu d a b s
  | .min d a b => Sys2Proof.Machine.execMin d a b s
  | .max d a b => Sys2Proof.Machine.execMax d a b s
  | .minu d a b => Sys2Proof.Machine.execMinu d a b s
  | .maxu d a b => Sys2Proof.Machine.execMaxu d a b s
  | .seq d a b => Sys2Proof.Machine.execSeq d a b s
  | .slt d a b => Sys2Proof.Machine.execSlt d a b s
  | .sltu d a b => Sys2Proof.Machine.execSltu d a b s
  | .clz d a => Sys2Proof.Machine.execClz d a s
  | .ctz d a => Sys2Proof.Machine.execCtz d a s
  | .popc d a => Sys2Proof.Machine.execPopc d a s
  | .sextb d a => Sys2Proof.Machine.execSextb d a s
  | .sexth d a => Sys2Proof.Machine.execSexth d a s
  | .sextw d a => Sys2Proof.Machine.execSextw d a s
  | .zextb d a => Sys2Proof.Machine.execZextb d a s
  | .zexth d a => Sys2Proof.Machine.execZexth d a s
  | .zextw d a => Sys2Proof.Machine.execZextw d a s
  | .addi d a imm => Sys2Proof.Machine.execAddi d a imm s
  | .andi d a imm => Sys2Proof.Machine.execAndi d a imm s
  | .ori d a imm => Sys2Proof.Machine.execOri d a imm s
  | .xori d a imm => Sys2Proof.Machine.execXori d a imm s
  | .slti d a imm => Sys2Proof.Machine.execSlti d a imm s
  | .sltiu d a imm => Sys2Proof.Machine.execSltiu d a imm s
  | .slli d a h => Sys2Proof.Machine.execSlli d a h s
  | .srli d a h => Sys2Proof.Machine.execSrli d a h s
  | .srai d a h => Sys2Proof.Machine.execSrai d a h s
  | .ldi d imm => Sys2Proof.Machine.execLdi d imm s
  | .ldih d imm => Sys2Proof.Machine.execLdih d imm s
  | .bfx d a b => Sys2Proof.Machine.execBfx d a b s
  | .bfxu d a b => Sys2Proof.Machine.execBfxu d a b s
  | .bfi d a b => Sys2Proof.Machine.execBfi d a b s
  | .csel d a b c => Sys2Proof.Machine.execCsel d a b c s
  | .cseln d a b c => Sys2Proof.Machine.execCseln d a b c s
  | .beq a b n o => Sys2Proof.Machine.execBeq a b n o s
  | .bne a b n o => Sys2Proof.Machine.execBne a b n o s
  | .blt a b n o => Sys2Proof.Machine.execBlt a b n o s
  | .bge a b n o => Sys2Proof.Machine.execBge a b n o s
  | .bltu a b n o => Sys2Proof.Machine.execBltu a b n o s
  | .bgeu a b n o => Sys2Proof.Machine.execBgeu a b n o s
  | .jmp j => Sys2Proof.Machine.execJmp j s
  | .call j => Sys2Proof.Machine.execCall j s
  | .jr a => Sys2Proof.Machine.execJr a s
  | .callr a => Sys2Proof.Machine.execCallr a s
  | .ret => Sys2Proof.Machine.execRet s
  | .lnset a j => Sys2Proof.Machine.execLnset a j s
  | .lnco k a j => Sys2Proof.Machine.execLnco k a j s
  | .lnbase k a j => Sys2Proof.Machine.execLnbase k a j s
  | .lnidx a j => Sys2Proof.Machine.execLnidx a j s
  | .loop o j => Sys2Proof.Machine.execLoop o j s
  | .ldtB d a imm => Sys2Proof.Machine.execLdtB d a imm s
  | .ldtBu d a imm => Sys2Proof.Machine.execLdtBu d a imm s
  | .ldtH d a imm => Sys2Proof.Machine.execLdtH d a imm s
  | .ldtHu d a imm => Sys2Proof.Machine.execLdtHu d a imm s
  | .ldtW d a imm => Sys2Proof.Machine.execLdtW d a imm s
  | .ldtWu d a imm => Sys2Proof.Machine.execLdtWu d a imm s
  | .ldtD d a imm => Sys2Proof.Machine.execLdtD d a imm s
  | .ldtBAreg d k => Sys2Proof.Machine.execLdtBAreg d k s
  | .ldtBuAreg d k => Sys2Proof.Machine.execLdtBuAreg d k s
  | .ldtHAreg d k => Sys2Proof.Machine.execLdtHAreg d k s
  | .ldtHuAreg d k => Sys2Proof.Machine.execLdtHuAreg d k s
  | .ldtWAreg d k => Sys2Proof.Machine.execLdtWAreg d k s
  | .ldtWuAreg d k => Sys2Proof.Machine.execLdtWuAreg d k s
  | .ldtDAreg d k => Sys2Proof.Machine.execLdtDAreg d k s
  | .sttB d a imm => Sys2Proof.Machine.execSttB d a imm s
  | .sttH d a imm => Sys2Proof.Machine.execSttH d a imm s
  | .sttW d a imm => Sys2Proof.Machine.execSttW d a imm s
  | .sttD d a imm => Sys2Proof.Machine.execSttD d a imm s
  | .sttBAreg d k => Sys2Proof.Machine.execSttBAreg d k s
  | .sttHAreg d k => Sys2Proof.Machine.execSttHAreg d k s
  | .sttWAreg d k => Sys2Proof.Machine.execSttWAreg d k s
  | .sttDAreg d k => Sys2Proof.Machine.execSttDAreg d k s
  | .amtAdd d a b w => Sys2Proof.Machine.execAmtAdd d a b w s
  | .amtSwap d a b w => Sys2Proof.Machine.execAmtSwap d a b w s
  | .amtCas d a b w => Sys2Proof.Machine.execAmtCas d a b w s
  | .amtMin d a b w => Sys2Proof.Machine.execAmtMin d a b w s
  | .amtMax d a b w => Sys2Proof.Machine.execAmtMax d a b w s
  | .amtAnd d a b w => Sys2Proof.Machine.execAmtAnd d a b w s
  | .amtOr d a b w => Sys2Proof.Machine.execAmtOr d a b w s
  | .amtXor d a b w => Sys2Proof.Machine.execAmtXor d a b w s
  | .vldt d a o m => Sys2Proof.Machine.execVldt d a o m s
  | .vstt d a o m => Sys2Proof.Machine.execVstt d a o m s
  | .vldts d a b m => Sys2Proof.Machine.execVldts d a b m s
  | .vstts d a b m => Sys2Proof.Machine.execVstts d a b m s
  | .vgath d a b m => Sys2Proof.Machine.execVgath d a b m s
  | .vscat d a b m => Sys2Proof.Machine.execVscat d a b m s
  | .copyb d a c => Sys2Proof.Machine.execCopyb d a c s
  | .fillb d a c => Sys2Proof.Machine.execFillb d a c s
  | .vaddF d a b m => Sys2Proof.Machine.execVaddF d a b m s
  | .vsubF d a b m => Sys2Proof.Machine.execVsubF d a b m s
  | .vmulF d a b m => Sys2Proof.Machine.execVmulF d a b m s
  | .vfmaF d a b m => Sys2Proof.Machine.execVfmaF d a b m s
  | .vfmsF d a b m => Sys2Proof.Machine.execVfmsF d a b m s
  | .vfnmaF d a b m => Sys2Proof.Machine.execVfnmaF d a b m s
  | .vminF d a b m => Sys2Proof.Machine.execVminF d a b m s
  | .vmaxF d a b m => Sys2Proof.Machine.execVmaxF d a b m s
  | .vabsF d a m => Sys2Proof.Machine.execVabsF d a m s
  | .vnegF d a m => Sys2Proof.Machine.execVnegF d a m s
  | .vrcpF d a m => Sys2Proof.Machine.execVrcpF d a m s
  | .vrsqF d a m => Sys2Proof.Machine.execVrsqF d a m s
  | .vsqrtF d a m => Sys2Proof.Machine.execVsqrtF d a m s
  | .vdivF d a b m => Sys2Proof.Machine.execVdivF d a b m s
  | .vexp2F d a m => Sys2Proof.Machine.execVexp2F d a m s
  | .vlog2F d a m => Sys2Proof.Machine.execVlog2F d a m s
  | .vaddI d a b m => Sys2Proof.Machine.execVaddI d a b m s
  | .vsubI d a b m => Sys2Proof.Machine.execVsubI d a b m s
  | .vmulI d a b m => Sys2Proof.Machine.execVmulI d a b m s
  | .vmulhI d a b m => Sys2Proof.Machine.execVmulhI d a b m s
  | .vmulhuI d a b m => Sys2Proof.Machine.execVmulhuI d a b m s
  | .vminI d a b m => Sys2Proof.Machine.execVminI d a b m s
  | .vmaxI d a b m => Sys2Proof.Machine.execVmaxI d a b m s
  | .vminuI d a b m => Sys2Proof.Machine.execVminuI d a b m s
  | .vmaxuI d a b m => Sys2Proof.Machine.execVmaxuI d a b m s
  | .vabsI d a m => Sys2Proof.Machine.execVabsI d a m s
  | .vaddsI d a b m => Sys2Proof.Machine.execVaddsI d a b m s
  | .vsubsI d a b m => Sys2Proof.Machine.execVsubsI d a b m s
  | .vand d a b m => Sys2Proof.Machine.execVand d a b m s
  | .vor d a b m => Sys2Proof.Machine.execVor d a b m s
  | .vxor d a b m => Sys2Proof.Machine.execVxor d a b m s
  | .vandn d a b m => Sys2Proof.Machine.execVandn d a b m s
  | .vnot d a m => Sys2Proof.Machine.execVnot d a m s
  | .vshlV d a b m => Sys2Proof.Machine.execVshlV d a b m s
  | .vshrV d a b m => Sys2Proof.Machine.execVshrV d a b m s
  | .vsraV d a b m => Sys2Proof.Machine.execVsraV d a b m s
  | .vshli d a n m => Sys2Proof.Machine.execVshli d a n m s
  | .vshri d a n m => Sys2Proof.Machine.execVshri d a n m s
  | .vsrai d a n m => Sys2Proof.Machine.execVsrai d a n m s
  | .vpopc d a m => Sys2Proof.Machine.execVpopc d a m s
  | .vclz d a m => Sys2Proof.Machine.execVclz d a m s
  | .vcmpFEq d a b m => Sys2Proof.Machine.execVcmpFEq d a b m s
  | .vcmpFNe d a b m => Sys2Proof.Machine.execVcmpFNe d a b m s
  | .vcmpFLt d a b m => Sys2Proof.Machine.execVcmpFLt d a b m s
  | .vcmpFLe d a b m => Sys2Proof.Machine.execVcmpFLe d a b m s
  | .vcmpFUn d a b m => Sys2Proof.Machine.execVcmpFUn d a b m s
  | .vcmpIEq d a b m => Sys2Proof.Machine.execVcmpIEq d a b m s
  | .vcmpINe d a b m => Sys2Proof.Machine.execVcmpINe d a b m s
  | .vcmpILt d a b m => Sys2Proof.Machine.execVcmpILt d a b m s
  | .vcmpILe d a b m => Sys2Proof.Machine.execVcmpILe d a b m s
  | .vcmpILtu d a b m => Sys2Proof.Machine.execVcmpILtu d a b m s
  | .vcmpILeu d a b m => Sys2Proof.Machine.execVcmpILeu d a b m s
  | .vsel d a b m => Sys2Proof.Machine.execVsel d a b m s
  | .vclass d a m => Sys2Proof.Machine.execVclass d a m s
  | .vcvtFI d a u r m => Sys2Proof.Machine.execVcvtFI d a u r m s
  | .vcvtIF d a u r m => Sys2Proof.Machine.execVcvtIF d a u r m s
  | .vcvtBfF d a h r m => Sys2Proof.Machine.execVcvtBfF d a h r m s
  | .vcvtFBf d a h m => Sys2Proof.Machine.execVcvtFBf d a h m s
  | .vcvtHF d a h r m => Sys2Proof.Machine.execVcvtHF d a h r m s
  | .vcvtFH d a h m => Sys2Proof.Machine.execVcvtFH d a h m s
  | .vquant d a b m => Sys2Proof.Machine.execVquant d a b m s
  | .vdeq d a h w m => Sys2Proof.Machine.execVdeq d a h w m s
  | .vpackI8 d a q u m => Sys2Proof.Machine.execVpackI8 d a q u m s
  | .vunpkI8 d a q u m => Sys2Proof.Machine.execVunpkI8 d a q u m s
  | .vredaddF d a m => Sys2Proof.Machine.execVredaddF d a m s
  | .vredaddI d a m => Sys2Proof.Machine.execVredaddI d a m s
  | .vredmaxF d a m => Sys2Proof.Machine.execVredmaxF d a m s
  | .vredminF d a m => Sys2Proof.Machine.execVredminF d a m s
  | .vredmaxI d a m => Sys2Proof.Machine.execVredmaxI d a m s
  | .vamax d a m => Sys2Proof.Machine.execVamax d a m s
  | .vscanI d a m => Sys2Proof.Machine.execVscanI d a m s
  | .vscanF d a m => Sys2Proof.Machine.execVscanF d a m s
  | .vperm d a b m => Sys2Proof.Machine.execVperm d a b m s
  | .vbcast d a m => Sys2Proof.Machine.execVbcast d a m s
  | .vextr d a n => Sys2Proof.Machine.execVextr d a n s
  | .vins d a n m => Sys2Proof.Machine.execVins d a n m s
  | .vcompr d a m => Sys2Proof.Machine.execVcompr d a m s
  | .vexpnd d a m => Sys2Proof.Machine.execVexpnd d a m s
  | .vrot d a n m => Sys2Proof.Machine.execVrot d a n m s
  | .viota d m => Sys2Proof.Machine.execViota d m s
  | .mand d a b => Sys2Proof.Machine.execMand d a b s
  | .mor d a b => Sys2Proof.Machine.execMor d a b s
  | .mxor d a b => Sys2Proof.Machine.execMxor d a b s
  | .mnot d a => Sys2Proof.Machine.execMnot d a s
  | .mpop d a => Sys2Proof.Machine.execMpop d a s
  | .mfirst d a => Sys2Proof.Machine.execMfirst d a s
  | .mset d n => Sys2Proof.Machine.execMset d n s
  | .mget d a n => Sys2Proof.Machine.execMget d a n s
  | .vmov16 d v m => Sys2Proof.Machine.execVmov16 d v m s
  | .vaddF16 d v m => Sys2Proof.Machine.execVaddF16 d v m s
  | .vsubF16 d v m => Sys2Proof.Machine.execVsubF16 d v m s
  | .vmulF16 d v m => Sys2Proof.Machine.execVmulF16 d v m s
  | .vfmac16 d v m => Sys2Proof.Machine.execVfmac16 d v m s
  | .vmaxF16 d v m => Sys2Proof.Machine.execVmaxF16 d v m s
  | .vminF16 d v m => Sys2Proof.Machine.execVminF16 d v m s
  | .vaddI16 d v m => Sys2Proof.Machine.execVaddI16 d v m s
  | .vsubI16 d v m => Sys2Proof.Machine.execVsubI16 d v m s
  | .vmulI16 d v m => Sys2Proof.Machine.execVmulI16 d v m s
  | .vand16 d v m => Sys2Proof.Machine.execVand16 d v m s
  | .vor16 d v m => Sys2Proof.Machine.execVor16 d v m s
  | .vxor16 d v m => Sys2Proof.Machine.execVxor16 d v m s
  | .vshlV16 d v m => Sys2Proof.Machine.execVshlV16 d v m s
  | .vshrV16 d v m => Sys2Proof.Machine.execVshrV16 d v m s
  | .vsraV16 d v m => Sys2Proof.Machine.execVsraV16 d v m s
  | .mmaBf b t x k n c => Sys2Proof.Machine.execMmaBf b t x k n c s
  | .mmaH b t x k n c => Sys2Proof.Machine.execMmaH b t x k n c s
  | .mmaD8 b t x k n c => Sys2Proof.Machine.execMmaD8 b t x k n c s
  | .mmaI8 b t x k n c => Sys2Proof.Machine.execMmaI8 b t x k n c s
  | .mzero c => Sys2Proof.Machine.execMzero c s
  | .mrd r d c => Sys2Proof.Machine.execMrd r d c s
  | .mwr r v c => Sys2Proof.Machine.execMwr r v c s
  | .mwm d c => Sys2Proof.Machine.execMwm d c s
  | .msta imm k n c => Sys2Proof.Machine.execMsta imm k n c s
  | .mwait q c => Sys2Proof.Machine.execMwait q c s
  | .mscale m a => Sys2Proof.Machine.execMscale m a s
  | .mmask a => Sys2Proof.Machine.execMmask a s
  | .getg t a l v => Sys2Proof.Machine.execGetg t a l v s
  | .gets t a l v => Sys2Proof.Machine.execGets t a l v s
  | .getm t a l v => Sys2Proof.Machine.execGetm t a l v s
  | .geth t a l v => Sys2Proof.Machine.execGeth t a l v s
  | .getr t a l v => Sys2Proof.Machine.execGetr t a l v s
  | .gett t a l => Sys2Proof.Machine.execGett t a l s
  | .depg t a l => Sys2Proof.Machine.execDepg t a l s
  | .deps t a l => Sys2Proof.Machine.execDeps t a l s
  | .depm t a l => Sys2Proof.Machine.execDepm t a l s
  | .deph t a l => Sys2Proof.Machine.execDeph t a l s
  | .depr t a l => Sys2Proof.Machine.execDepr t a l s
  | .dept t a l => Sys2Proof.Machine.execDept t a l s
  | .depa t a l => Sys2Proof.Machine.execDepa t a l s
  | .depbG t a l => Sys2Proof.Machine.execDepbG t a l s
  | .depbS t a l => Sys2Proof.Machine.execDepbS t a l s
  | .depbM t a l => Sys2Proof.Machine.execDepbM t a l s
  | .depbH t a l => Sys2Proof.Machine.execDepbH t a l s
  | .depbR t a l => Sys2Proof.Machine.execDepbR t a l s
  | .depbT t a l => Sys2Proof.Machine.execDepbT t a l s
  | .amogAdd t a v => Sys2Proof.Machine.execAmogAdd t a v s
  | .amomAdd t a v => Sys2Proof.Machine.execAmomAdd t a v s
  | .amorAdd t a v => Sys2Proof.Machine.execAmorAdd t a v s
  | .amogMin t a v => Sys2Proof.Machine.execAmogMin t a v s
  | .amomMin t a v => Sys2Proof.Machine.execAmomMin t a v s
  | .amorMin t a v => Sys2Proof.Machine.execAmorMin t a v s
  | .amogMax t a v => Sys2Proof.Machine.execAmogMax t a v s
  | .amomMax t a v => Sys2Proof.Machine.execAmomMax t a v s
  | .amorMax t a v => Sys2Proof.Machine.execAmorMax t a v s
  | .amogSwap t a v => Sys2Proof.Machine.execAmogSwap t a v s
  | .amomSwap t a v => Sys2Proof.Machine.execAmomSwap t a v s
  | .amorSwap t a v => Sys2Proof.Machine.execAmorSwap t a v s
  | .amogCas t a v => Sys2Proof.Machine.execAmogCas t a v s
  | .amomCas t a v => Sys2Proof.Machine.execAmomCas t a v s
  | .amorCas t a v => Sys2Proof.Machine.execAmorCas t a v s
  | .bseal => Sys2Proof.Machine.execBseal s
  | .bwait d a => Sys2Proof.Machine.execBwait d a s
  | .xfence a b => Sys2Proof.Machine.execXfence a b s
  | .sestart a b => Sys2Proof.Machine.execSestart a b s
  | .sestop a => Sys2Proof.Machine.execSestop a s
  | .sepoll d a => Sys2Proof.Machine.execSepoll d a s
  | .wdef a b => Sys2Proof.Machine.execWdef a b s
  | .waita d a w => Sys2Proof.Machine.execWaita d a w s
  | .rela a w => Sys2Proof.Machine.execRela a w s
  | .sync d a p l => Sys2Proof.Machine.execSync d a p l s
  | .abort a => Sys2Proof.Machine.execAbort a s
  | .aclr => Sys2Proof.Machine.execAclr s
  | .seal d => Sys2Proof.Machine.execSeal d s
  | .bara a imm => Sys2Proof.Machine.execBara a imm s
  | .barw imm => Sys2Proof.Machine.execBarw imm s
  | .tsync => Sys2Proof.Machine.execTsync s
  | .kmint d a b => Sys2Proof.Machine.execKmint d a b s
  | .krev d a => Sys2Proof.Machine.execKrev d a s
  | .cset d a b => Sys2Proof.Machine.execCset d a b s
  | .cfree d a => Sys2Proof.Machine.execCfree d a s
  | .cfire a => Sys2Proof.Machine.execCfire a s
  | .mlred k a b w x => Sys2Proof.Machine.execMlred k a b w x s
  | .mcast a b => Sys2Proof.Machine.execMcast a b s

end Sys2Proof.Machine
end

