-- ==== Sys2Proof/Machine/Issue.lean ====
section
/-!
DEFINITION. Issuing a word: `issueWord` decodes it and executes its instruction, or takes ILLEGAL for a word that
no table assigns (R88). `issueFast` is the same function as one tree over the word that builds no instruction, which is what compiled
code runs; the two are proved equal.
-/

namespace Sys2Proof.Machine

/-- A word that the tables do not assign (R88). -/
def unassigned (w : BitVec 32) (s : State) : Out := execUnassignedWord w s

/-- What a decoded 32-bit word does. -/
def runDecoded (r : Except DecodeError Instr) (w : BitVec 32) (s : State) : Out :=
  match r with
  | .ok i => if i.wellFormed then exec i s else unassigned w s
  | .error _ => unassigned w s

theorem runDecoded_need (c : Bool) (i : Instr) (w : BitVec 32) (s : State) :
    runDecoded (need c i) w s = if c && i.wellFormed then exec i s else unassigned w s := by
  cases c <;> rfl

theorem runDecoded_need_wf (c : Bool) (i : Instr) (w : BitVec 32) (s : State) (h : i.wellFormed = true) :
    runDecoded (need c i) w s = if c then exec i s else unassigned w s := by
  rw [runDecoded_need, h, Bool.and_true]

/-- The word at Q0 is decoded and executed (R78, R88). -/
noncomputable def issueWord (w : BitVec 32) (s : State) : Out :=
  if w.getLsbD 0 then runDecoded (decodeOperands w) w s else exec (decode16 (w.setWidth 16)) s

def issueSys (w : BitVec 32) (s : State) : Out :=
  match ra w with
  | 0x0#5 => if (imm12 w == 0#12 && rd w == 0#5) then execNop s else unassigned w s
  | 0x1#5 => if (imm12 w == 0#12 && rd w == 0#5) then execHalt s else unassigned w s
  | 0x2#5 => if (rd w == 0#5) then execTrap (imm12 w) s else unassigned w s
  | 0x3#5 => if (imm12 w == 0#12 && rd w == 0#5) then execEret s else unassigned w s
  | 0x4#5 => execMfsr (rd w) (imm12 w) s
  | 0x5#5 => execMtsr (rd w) (imm12 w) s
  | 0x6#5 => if (imm12 w == 0#12) then execSwait (rd w) s else unassigned w s
  | 0x7#5 => if (imm12 w == 0#12 && rd w == 0#5) then execWsave s else unassigned w s
  | 0x8#5 => if (imm12 w == 0#12 && rd w == 0#5) then execWrest s else unassigned w s
  | 0x10#5 => if ((imm12 w).extractLsb' 1 11 == 0#11) then execMbxrd (rd w) ((imm12 w).extractLsb' 0 1) s else unassigned w s
  | 0x11#5 => if (imm12 w == 0#12) then execMbxpost (rd w) s else unassigned w s
  | 0x12#5 => if (imm12 w == 0#12) then execXresume (rd w) s else unassigned w s
  | 0x13#5 =>
    match (imm12 w).extractLsb' 0 1 with
    | 0x0#1 => if ((imm12 w).extractLsb' 1 11 == 0#11) then execGstop (rd w) s else unassigned w s
    | 0x1#1 => if ((imm12 w).extractLsb' 1 11 == 0#11) then execGstopRelease (rd w) s else unassigned w s
  | 0x14#5 => if (imm12 w == 0#12) then execUnpark (rd w) s else unassigned w s
  | 0x15#5 => if (imm12 w == 0#12) then execIdle (rd w) s else unassigned w s
  | _ => unassigned w s

theorem issueSys_eq (w : BitVec 32) (s : State) : runDecoded (decodeSys w) w s = issueSys w s := by
  unfold decodeSys issueSys
  split <;> first
    | (first | rfl | exact runDecoded_need_wf _ _ _ _ rfl | exact runDecoded_need _ _ _ _)
    | (simp only [*]; first | rfl | exact runDecoded_need_wf _ _ _ _ rfl | exact runDecoded_need _ _ _ _)
    | (split <;> first | (first | rfl | exact runDecoded_need_wf _ _ _ _ rfl | exact runDecoded_need _ _ _ _) | (simp only [*]; first | rfl | exact runDecoded_need_wf _ _ _ _ rfl | exact runDecoded_need _ _ _ _))
    | (simp only [*]; split <;> first | (first | rfl | exact runDecoded_need_wf _ _ _ _ rfl | exact runDecoded_need _ _ _ _) | (simp only [*]; first | rfl | exact runDecoded_need_wf _ _ _ _ rfl | exact runDecoded_need _ _ _ _))

def issueAlu (w : BitVec 32) (s : State) : Out :=
  match fn7 w with
  | 0x0#7 => execAdd (rd w) (ra w) (rb w) s
  | 0x1#7 => execSub (rd w) (ra w) (rb w) s
  | 0x2#7 => execAddw (rd w) (ra w) (rb w) s
  | 0x3#7 => execSubw (rd w) (ra w) (rb w) s
  | 0x4#7 => execAnd (rd w) (ra w) (rb w) s
  | 0x5#7 => execOr (rd w) (ra w) (rb w) s
  | 0x6#7 => execXor (rd w) (ra w) (rb w) s
  | 0x7#7 => execAndn (rd w) (ra w) (rb w) s
  | 0x8#7 => execSll (rd w) (ra w) (rb w) s
  | 0x9#7 => execSrl (rd w) (ra w) (rb w) s
  | 0xA#7 => execSra (rd w) (ra w) (rb w) s
  | 0xB#7 => execMul (rd w) (ra w) (rb w) s
  | 0xC#7 => execMulw (rd w) (ra w) (rb w) s
  | 0xD#7 => execMulh (rd w) (ra w) (rb w) s
  | 0xE#7 => execMulhu (rd w) (ra w) (rb w) s
  | 0xF#7 => execDiv (rd w) (ra w) (rb w) s
  | 0x10#7 => execDivu (rd w) (ra w) (rb w) s
  | 0x11#7 => execRem (rd w) (ra w) (rb w) s
  | 0x12#7 => execRemu (rd w) (ra w) (rb w) s
  | 0x13#7 => execMin (rd w) (ra w) (rb w) s
  | 0x14#7 => execMax (rd w) (ra w) (rb w) s
  | 0x15#7 => execMinu (rd w) (ra w) (rb w) s
  | 0x16#7 => execMaxu (rd w) (ra w) (rb w) s
  | 0x17#7 => execSeq (rd w) (ra w) (rb w) s
  | 0x18#7 => execSlt (rd w) (ra w) (rb w) s
  | 0x19#7 => execSltu (rd w) (ra w) (rb w) s
  | 0x1A#7 => if (rb w == 0#5) then execClz (rd w) (ra w) s else unassigned w s
  | 0x1B#7 => if (rb w == 0#5) then execCtz (rd w) (ra w) s else unassigned w s
  | 0x1C#7 => if (rb w == 0#5) then execPopc (rd w) (ra w) s else unassigned w s
  | 0x1D#7 => if (rb w == 0#5) then execSextb (rd w) (ra w) s else unassigned w s
  | 0x1E#7 => if (rb w == 0#5) then execSexth (rd w) (ra w) s else unassigned w s
  | 0x1F#7 => if (rb w == 0#5) then execSextw (rd w) (ra w) s else unassigned w s
  | 0x20#7 => if (rb w == 0#5) then execZextb (rd w) (ra w) s else unassigned w s
  | 0x21#7 => if (rb w == 0#5) then execZexth (rd w) (ra w) s else unassigned w s
  | 0x22#7 => if (rb w == 0#5) then execZextw (rd w) (ra w) s else unassigned w s
  | _ => unassigned w s

theorem issueAlu_eq (w : BitVec 32) (s : State) : runDecoded (decodeAlu w) w s = issueAlu w s := by
  unfold decodeAlu issueAlu
  split <;> first
    | (first | rfl | exact runDecoded_need_wf _ _ _ _ rfl | exact runDecoded_need _ _ _ _)
    | (simp only [*]; first | rfl | exact runDecoded_need_wf _ _ _ _ rfl | exact runDecoded_need _ _ _ _)

def issueCompareImm (w : BitVec 32) (s : State) : Out :=
  match (imm12 w).extractLsb' 11 1 with
  | 0x0#1 => execSlti (rd w) (ra w) ((imm12 w).extractLsb' 0 11) s
  | 0x1#1 => execSltiu (rd w) (ra w) ((imm12 w).extractLsb' 0 11) s

theorem issueCompareImm_eq (w : BitVec 32) (s : State) : runDecoded (decodeCompareImm w) w s = issueCompareImm w s := by
  unfold decodeCompareImm issueCompareImm
  split <;> first
    | (first | rfl | exact runDecoded_need_wf _ _ _ _ rfl | exact runDecoded_need _ _ _ _)
    | (simp only [*]; first | rfl | exact runDecoded_need_wf _ _ _ _ rfl | exact runDecoded_need _ _ _ _)

def issueShiftImm (w : BitVec 32) (s : State) : Out :=
  match (imm12 w).extractLsb' 6 6 with
  | 0x0#6 => execSlli (rd w) (ra w) ((imm12 w).extractLsb' 0 6) s
  | 0x1#6 => execSrli (rd w) (ra w) ((imm12 w).extractLsb' 0 6) s
  | 0x2#6 => execSrai (rd w) (ra w) ((imm12 w).extractLsb' 0 6) s
  | _ => unassigned w s

theorem issueShiftImm_eq (w : BitVec 32) (s : State) : runDecoded (decodeShiftImm w) w s = issueShiftImm w s := by
  unfold decodeShiftImm issueShiftImm
  split <;> first
    | (first | rfl | exact runDecoded_need_wf _ _ _ _ rfl | exact runDecoded_need _ _ _ _)
    | (simp only [*]; first | rfl | exact runDecoded_need_wf _ _ _ _ rfl | exact runDecoded_need _ _ _ _)

def issueBitField (w : BitVec 32) (s : State) : Out :=
  match fn7 w with
  | 0x0#7 => execBfx (rd w) (ra w) (rb w) s
  | 0x1#7 => execBfxu (rd w) (ra w) (rb w) s
  | 0x2#7 => execBfi (rd w) (ra w) (rb w) s
  | _ => unassigned w s

theorem issueBitField_eq (w : BitVec 32) (s : State) : runDecoded (decodeBitField w) w s = issueBitField w s := by
  unfold decodeBitField issueBitField
  split <;> first
    | (first | rfl | exact runDecoded_need_wf _ _ _ _ rfl | exact runDecoded_need _ _ _ _)
    | (simp only [*]; first | rfl | exact runDecoded_need_wf _ _ _ _ rfl | exact runDecoded_need _ _ _ _)

def issueSelect (w : BitVec 32) (s : State) : Out :=
  match (fn7 w).extractLsb' 5 2 with
  | 0x0#2 => execCsel (rd w) (ra w) (rb w) ((fn7 w).extractLsb' 0 5) s
  | 0x1#2 => execCseln (rd w) (ra w) (rb w) ((fn7 w).extractLsb' 0 5) s
  | _ => unassigned w s

theorem issueSelect_eq (w : BitVec 32) (s : State) : runDecoded (decodeSelect w) w s = issueSelect w s := by
  unfold decodeSelect issueSelect
  split <;> first
    | (first | rfl | exact runDecoded_need_wf _ _ _ _ rfl | exact runDecoded_need _ _ _ _)
    | (simp only [*]; first | rfl | exact runDecoded_need_wf _ _ _ _ rfl | exact runDecoded_need _ _ _ _)

def issueJumpReg (w : BitVec 32) (s : State) : Out :=
  match fn7 w with
  | 0x0#7 => if (rb w == 0#5 && rd w == 0#5) then execJr (ra w) s else unassigned w s
  | 0x1#7 => if (rb w == 0#5 && rd w == 0#5) then execCallr (ra w) s else unassigned w s
  | 0x2#7 => if (rb w == 0#5 && ra w == 0#5 && rd w == 0#5) then execRet s else unassigned w s
  | _ => unassigned w s

theorem issueJumpReg_eq (w : BitVec 32) (s : State) : runDecoded (decodeJumpReg w) w s = issueJumpReg w s := by
  unfold decodeJumpReg issueJumpReg
  split <;> first
    | (first | rfl | exact runDecoded_need_wf _ _ _ _ rfl | exact runDecoded_need _ _ _ _)
    | (simp only [*]; first | rfl | exact runDecoded_need_wf _ _ _ _ rfl | exact runDecoded_need _ _ _ _)

def issueLoopNest (w : BitVec 32) (s : State) : Out :=
  match (fn7 w).extractLsb' 4 3 with
  | 0x0#3 => if ((fn7 w).extractLsb' 2 2 == 0#2 && rb w == 0#5 && rd w == 0#5) then execLnset (ra w) ((fn7 w).extractLsb' 0 2) s else unassigned w s
  | 0x1#3 => if ((fn7 w).extractLsb' 2 2 == 0#2 && rb w == 0#5) && (decide ((rd w).toNat ≤ 15)) then execLnco (rd w) (ra w) ((fn7 w).extractLsb' 0 2) s else unassigned w s
  | 0x2#3 => if ((fn7 w).extractLsb' 2 2 == 0#2 && rb w == 0#5) && (decide ((rd w).toNat ≤ 15)) then execLnbase (rd w) (ra w) ((fn7 w).extractLsb' 0 2) s else unassigned w s
  | 0x3#3 => if ((fn7 w).extractLsb' 2 2 == 0#2 && rb w == 0#5 && rd w == 0#5) then execLnidx (ra w) ((fn7 w).extractLsb' 0 2) s else unassigned w s
  | 0x4#3 => if ((fn7 w).extractLsb' 2 2 == 0#2) then execLoop (off15 w) ((fn7 w).extractLsb' 0 2) s else unassigned w s
  | _ => unassigned w s

theorem issueLoopNest_eq (w : BitVec 32) (s : State) : runDecoded (decodeLoopNest w) w s = issueLoopNest w s := by
  unfold decodeLoopNest issueLoopNest
  split <;> first
    | (first | rfl | exact runDecoded_need_wf _ _ _ _ rfl | exact runDecoded_need _ _ _ _)
    | (simp only [*]; first | rfl | exact runDecoded_need_wf _ _ _ _ rfl | exact runDecoded_need _ _ _ _)

def issueTileLoad (w : BitVec 32) (s : State) : Out :=
  match sz3 w with
  | 0x0#3 => execLdtB (rd w) (ra w) (imm9 w) s
  | 0x1#3 => execLdtBu (rd w) (ra w) (imm9 w) s
  | 0x2#3 => execLdtH (rd w) (ra w) (imm9 w) s
  | 0x3#3 => execLdtHu (rd w) (ra w) (imm9 w) s
  | 0x4#3 => execLdtW (rd w) (ra w) (imm9 w) s
  | 0x5#3 => execLdtWu (rd w) (ra w) (imm9 w) s
  | 0x6#3 => execLdtD (rd w) (ra w) (imm9 w) s
  | 0x7#3 =>
    match (imm9 w).extractLsb' 0 3 with
    | 0x0#3 => if ((imm9 w).extractLsb' 3 6 == 0#6 && (ra w).extractLsb' 4 1 == 0#1) then execLdtBAreg (rd w) ((ra w).extractLsb' 0 4) s else unassigned w s
    | 0x1#3 => if ((imm9 w).extractLsb' 3 6 == 0#6 && (ra w).extractLsb' 4 1 == 0#1) then execLdtBuAreg (rd w) ((ra w).extractLsb' 0 4) s else unassigned w s
    | 0x2#3 => if ((imm9 w).extractLsb' 3 6 == 0#6 && (ra w).extractLsb' 4 1 == 0#1) then execLdtHAreg (rd w) ((ra w).extractLsb' 0 4) s else unassigned w s
    | 0x3#3 => if ((imm9 w).extractLsb' 3 6 == 0#6 && (ra w).extractLsb' 4 1 == 0#1) then execLdtHuAreg (rd w) ((ra w).extractLsb' 0 4) s else unassigned w s
    | 0x4#3 => if ((imm9 w).extractLsb' 3 6 == 0#6 && (ra w).extractLsb' 4 1 == 0#1) then execLdtWAreg (rd w) ((ra w).extractLsb' 0 4) s else unassigned w s
    | 0x5#3 => if ((imm9 w).extractLsb' 3 6 == 0#6 && (ra w).extractLsb' 4 1 == 0#1) then execLdtWuAreg (rd w) ((ra w).extractLsb' 0 4) s else unassigned w s
    | 0x6#3 => if ((imm9 w).extractLsb' 3 6 == 0#6 && (ra w).extractLsb' 4 1 == 0#1) then execLdtDAreg (rd w) ((ra w).extractLsb' 0 4) s else unassigned w s
    | _ => unassigned w s

theorem issueTileLoad_eq (w : BitVec 32) (s : State) : runDecoded (decodeTileLoad w) w s = issueTileLoad w s := by
  unfold decodeTileLoad issueTileLoad
  split <;> first
    | (first | rfl | exact runDecoded_need_wf _ _ _ _ rfl | exact runDecoded_need _ _ _ _)
    | (simp only [*]; first | rfl | exact runDecoded_need_wf _ _ _ _ rfl | exact runDecoded_need _ _ _ _)
    | (split <;> first | (first | rfl | exact runDecoded_need_wf _ _ _ _ rfl | exact runDecoded_need _ _ _ _) | (simp only [*]; first | rfl | exact runDecoded_need_wf _ _ _ _ rfl | exact runDecoded_need _ _ _ _))
    | (simp only [*]; split <;> first | (first | rfl | exact runDecoded_need_wf _ _ _ _ rfl | exact runDecoded_need _ _ _ _) | (simp only [*]; first | rfl | exact runDecoded_need_wf _ _ _ _ rfl | exact runDecoded_need _ _ _ _))

def issueTileStore (w : BitVec 32) (s : State) : Out :=
  match sz3 w with
  | 0x0#3 => execSttB (rd w) (ra w) (imm9 w) s
  | 0x2#3 => execSttH (rd w) (ra w) (imm9 w) s
  | 0x4#3 => execSttW (rd w) (ra w) (imm9 w) s
  | 0x6#3 => execSttD (rd w) (ra w) (imm9 w) s
  | 0x7#3 =>
    match (imm9 w).extractLsb' 0 3 with
    | 0x0#3 => if ((imm9 w).extractLsb' 3 6 == 0#6 && (ra w).extractLsb' 4 1 == 0#1) then execSttBAreg (rd w) ((ra w).extractLsb' 0 4) s else unassigned w s
    | 0x2#3 => if ((imm9 w).extractLsb' 3 6 == 0#6 && (ra w).extractLsb' 4 1 == 0#1) then execSttHAreg (rd w) ((ra w).extractLsb' 0 4) s else unassigned w s
    | 0x4#3 => if ((imm9 w).extractLsb' 3 6 == 0#6 && (ra w).extractLsb' 4 1 == 0#1) then execSttWAreg (rd w) ((ra w).extractLsb' 0 4) s else unassigned w s
    | 0x6#3 => if ((imm9 w).extractLsb' 3 6 == 0#6 && (ra w).extractLsb' 4 1 == 0#1) then execSttDAreg (rd w) ((ra w).extractLsb' 0 4) s else unassigned w s
    | _ => unassigned w s
  | _ => unassigned w s

theorem issueTileStore_eq (w : BitVec 32) (s : State) : runDecoded (decodeTileStore w) w s = issueTileStore w s := by
  unfold decodeTileStore issueTileStore
  split <;> first
    | (first | rfl | exact runDecoded_need_wf _ _ _ _ rfl | exact runDecoded_need _ _ _ _)
    | (simp only [*]; first | rfl | exact runDecoded_need_wf _ _ _ _ rfl | exact runDecoded_need _ _ _ _)
    | (split <;> first | (first | rfl | exact runDecoded_need_wf _ _ _ _ rfl | exact runDecoded_need _ _ _ _) | (simp only [*]; first | rfl | exact runDecoded_need_wf _ _ _ _ rfl | exact runDecoded_need _ _ _ _))
    | (simp only [*]; split <;> first | (first | rfl | exact runDecoded_need_wf _ _ _ _ rfl | exact runDecoded_need _ _ _ _) | (simp only [*]; first | rfl | exact runDecoded_need_wf _ _ _ _ rfl | exact runDecoded_need _ _ _ _))

def issueTileAtomic (w : BitVec 32) (s : State) : Out :=
  match (fn7 w).extractLsb' 0 3 with
  | 0x0#3 => if ((fn7 w).extractLsb' 4 3 == 0#3) then execAmtAdd (rd w) (ra w) (rb w) ((fn7 w).extractLsb' 3 1) s else unassigned w s
  | 0x1#3 => if ((fn7 w).extractLsb' 4 3 == 0#3) then execAmtSwap (rd w) (ra w) (rb w) ((fn7 w).extractLsb' 3 1) s else unassigned w s
  | 0x2#3 => if ((fn7 w).extractLsb' 4 3 == 0#3) then execAmtCas (rd w) (ra w) (rb w) ((fn7 w).extractLsb' 3 1) s else unassigned w s
  | 0x3#3 => if ((fn7 w).extractLsb' 4 3 == 0#3) then execAmtMin (rd w) (ra w) (rb w) ((fn7 w).extractLsb' 3 1) s else unassigned w s
  | 0x4#3 => if ((fn7 w).extractLsb' 4 3 == 0#3) then execAmtMax (rd w) (ra w) (rb w) ((fn7 w).extractLsb' 3 1) s else unassigned w s
  | 0x5#3 => if ((fn7 w).extractLsb' 4 3 == 0#3) then execAmtAnd (rd w) (ra w) (rb w) ((fn7 w).extractLsb' 3 1) s else unassigned w s
  | 0x6#3 => if ((fn7 w).extractLsb' 4 3 == 0#3) then execAmtOr (rd w) (ra w) (rb w) ((fn7 w).extractLsb' 3 1) s else unassigned w s
  | _ => if ((fn7 w).extractLsb' 4 3 == 0#3) then execAmtXor (rd w) (ra w) (rb w) ((fn7 w).extractLsb' 3 1) s else unassigned w s

theorem issueTileAtomic_eq (w : BitVec 32) (s : State) : runDecoded (decodeTileAtomic w) w s = issueTileAtomic w s := by
  unfold decodeTileAtomic issueTileAtomic
  split <;> first
    | (first | rfl | exact runDecoded_need_wf _ _ _ _ rfl | exact runDecoded_need _ _ _ _)
    | (simp only [*]; first | rfl | exact runDecoded_need_wf _ _ _ _ rfl | exact runDecoded_need _ _ _ _)

def issueVecMem (w : BitVec 32) (s : State) : Out :=
  match fn4 w with
  | 0x0#4 => execVldt (rd w) (ra w) (rb w) (mask3 w) s
  | 0x1#4 => execVstt (rd w) (ra w) (rb w) (mask3 w) s
  | 0x2#4 => execVldts (rd w) (ra w) (rb w) (mask3 w) s
  | 0x3#4 => execVstts (rd w) (ra w) (rb w) (mask3 w) s
  | _ => unassigned w s

theorem issueVecMem_eq (w : BitVec 32) (s : State) : runDecoded (decodeVecMem w) w s = issueVecMem w s := by
  unfold decodeVecMem issueVecMem
  split <;> first
    | (first | rfl | exact runDecoded_need_wf _ _ _ _ rfl | exact runDecoded_need _ _ _ _)
    | (simp only [*]; first | rfl | exact runDecoded_need_wf _ _ _ _ rfl | exact runDecoded_need _ _ _ _)

def issueGatherCopy (w : BitVec 32) (s : State) : Out :=
  match fn4 w with
  | 0x0#4 => execVgath (rd w) (ra w) (rb w) (mask3 w) s
  | 0x1#4 => execVscat (rd w) (ra w) (rb w) (mask3 w) s
  | 0x2#4 => if (mask3 w == 0#3) then execCopyb (rd w) (ra w) (rb w) s else unassigned w s
  | 0x3#4 => if (mask3 w == 0#3) then execFillb (rd w) (ra w) (rb w) s else unassigned w s
  | _ => unassigned w s

theorem issueGatherCopy_eq (w : BitVec 32) (s : State) : runDecoded (decodeGatherCopy w) w s = issueGatherCopy w s := by
  unfold decodeGatherCopy issueGatherCopy
  split <;> first
    | (first | rfl | exact runDecoded_need_wf _ _ _ _ rfl | exact runDecoded_need _ _ _ _)
    | (simp only [*]; first | rfl | exact runDecoded_need_wf _ _ _ _ rfl | exact runDecoded_need _ _ _ _)

def issueVecFloat (w : BitVec 32) (s : State) : Out :=
  match fn4 w with
  | 0x0#4 => execVaddF (rd w) (ra w) (rb w) (mask3 w) s
  | 0x1#4 => execVsubF (rd w) (ra w) (rb w) (mask3 w) s
  | 0x2#4 => execVmulF (rd w) (ra w) (rb w) (mask3 w) s
  | 0x3#4 => execVfmaF (rd w) (ra w) (rb w) (mask3 w) s
  | 0x4#4 => execVfmsF (rd w) (ra w) (rb w) (mask3 w) s
  | 0x5#4 => execVfnmaF (rd w) (ra w) (rb w) (mask3 w) s
  | 0x6#4 => execVminF (rd w) (ra w) (rb w) (mask3 w) s
  | 0x7#4 => execVmaxF (rd w) (ra w) (rb w) (mask3 w) s
  | 0x8#4 => if (rb w == 0#5) then execVabsF (rd w) (ra w) (mask3 w) s else unassigned w s
  | 0x9#4 => if (rb w == 0#5) then execVnegF (rd w) (ra w) (mask3 w) s else unassigned w s
  | 0xA#4 => if (rb w == 0#5) then execVrcpF (rd w) (ra w) (mask3 w) s else unassigned w s
  | 0xB#4 => if (rb w == 0#5) then execVrsqF (rd w) (ra w) (mask3 w) s else unassigned w s
  | 0xC#4 => if (rb w == 0#5) then execVsqrtF (rd w) (ra w) (mask3 w) s else unassigned w s
  | 0xD#4 => execVdivF (rd w) (ra w) (rb w) (mask3 w) s
  | 0xE#4 => if (rb w == 0#5) then execVexp2F (rd w) (ra w) (mask3 w) s else unassigned w s
  | _ => if (rb w == 0#5) then execVlog2F (rd w) (ra w) (mask3 w) s else unassigned w s

theorem issueVecFloat_eq (w : BitVec 32) (s : State) : runDecoded (decodeVecFloat w) w s = issueVecFloat w s := by
  unfold decodeVecFloat issueVecFloat
  split <;> first
    | (first | rfl | exact runDecoded_need_wf _ _ _ _ rfl | exact runDecoded_need _ _ _ _)
    | (simp only [*]; first | rfl | exact runDecoded_need_wf _ _ _ _ rfl | exact runDecoded_need _ _ _ _)

def issueVecInt (w : BitVec 32) (s : State) : Out :=
  match fn4 w with
  | 0x0#4 => execVaddI (rd w) (ra w) (rb w) (mask3 w) s
  | 0x1#4 => execVsubI (rd w) (ra w) (rb w) (mask3 w) s
  | 0x2#4 => execVmulI (rd w) (ra w) (rb w) (mask3 w) s
  | 0x3#4 => execVmulhI (rd w) (ra w) (rb w) (mask3 w) s
  | 0x4#4 => execVmulhuI (rd w) (ra w) (rb w) (mask3 w) s
  | 0x5#4 => execVminI (rd w) (ra w) (rb w) (mask3 w) s
  | 0x6#4 => execVmaxI (rd w) (ra w) (rb w) (mask3 w) s
  | 0x7#4 => execVminuI (rd w) (ra w) (rb w) (mask3 w) s
  | 0x8#4 => execVmaxuI (rd w) (ra w) (rb w) (mask3 w) s
  | 0x9#4 => if (rb w == 0#5) then execVabsI (rd w) (ra w) (mask3 w) s else unassigned w s
  | 0xA#4 => execVaddsI (rd w) (ra w) (rb w) (mask3 w) s
  | 0xB#4 => execVsubsI (rd w) (ra w) (rb w) (mask3 w) s
  | _ => unassigned w s

theorem issueVecInt_eq (w : BitVec 32) (s : State) : runDecoded (decodeVecInt w) w s = issueVecInt w s := by
  unfold decodeVecInt issueVecInt
  split <;> first
    | (first | rfl | exact runDecoded_need_wf _ _ _ _ rfl | exact runDecoded_need _ _ _ _)
    | (simp only [*]; first | rfl | exact runDecoded_need_wf _ _ _ _ rfl | exact runDecoded_need _ _ _ _)

def issueVecLogic (w : BitVec 32) (s : State) : Out :=
  match fn4 w with
  | 0x0#4 => execVand (rd w) (ra w) (rb w) (mask3 w) s
  | 0x1#4 => execVor (rd w) (ra w) (rb w) (mask3 w) s
  | 0x2#4 => execVxor (rd w) (ra w) (rb w) (mask3 w) s
  | 0x3#4 => execVandn (rd w) (ra w) (rb w) (mask3 w) s
  | 0x4#4 => if (rb w == 0#5) then execVnot (rd w) (ra w) (mask3 w) s else unassigned w s
  | 0x5#4 => execVshlV (rd w) (ra w) (rb w) (mask3 w) s
  | 0x6#4 => execVshrV (rd w) (ra w) (rb w) (mask3 w) s
  | 0x7#4 => execVsraV (rd w) (ra w) (rb w) (mask3 w) s
  | 0x8#4 => execVshli (rd w) (ra w) (rb w) (mask3 w) s
  | 0x9#4 => execVshri (rd w) (ra w) (rb w) (mask3 w) s
  | 0xA#4 => execVsrai (rd w) (ra w) (rb w) (mask3 w) s
  | 0xB#4 => if (rb w == 0#5) then execVpopc (rd w) (ra w) (mask3 w) s else unassigned w s
  | 0xC#4 => if (rb w == 0#5) then execVclz (rd w) (ra w) (mask3 w) s else unassigned w s
  | _ => unassigned w s

theorem issueVecLogic_eq (w : BitVec 32) (s : State) : runDecoded (decodeVecLogic w) w s = issueVecLogic w s := by
  unfold decodeVecLogic issueVecLogic
  split <;> first
    | (first | rfl | exact runDecoded_need_wf _ _ _ _ rfl | exact runDecoded_need _ _ _ _)
    | (simp only [*]; first | rfl | exact runDecoded_need_wf _ _ _ _ rfl | exact runDecoded_need _ _ _ _)

def issueVecCompare (w : BitVec 32) (s : State) : Out :=
  match fn4 w with
  | 0x0#4 => if (decide ((rd w).toNat ≤ 7)) then execVcmpFEq (rd w) (ra w) (rb w) (mask3 w) s else unassigned w s
  | 0x1#4 => if (decide ((rd w).toNat ≤ 7)) then execVcmpFNe (rd w) (ra w) (rb w) (mask3 w) s else unassigned w s
  | 0x2#4 => if (decide ((rd w).toNat ≤ 7)) then execVcmpFLt (rd w) (ra w) (rb w) (mask3 w) s else unassigned w s
  | 0x3#4 => if (decide ((rd w).toNat ≤ 7)) then execVcmpFLe (rd w) (ra w) (rb w) (mask3 w) s else unassigned w s
  | 0x4#4 => if (decide ((rd w).toNat ≤ 7)) then execVcmpFUn (rd w) (ra w) (rb w) (mask3 w) s else unassigned w s
  | 0x5#4 => if (decide ((rd w).toNat ≤ 7)) then execVcmpIEq (rd w) (ra w) (rb w) (mask3 w) s else unassigned w s
  | 0x6#4 => if (decide ((rd w).toNat ≤ 7)) then execVcmpINe (rd w) (ra w) (rb w) (mask3 w) s else unassigned w s
  | 0x7#4 => if (decide ((rd w).toNat ≤ 7)) then execVcmpILt (rd w) (ra w) (rb w) (mask3 w) s else unassigned w s
  | 0x8#4 => if (decide ((rd w).toNat ≤ 7)) then execVcmpILe (rd w) (ra w) (rb w) (mask3 w) s else unassigned w s
  | 0x9#4 => if (decide ((rd w).toNat ≤ 7)) then execVcmpILtu (rd w) (ra w) (rb w) (mask3 w) s else unassigned w s
  | 0xA#4 => if (decide ((rd w).toNat ≤ 7)) then execVcmpILeu (rd w) (ra w) (rb w) (mask3 w) s else unassigned w s
  | 0xB#4 => execVsel (rd w) (ra w) (rb w) (mask3 w) s
  | 0xC#4 => if (rb w == 0#5) then execVclass (rd w) (ra w) (mask3 w) s else unassigned w s
  | _ => unassigned w s

theorem issueVecCompare_eq (w : BitVec 32) (s : State) : runDecoded (decodeVecCompare w) w s = issueVecCompare w s := by
  unfold decodeVecCompare issueVecCompare
  split <;> first
    | (first | rfl | exact runDecoded_need_wf _ _ _ _ rfl | exact runDecoded_need _ _ _ _)
    | (simp only [*]; first | rfl | exact runDecoded_need_wf _ _ _ _ rfl | exact runDecoded_need _ _ _ _)

def issueVecConvert (w : BitVec 32) (s : State) : Out :=
  match fn4 w with
  | 0x0#4 => if ((rb w).extractLsb' 3 2 == 0#2) then execVcvtFI (rd w) (ra w) ((rb w).extractLsb' 0 1) ((rb w).extractLsb' 1 2) (mask3 w) s else unassigned w s
  | 0x1#4 => if ((rb w).extractLsb' 3 2 == 0#2) then execVcvtIF (rd w) (ra w) ((rb w).extractLsb' 0 1) ((rb w).extractLsb' 1 2) (mask3 w) s else unassigned w s
  | 0x2#4 => if ((rb w).extractLsb' 3 2 == 0#2) then execVcvtBfF (rd w) (ra w) ((rb w).extractLsb' 0 1) ((rb w).extractLsb' 1 2) (mask3 w) s else unassigned w s
  | 0x3#4 => if ((rb w).extractLsb' 1 4 == 0#4) then execVcvtFBf (rd w) (ra w) ((rb w).extractLsb' 0 1) (mask3 w) s else unassigned w s
  | 0x4#4 => if ((rb w).extractLsb' 3 2 == 0#2) then execVcvtHF (rd w) (ra w) ((rb w).extractLsb' 0 1) ((rb w).extractLsb' 1 2) (mask3 w) s else unassigned w s
  | 0x5#4 => if ((rb w).extractLsb' 1 4 == 0#4) then execVcvtFH (rd w) (ra w) ((rb w).extractLsb' 0 1) (mask3 w) s else unassigned w s
  | 0x6#4 => execVquant (rd w) (ra w) (rb w) (mask3 w) s
  | 0x7#4 => if ((rb w).extractLsb' 2 3 == 0#3) then execVdeq (rd w) (ra w) ((rb w).extractLsb' 0 1) ((rb w).extractLsb' 1 1) (mask3 w) s else unassigned w s
  | 0x8#4 => if ((rb w).extractLsb' 3 2 == 0#2) then execVpackI8 (rd w) (ra w) ((rb w).extractLsb' 0 2) ((rb w).extractLsb' 2 1) (mask3 w) s else unassigned w s
  | 0x9#4 => if ((rb w).extractLsb' 3 2 == 0#2) then execVunpkI8 (rd w) (ra w) ((rb w).extractLsb' 0 2) ((rb w).extractLsb' 2 1) (mask3 w) s else unassigned w s
  | _ => unassigned w s

theorem issueVecConvert_eq (w : BitVec 32) (s : State) : runDecoded (decodeVecConvert w) w s = issueVecConvert w s := by
  unfold decodeVecConvert issueVecConvert
  split <;> first
    | (first | rfl | exact runDecoded_need_wf _ _ _ _ rfl | exact runDecoded_need _ _ _ _)
    | (simp only [*]; first | rfl | exact runDecoded_need_wf _ _ _ _ rfl | exact runDecoded_need _ _ _ _)

def issueVecReduce (w : BitVec 32) (s : State) : Out :=
  match fn4 w with
  | 0x0#4 => if (rb w == 0#5) then execVredaddF (rd w) (ra w) (mask3 w) s else unassigned w s
  | 0x1#4 => if (rb w == 0#5) then execVredaddI (rd w) (ra w) (mask3 w) s else unassigned w s
  | 0x2#4 => if (rb w == 0#5) then execVredmaxF (rd w) (ra w) (mask3 w) s else unassigned w s
  | 0x3#4 => if (rb w == 0#5) then execVredminF (rd w) (ra w) (mask3 w) s else unassigned w s
  | 0x4#4 => if (rb w == 0#5) then execVredmaxI (rd w) (ra w) (mask3 w) s else unassigned w s
  | 0x5#4 => if (rb w == 0#5) then execVamax (rd w) (ra w) (mask3 w) s else unassigned w s
  | 0x6#4 => if (rb w == 0#5) then execVscanI (rd w) (ra w) (mask3 w) s else unassigned w s
  | 0x7#4 => if (rb w == 0#5) then execVscanF (rd w) (ra w) (mask3 w) s else unassigned w s
  | _ => unassigned w s

theorem issueVecReduce_eq (w : BitVec 32) (s : State) : runDecoded (decodeVecReduce w) w s = issueVecReduce w s := by
  unfold decodeVecReduce issueVecReduce
  split <;> first
    | (first | rfl | exact runDecoded_need_wf _ _ _ _ rfl | exact runDecoded_need _ _ _ _)
    | (simp only [*]; first | rfl | exact runDecoded_need_wf _ _ _ _ rfl | exact runDecoded_need _ _ _ _)

def issueVecPermute (w : BitVec 32) (s : State) : Out :=
  match fn4 w with
  | 0x0#4 => execVperm (rd w) (ra w) (rb w) (mask3 w) s
  | 0x1#4 => if (rb w == 0#5) then execVbcast (rd w) (ra w) (mask3 w) s else unassigned w s
  | 0x2#4 => if (mask3 w == 0#3 && (rb w).extractLsb' 4 1 == 0#1) then execVextr (rd w) (ra w) ((rb w).extractLsb' 0 4) s else unassigned w s
  | 0x3#4 => if ((rb w).extractLsb' 4 1 == 0#1) then execVins (rd w) (ra w) ((rb w).extractLsb' 0 4) (mask3 w) s else unassigned w s
  | 0x4#4 => if (rb w == 0#5) then execVcompr (rd w) (ra w) (mask3 w) s else unassigned w s
  | 0x5#4 => if (rb w == 0#5) then execVexpnd (rd w) (ra w) (mask3 w) s else unassigned w s
  | 0x6#4 => if ((rb w).extractLsb' 4 1 == 0#1) then execVrot (rd w) (ra w) ((rb w).extractLsb' 0 4) (mask3 w) s else unassigned w s
  | 0x7#4 => if (rb w == 0#5 && ra w == 0#5) then execViota (rd w) (mask3 w) s else unassigned w s
  | _ => unassigned w s

theorem issueVecPermute_eq (w : BitVec 32) (s : State) : runDecoded (decodeVecPermute w) w s = issueVecPermute w s := by
  unfold decodeVecPermute issueVecPermute
  split <;> first
    | (first | rfl | exact runDecoded_need_wf _ _ _ _ rfl | exact runDecoded_need _ _ _ _)
    | (simp only [*]; first | rfl | exact runDecoded_need_wf _ _ _ _ rfl | exact runDecoded_need _ _ _ _)

def issueMask (w : BitVec 32) (s : State) : Out :=
  match fn4 w with
  | 0x0#4 => if (mask3 w == 0#3) && (decide ((rd w).toNat ≤ 7) && decide ((ra w).toNat ≤ 7) && decide ((rb w).toNat ≤ 7)) then execMand (rd w) (ra w) (rb w) s else unassigned w s
  | 0x1#4 => if (mask3 w == 0#3) && (decide ((rd w).toNat ≤ 7) && decide ((ra w).toNat ≤ 7) && decide ((rb w).toNat ≤ 7)) then execMor (rd w) (ra w) (rb w) s else unassigned w s
  | 0x2#4 => if (mask3 w == 0#3) && (decide ((rd w).toNat ≤ 7) && decide ((ra w).toNat ≤ 7) && decide ((rb w).toNat ≤ 7)) then execMxor (rd w) (ra w) (rb w) s else unassigned w s
  | 0x3#4 => if (mask3 w == 0#3 && rb w == 0#5) && (decide ((rd w).toNat ≤ 7) && decide ((ra w).toNat ≤ 7)) then execMnot (rd w) (ra w) s else unassigned w s
  | 0x4#4 => if (mask3 w == 0#3 && rb w == 0#5) && (decide ((rd w).toNat ≤ 7) && decide ((ra w).toNat ≤ 7)) then execMpop (rd w) (ra w) s else unassigned w s
  | 0x5#4 => if (mask3 w == 0#3 && rb w == 0#5) && (decide ((rd w).toNat ≤ 7) && decide ((ra w).toNat ≤ 7)) then execMfirst (rd w) (ra w) s else unassigned w s
  | 0x6#4 => if (mask3 w == 0#3 && rb w == 0#5) && (decide ((ra w).toNat ≤ 16) && decide ((rd w).toNat ≤ 7)) then execMset (rd w) (ra w) s else unassigned w s
  | 0x7#4 => if (mask3 w == 0#3 && (rb w).extractLsb' 4 1 == 0#1) && (decide ((rd w).toNat ≤ 7) && decide ((ra w).toNat ≤ 7)) then execMget (rd w) (ra w) ((rb w).extractLsb' 0 4) s else unassigned w s
  | _ => unassigned w s

theorem issueMask_eq (w : BitVec 32) (s : State) : runDecoded (decodeMask w) w s = issueMask w s := by
  unfold decodeMask issueMask
  split <;> first
    | (first | rfl | exact runDecoded_need_wf _ _ _ _ rfl | exact runDecoded_need _ _ _ _)
    | (simp only [*]; first | rfl | exact runDecoded_need_wf _ _ _ _ rfl | exact runDecoded_need _ _ _ _)

def issueMma (w : BitVec 32) (s : State) : Out :=
  match (kf5 w).extractLsb' 3 2 with
  | 0x0#2 => if (!(((kf5 w).extractLsb' 1 1) == 1#1 && ((kf5 w).extractLsb' 0 1) == 1#1) && !(((kf5 w).extractLsb' 0 1) == 1#1 && (vidx5 w) == 31#5) && (((kf5 w).extractLsb' 2 1) == 0#1 || (bank9 w) == 0#9)) then execMmaBf ((kf5 w).extractLsb' 0 1) ((kf5 w).extractLsb' 1 1) ((kf5 w).extractLsb' 2 1) (bank9 w) (vidx5 w) (acc3 w) s else unassigned w s
  | 0x1#2 => if (!(((kf5 w).extractLsb' 1 1) == 1#1 && ((kf5 w).extractLsb' 0 1) == 1#1) && !(((kf5 w).extractLsb' 0 1) == 1#1 && (vidx5 w) == 31#5) && (((kf5 w).extractLsb' 2 1) == 0#1 || (bank9 w) == 0#9)) then execMmaH ((kf5 w).extractLsb' 0 1) ((kf5 w).extractLsb' 1 1) ((kf5 w).extractLsb' 2 1) (bank9 w) (vidx5 w) (acc3 w) s else unassigned w s
  | 0x2#2 => if (!(((kf5 w).extractLsb' 1 1) == 1#1 && ((kf5 w).extractLsb' 0 1) == 1#1) && !(((kf5 w).extractLsb' 0 1) == 1#1 && (vidx5 w) == 31#5) && (((kf5 w).extractLsb' 2 1) == 0#1 || (bank9 w) == 0#9)) then execMmaD8 ((kf5 w).extractLsb' 0 1) ((kf5 w).extractLsb' 1 1) ((kf5 w).extractLsb' 2 1) (bank9 w) (vidx5 w) (acc3 w) s else unassigned w s
  | 0x3#2 => if (!(((kf5 w).extractLsb' 1 1) == 1#1 && ((kf5 w).extractLsb' 0 1) == 1#1) && !(((kf5 w).extractLsb' 0 1) == 1#1 && (vidx5 w) == 31#5) && (((kf5 w).extractLsb' 2 1) == 0#1 || (bank9 w) == 0#9)) then execMmaI8 ((kf5 w).extractLsb' 0 1) ((kf5 w).extractLsb' 1 1) ((kf5 w).extractLsb' 2 1) (bank9 w) (vidx5 w) (acc3 w) s else unassigned w s

theorem issueMma_eq (w : BitVec 32) (s : State) : runDecoded (decodeMma w) w s = issueMma w s := by
  unfold decodeMma issueMma
  split <;> first
    | (first | rfl | exact runDecoded_need_wf _ _ _ _ rfl | exact runDecoded_need _ _ _ _)
    | (simp only [*]; first | rfl | exact runDecoded_need_wf _ _ _ _ rfl | exact runDecoded_need _ _ _ _)

def issueAccumulator (w : BitVec 32) (s : State) : Out :=
  match (kf5 w).extractLsb' 2 3 with
  | 0x0#3 => if (vidx5 w == 0#5 && bank9 w == 0#9 && (kf5 w).extractLsb' 0 2 == 0#2) then execMzero (acc3 w) s else unassigned w s
  | 0x1#3 => if ((bank9 w).extractLsb' 4 5 == 0#5 && (kf5 w).extractLsb' 0 2 == 0#2) then execMrd ((bank9 w).extractLsb' 0 4) (vidx5 w) (acc3 w) s else unassigned w s
  | 0x2#3 => if ((bank9 w).extractLsb' 4 5 == 0#5 && (kf5 w).extractLsb' 0 2 == 0#2) then execMwr ((bank9 w).extractLsb' 0 4) (vidx5 w) (acc3 w) s else unassigned w s
  | 0x3#3 => if (bank9 w == 0#9 && (kf5 w).extractLsb' 0 2 == 0#2) then execMwm (vidx5 w) (acc3 w) s else unassigned w s
  | 0x4#3 => if ((kf5 w).extractLsb' 1 1 == 0#1) then execMsta ((kf5 w).extractLsb' 0 1) (bank9 w) (vidx5 w) (acc3 w) s else unassigned w s
  | 0x5#3 => if (vidx5 w == 0#5 && bank9 w == 0#9 && (kf5 w).extractLsb' 1 1 == 0#1) && (((kf5 w).extractLsb' 0 1) == 1#1 || (acc3 w) == 0#3) then execMwait ((kf5 w).extractLsb' 0 1) (acc3 w) s else unassigned w s
  | _ => unassigned w s

theorem issueAccumulator_eq (w : BitVec 32) (s : State) : runDecoded (decodeAccumulator w) w s = issueAccumulator w s := by
  unfold decodeAccumulator issueAccumulator
  split <;> first
    | (first | rfl | exact runDecoded_need_wf _ _ _ _ rfl | exact runDecoded_need _ _ _ _)
    | (simp only [*]; first | rfl | exact runDecoded_need_wf _ _ _ _ rfl | exact runDecoded_need _ _ _ _)

def issueMatrixConfig (w : BitVec 32) (s : State) : Out :=
  match kf5 w with
  | 0x0#5 => if (acc3 w == 0#3 && (bank9 w).extractLsb' 4 5 == 0#5) then execMscale ((bank9 w).extractLsb' 0 4) (vidx5 w) s else unassigned w s
  | 0x1#5 => if (acc3 w == 0#3 && bank9 w == 0#9) then execMmask (vidx5 w) s else unassigned w s
  | _ => unassigned w s

theorem issueMatrixConfig_eq (w : BitVec 32) (s : State) : runDecoded (decodeMatrixConfig w) w s = issueMatrixConfig w s := by
  unfold decodeMatrixConfig issueMatrixConfig
  split <;> first
    | (first | rfl | exact runDecoded_need_wf _ _ _ _ rfl | exact runDecoded_need _ _ _ _)
    | (simp only [*]; first | rfl | exact runDecoded_need_wf _ _ _ _ rfl | exact runDecoded_need _ _ _ _)

def issueGet (w : BitVec 32) (s : State) : Out :=
  match (fn7 w).extractLsb' 0 3 with
  | 0x0#3 => if ((fn7 w).extractLsb' 4 3 == 0#3) then execGetg (rd w) (ra w) (rb w) ((fn7 w).extractLsb' 3 1) s else unassigned w s
  | 0x1#3 => if ((fn7 w).extractLsb' 4 3 == 0#3) then execGets (rd w) (ra w) (rb w) ((fn7 w).extractLsb' 3 1) s else unassigned w s
  | 0x2#3 => if ((fn7 w).extractLsb' 4 3 == 0#3) then execGetm (rd w) (ra w) (rb w) ((fn7 w).extractLsb' 3 1) s else unassigned w s
  | 0x3#3 => if ((fn7 w).extractLsb' 4 3 == 0#3) then execGeth (rd w) (ra w) (rb w) ((fn7 w).extractLsb' 3 1) s else unassigned w s
  | 0x4#3 => if ((fn7 w).extractLsb' 4 3 == 0#3) then execGetr (rd w) (ra w) (rb w) ((fn7 w).extractLsb' 3 1) s else unassigned w s
  | 0x5#3 => if ((fn7 w).extractLsb' 3 4 == 0#4) then execGett (rd w) (ra w) (rb w) s else unassigned w s
  | _ => unassigned w s

theorem issueGet_eq (w : BitVec 32) (s : State) : runDecoded (decodeGet w) w s = issueGet w s := by
  unfold decodeGet issueGet
  split <;> first
    | (first | rfl | exact runDecoded_need_wf _ _ _ _ rfl | exact runDecoded_need _ _ _ _)
    | (simp only [*]; first | rfl | exact runDecoded_need_wf _ _ _ _ rfl | exact runDecoded_need _ _ _ _)

def issueDeposit (w : BitVec 32) (s : State) : Out :=
  match (fn7 w).extractLsb' 0 3 with
  | 0x0#3 => if ((fn7 w).extractLsb' 3 4 == 0#4) then execDepg (rd w) (ra w) (rb w) s else unassigned w s
  | 0x1#3 => if ((fn7 w).extractLsb' 3 4 == 0#4) then execDeps (rd w) (ra w) (rb w) s else unassigned w s
  | 0x2#3 => if ((fn7 w).extractLsb' 3 4 == 0#4) then execDepm (rd w) (ra w) (rb w) s else unassigned w s
  | 0x3#3 => if ((fn7 w).extractLsb' 3 4 == 0#4) then execDeph (rd w) (ra w) (rb w) s else unassigned w s
  | 0x4#3 => if ((fn7 w).extractLsb' 3 4 == 0#4) then execDepr (rd w) (ra w) (rb w) s else unassigned w s
  | 0x5#3 => if ((fn7 w).extractLsb' 3 4 == 0#4) then execDept (rd w) (ra w) (rb w) s else unassigned w s
  | 0x6#3 => if ((fn7 w).extractLsb' 3 4 == 0#4) then execDepa (rd w) (ra w) (rb w) s else unassigned w s
  | _ => unassigned w s

theorem issueDeposit_eq (w : BitVec 32) (s : State) : runDecoded (decodeDeposit w) w s = issueDeposit w s := by
  unfold decodeDeposit issueDeposit
  split <;> first
    | (first | rfl | exact runDecoded_need_wf _ _ _ _ rfl | exact runDecoded_need _ _ _ _)
    | (simp only [*]; first | rfl | exact runDecoded_need_wf _ _ _ _ rfl | exact runDecoded_need _ _ _ _)

def issueBlockDeposit (w : BitVec 32) (s : State) : Out :=
  match (fn7 w).extractLsb' 0 3 with
  | 0x0#3 => if ((fn7 w).extractLsb' 3 4 == 0#4) then execDepbG (rd w) (ra w) (rb w) s else unassigned w s
  | 0x1#3 => if ((fn7 w).extractLsb' 3 4 == 0#4) then execDepbS (rd w) (ra w) (rb w) s else unassigned w s
  | 0x2#3 => if ((fn7 w).extractLsb' 3 4 == 0#4) then execDepbM (rd w) (ra w) (rb w) s else unassigned w s
  | 0x3#3 => if ((fn7 w).extractLsb' 3 4 == 0#4) then execDepbH (rd w) (ra w) (rb w) s else unassigned w s
  | 0x4#3 => if ((fn7 w).extractLsb' 3 4 == 0#4) then execDepbR (rd w) (ra w) (rb w) s else unassigned w s
  | 0x5#3 => if ((fn7 w).extractLsb' 3 4 == 0#4) then execDepbT (rd w) (ra w) (rb w) s else unassigned w s
  | _ => unassigned w s

theorem issueBlockDeposit_eq (w : BitVec 32) (s : State) : runDecoded (decodeBlockDeposit w) w s = issueBlockDeposit w s := by
  unfold decodeBlockDeposit issueBlockDeposit
  split <;> first
    | (first | rfl | exact runDecoded_need_wf _ _ _ _ rfl | exact runDecoded_need _ _ _ _)
    | (simp only [*]; first | rfl | exact runDecoded_need_wf _ _ _ _ rfl | exact runDecoded_need _ _ _ _)

def issueLevelAtomic (w : BitVec 32) (s : State) : Out :=
  match (fn7 w).extractLsb' 0 5 with
  | 0x0#5 => if ((fn7 w).extractLsb' 5 2 == 0#2) then execAmogAdd (rd w) (ra w) (rb w) s else unassigned w s
  | 0x1#5 => if ((fn7 w).extractLsb' 5 2 == 0#2) then execAmomAdd (rd w) (ra w) (rb w) s else unassigned w s
  | 0x2#5 => if ((fn7 w).extractLsb' 5 2 == 0#2) && (decide ((rb w).toNat ≤ 29)) then execAmorAdd (rd w) (ra w) (rb w) s else unassigned w s
  | 0x4#5 => if ((fn7 w).extractLsb' 5 2 == 0#2) then execAmogMin (rd w) (ra w) (rb w) s else unassigned w s
  | 0x5#5 => if ((fn7 w).extractLsb' 5 2 == 0#2) then execAmomMin (rd w) (ra w) (rb w) s else unassigned w s
  | 0x6#5 => if ((fn7 w).extractLsb' 5 2 == 0#2) && (decide ((rb w).toNat ≤ 29)) then execAmorMin (rd w) (ra w) (rb w) s else unassigned w s
  | 0x8#5 => if ((fn7 w).extractLsb' 5 2 == 0#2) then execAmogMax (rd w) (ra w) (rb w) s else unassigned w s
  | 0x9#5 => if ((fn7 w).extractLsb' 5 2 == 0#2) then execAmomMax (rd w) (ra w) (rb w) s else unassigned w s
  | 0xA#5 => if ((fn7 w).extractLsb' 5 2 == 0#2) && (decide ((rb w).toNat ≤ 29)) then execAmorMax (rd w) (ra w) (rb w) s else unassigned w s
  | 0xC#5 => if ((fn7 w).extractLsb' 5 2 == 0#2) then execAmogSwap (rd w) (ra w) (rb w) s else unassigned w s
  | 0xD#5 => if ((fn7 w).extractLsb' 5 2 == 0#2) then execAmomSwap (rd w) (ra w) (rb w) s else unassigned w s
  | 0xE#5 => if ((fn7 w).extractLsb' 5 2 == 0#2) && (decide ((rb w).toNat ≤ 29)) then execAmorSwap (rd w) (ra w) (rb w) s else unassigned w s
  | 0x10#5 => if ((fn7 w).extractLsb' 5 2 == 0#2) && (decide ((rb w).toNat ≤ 30)) then execAmogCas (rd w) (ra w) (rb w) s else unassigned w s
  | 0x11#5 => if ((fn7 w).extractLsb' 5 2 == 0#2) && (decide ((rb w).toNat ≤ 30)) then execAmomCas (rd w) (ra w) (rb w) s else unassigned w s
  | 0x12#5 => if ((fn7 w).extractLsb' 5 2 == 0#2) && (decide ((rb w).toNat ≤ 29)) then execAmorCas (rd w) (ra w) (rb w) s else unassigned w s
  | _ => unassigned w s

theorem issueLevelAtomic_eq (w : BitVec 32) (s : State) : runDecoded (decodeLevelAtomic w) w s = issueLevelAtomic w s := by
  unfold decodeLevelAtomic issueLevelAtomic
  split <;> first
    | (first | rfl | exact runDecoded_need_wf _ _ _ _ rfl | exact runDecoded_need _ _ _ _)
    | (simp only [*]; first | rfl | exact runDecoded_need_wf _ _ _ _ rfl | exact runDecoded_need _ _ _ _)

def issueBatch (w : BitVec 32) (s : State) : Out :=
  match fn7 w with
  | 0x0#7 => if (rb w == 0#5 && ra w == 0#5 && rd w == 0#5) then execBseal s else unassigned w s
  | 0x1#7 => if (rb w == 0#5) then execBwait (rd w) (ra w) s else unassigned w s
  | 0x2#7 => if (rd w == 0#5) && (decide ((ra w).toNat ≤ 4) && decide ((rb w).toNat ≤ 4)) then execXfence (ra w) (rb w) s else unassigned w s
  | _ => unassigned w s

theorem issueBatch_eq (w : BitVec 32) (s : State) : runDecoded (decodeBatch w) w s = issueBatch w s := by
  unfold decodeBatch issueBatch
  split <;> first
    | (first | rfl | exact runDecoded_need_wf _ _ _ _ rfl | exact runDecoded_need _ _ _ _)
    | (simp only [*]; first | rfl | exact runDecoded_need_wf _ _ _ _ rfl | exact runDecoded_need _ _ _ _)

def issueStream (w : BitVec 32) (s : State) : Out :=
  match fn7 w with
  | 0x0#7 => if (rd w == 0#5) && (decide ((rb w).toNat ≤ 28)) then execSestart (ra w) (rb w) s else unassigned w s
  | 0x1#7 => if (rb w == 0#5 && rd w == 0#5) then execSestop (ra w) s else unassigned w s
  | 0x2#7 => if (rb w == 0#5) then execSepoll (rd w) (ra w) s else unassigned w s
  | 0x3#7 => if (rd w == 0#5) then execWdef (ra w) (rb w) s else unassigned w s
  | 0x4#7 => if ((rb w).extractLsb' 4 1 == 0#1) then execWaita (rd w) (ra w) ((rb w).extractLsb' 0 4) s else unassigned w s
  | 0x5#7 => if ((rb w).extractLsb' 4 1 == 0#1 && rd w == 0#5) then execRela (ra w) ((rb w).extractLsb' 0 4) s else unassigned w s
  | _ => unassigned w s

theorem issueStream_eq (w : BitVec 32) (s : State) : runDecoded (decodeStream w) w s = issueStream w s := by
  unfold decodeStream issueStream
  split <;> first
    | (first | rfl | exact runDecoded_need_wf _ _ _ _ rfl | exact runDecoded_need _ _ _ _)
    | (simp only [*]; first | rfl | exact runDecoded_need_wf _ _ _ _ rfl | exact runDecoded_need _ _ _ _)

def issueSync (w : BitVec 32) (s : State) : Out :=
  match (fn7 w).extractLsb' 4 3 with
  | 0x0#3 => if (rb w == 0#5) && (decide (((fn7 w).extractLsb' 4 3).toNat ≤ 4) && decide (((fn7 w).extractLsb' 0 4).toNat ≤ 11) && (((fn7 w).extractLsb' 0 4) != 0#4 || (ra w) == 0#5)) then execSync (rd w) (ra w) ((fn7 w).extractLsb' 0 4) ((fn7 w).extractLsb' 4 3) s else unassigned w s
  | 0x1#3 => if (rb w == 0#5) && (decide (((fn7 w).extractLsb' 4 3).toNat ≤ 4) && decide (((fn7 w).extractLsb' 0 4).toNat ≤ 11) && (((fn7 w).extractLsb' 0 4) != 0#4 || (ra w) == 0#5)) then execSync (rd w) (ra w) ((fn7 w).extractLsb' 0 4) ((fn7 w).extractLsb' 4 3) s else unassigned w s
  | 0x2#3 => if (rb w == 0#5) && (decide (((fn7 w).extractLsb' 4 3).toNat ≤ 4) && decide (((fn7 w).extractLsb' 0 4).toNat ≤ 11) && (((fn7 w).extractLsb' 0 4) != 0#4 || (ra w) == 0#5)) then execSync (rd w) (ra w) ((fn7 w).extractLsb' 0 4) ((fn7 w).extractLsb' 4 3) s else unassigned w s
  | 0x3#3 => if (rb w == 0#5) && (decide (((fn7 w).extractLsb' 4 3).toNat ≤ 4) && decide (((fn7 w).extractLsb' 0 4).toNat ≤ 11) && (((fn7 w).extractLsb' 0 4) != 0#4 || (ra w) == 0#5)) then execSync (rd w) (ra w) ((fn7 w).extractLsb' 0 4) ((fn7 w).extractLsb' 4 3) s else unassigned w s
  | 0x4#3 => if (rb w == 0#5) && (decide (((fn7 w).extractLsb' 4 3).toNat ≤ 4) && decide (((fn7 w).extractLsb' 0 4).toNat ≤ 11) && (((fn7 w).extractLsb' 0 4) != 0#4 || (ra w) == 0#5)) then execSync (rd w) (ra w) ((fn7 w).extractLsb' 0 4) ((fn7 w).extractLsb' 4 3) s else unassigned w s
  | 0x5#3 =>
    match (fn7 w).extractLsb' 0 4 with
    | 0x0#4 => if (rb w == 0#5 && rd w == 0#5) then execAbort (ra w) s else unassigned w s
    | 0x1#4 => if (rb w == 0#5 && ra w == 0#5 && rd w == 0#5) then execAclr s else unassigned w s
    | 0x2#4 => if (rb w == 0#5 && ra w == 0#5) then execSeal (rd w) s else unassigned w s
    | 0x3#4 => if ((rb w).extractLsb' 3 2 == 0#2 && rd w == 0#5) then execBara (ra w) ((rb w).extractLsb' 0 3) s else unassigned w s
    | 0x4#4 => if ((rb w).extractLsb' 3 2 == 0#2 && ra w == 0#5 && rd w == 0#5) then execBarw ((rb w).extractLsb' 0 3) s else unassigned w s
    | 0x5#4 => if (rb w == 0#5 && ra w == 0#5 && rd w == 0#5) then execTsync s else unassigned w s
    | _ => unassigned w s
  | _ => unassigned w s

theorem issueSync_eq (w : BitVec 32) (s : State) : runDecoded (decodeSync w) w s = issueSync w s := by
  unfold decodeSync issueSync
  split <;> first
    | (first | rfl | exact runDecoded_need_wf _ _ _ _ rfl | exact runDecoded_need _ _ _ _)
    | (simp only [*]; first | rfl | exact runDecoded_need_wf _ _ _ _ rfl | exact runDecoded_need _ _ _ _)
    | (split <;> first | (first | rfl | exact runDecoded_need_wf _ _ _ _ rfl | exact runDecoded_need _ _ _ _) | (simp only [*]; first | rfl | exact runDecoded_need_wf _ _ _ _ rfl | exact runDecoded_need _ _ _ _))
    | (simp only [*]; split <;> first | (first | rfl | exact runDecoded_need_wf _ _ _ _ rfl | exact runDecoded_need _ _ _ _) | (simp only [*]; first | rfl | exact runDecoded_need_wf _ _ _ _ rfl | exact runDecoded_need _ _ _ _))

def issueFabric (w : BitVec 32) (s : State) : Out :=
  match (fn7 w).extractLsb' 0 3 with
  | 0x0#3 => if ((fn7 w).extractLsb' 3 4 == 0#4) then execKmint (rd w) (ra w) (rb w) s else unassigned w s
  | 0x1#3 => if ((fn7 w).extractLsb' 3 4 == 0#4 && rb w == 0#5) then execKrev (rd w) (ra w) s else unassigned w s
  | 0x2#3 => if ((fn7 w).extractLsb' 3 4 == 0#4) then execCset (rd w) (ra w) (rb w) s else unassigned w s
  | 0x3#3 => if ((fn7 w).extractLsb' 3 4 == 0#4 && rb w == 0#5) then execCfree (rd w) (ra w) s else unassigned w s
  | 0x4#3 => if ((fn7 w).extractLsb' 3 4 == 0#4 && rb w == 0#5 && rd w == 0#5) then execCfire (ra w) s else unassigned w s
  | 0x5#3 => if ((fn7 w).extractLsb' 5 2 == 0#2) then execMlred (rd w) (ra w) (rb w) ((fn7 w).extractLsb' 3 1) ((fn7 w).extractLsb' 4 1) s else unassigned w s
  | 0x6#3 => if ((fn7 w).extractLsb' 3 4 == 0#4 && rd w == 0#5) then execMcast (ra w) (rb w) s else unassigned w s
  | _ => unassigned w s

theorem issueFabric_eq (w : BitVec 32) (s : State) : runDecoded (decodeFabric w) w s = issueFabric w s := by
  unfold decodeFabric issueFabric
  split <;> first
    | (first | rfl | exact runDecoded_need_wf _ _ _ _ rfl | exact runDecoded_need _ _ _ _)
    | (simp only [*]; first | rfl | exact runDecoded_need_wf _ _ _ _ rfl | exact runDecoded_need _ _ _ _)

def issueOperands (w : BitVec 32) (s : State) : Out :=
  match major w with
  | 0x0#6 => issueSys w s
  | 0x1#6 => issueAlu w s
  | 0x2#6 => execAddi (rd w) (ra w) (imm12 w) s
  | 0x3#6 => execAndi (rd w) (ra w) (imm12 w) s
  | 0x4#6 => execOri (rd w) (ra w) (imm12 w) s
  | 0x5#6 => execXori (rd w) (ra w) (imm12 w) s
  | 0x6#6 => issueCompareImm w s
  | 0x7#6 => issueShiftImm w s
  | 0x8#6 => execLdi (rd w) (imm17 w) s
  | 0x9#6 => execLdih (rd w) (imm17 w) s
  | 0xA#6 => issueBitField w s
  | 0xB#6 => issueSelect w s
  | 0xC#6 => execBeq (bra w) (brb w) (nBit w) (off11 w) s
  | 0xD#6 => execBne (bra w) (brb w) (nBit w) (off11 w) s
  | 0xE#6 => execBlt (bra w) (brb w) (nBit w) (off11 w) s
  | 0xF#6 => execBge (bra w) (brb w) (nBit w) (off11 w) s
  | 0x10#6 => execBltu (bra w) (brb w) (nBit w) (off11 w) s
  | 0x11#6 => execBgeu (bra w) (brb w) (nBit w) (off11 w) s
  | 0x12#6 => execJmp (off22 w) s
  | 0x13#6 => execCall (off22 w) s
  | 0x14#6 => issueJumpReg w s
  | 0x15#6 => issueLoopNest w s
  | 0x16#6 => issueTileLoad w s
  | 0x17#6 => issueTileStore w s
  | 0x18#6 => issueTileAtomic w s
  | 0x19#6 => issueVecMem w s
  | 0x1A#6 => issueGatherCopy w s
  | 0x1B#6 => issueVecFloat w s
  | 0x1C#6 => issueVecInt w s
  | 0x1D#6 => issueVecLogic w s
  | 0x1E#6 => issueVecCompare w s
  | 0x1F#6 => issueVecConvert w s
  | 0x20#6 => issueVecReduce w s
  | 0x21#6 => issueVecPermute w s
  | 0x22#6 => issueMask w s
  | 0x23#6 => issueMma w s
  | 0x24#6 => issueAccumulator w s
  | 0x25#6 => issueMatrixConfig w s
  | 0x27#6 => issueGet w s
  | 0x28#6 => issueDeposit w s
  | 0x29#6 => issueBlockDeposit w s
  | 0x2A#6 => issueLevelAtomic w s
  | 0x2B#6 => issueBatch w s
  | 0x2C#6 => issueStream w s
  | 0x2D#6 => issueSync w s
  | 0x2E#6 => issueFabric w s
  | _ => unassigned w s

set_option linter.unusedSimpArgs false in
theorem issueOperands_eq (w : BitVec 32) (s : State) : runDecoded (decodeOperands w) w s = issueOperands w s := by
  unfold decodeOperands issueOperands
  split <;> first
    | (simp only [*, issueSys_eq, issueAlu_eq, issueCompareImm_eq, issueShiftImm_eq, issueBitField_eq, issueSelect_eq, issueJumpReg_eq, issueLoopNest_eq, issueTileLoad_eq, issueTileStore_eq, issueTileAtomic_eq, issueVecMem_eq, issueGatherCopy_eq, issueVecFloat_eq, issueVecInt_eq, issueVecLogic_eq, issueVecCompare_eq, issueVecConvert_eq, issueVecReduce_eq, issueVecPermute_eq, issueMask_eq, issueMma_eq, issueAccumulator_eq, issueMatrixConfig_eq, issueGet_eq, issueDeposit_eq, issueBlockDeposit_eq, issueLevelAtomic_eq, issueBatch_eq, issueStream_eq, issueSync_eq, issueFabric_eq]; done)
    | rfl
    | (simp only [*]; rfl)

def issue16 (h : BitVec 16) (s : State) : Out :=
  match h.extractLsb' 1 4 with
  | 0x0#4 => execVmov16 (h.extractLsb' 5 5) (h.extractLsb' 10 5) (h.extractLsb' 15 1) s
  | 0x1#4 => execVaddF16 (h.extractLsb' 5 5) (h.extractLsb' 10 5) (h.extractLsb' 15 1) s
  | 0x2#4 => execVsubF16 (h.extractLsb' 5 5) (h.extractLsb' 10 5) (h.extractLsb' 15 1) s
  | 0x3#4 => execVmulF16 (h.extractLsb' 5 5) (h.extractLsb' 10 5) (h.extractLsb' 15 1) s
  | 0x4#4 => execVfmac16 (h.extractLsb' 5 5) (h.extractLsb' 10 5) (h.extractLsb' 15 1) s
  | 0x5#4 => execVmaxF16 (h.extractLsb' 5 5) (h.extractLsb' 10 5) (h.extractLsb' 15 1) s
  | 0x6#4 => execVminF16 (h.extractLsb' 5 5) (h.extractLsb' 10 5) (h.extractLsb' 15 1) s
  | 0x7#4 => execVaddI16 (h.extractLsb' 5 5) (h.extractLsb' 10 5) (h.extractLsb' 15 1) s
  | 0x8#4 => execVsubI16 (h.extractLsb' 5 5) (h.extractLsb' 10 5) (h.extractLsb' 15 1) s
  | 0x9#4 => execVmulI16 (h.extractLsb' 5 5) (h.extractLsb' 10 5) (h.extractLsb' 15 1) s
  | 0xA#4 => execVand16 (h.extractLsb' 5 5) (h.extractLsb' 10 5) (h.extractLsb' 15 1) s
  | 0xB#4 => execVor16 (h.extractLsb' 5 5) (h.extractLsb' 10 5) (h.extractLsb' 15 1) s
  | 0xC#4 => execVxor16 (h.extractLsb' 5 5) (h.extractLsb' 10 5) (h.extractLsb' 15 1) s
  | 0xD#4 => execVshlV16 (h.extractLsb' 5 5) (h.extractLsb' 10 5) (h.extractLsb' 15 1) s
  | 0xE#4 => execVshrV16 (h.extractLsb' 5 5) (h.extractLsb' 10 5) (h.extractLsb' 15 1) s
  | _ => execVsraV16 (h.extractLsb' 5 5) (h.extractLsb' 10 5) (h.extractLsb' 15 1) s

theorem issue16_eq (h : BitVec 16) (s : State) : exec (decode16 h) s = issue16 h s := by
  unfold decode16 issue16
  split <;> first
    | rfl
    | (simp only [*]; rfl)

/-- `issueWord` without building an instruction. -/
def issueFast (w : BitVec 32) (s : State) : Out :=
  if w.getLsbD 0 then issueOperands w s else issue16 (w.setWidth 16) s

@[csimp] theorem issueWord_eq_issueFast : @issueWord = @issueFast := by
  funext w s
  unfold issueWord issueFast
  rw [issueOperands_eq, issue16_eq]

end Sys2Proof.Machine
end

