-- ==== Sys2Proof/Machine/Cycle.lean ====
section
/-!
DEFINITION. The parts of a cycle that a step calls: the turn of a stream program, the turn of a tile and the end of the cycle (R7, R358);
and a launch of one line, which places a single instruction.
-/

namespace Sys2Proof.Machine

/-- The thread that issued or trapped asks for the lines of its next instruction (R91). -/
def fetchNext (k t : Nat) : Out → Out
  | .next s => .next (s.requestNext k t)
  | o => o

/-- The instruction at Q0 has neither issued nor trapped nor parked its tile: an interlock or a structural stall holds it (R96). -/
def Thread.heldBy (before after : Thread) : Bool := after.lastIssue == before.lastIssue && after.nested == before.nested

/-- A pending TICK is taken in a slot in which the instruction at Q0 would issue, and not while an interlock or a structural stall
holds that instruction (R118, R298, R300). -/
def State.performTick (s : State) (k t : Nat) : Out :=
  if s.thr.n0 then exec (.tickTaken k t) s
  else
    match issueWord (s.textWord k t s.thr.q0) s with
    | .next s1 => if s.thr.heldBy (s1.thread k t) then .next s1 else exec (.tickTaken k t) s
    | _ => exec (.tickTaken k t) s

/-- A tile's turn: its TICK, its annulled instruction, or the word at Q0 (R11, R78, R116, R298). -/
def State.perform (s : State) (k : Nat) (a : Act) : Out :=
  let s0 := s.turn k a.thread
  fetchNext k a.thread (match a with
    | .tick t => s0.performTick k t
    | .annul _ => .next s0.retire
    | .issue _ w => issueWord w s0)

/-- A stream program's turn: the command at its counter, or a program fault (R220, R224). -/
def State.runCommand (s : State) (key : Nat) : Out :=
  let s0 := { s with curProg := key }
  match s0.command key with
  | none => .next s0.progFault
  | some w =>
    match decodeCommand w with
    | .ok i => exec i s0
    | .error _ => .next s0.progFault

/-- What is left of the cycle once no event is due. -/
def State.afterEvents (s : State) : Out :=
  match s.dueProg with
  | some key => s.runCommand key
  | none =>
    match s.nextAct with
    | some (k, a) => s.perform k a
    | none => .next { s.endCycle with cyc := s.cyc + 1, cursor := 0 }

/-! ## Placing one instruction -/

/-- Everything due in this cycle waits for the next. -/
def State.postpone (s : State) : State :=
  { s with
    events := s.events.map (fun e => if e.1 ≤ s.cyc then (s.cyc + 1, e.2) else e)
    progs := s.progs.map (fun e => if e.2.due ≤ s.cyc then (e.1, { e.2 with due := s.cyc + 1 }) else e) }

/-- A launch of one thread on tile 0, whose text is one line. -/
def oneLine : Launch :=
  { (default : Launch) with state := .running, place := { (default : Placement) with w := 1, h := 1 }, gw := 4, gh := 4, nthr := 1, textSize := 64 }

/-- The machine with a loaded launch whose first word stands at text offset 0 of tile 0. -/
def State.withOneLine (s : State) (bs : List Byte) : State :=
  let lid := s.nextLaunch
  let s1 : State := { s with powered := true, cursor := 0, nextLaunch := lid + 1, launches := s.launches.set lid oneLine }
  let s2 := (s1.clearRange (.istore 0) 0 64).poke (.istore 0) 0 bs
  ((s2.setupTile lid 0 0 0 [] [] []).startThread 0 0 0).fillWindow 0 0 s.cyc [0]

/-- The state with an instruction of `nbits` table bits placed where the next step fetches: at Q0 of the thread whose turn it is, or,
where no thread is about to issue, in a launch loaded for it. -/
def State.placeWord (s : State) (nbits w : Nat) : State :=
  let bs := tableBytes nbits w
  let s1 := s.postpone
  match if s1.powered then s1.nextAct else none with
  | some (k, .issue t _) =>
    match s1.textSpan k t with
    | (sp, base, size) =>
      let q := (s1.thread k t).q0.toNat
      if q + 4 ≤ size then (let s2 := s1.poke sp (base + q) bs; s2.fillWindow k t s2.cyc (s2.linesAt k t (s2.thread k t).q0)) else s1.withOneLine bs
  | _ => s1.withOneLine bs

end Sys2Proof.Machine
end

