-- ==== Sys2Proof/Machine/Step.lean ====
section
/-!
DEFINITION. One step of the module. In each cycle the events that are due come first, in the order in which they were scheduled; then
the stream programs whose next command is due; then the tiles in ascending order, each with at most one issue; then the cycle ends. An
event that the outside world brings (a frame, a write of the host, a fault) is an entry of the event list like any other.

Bytes that an event at the start of cycle c + 1 writes into tile SRAM are the write of cycle c of their port: they come after the thread
port's stores of cycle c, copies before the matrix engine and that before the exchange port (`eventRank`), and a read of cycle c does not
see them (R180).
-/

namespace Sys2Proof.Machine

/-- One step. -/
def step (s : State) : Host.Outcome State Fault Refusal :=
  if s.powered then
    match s.events with
    | [] => s.afterEvents
    | (c, e) :: r => if c ≤ s.cyc then exec e { s with events := r } else s.afterEvents
  else .fault .poweredOff

/-- The state with one instruction placed where the next step fetches (`State.placeWord`). -/
def State.withFetchWord (s : State) (nbits w : Nat) : State := s.placeWord nbits w

end Sys2Proof.Machine
end

