-- ==== Sys2Proof/Observe.lean ====
section
/-!
DEFINITION. The terms the statements use: what a register reads in a cycle, when an operand is readable (R99), what a state leaves
unchanged beside another, and the effects that the instructions of one shape share.
-/

namespace Sys2Proof.Observe

open Sys2Proof.Machine

/-! ## Reading -/

/-- Width of a register of a file: 0 the general registers by physical number, 1 vn, 2 mn. -/
def width : Nat → Nat
  | 0 => 64
  | 1 => 512
  | _ => 16

/-- What register `num` of file `cls` of the executing thread reads in cycle `c`, if nothing more is issued. -/
def reg (s : State) (cls num c : Nat) : Vec := ((s.thr.readAt c cls num).setWidth (width cls)).setWidth 512

/-- wn may be read without STALLSHORT (R99). -/
def ReadableW (s : State) (n : BitVec 5) : Prop := s.thr.chk = true → n ≠ 0#5 → s.thr.short s.cyc 0 (s.thr.phys n.toNat) = false

/-- vn may be read without STALLSHORT (R99). -/
def ReadableV (s : State) (n : BitVec 5) : Prop := s.thr.chk = true → s.thr.short s.cyc 1 n.toNat = false

/-- mn may be read without STALLSHORT (R99). -/
def ReadableM (s : State) (n : Nat) : Prop := s.thr.chk = true → n ≠ 0 → s.thr.short s.cyc 2 n = false

/-! ## Frames -/

/-- Nothing of the module differs but the executing thread. -/
def OnlyThread (s t : State) : Prop :=
  t = { s with tiles := t.tiles } ∧ (∀ k, t.tile k = { s.tile k with threads := (t.tile k).threads }) ∧
  ∀ k i, k ≠ s.curTile ∨ i ≠ s.curThread → t.thread k i = s.thread k i

/-- Nothing of the module differs but the executing thread and bytes of memory. -/
def OnlyThreadAndMemory (s t : State) : Prop := OnlyThread s { t with mem := s.mem }

/-- Of a thread, nothing differs but its registers with their pending results, its queue and its issue record. -/
def SameButRegsAndQueue (a b : Thread) : Prop :=
  b = { a with regs := b.regs, vregs := b.vregs, mregs := b.mregs, pend := b.pend, q0 := b.q0, q1 := b.q1, q2 := b.q2
               n0 := b.n0, n1 := b.n1, lastIssue := b.lastIssue, stallDone := b.stallDone, heldFrom := b.heldFrom, subst := b.subst }

/-- Every register but those listed reads in every cycle from now on as it would have read. -/
def RegsKept (s t : State) (but : List (Nat × Nat)) : Prop :=
  ∀ cls num, cls ≤ 2 → (cls, num) ∉ but → ∀ c, s.cyc ≤ c → reg t cls num c = reg s cls num c

/-- Every byte of every memory reads as before. -/
def MemoryKept (s t : State) : Prop := ∀ sp a, t.byte sp a = s.byte sp a

/-- The queue moved on by one instruction (the last row of Table 7.2), in this cycle. -/
def QueueMoved (s t : State) : Prop :=
  t.thr.q0 = s.thr.q1 ∧ t.thr.q1 = s.thr.q2 ∧ t.thr.q2 = s.seqOf s.curTile s.curThread s.thr.q2 ∧
  t.thr.n0 = s.thr.n1 ∧ t.thr.n1 = false ∧ t.thr.lastIssue = s.cyc

/-- The queue moved on by one instruction, with its third entry replaced by a target (Table 7.2), in this cycle. -/
def QueueTo (s t : State) (x : BitVec 18) : Prop :=
  t.thr.q0 = s.thr.q1 ∧ t.thr.q1 = s.thr.q2 ∧ t.thr.q2 = x ∧ t.thr.n0 = s.thr.n1 ∧ t.thr.n1 = false ∧ t.thr.lastIssue = s.cyc

/-- The register reads `v` from `lat` cycles after this one on, and until then what it would have read. -/
def Reads (s t : State) (cls num lat : Nat) (v : Vec) : Prop :=
  (∀ c, s.cyc + lat ≤ c → reg t cls num c = v) ∧ ∀ c, s.cyc ≤ c → c < s.cyc + lat → reg t cls num c = reg s cls num c

/-- The place of wn among registers; none for w0, which takes no value (R101). -/
def placeW (s : State) (d : BitVec 5) : List (Nat × Nat) := if d = 0#5 then [] else [(0, s.thr.phys d.toNat)]

/-- The place of mn; none for m0, which takes no value (R105). -/
def placeM (d : Nat) : List (Nat × Nat) := if d = 0 then [] else [(2, d)]

/-- An instruction that writes wd after `lat` cycles and nothing else, and moves the queue; a write to w0 is discarded. -/
def WritesW (s t : State) (d : BitVec 5) (lat : Nat) (v : Word) : Prop :=
  OnlyThread s t ∧ SameButRegsAndQueue s.thr t.thr ∧ RegsKept s t (placeW s d) ∧ MemoryKept s t ∧ QueueMoved s t ∧
  (d ≠ 0#5 → Reads s t 0 (s.thr.phys d.toNat) lat (v.setWidth 512))

/-- An instruction that writes vd after `lat` cycles and nothing else, and moves the queue. -/
def WritesV (s t : State) (d : BitVec 5) (lat : Nat) (v : Vec) : Prop :=
  OnlyThread s t ∧ SameButRegsAndQueue s.thr t.thr ∧ RegsKept s t [(1, d.toNat)] ∧ MemoryKept s t ∧ QueueMoved s t ∧
  Reads s t 1 d.toNat lat v

/-- An instruction that writes md after `lat` cycles and nothing else, and moves the queue; a write to m0 is ignored. -/
def WritesM (s t : State) (d : Nat) (lat : Nat) (v : Mask) : Prop :=
  OnlyThread s t ∧ SameButRegsAndQueue s.thr t.thr ∧ RegsKept s t (placeM d) ∧ MemoryKept s t ∧ QueueMoved s t ∧
  (d ≠ 0 → Reads s t 2 d lat (v.setWidth 512))

end Sys2Proof.Observe
end

