-- ==== Sys2Proof/Safety.lean ====
section
/-!
DEFINITION. What counts as a safe run: one that ends neither in a fault nor in a refusal. The module stops only where its power is cut
(R341); everything else that the spec calls a fault, a trap or an abort is a next state.
-/

namespace Sys2Proof.Safety

open Sys2Proof.Machine

/-- Step `n` of a run leads to a next state, and so do all before it. -/
def runs (n : Nat) (s : State) : Bool :=
  match Sys2Proof.core.run n s with
  | .next _ => true
  | .fault _ => false
  | .refused _ => false

/-- A run that never stops. -/
def Safe (s : State) : Prop := ∀ n, runs n s = true

end Sys2Proof.Safety
end

