-- ==== Sys2Proof/Certificates/Slice0/Obligations.lean ====
section
/-!
DEFINITION. The statements about the KD-64: one definition each, under the name that OBLIGATIONS.json lists, after the tables they range
over. A table gives, for the instructions of one shape, what a rule of spec/ gives each.
-/

open Sys2Proof Sys2Proof.Machine Sys2Proof.Observe

/-! ## Scalar instructions (R108 to R114) -/

namespace Sys2Proof.Claims

/-- A signed comparison's, or any condition's, value in a register. -/
def flag (p : Prop) [Decidable p] : Word := if p then 1#64 else 0#64

/-- The effective width of a bit-field control word (R113). -/
def fieldWidth (b : Word) : Nat :=
  let p := (b.extractLsb' 0 6).toNat
  let w := (b.extractLsb' 8 7).toNat
  if w = 0 ∨ 64 < p + w then 64 - p else w

/-- Table 7.1 and R113: instructions of two sources, with their latency (Table 6.1) and the relation of a and b to the result. -/
def aluTwo : List ((BitVec 5 → BitVec 5 → BitVec 5 → Instr) × Nat × (Word → Word → Word → Prop)) :=
  [ (.add, 1, fun a b v => v = a + b)
  , (.sub, 1, fun a b v => v = a - b)
  , (.addw, 1, fun a b v => v = (BitVec.setWidth 32 a + BitVec.setWidth 32 b).signExtend 64)
  , (.subw, 1, fun a b v => v = (BitVec.setWidth 32 a - BitVec.setWidth 32 b).signExtend 64)
  , (.and, 1, fun a b v => v = a &&& b)
  , (.or, 1, fun a b v => v = a ||| b)
  , (.xor, 1, fun a b v => v = a ^^^ b)
  , (.andn, 1, fun a b v => v = a &&& ~~~b)
  , (.sll, 1, fun a b v => v = a <<< (b.extractLsb' 0 6))
  , (.srl, 1, fun a b v => v = a >>> (b.extractLsb' 0 6))
  , (.sra, 1, fun a b v => v = a.sshiftRight (b.extractLsb' 0 6).toNat)
  , (.mul, 3, fun a b v => v = BitVec.ofNat 64 (a.toNat * b.toNat))
  , (.mulw, 3, fun a b v => v = (BitVec.setWidth 32 a * BitVec.setWidth 32 b).signExtend 64)
  , (.mulh, 3, fun a b v => v = BitVec.ofInt 64 (a.toInt * b.toInt / 2 ^ 64))
  , (.mulhu, 3, fun a b v => v.toNat = a.toNat * b.toNat / 2 ^ 64)
  , (.div, 34, fun a b v => v = if b = 0#64 then -1#64 else a.sdiv b)
  , (.divu, 34, fun a b v => v = if b = 0#64 then -1#64 else a / b)
  , (.rem, 34, fun a b v => v = if b = 0#64 then a else a.srem b)
  , (.remu, 34, fun a b v => v = if b = 0#64 then a else a % b)
  , (.min, 1, fun a b v => v = if a.toInt ≤ b.toInt then a else b)
  , (.max, 1, fun a b v => v = if b.toInt ≤ a.toInt then a else b)
  , (.minu, 1, fun a b v => v = if a ≤ b then a else b)
  , (.maxu, 1, fun a b v => v = if b ≤ a then a else b)
  , (.seq, 1, fun a b v => v = flag (a = b))
  , (.slt, 1, fun a b v => v = flag (a.toInt < b.toInt))
  , (.sltu, 1, fun a b v => v = flag (a < b))
  , (.bfx, 1, fun a b v => ∀ i, i < 64 → v.getLsbD i =
      if i < fieldWidth b then a.getLsbD ((b.extractLsb' 0 6).toNat + i) else a.getLsbD ((b.extractLsb' 0 6).toNat + fieldWidth b - 1))
  , (.bfxu, 1, fun a b v => ∀ i, v.getLsbD i = (decide (i < fieldWidth b) && a.getLsbD ((b.extractLsb' 0 6).toNat + i))) ]

/-- Table 7.1: the unary instructions. -/
def aluOne : List ((BitVec 5 → BitVec 5 → Instr) × (Word → Word → Prop)) :=
  [ (.clz, fun a v => v.toNat ≤ 64 ∧ (∀ i, i < v.toNat → a.getLsbD (63 - i) = false) ∧ (v.toNat < 64 → a.getLsbD (63 - v.toNat) = true))
  , (.ctz, fun a v => v.toNat ≤ 64 ∧ (∀ i, i < v.toNat → a.getLsbD i = false) ∧ (v.toNat < 64 → a.getLsbD v.toNat = true))
  , (.popc, fun a v => v.toNat = (List.range 64).countP a.getLsbD)
  , (.sextb, fun a v => v = (BitVec.setWidth 8 a).signExtend 64)
  , (.sexth, fun a v => v = (BitVec.setWidth 16 a).signExtend 64)
  , (.sextw, fun a v => v = (BitVec.setWidth 32 a).signExtend 64)
  , (.zextb, fun a v => v = (BitVec.setWidth 8 a).setWidth 64)
  , (.zexth, fun a v => v = (BitVec.setWidth 16 a).setWidth 64)
  , (.zextw, fun a v => v = (BitVec.setWidth 32 a).setWidth 64) ]

/-- R111: the immediate instructions with a 12-bit immediate. -/
def aluImm : List ((BitVec 5 → BitVec 5 → BitVec 12 → Instr) × (Word → Word → Word)) :=
  [ (.addi, fun a i => a + i), (.andi, fun a i => a &&& i), (.ori, fun a i => a ||| i), (.xori, fun a i => a ^^^ i) ]

/-- R111: the compare immediates. -/
def compareImm : List ((BitVec 5 → BitVec 5 → BitVec 11 → Instr) × (Word → Word → Word)) :=
  [ (.slti, fun a i => flag (a.toInt < i.toInt)), (.sltiu, fun a i => flag (a < i)) ]

/-- R111: the shift immediates. -/
def shiftImm : List ((BitVec 5 → BitVec 5 → BitVec 6 → Instr) × (Word → Nat → Word)) :=
  [ (.slli, fun a n => a <<< n), (.srli, fun a n => a >>> n), (.srai, fun a n => a.sshiftRight n) ]

end Sys2Proof.Claims

open Sys2Proof.Claims

/-- R108, R109, R110, R113: an instruction of two sources completes wherever both can be read. wd takes the value that Table 7.1 gives after the latency of
Table 6.1, and nothing else changes but the queue; a write to w0 is discarded. R109, R111, R112: the same of the unary and the immediate instructions, whose
latency is 1 cycle. LDIH reads wd as a source. R113, R114: BFI replaces a bit field of wd, which it reads; CSEL and CSELN choose between two sources by whether
a third is 0. -/
def Obligations.ScalarArithmeticResults : Prop :=
  (∀ e ∈ aluTwo, ∀ (d a b : BitVec 5) (s : State), ReadableW s a → ReadableW s b →
    ∃ t v, exec (e.1 d a b) s = .next t ∧ WritesW s t d e.2.1 v ∧ e.2.2 (s.readW a) (s.readW b) v) ∧
  ((∀ e ∈ aluOne, ∀ (d a : BitVec 5) (s : State), ReadableW s a →
    ∃ t v, exec (e.1 d a) s = .next t ∧ WritesW s t d 1 v ∧ e.2 (s.readW a) v) ∧
  (∀ e ∈ aluImm, ∀ (d a : BitVec 5) (i : BitVec 12) (s : State), ReadableW s a →
    ∃ t, exec (e.1 d a i) s = .next t ∧ WritesW s t d 1 (e.2 (s.readW a) (i.signExtend 64))) ∧
  (∀ e ∈ compareImm, ∀ (d a : BitVec 5) (i : BitVec 11) (s : State), ReadableW s a →
    ∃ t, exec (e.1 d a i) s = .next t ∧ WritesW s t d 1 (e.2 (s.readW a) (i.signExtend 64))) ∧
  (∀ e ∈ shiftImm, ∀ (d a : BitVec 5) (h : BitVec 6) (s : State), ReadableW s a →
    ∃ t, exec (e.1 d a h) s = .next t ∧ WritesW s t d 1 (e.2 (s.readW a) h.toNat)) ∧
  (∀ (d : BitVec 5) (i : BitVec 17) (s : State),
    ∃ t, exec (.ldi d i) s = .next t ∧ WritesW s t d 1 (i.signExtend 64)) ∧
  (∀ (d : BitVec 5) (i : BitVec 17) (s : State), ReadableW s d →
    ∃ t, exec (.ldih d i) s = .next t ∧ WritesW s t d 1 ((s.readW d).extractLsb' 0 47 ++ i))) ∧
  ((∀ (d a b : BitVec 5) (s : State), ReadableW s a → ReadableW s b → ReadableW s d →
    ∃ t v, exec (.bfi d a b) s = .next t ∧ WritesW s t d 1 v ∧
      ∀ i, i < 64 → v.getLsbD i =
        let p := ((s.readW b).extractLsb' 0 6).toNat
        if p ≤ i ∧ i < p + fieldWidth (s.readW b) then (s.readW a).getLsbD (i - p) else (s.readW d).getLsbD i) ∧
  (∀ (d a b c : BitVec 5) (s : State), ReadableW s a → ReadableW s b → ReadableW s c →
    (∃ t, exec (.csel d a b c) s = .next t ∧ WritesW s t d 1 (if s.readW c = 0#64 then s.readW b else s.readW a)) ∧
    ∃ t, exec (.cseln d a b c) s = .next t ∧ WritesW s t d 1 (if s.readW c = 0#64 then s.readW a else s.readW b)))

/-- R110: division never traps; a quotient rounds toward zero and a remainder has the sign of the dividend, so that a = q × b + r; by
zero the quotient is −1 and the remainder a, and −2^63 by −1 gives −2^63 with remainder 0. -/
def Obligations.DivisionCorners : Prop :=
  ∀ (d a b : BitVec 5) (s : State), ReadableW s a → ReadableW s b → d ≠ 0#5 →
    ∀ q r : Instr, (q, r) ∈ [(Instr.div d a b, Instr.rem d a b), (.divu d a b, .remu d a b)] →
    ∃ t u x y, exec q s = .next t ∧ exec r s = .next u ∧
      Reads s t 0 (s.thr.phys d.toNat) 34 (BitVec.setWidth 512 x) ∧ Reads s u 0 (s.thr.phys d.toNat) 34 (BitVec.setWidth 512 y) ∧
      (s.readW b = 0#64 → x = 0xFFFFFFFFFFFFFFFF#64 ∧ y = s.readW a) ∧
      (s.readW b ≠ 0#64 → x * s.readW b + y = s.readW a) ∧
      (q = .div d a b → s.readW b ≠ 0#64 → (s.readW a ≠ 0x8000000000000000#64 ∨ s.readW b ≠ 0xFFFFFFFFFFFFFFFF#64) →
        x.toInt = (s.readW a).toInt.tdiv (s.readW b).toInt ∧ y.toInt = (s.readW a).toInt.tmod (s.readW b).toInt) ∧
      (q = .div d a b → s.readW a = 0x8000000000000000#64 → s.readW b = 0xFFFFFFFFFFFFFFFF#64 → x = 0x8000000000000000#64 ∧ y = 0#64) ∧
      (q = .divu d a b → s.readW b ≠ 0#64 → x.toNat = (s.readW a).toNat / (s.readW b).toNat ∧ y.toNat = (s.readW a).toNat % (s.readW b).toNat)

/-- R99: with checking on, an instruction that reads a register whose latest-issued pending result is not yet readable traps STALLSHORT
with no other effect; tval holds the class in [7:5] and the number in [4:0]. Here of the instructions of two sources, for the source that
stands first among those not readable. -/
def Obligations.StallShortTraps : Prop :=
  ∀ e ∈ aluTwo, ∀ (d a b n : BitVec 5) (s : State), s.thr.chk = true →
    (¬ ReadableW s a ∧ n = a ∨ ReadableW s a ∧ ¬ ReadableW s b ∧ n = b) →
    exec (e.1 d a b) s = .next (s.takeTrap ⟨0x03, n.setWidth 64⟩)

/-! ## Control transfers, the register window and the loop nest (R101, R102, R115 to R121, R128 to R131) -/

namespace Sys2Proof.Claims

/-- R119: the conditional branches and when each is taken. -/
def branches : List ((BitVec 5 → BitVec 5 → BitVec 1 → BitVec 11 → Instr) × (Word → Word → Bool)) :=
  [ (.beq, fun a b => a == b), (.bne, fun a b => a != b), (.blt, fun a b => a.slt b), (.bge, fun a b => !(a.slt b))
  , (.bltu, fun a b => a.ult b), (.bgeu, fun a b => !(a.ult b)) ]

/-- A transfer's own offset plus 2 × Sext(off), modulo 2^18 (R82). -/
def target (s : State) {n : Nat} (off : BitVec n) : BitVec 18 := BitVec.ofInt 18 (s.thr.q0.toNat + 2 * off.toInt)

/-- The queue after a .N branch that is not taken (Table 7.2): the next two instructions are annulled. -/
def QueueAnnulled (s t : State) : Prop :=
  t.thr.q0 = s.thr.q1 ∧ t.thr.q1 = s.thr.q2 ∧ t.thr.q2 = s.seqOf s.curTile s.curThread s.thr.q2 ∧
  t.thr.n0 = true ∧ t.thr.n1 = true ∧ t.thr.lastIssue = s.cyc

/-- Nothing changes but the queue. -/
def QueueOnly (s t : State) : Prop := OnlyThread s t ∧ SameButRegsAndQueue s.thr t.thr ∧ RegsKept s t [] ∧ MemoryKept s t

/-- The places of an octet's registers (R101). -/
def octet (o : Nat) : List (Nat × Nat) := (List.range 8).map (fun i => (0, 8 + 8 * (o % 12) + i))

/-- R102, R120: base moves up by two octets, the new local and out octets read 0, the link is written through the caller's w31 with a
latency of 1 cycle, every other register keeps its value, and the queue goes to the target. -/
def CallsTo (s t : State) (x : BitVec 18) : Prop :=
  OnlyThread s t ∧ MemoryKept s t ∧ QueueTo s t x ∧ SameButRegsAndQueue { s.thr with base := (s.thr.base + 2) % 12 } t.thr ∧
  RegsKept s t ((0, s.thr.phys 31) :: (octet (s.thr.base + 3) ++ octet (s.thr.base + 4))) ∧
  (∀ r ∈ octet (s.thr.base + 3) ++ octet (s.thr.base + 4), ∀ c, s.cyc ≤ c → reg t r.1 r.2 c = 0#512) ∧
  Reads s t 0 (s.thr.phys 31) 1 ((s.seqOf s.curTile s.curThread s.thr.q2).setWidth 512)

/-- R102, R121: base moves down by two octets; the old local and out octets are dead and every other register keeps its value. -/
def ReturnsTo (s t : State) (x : BitVec 18) : Prop :=
  OnlyThread s t ∧ MemoryKept s t ∧ QueueTo s t x ∧ SameButRegsAndQueue { s.thr with base := (s.thr.base + 10) % 12 } t.thr ∧
  RegsKept s t (octet (s.thr.base + 1) ++ octet (s.thr.base + 2))

/-- Nothing changes but the nest and the queue. -/
def NestOnly (s t : State) : Prop :=
  OnlyThread s t ∧ SameButRegsAndQueue { s.thr with nest := t.thr.nest } t.thr ∧ RegsKept s t [] ∧ MemoryKept s t

/-- A level that an LNSET, LNCO or LNBASE may name without LOOPWR (R129). -/
def LevelFree (s : State) (j : BitVec 2) : Prop := s.thr.chk = true → s.thr.nest.act.get j.toNat = false

end Sys2Proof.Claims

/-- R119: a branch is taken on its condition to its own offset plus 2 × Sext(off11, 11); a .N branch that is not taken annuls the next two instructions; a
branch writes no register. R120, R121: JMP and JR are always taken; CALL and CALLR move the window up and write the link, where the window has room for the
frame; RET moves it back, where the caller's octets are resident. -/
def Obligations.TransfersOfControl : Prop :=
  (∀ e ∈ branches, ∀ (a b : BitVec 5) (n : BitVec 1) (o : BitVec 11) (s : State), ReadableW s a → ReadableW s b →
    ∃ t, exec (e.1 a b n o) s = .next t ∧ QueueOnly s t ∧
      if e.2 (s.readW a) (s.readW b) then QueueTo s t (target s o) else if n = 1#1 then QueueAnnulled s t else QueueMoved s t) ∧
  ((∀ (j : BitVec 22) (s : State), ∃ t, exec (.jmp j) s = .next t ∧ QueueOnly s t ∧ QueueTo s t (target s j)) ∧
  (∀ (a : BitVec 5) (s : State), ReadableW s a → (s.readW a).getLsbD 0 = false →
    ∃ t, exec (.jr a) s = .next t ∧ QueueOnly s t ∧ QueueTo s t ((s.readW a).setWidth 18)) ∧
  (∀ (j : BitVec 22) (s : State), s.thr.resident + 2 ≤ 12 → ∃ t, exec (.call j) s = .next t ∧ CallsTo s t (target s j)) ∧
  (∀ (a : BitVec 5) (s : State), ReadableW s a → (s.readW a).getLsbD 0 = false → s.thr.resident + 2 ≤ 12 →
    ∃ t, exec (.callr a) s = .next t ∧ CallsTo s t ((s.readW a).setWidth 18)) ∧
  (∀ s : State, ReadableW s 15#5 → (s.readW 15#5).getLsbD 0 = false → 5 ≤ s.thr.resident →
    ∃ t, exec .ret s = .next t ∧ ReturnsTo s t ((s.readW 15#5).setWidth 18)))

/-- R129, R130: LNSET, LNCO and LNBASE write pending values and change no address register; LNIDX enters a level, and the address registers then follow the
equation of R128 over the values loaded. R131: LOOP closes one pass of its level. On a level that is not active it has no effect; below the count it is taken
with the index one up; at the count the index is 0 and the level inactive, and it is not taken. -/
def Obligations.LoopNest : Prop :=
  ((∀ (a : BitVec 5) (j : BitVec 2) (s : State), ReadableW s a → LevelFree s j →
    ∃ t, exec (.lnset a j) s = .next t ∧ NestOnly s t ∧ QueueMoved s t ∧
      t.thr.nest = { s.thr.nest with pcnt := t.thr.nest.pcnt } ∧
      ∀ i, t.thr.nest.pcnt.get i = if i = j.toNat then (s.readW a).setWidth 32 else s.thr.nest.pcnt.get i) ∧
  (∀ (k a : BitVec 5) (j : BitVec 2) (s : State), ReadableW s a → LevelFree s j →
    (∃ t, exec (.lnco k a j) s = .next t ∧ NestOnly s t ∧ QueueMoved s t ∧
      t.thr.nest = { s.thr.nest with pcoef := t.thr.nest.pcoef } ∧
      ∀ i, t.thr.nest.pcoef.get i = if i = 4 * k.toNat + j.toNat then s.readW a else s.thr.nest.pcoef.get i) ∧
    ∃ t, exec (.lnbase k a j) s = .next t ∧ NestOnly s t ∧ QueueMoved s t ∧
      t.thr.nest = { s.thr.nest with pbase := t.thr.nest.pbase, tag := t.thr.nest.tag } ∧
      (∀ i, t.thr.nest.pbase.get i = if i = k.toNat then s.readW a else s.thr.nest.pbase.get i) ∧
      ∀ i, t.thr.nest.tag.get i = if i = k.toNat then j.toNat + 1 else s.thr.nest.tag.get i) ∧
  (∀ (a : BitVec 5) (j : BitVec 2) (s : State), ReadableW s a →
    ∃ t, exec (.lnidx a j) s = .next t ∧ NestOnly s t ∧ QueueMoved s t ∧
      t.thr.nest.act.get j.toNat = true ∧ t.thr.nest.idx.get j.toNat = (s.readW a).setWidth 32 ∧
      t.thr.nest.cnt.get j.toNat = s.thr.nest.pcnt.get j.toNat ∧
      (∀ i, i ≠ j.toNat → t.thr.nest.act.get i = s.thr.nest.act.get i ∧ t.thr.nest.idx.get i = s.thr.nest.idx.get i ∧
        t.thr.nest.cnt.get i = s.thr.nest.cnt.get i) ∧
      (∀ k, k < 16 → t.thr.nest.coef.get (4 * k + j.toNat) = s.thr.nest.pcoef.get (4 * k + j.toNat) ∧
        t.thr.nest.base.get k = if s.thr.nest.tag.get k = j.toNat + 1 then s.thr.nest.pbase.get k else s.thr.nest.base.get k) ∧
      ∀ k, k < 16 → t.thr.nest.areg k = t.thr.nest.base.get k + t.thr.nest.coef.get (4 * k) * (t.thr.nest.idx.get 0).setWidth 64 +
        t.thr.nest.coef.get (4 * k + 1) * (t.thr.nest.idx.get 1).setWidth 64 + t.thr.nest.coef.get (4 * k + 2) * (t.thr.nest.idx.get 2).setWidth 64 +
        t.thr.nest.coef.get (4 * k + 3) * (t.thr.nest.idx.get 3).setWidth 64)) ∧
  (∀ (o : BitVec 15) (j : BitVec 2) (s : State), ∃ t, exec (.loop o j) s = .next t ∧ NestOnly s t ∧
    t.thr.nest = { s.thr.nest with idx := t.thr.nest.idx, act := t.thr.nest.act } ∧
    (∀ i, i ≠ j.toNat → t.thr.nest.idx.get i = s.thr.nest.idx.get i ∧ t.thr.nest.act.get i = s.thr.nest.act.get i) ∧
    let n := s.thr.nest
    let i := n.idx.get j.toNat + 1#32
    (n.act.get j.toNat = false → QueueMoved s t ∧ t.thr.nest = n) ∧
    (n.act.get j.toNat = true → i.toNat < (n.cnt.get j.toNat).toNat →
      QueueTo s t (target s o) ∧ t.thr.nest.idx.get j.toNat = i ∧ t.thr.nest.act.get j.toNat = true) ∧
    (n.act.get j.toNat = true → (n.cnt.get j.toNat).toNat ≤ i.toNat →
      QueueMoved s t ∧ t.thr.nest.idx.get j.toNat = 0#32 ∧ t.thr.nest.act.get j.toNat = false))

/-! ## Traps, special registers, waits and privileged words (R88, R97 to R107, R122 to R127, R297 to R306) -/

namespace Sys2Proof.Claims

/-- A bit of a register. -/
def bitWord (b : Bool) (n : Nat) : Word := if b then 1#64 <<< n else 0#64

/-- R297: the trap state after a trap is taken, from the queue and annul bits given. The handler is at tvec, and its first instruction
issues in own slot k + 2 + S, so that the slot after k counts as the thread's previous issue. Nothing else changes. -/
def Entered (s t : State) (cause : Nat) (v : Word) (e0 e1 e2 : BitVec 18) (n0 n1 : Bool) : Prop :=
  let h : BitVec 18 := s.thr.tvec.setWidth 18
  let h1 := s.seqOf s.curTile s.curThread h
  OnlyThread s t ∧ RegsKept s t [] ∧ MemoryKept s t ∧
  t.thr = { s.thr with
    trap := { tcause := BitVec.ofNat 64 cause, tval := v, tstat := bitWord n0 0 ||| bitWord n1 1
              epc0 := e0.setWidth 64, epc1 := e1.setWidth 64, epc2 := e2.setWidth 64 }
    inTrap := true, q0 := h, q1 := h1, q2 := s.seqOf s.curTile s.curThread h1, n0 := false, n1 := false
    lastIssue := s.cyc + s.thr.rot, stallDone := false, heldFrom := none, subst := [] }

/-- R302 to R304: the trap parks the thread and those that stop with it, and posts a message. Each thread that runs saves its trap
set in the nested set and its queue in the trap registers; queue, registers and memory stay as they were. The message's item is epc0 as the park
saves it, or as a stop that stands has saved it. -/
def ParkedBy (s t : State) (kind cause : Nat) (v : Word) : Prop :=
  let k := s.curTile
  MemoryKept s t ∧ RegsKept s t [] ∧ t.cyc = s.cyc ∧
  (∀ j i, j ≠ k → t.thread j i = s.thread j i) ∧
  (∀ i, t.thread k i = if i ∈ parkThreads s.curThread ∧ (s.thread k i).live = true ∧ (s.thread k i).halted = false
    then (s.thread k i).stopSave else s.thread k i) ∧
  (if s.curThread = 8 then (t.tile k).fillParked = true else (t.tile k).parked = true) ∧
  ∃ m : Message, (s.cyc + 20, .mailboxArrival (dieOf k) m) ∈ t.events ∧ m.kind = kind ∧ m.unit = 9 ∧ m.detail = cause ∧ m.value = v ∧
    m.source = sourceOf k s.curThread ∧
    m.item = (if s.thr.nested.isSome then s.thr.trap.epc0 else s.thr.q0.setWidth 64).toNat ∧ (t.die (dieOf k)).held.get m.ticket ≠ .none

/-- The thread's own special registers that MTSR changes, and how (Tables 6.2, 6.3 and 16.2): a field's other bits are ignored. -/
def writableSpecials : List (Nat × (Word → Thread → Thread)) :=
  [ (0x002, fun v t => { t with tie := v.getLsbD 0 })
  , (0x003, fun v t => { t with chk := v.getLsbD 0 })
  , (0x010, fun v t => { t with tvec := v &&& 0x3FFFE#64 })
  , (0x011, fun v t => { t with trap := { t.trap with tcause := v &&& 0xFF#64 } })
  , (0x012, fun v t => { t with trap := { t.trap with tval := v } })
  , (0x013, fun v t => { t with trap := { t.trap with tstat := v &&& 7#64 } })
  , (0x014, fun v t => { t with trap := { t.trap with epc0 := v &&& 0x3FFFE#64 } })
  , (0x015, fun v t => { t with trap := { t.trap with epc1 := v &&& 0x3FFFE#64 } })
  , (0x016, fun v t => { t with trap := { t.trap with epc2 := v &&& 0x3FFFE#64 } }) ] ++
  (List.range 4).map (fun i => (0x050 + i, fun v t => { t with sf := t.sf.set i (v.setWidth 8) })) ++
  (List.range 5).map (fun i => (0x060 + i, fun v t => { t with wt := t.wt.set i v }))

/-- Table 6.2: what each special register but the bank formats reads. -/
def specialTable : List (Nat × (State → Word)) :=
  [ (0x000, fun s => BitVec.ofNat 64 s.cyc)
  , (0x001, fun s => BitVec.ofNat 64 (s.curThread % 8) ||| bitWord s.thr.sys 3 ||| bitWord s.thr.fill 4 ||| bitWord s.thr.inTrap 5 |||
      bitWord s.thr.recov 6 ||| (BitVec.ofNat 64 (s.thr.lcode % 4) <<< 7))
  , (0x002, fun s => bitWord s.thr.tie 0)
  , (0x003, fun s => bitWord s.thr.chk 0)
  , (0x004, fun s => (s.tile s.curTile).xperm.setWidth 64)
  , (0x005, fun s => BitVec.ofNat 64 (s.thr.base % 16) ||| (BitVec.ofNat 64 (s.thr.lo % 16) <<< 4) ||| (BitVec.ofNat 64 (s.thr.depth % 32) <<< 8))
  , (0x008, fun s => (s.rinOf (s.launchOf s.curTile s.curThread).podSeal).setWidth 64)
  , (0x009, fun s => s.thr.rbk)
  , (0x00A, fun s => s.thr.abt)
  , (0x010, fun s => s.thr.tvec)
  , (0x011, fun s => s.thr.trap.tcause)
  , (0x012, fun s => s.thr.trap.tval)
  , (0x013, fun s => s.thr.trap.tstat)
  , (0x014, fun s => s.thr.trap.epc0)
  , (0x015, fun s => s.thr.trap.epc1)
  , (0x016, fun s => s.thr.trap.epc2)
  , (0x020, fun s => BitVec.ofNat 64 (s.curThread % 8))
  , (0x021, fun s => s.thr.ident.nthr), (0x022, fun s => s.thr.ident.tile), (0x023, fun s => s.thr.ident.grp)
  , (0x024, fun s => s.thr.ident.die), (0x025, fun s => s.thr.ident.pkg), (0x026, fun s => s.thr.ident.mod)
  , (0x027, fun s => s.thr.ident.x), (0x028, fun s => s.thr.ident.y), (0x029, fun s => s.thr.ident.ntile) ] ++
  (List.range 8).map (fun i => (0x030 + i, fun s => s.thr.ident.ext.get i)) ++
  (List.range 8).map (fun i => (0x038 + i, fun s => s.thr.ident.off.get i)) ++
  (List.range 5).map (fun i => (0x040 + i, fun s => s.thr.ss.get i)) ++
  (List.range 4).map (fun i => (0x048 + i, fun s => (s.tile s.curTile).lst.get i)) ++
  (List.range 4).map (fun i => (0x050 + i, fun s => (s.thr.sf.get i).setWidth 64)) ++
  (List.range 5).map (fun i => (0x060 + i, fun s => s.thr.wt.get i))

/-- A number that Table 6.2 does not list. -/
def unlistedSpecial (n : Nat) : Prop := n ∉ specialTable.map Prod.fst ∧ ¬ (0x100 ≤ n ∧ n < 0x280)

/-- An MTSR that makes no undo entry: recovery is off for the tile, the thread is the filler, or the register has its entry (R314). -/
def NoEntryDue (s : State) (n : Nat) : Prop :=
  s.recovering s.curTile = false ∨ s.curThread = 8 ∨ n ∈ (s.tile s.curTile).regLogged

/-- R181, R315: the j-th slot from now that a share of a tile's log fills, 448 of the primary share and 64 of the exchange share; the data bytes of the slots
stand in banks 336 to 367. -/
def logSlot (t : Tile) (share j : Nat) : Nat :=
  if share = 0 then (if j = 0 then t.fillPrim else (t.fillPrim + j) % 448) else 448 + if j = 0 then t.fillExch else (t.fillExch + j) % 64

/-- Byte x of a memory is none of the data bytes of the next n slots of a share of tile k's log. -/
def OffLog (s : State) (k share n : Nat) (sp : Space) (x : Nat) : Prop :=
  ∀ j i, j < n → i < 64 → sp.key x ≠ (Space.tile k).key (0x54000 + 64 * logSlot (s.tile k) share j) + i

/-- R314, R315: a register's old value becomes an undo entry of kind 2 in the primary share of the executing tile's log. -/
def RegisterLogged (s t : State) (n old : Nat) : Prop :=
  ∃ u, t.undo = u :: s.undo ∧ u.kind = 2 ∧ u.tile = s.curTile ∧ u.place = n ∧ natOfBytes u.old = old ∧
    (t.tile s.curTile).undoPrim = (s.tile s.curTile).undoPrim + 1 ∧ n ∈ (t.tile s.curTile).regLogged ∧
    (t.tile s.curTile).log.get (logSlot (s.tile s.curTile) 0 0) = u ∧
    (∀ i, i < 8 → t.byte (.tile s.curTile) (0x54000 + 64 * logSlot (s.tile s.curTile) 0 0 + i) = (BitVec.ofNat 64 old).extractLsb' (8 * i) 8) ∧
    ∀ sp x, OffLog s s.curTile 0 1 sp x → t.byte sp x = s.byte sp x

/-- Nothing of the module differs but the executing tile. -/
def OnlyTile (s t : State) : Prop := t = { s with tiles := t.tiles } ∧ ∀ k, k ≠ s.curTile → t.tile k = s.tile k

/-- A value that bfmt.b takes (Table 10.2, R177): a legal native code with no fields that it does not use, an mx8 format with a scale
bank that is neither b nor reserved, or raw. -/
def FormatOk (s : State) (b : Nat) (v : Word) : Prop :=
  let fmt := (v.extractLsb' 0 4).toNat
  let axis := v.getLsbD 4
  let blk := (v.extractLsb' 5 2).toNat
  let sb := (v.extractLsb' 8 9).toNat
  s.bankReserved s.curTile b = false ∧
  if v.getLsbD 7 then fmt = 0 ∧ axis = false ∧ blk = 0 ∧ sb = 0
  else fmt < 12 ∧ blk = 0 ∧ (if fmt = 10 then s.bankReserved s.curTile sb = false ∧ sb ≠ b else axis = false ∧ sb = 0)

/-- The queue moved on by one instruction, in this cycle; the third entry is found in the text as it stands after the instruction's store. -/
def QueueMovedAfter (s t : State) : Prop :=
  t.thr.q0 = s.thr.q1 ∧ t.thr.q1 = s.thr.q2 ∧ t.thr.q2 = t.seqOf s.curTile s.curThread s.thr.q2 ∧
  t.thr.n0 = s.thr.n1 ∧ t.thr.n1 = false ∧ t.thr.lastIssue = s.cyc

/-- Only thread i of tile k differs. -/
def OnlyThreadAt (s t : State) (k i : Nat) : Prop :=
  t = { s with tiles := t.tiles } ∧ (∀ j, t.tile j = { s.tile j with threads := (t.tile j).threads }) ∧
  ∀ j n, j ≠ k ∨ n ≠ i → t.thread j n = s.thread j n

/-- Nothing of the module differs but the executing thread and the events to come. -/
def OnlyThreadAndEvents (s t : State) : Prop := OnlyThread s { t with events := s.events }

/-- The physical registers of an octet of the ring. -/
def ringOctet (o : Nat) : List (Nat × Nat) := (List.range 8).map (fun i => (0, 8 + 8 * o + i))

end Sys2Proof.Claims

/-- R88, R123, R297: a trap outside a handler whose thread has a handler enters it. TRAP n moves the queue first, with tval n; a word that the tables do not
assign (a GETT with .INV apart, R195) is ILLEGAL with the word in tval and leaves the queue at itself. R297, R303, R304, R368: a trap inside a handler (DOUBLE, kind 4), or with no handler
(NOHANDLER, kind 5), parks the tile's threads and posts a message with the cause and tval to the die's mailbox after 20 cycles. FMTRES (0x0A) is no cause of
these: it enters no handler (R296). -/
def Obligations.TrapsEnterOrPark : Prop :=
  (∀ s : State, s.thr.inTrap = false → s.thr.tvec ≠ 0#64 →
    (∀ c : BitVec 12, ∃ t, exec (.trap c) s = .next t ∧
      Entered s t 0x0D (c.setWidth 64) s.thr.q1 s.thr.q2 (s.seqOf s.curTile s.curThread s.thr.q2) s.thr.n1 false) ∧
    (∀ w : BitVec 32, w.extractLsb' 25 7 ≠ 0x0D#7 ∨ w.extractLsb' 4 6 ≠ 0x27#6 → ∃ t, exec (.unassignedWord w) s = .next t ∧
      Entered s t 0x01 (w.setWidth 64) s.thr.q0 s.thr.q1 s.thr.q2 s.thr.n0 s.thr.n1) ∧
    ∀ r : TrapReq, r.cause < 0x0D → r.cause ≠ 0x0A → Entered s (s.takeTrap r) r.cause r.val s.thr.q0 s.thr.q1 s.thr.q2 s.thr.n0 s.thr.n1) ∧
  (∀ (s : State) (c : BitVec 12), (s.thr.inTrap = true → ∃ t, exec (.trap c) s = .next t ∧ ParkedBy s t 4 0x0D (c.setWidth 64)) ∧
    (s.thr.inTrap = false → s.thr.tvec = 0#64 → ∃ t, exec (.trap c) s = .next t ∧ ParkedBy s t 5 0x0D (c.setWidth 64)))

/-- R106, R125, Tables 6.2 and 6.3: MFSR reads the register of its number with a latency of 2 cycles, and nothing else changes but the queue; a reserved bank's
format reads 0x80 (R176); a number that the table does not list is ILLEGAL with the number in tval, for MTSR too. R106, R125, R177: MTSR writes the register of
its number, in effect from the thread's next issue on; bits that a register does not hold and writes to a read-only register are ignored. ctl.xperm and bfmt
are the tile's; their first write of an interval under recovery also keeps the old value as an undo entry (R314). A value that bfmt does not take traps
BANKFMT, and a reserved bank SPILLPROT. -/
def Obligations.SpecialRegisters : Prop :=
  ((∀ e ∈ specialTable, ∀ (d : BitVec 5) (s : State),
    ∃ t, exec (.mfsr d (BitVec.ofNat 12 e.1)) s = .next t ∧ WritesW s t d 2 (e.2 s)) ∧
  (∀ b, b < 384 → ∀ (d : BitVec 5) (s : State),
    ∃ t, exec (.mfsr d (BitVec.ofNat 12 (0x100 + b))) s = .next t ∧
      WritesW s t d 2 (if s.bankReserved s.curTile b then 0x80#64 else (s.tile s.curTile).bfmt.get b)) ∧
  ∀ (n : BitVec 12) (a : BitVec 5) (s : State), unlistedSpecial n.toNat →
    exec (.mfsr a n) s = .next (s.takeTrap ⟨0x01, n.setWidth 64⟩) ∧
    (ReadableW s a → exec (.mtsr a n) s = .next (s.takeTrap ⟨0x01, n.setWidth 64⟩))) ∧
  ((∀ e ∈ writableSpecials, ∀ (a : BitVec 5) (s : State), ReadableW s a →
    ∃ t, exec (.mtsr a (BitVec.ofNat 12 e.1)) s = .next t ∧ OnlyThread s t ∧ SameButRegsAndQueue (e.2 (s.readW a) s.thr) t.thr ∧
      RegsKept s t [] ∧ MemoryKept s t ∧ QueueMoved s t) ∧
  (∀ e ∈ specialTable, e.1 ∉ writableSpecials.map Prod.fst → e.1 ≠ 0x004 → ∀ (a : BitVec 5) (s : State), ReadableW s a →
    ∃ t, exec (.mtsr a (BitVec.ofNat 12 e.1)) s = .next t ∧ QueueOnly s t ∧ QueueMoved s t) ∧
  (∀ (a : BitVec 5) (s : State), ReadableW s a → NoEntryDue s 0x004 →
    ∃ t, exec (.mtsr a 0x004#12) s = .next t ∧ OnlyTile s t ∧ RegsKept s t [] ∧ MemoryKept s t ∧ QueueMoved s t ∧
      t.tile s.curTile = { s.tile s.curTile with threads := (t.tile s.curTile).threads, xperm := (s.readW a).setWidth 16 } ∧
      SameButRegsAndQueue s.thr t.thr ∧ ∀ i, i ≠ s.curThread → t.thread s.curTile i = s.thread s.curTile i) ∧
  (∀ (b : Nat) (a : BitVec 5) (s : State), b < 384 → ReadableW s a → FormatOk s b (s.readW a) →
    (NoEntryDue s (0x100 + b) → ∃ t, exec (.mtsr a (BitVec.ofNat 12 (0x100 + b))) s = .next t ∧ OnlyTile s t ∧ RegsKept s t [] ∧
      MemoryKept s t ∧ QueueMoved s t ∧ SameButRegsAndQueue s.thr t.thr ∧ (∀ i, i ≠ s.curThread → t.thread s.curTile i = s.thread s.curTile i) ∧
      t.tile s.curTile = { s.tile s.curTile with threads := (t.tile s.curTile).threads, bfmt := (t.tile s.curTile).bfmt } ∧
      ∀ c, (t.tile s.curTile).bfmt.get c = if c = b then s.readW a &&& 0x1FFFF#64 else (s.tile s.curTile).bfmt.get c) ∧
    (¬ NoEntryDue s (0x100 + b) → (s.tile s.curTile).undoPrim < 448 → s.fullSince = none →
      ∃ t, exec (.mtsr a (BitVec.ofNat 12 (0x100 + b))) s = .next t ∧ RegsKept s t [] ∧ QueueMovedAfter s t ∧
        (∀ c, (t.tile s.curTile).bfmt.get c = if c = b then s.readW a &&& 0x1FFFF#64 else (s.tile s.curTile).bfmt.get c) ∧
        RegisterLogged s t (0x100 + b) ((s.tile s.curTile).bfmt.get b).toNat)) ∧
  (∀ (a : BitVec 5) (s : State), ReadableW s a → ¬ NoEntryDue s 0x004 → (s.tile s.curTile).undoPrim < 448 → s.fullSince = none →
    ∃ t, exec (.mtsr a 0x004#12) s = .next t ∧ RegsKept s t [] ∧ QueueMovedAfter s t ∧ (t.tile s.curTile).xperm = (s.readW a).setWidth 16 ∧
      RegisterLogged s t 0x004 (s.tile s.curTile).xperm.toNat) ∧
  ∀ (b : Nat) (a : BitVec 5) (s : State), b < 384 → ReadableW s a → ¬ FormatOk s b (s.readW a) →
    exec (.mtsr a (BitVec.ofNat 12 (0x100 + b))) s = .next (s.takeTrap
      (if s.bankReserved s.curTile b then ⟨0x08, BitVec.ofNat 64 (1024 * b)⟩ else ⟨0x0B, BitVec.ofNat 64 b⟩)))

namespace Sys2Proof.Claims

/-- R127, R314: the two oldest octets stand in spill slot depth; lo is up by two and depth by one, the thread is held for 4 own slots, and no other
register and no byte but the slot's and those of the log's next two slots differs. -/
def OctetsSpilled (s t : State) : Prop :=
  let a := 0x5C000 + 2048 * (s.curThread % 8) + 128 * s.thr.depth
  let lo1 := (s.thr.lo + 1) % 12
  t.thr.lo = (s.thr.lo + 2) % 12 ∧ t.thr.depth = s.thr.depth + 1 ∧ s.cyc + 4 * s.thr.rot ≤ t.thr.notBefore ∧
  RegsKept s t (ringOctet s.thr.lo ++ ringOctet lo1) ∧
  (∀ i, i < 8 → t.num (.tile s.curTile) (a + 8 * i) 8 = (reg s 0 (8 + 8 * s.thr.lo + i) s.cyc).toNat ∧
    t.num (.tile s.curTile) (a + 64 + 8 * i) 8 = (reg s 0 (8 + 8 * lo1 + i) s.cyc).toNat) ∧
  ∀ sp x, x < sp.size → (sp = .tile s.curTile → x < a ∨ a + 128 ≤ x) → OffLog s s.curTile 0 2 sp x → t.byte sp x = s.byte sp x

end Sys2Proof.Claims

/-- R103, R127: WSAVE stores the two oldest octets to spill slot depth, register i of an octet at offset 8i, and raises lo by two and depth by
one; WREST lowers depth and lo and loads them back. Each occupies the thread for 4 own slots, and is ILLEGAL with the word in tval where the
window or the area does not allow it. (Which slot a filler thread uses is the model's choice, log entry 30.) -/
def Obligations.WindowSaveAndRestore : Prop :=
  (∀ s : State, s.thr.depth < 16 → 5 ≤ s.thr.resident → s.thr.chk = false → s.recovering s.curTile = false →
    let a := 0x5C000 + 2048 * (s.curThread % 8) + 128 * s.thr.depth
    let lo1 := (s.thr.lo + 1) % 12
    ∃ t, exec .wsave s = .next t ∧ OnlyThreadAndMemory s t ∧ QueueMovedAfter s t ∧
      t.thr.lo = (s.thr.lo + 2) % 12 ∧ t.thr.depth = s.thr.depth + 1 ∧ s.cyc + 4 * s.thr.rot ≤ t.thr.notBefore ∧
      SameButRegsAndQueue { s.thr with lo := t.thr.lo, depth := t.thr.depth, notBefore := t.thr.notBefore } t.thr ∧
      RegsKept s t (ringOctet s.thr.lo ++ ringOctet lo1) ∧
      (∀ i, i < 8 → t.num (.tile s.curTile) (a + 8 * i) 8 = (reg s 0 (8 + 8 * s.thr.lo + i) s.cyc).toNat ∧
        t.num (.tile s.curTile) (a + 64 + 8 * i) 8 = (reg s 0 (8 + 8 * lo1 + i) s.cyc).toNat) ∧
      ∀ sp x, (sp = .tile s.curTile → x < a ∨ a + 128 ≤ x) → x < sp.size → t.byte sp x = s.byte sp x) ∧
  (∀ s : State, s.thr.depth < 16 → 5 ≤ s.thr.resident → s.thr.chk = false → s.recovering s.curTile = true → s.curThread < 8 →
    (s.tile s.curTile).undoPrim + 2 ≤ 448 → s.fullSince = none → ∃ t, exec .wsave s = .next t ∧ QueueMovedAfter s t ∧ OctetsSpilled s t) ∧
  (∀ s : State, s.thr.depth ≠ 0 → s.thr.resident ≤ 9 →
    let lo := (s.thr.lo + 10) % 12
    let lo1 := (lo + 1) % 12
    let a := 0x5C000 + 2048 * (s.curThread % 8) + 128 * (s.thr.depth - 1)
    ∃ t, exec .wrest s = .next t ∧ OnlyThread s t ∧ MemoryKept s t ∧ QueueMoved s t ∧
      t.thr.lo = lo ∧ t.thr.depth = s.thr.depth - 1 ∧ s.cyc + 4 * s.thr.rot ≤ t.thr.notBefore ∧
      SameButRegsAndQueue { s.thr with lo := t.thr.lo, depth := t.thr.depth, notBefore := t.thr.notBefore } t.thr ∧
      RegsKept s t (ringOctet lo ++ ringOctet lo1) ∧
      ∀ i, i < 8 → ∀ c, (reg t 0 (8 + 8 * lo + i) c).toNat = s.num (.tile s.curTile) (a + 8 * i) 8 ∧
        (reg t 0 (8 + 8 * lo1 + i) c).toNat = s.num (.tile s.curTile) (a + 64 + 8 * i) 8) ∧
  ∀ s : State,
    (s.thr.depth = 16 ∨ s.thr.resident < 5 →
      exec .wsave s = .next (s.takeTrap ⟨0x01, (s.textWord s.curTile s.curThread s.thr.q0).setWidth 64⟩)) ∧
    (s.thr.depth = 0 ∨ 9 < s.thr.resident →
      exec .wrest s = .next (s.takeTrap ⟨0x01, (s.textWord s.curTile s.curThread s.thr.q0).setWidth 64⟩))

namespace Sys2Proof.Claims

/-- R306: what an address of a privileged word must satisfy. -/
def DescAddress (s : State) (v : Word) : Prop :=
  v.toNat % 32 = 0 ∧ v.toNat + 32 ≤ 393216 ∧ s.firstReserved s.curTile v.toNat 32 = none

/-- Table 16.8: the 32 bytes at p are a descriptor that MBXPOST accepts, of a TICK or of a message. -/
def PostOk (s : State) (p : Nat) : Bool :=
  let f (o n : Nat) : Nat := s.num (.tile s.curTile) (p + o) n
  decide (f 4 4 = 0 ∧ (f 0 1 = 1 ∧ f 2 2 < 4096 ∧ f 8 24 = 0 ∨ f 0 1 = 2 ∧ f 2 2 < 64 ∧ f 1 1 = 0))

/-- A thread in system mode that may read the register. -/
def SystemReads (s : State) (a : BitVec 5) : Prop := s.thr.sys = true ∧ ReadableW s a

/-- Of the executing thread, nothing differs but its queue, its issue record and its wait. -/
def WaitsAs (s t : State) (w : Wait) : Prop :=
  SameButRegsAndQueue { s.thr with wait := w, waitFrom := s.cyc, retained := false, spare := 0 } t.thr ∧ RegsKept s t [] ∧ QueueMoved s t ∧ MemoryKept s t

/-- The event is due at the cycle. -/
def Due (t : State) (c : Nat) (e : Instr) : Prop := (c, e) ∈ t.events

/-- The fields of a message as they stand in tile SRAM (Table 16.3). -/
def MessageAt (t : State) (k a : Nat) (m : Message) : Prop :=
  let f (o n : Nat) : Nat := t.num (.tile k) (a + o) n
  f 0 1 = m.kind % 256 ∧ f 1 1 = m.flags % 256 ∧ f 2 2 = m.source % 65536 ∧ f 4 2 = m.ctx % 65536 ∧ f 6 1 = m.unit % 256 ∧
  f 7 1 = m.detail % 256 ∧ f 8 8 = m.value.toNat ∧ f 16 8 = m.location.toNat ∧ f 24 4 = m.item % 4294967296 ∧ f 28 4 = m.ticket % 4294967296

/-- Bytes of tile k's SRAM from a up are the only ones that may differ. -/
def BytesKept (s t : State) (k a n : Nat) : Prop :=
  ∀ sp x, x < sp.size → (sp = .tile k → x < a ∨ a + n ≤ x) → t.byte sp x = s.byte sp x

end Sys2Proof.Claims

/-- R104, R126: SWAIT of a time that has come only moves the queue; otherwise the thread waits, and the wait ends in the cycle u(ws), from where
a wait of 64 cycles or more adds 12. A thread that has waited 64 cycles parks with its registers retained.
Each event ends in a next state, in every state. -/
def Obligations.TimedWaits : Prop :=
  (∀ (k t since : Nat) (s : State), ∃ u, exec (.threadPark k t since) s = .next u) ∧
  (∀ (k t upto : Nat) (s : State), ∃ u, exec (.swaitExpiry k t upto) s = .next u) ∧
  (∀ (a : BitVec 5) (s : State), ReadableW s a →
    ((s.readW a).toNat ≤ s.cyc → ∃ t, exec (.swait a) s = .next t ∧ QueueOnly s t ∧ QueueMoved s t) ∧
    (s.cyc < (s.readW a).toNat → ∃ t, exec (.swait a) s = .next t ∧ OnlyThreadAndEvents s t ∧
      WaitsAs s t (.swait (s.readW a).toNat s.thr.q0.toNat) ∧
      Due t (s.readW a).toNat (.swaitExpiry s.curTile s.curThread (s.readW a).toNat) ∧ Due t (s.cyc + 64) (.threadPark s.curTile s.curThread s.cyc))) ∧
  (∀ (k i u x : Nat) (s : State), (s.thread k i).wait = .swait u x →
    ∃ t, exec (.swaitExpiry k i u) s = .next t ∧ OnlyThreadAt s t k i ∧ MemoryKept s t ∧
      t.thread k i = { s.thread k i with
        wait := .none, retained := false
        notBefore := max (s.thread k i).notBefore (if (s.thread k i).waitFrom + 64 ≤ u then u + 12 else u) }) ∧
  ∀ (k i c : Nat) (s : State), (s.thread k i).wait ≠ .none → (s.thread k i).waitFrom = c →
    ∃ t, exec (.threadPark k i c) s = .next t ∧ OnlyThreadAt s t k i ∧ MemoryKept s t ∧ t.thread k i = { s.thread k i with retained := true }

/-- R122, R124, R299: NOP only moves the queue. ERET in a handler restores the queue and annul bits from epc0 to epc2 and tstat and leaves the handler; outside
a handler it is ILLEGAL with the word in tval. R122: HALT ends the thread: it never issues again, a pending abort code and pending TICKs are lost, and its
registers, its pending results and every memory stay as they are. -/
def Obligations.NopEretHalt : Prop :=
  (∀ s : State,
    (∃ t, exec .nop s = .next t ∧ QueueOnly s t ∧ QueueMoved s t) ∧
    (s.thr.inTrap = true → ∃ t, exec .eret s = .next t ∧ OnlyThread s t ∧ MemoryKept s t ∧ RegsKept s t [] ∧
      t.thr = { s.thr with
        q0 := s.thr.trap.epc0.setWidth 18, q1 := s.thr.trap.epc1.setWidth 18, q2 := s.thr.trap.epc2.setWidth 18
        n0 := s.thr.trap.tstat.getLsbD 0, n1 := s.thr.trap.tstat.getLsbD 1, inTrap := false
        lastIssue := s.cyc, stallDone := false, heldFrom := none, subst := [] }) ∧
    (s.thr.inTrap = false → exec .eret s = .next (s.takeTrap ⟨0x01, (s.textWord s.curTile s.curThread s.thr.q0).setWidth 64⟩))) ∧
  (∀ s : State, ∃ t, exec .halt s = .next t ∧ t.thr.halted = true ∧ t.thr.abort.code = 0#16 ∧ t.thr.ticks = 0 ∧
    t.thr.regs = s.thr.regs ∧ t.thr.vregs = s.thr.vregs ∧ t.thr.mregs = s.thr.mregs ∧ t.thr.pend = s.thr.pend ∧ t.thr.q0 = s.thr.q0 ∧
    MemoryKept s t ∧ t.cyc = s.cyc)

/-- R302, R306: MBXRD in system mode. With a message it pops the oldest into the 32 bytes at the address that wd holds, wd then reads 2^63 plus the messages
left and a held poster's message enters (in proctor 1, where no thread of it waits in an MBXRD, which would take the message first); with none, w = 0 gives 0
and w = 1 waits. In the first two cases wd is readable, and the thread issues again, 12 cycles later. R306, Table 16.8: MBXPOST in system mode. A TICK descriptor reaches its tile 20 cycles later; a message descriptor posts a PEER message with its
24 payload bytes to the die that it names, 64 cycles later within the package and 180 across packages. -/
def Obligations.MailboxWords : Prop :=
  (∀ (d : BitVec 5) (s : State), SystemReads s d → DescAddress s (s.readW d) →
    let k := s.curTile
    let x := s.die (dieOf k)
    let a := (s.readW d).toNat
    (∀ w : BitVec 1, ∃ t, exec (.mbxrd d w) s = .next t) ∧
    (∀ (w : BitVec 1) (m : Message) (r : List Message), x.mailbox = m :: r →
      (k % 2 = 0 ∨ ∀ i b e, i < 8 → (s.thread (262145 + 2 * dieOf k) i).wait ≠ .mailbox b e) → ∃ t, exec (.mbxrd d w) s = .next t ∧
      t = { s with tiles := t.tiles, mem := t.mem, dies := t.dies } ∧
      t.die (dieOf k) = { x with mailbox := r ++ x.waiting.take 1, waiting := x.waiting.drop 1 } ∧
      (∀ e, e ≠ dieOf k → t.die e = s.die e) ∧ (∀ j i, j ≠ k ∨ i ≠ s.curThread → t.thread j i = s.thread j i) ∧
      MessageAt t k a m ∧ BytesKept s t k a 32 ∧ s.cyc + 12 ≤ t.thr.notBefore ∧ QueueMoved s t ∧ RegsKept s t (placeW s d) ∧
      (d ≠ 0#5 → ∀ c, s.cyc + 12 ≤ c →
        reg t 0 (s.thr.phys d.toNat) c = BitVec.setWidth 512 (0x8000000000000000#64 + BitVec.ofNat 64 (r ++ x.waiting.take 1).length))) ∧
    (x.mailbox = [] → (∃ t, exec (.mbxrd d 0#1) s = .next t ∧ OnlyThread s t ∧ MemoryKept s t ∧ QueueMoved s t ∧ RegsKept s t (placeW s d) ∧
        s.cyc + 12 ≤ t.thr.notBefore ∧ (d ≠ 0#5 → Reads s t 0 (s.thr.phys d.toNat) 12 0#512)) ∧
      ∃ t, exec (.mbxrd d 1#1) s = .next t ∧ OnlyThreadAndEvents s t ∧ WaitsAs s t (.mailbox a d.toNat))) ∧
  (∀ (a : BitVec 5) (s : State), SystemReads s a → DescAddress s (s.readW a) →
    let d := dieOf s.curTile
    let p := (s.readW a).toNat
    let f (o n : Nat) : Nat := s.num (.tile s.curTile) (p + o) n
    f 4 4 = 0 →
    (f 0 1 = 1 → f 2 2 < 4096 → (∀ i, i < 24 → f (8 + i) 1 = 0) → ∃ t, exec (.mbxpost a) s = .next t ∧ OnlyThreadAndEvents s t ∧
      SameButRegsAndQueue s.thr t.thr ∧ RegsKept s t [] ∧ MemoryKept s t ∧ QueueMoved s t ∧ Due t (s.cyc + 20) (.tickArrival (4096 * d + f 2 2) (f 1 1))) ∧
    (f 0 1 = 2 → f 2 2 < 64 → f 1 1 = 0 → ∃ t m, exec (.mbxpost a) s = .next t ∧ OnlyThreadAndEvents s t ∧
      SameButRegsAndQueue s.thr t.thr ∧ RegsKept s t [] ∧ MemoryKept s t ∧ QueueMoved s t ∧
      Due t (s.cyc + if f 2 2 % 8 = d / 8 then 64 else 180) (.mailboxArrival (8 * (f 2 2 % 8) + f 2 2 / 8) m) ∧
      m.kind = 8 ∧ m.value.toNat = f 8 8 ∧ m.location.toNat = f 16 8 ∧ m.item = f 24 4 ∧ m.ticket = f 28 4))

/-- R305, R306, Table 16.6: a reply in system mode that its instruction accepts frees the ticket's item. UNPARK lets a tile of a running launch go on 32 cycles
later where no other item holds it; XRESUME lets the engine go on 20 cycles later, or fail under action 2. A reply that the instruction does not accept is
ILLEGAL with the address in tval. R306, R307: GSTOP in system mode asks for a gang-stop of the launch that holds the tile, or answers GSTOPPED with detail 1
where none does; its release lets a launch go on that this proctor holds, and has no effect on another. IDLE ends at once with a message in the mailbox or its
time past, and waits otherwise. (That the first proctor to stop a launch stays its stopper is the model's choice, log entry 91; that an operand of 4096 or
more traps ILLEGAL with the operand in tval is the model's choice, log entry 55.) -/
def Obligations.RepliesStopsAndIdle : Prop :=
  (∀ (a : BitVec 5) (s : State), SystemReads s a → DescAddress s (s.readW a) →
    let d := dieOf s.curTile
    let r := s.reply (s.readW a).toNat
    (s.unparkOk d r = false → exec (.unpark a) s = .next (s.takeTrap ⟨0x01, s.readW a⟩)) ∧
    (s.xresumeOk d r = false → exec (.xresume a) s = .next (s.takeTrap ⟨0x01, s.readW a⟩)) ∧
    (s.unparkOk d r = true → r.ticket ≠ 0 → ∃ t, exec (.unpark a) s = .next t ∧ (t.die d).held.get r.ticket = .none ∧
      ∀ lid k th kind unit place sc v, (s.die d).held.get r.ticket = .tile lid k th kind unit place sc v → (s.launch lid).state = .running →
        MemoryKept s t ∧
        ((∀ e ∈ (s.die d).held.del r.ticket, ∀ i kn un pl sc' v', e.2 ≠ .tile lid k i kn un pl sc' v') →
          Due t (s.cyc + 32) (.tileResume k (if th = 8 then 1 else 0)))) ∧
    (s.unparkOk d r = true → r.ticket = 0 → ∃ t, exec (.unpark a) s = .next t ∧ MemoryKept s t ∧
      ∀ i, i ≠ 8 → (4096 * d + r.tile ≠ s.curTile ∨ i ≠ s.curThread) → (s.thread (4096 * d + r.tile) i).live = true → (s.thread (4096 * d + r.tile) i).halted = false →
        (s.thread (4096 * d + r.tile) i).abort.code.toNat < r.code → (t.thread (4096 * d + r.tile) i).abort.code.toNat = r.code % 65536) ∧
    (s.xresumeOk d r = true → ∃ t, exec (.xresume a) s = .next t ∧ (t.die d).held.get r.ticket = .none ∧
      (r.action ≠ 2 → MemoryKept s t) ∧
      (∀ id kind place sc v x, (s.die d).held.get r.ticket = .xfer id kind place sc v → s.xfers.get id = some x →
        Due t (s.cyc + 20) (.engineRetry 0 id) ∧
        t.xfer id = { x with
          verdict := if r.action = 2 then 2 else 1
          subst := if r.action = 1 then ⟨place, r.sub⟩ :: x.subst else x.subst }) ∧
      ∀ lid run kind place sc v key, (s.die d).held.get r.ticket = .prog lid run kind place sc v → s.pslotOf run = some key → (s.prog key).st = 3 →
        Due t (s.cyc + 20) (.engineRetry 1 run) ∧
        t.prog key = { s.prog key with
          verdict := if r.action = 2 then 2 else 1
          subst := if r.action = 1 then ⟨place, r.sub⟩ :: (s.prog key).subst else (s.prog key).subst })) ∧
  (∀ (a : BitVec 5) (s : State), SystemReads s a →
    let d := dieOf s.curTile
    let v := s.readW a
    (v.toNat < 4096 →
      (∀ lid, (s.tile (4096 * d + v.toNat)).prim = some lid → ∃ t, exec (.gstop a) s = .next t ∧ MemoryKept s t ∧ RegsKept s t [] ∧ QueueMoved s t ∧
        (t.launch lid).stopper = some ((s.launch lid).stopper.getD s.curTile) ∧ Due t (s.cyc + s.stopTime lid) (.gangStop lid (1 + 100 * (s.curTile + 1)))) ∧
      ((s.tile (4096 * d + v.toNat)).prim = none → ∃ t m, exec (.gstop a) s = .next t ∧ OnlyThreadAndEvents s t ∧ RegsKept s t [] ∧ QueueMoved s t ∧
        Due t (s.cyc + 20) (.mailboxArrival d m) ∧ m.kind = 7 ∧ m.detail = 1) ∧
      (∀ lid, (s.tile (4096 * d + v.toNat)).prim = some lid → (s.launch lid).state = .heldStop → (s.launch lid).stopper = some s.curTile →
        ∃ t, exec (.gstopRelease a) s = .next t ∧ MemoryKept s t ∧ RegsKept s t [] ∧ QueueMoved s t ∧ (t.launch lid).stopper = none ∧
          Due t (s.cyc + s.startTime lid) (.startBroadcast lid)) ∧
      ((∀ lid, (s.tile (4096 * d + v.toNat)).prim = some lid → ¬ ((s.launch lid).state = .heldStop ∧ (s.launch lid).stopper = some s.curTile)) →
        ∃ t, exec (.gstopRelease a) s = .next t ∧ QueueOnly s t ∧ QueueMoved s t)) ∧
    (4096 ≤ v.toNat → exec (.gstop a) s = .next (s.takeTrap ⟨0x01, v⟩) ∧ exec (.gstopRelease a) s = .next (s.takeTrap ⟨0x01, v⟩)) ∧
    ((s.die d).mailbox ≠ [] ∨ (v ≠ 0#64 ∧ v.toNat ≤ s.cyc) → ∃ t, exec (.idle a) s = .next t ∧ QueueOnly s t ∧ QueueMoved s t) ∧
    ((s.die d).mailbox = [] → (v = 0#64 ∨ s.cyc < v.toNat) → ∃ t, exec (.idle a) s = .next t ∧ OnlyThreadAndEvents s t ∧ WaitsAs s t (.idle v.toNat) ∧
      (v ≠ 0#64 → Due t v.toNat (.idleWake s.curTile s.curThread s.cyc))))

/-- R88, R306: outside system mode a privileged word traps PRIV with the word in tval (where no ILLEGAL applies too, which has a lower code: a descriptor or a
reply at a good address that the word does not accept), and in system mode an address that is not in tile SRAM traps TADDR, one that is not a multiple of 32
ALIGN, and one in a reserved bank SPILLPROT, the lowest code first. (That a GSTOP operand of 4096 or more is ILLEGAL is the model's choice, log entry 55.) -/
def Obligations.PrivilegedWordTraps : Prop :=
  ∀ (a : BitVec 5) (s : State),
    let p : Out := .next (s.takeTrap ⟨0x02, (s.textWord s.curTile s.curThread s.thr.q0).setWidth 64⟩)
    let v := s.readW a
    (s.thr.sys = false →
      (∀ w : BitVec 1, exec (.mbxrd a w) s = p) ∧ exec (.idle a) s = p ∧
      (v.toNat < 4096 → exec (.gstop a) s = p ∧ exec (.gstopRelease a) s = p) ∧
      (4096 ≤ v.toNat → exec (.gstop a) s = .next (s.takeTrap ⟨0x01, v⟩) ∧ exec (.gstopRelease a) s = .next (s.takeTrap ⟨0x01, v⟩)) ∧
      (¬ DescAddress s v → ∀ i ∈ [Instr.mbxpost a, .xresume a, .unpark a], exec i s = p) ∧
      (DescAddress s v → let d := dieOf s.curTile
        exec (.mbxpost a) s = (if PostOk s v.toNat then p else .next (s.takeTrap ⟨0x01, v⟩)) ∧
        exec (.xresume a) s = (if s.xresumeOk d (s.reply v.toNat) then p else .next (s.takeTrap ⟨0x01, v⟩)) ∧
        exec (.unpark a) s = (if s.unparkOk d (s.reply v.toNat) then p else .next (s.takeTrap ⟨0x01, v⟩)))) ∧
    (SystemReads s a → DescAddress s v → ¬ PostOk s v.toNat → exec (.mbxpost a) s = .next (s.takeTrap ⟨0x01, v⟩)) ∧
    (SystemReads s a → ∀ i ∈ [Instr.mbxrd a 0#1, .mbxrd a 1#1, .mbxpost a, .xresume a, .unpark a],
      (v.toNat % 32 ≠ 0 → exec i s = .next (s.takeTrap ⟨0x06, v⟩)) ∧
      (v.toNat % 32 = 0 → 393216 < v.toNat + 32 → exec i s = .next (s.takeTrap ⟨0x07, v⟩)) ∧
      (v.toNat % 32 = 0 → v.toNat + 32 ≤ 393216 → s.firstReserved s.curTile v.toNat 32 ≠ none → exec i s = .next (s.takeTrap ⟨0x08, v⟩)))

/-! ## Tile memory (R3, R175, R181 to R191) -/

namespace Sys2Proof.Claims

/-- An element that passes the checks of R182: aligned, inside tile SRAM and in no reserved bank (an aligned element lies in one bank). -/
def ElementOk (s : State) (ea : Word) (n : Nat) : Prop :=
  ea.toNat % n = 0 ∧ ea.toNat + n ≤ 393216 ∧ s.bankReserved s.curTile (ea.toNat / 1024) = false

/-- What address register k holds, by the equation of R128. -/
def addressRegister (s : State) (k : Nat) : Word :=
  let n := s.thr.nest
  n.base.get k + n.coef.get (4 * k) * (n.idx.get 0).setWidth 64 + n.coef.get (4 * k + 1) * (n.idx.get 1).setWidth 64 +
    n.coef.get (4 * k + 2) * (n.idx.get 2).setWidth 64 + n.coef.get (4 * k + 3) * (n.idx.get 3).setWidth 64

/-- Tile SRAM of the executing tile from `ea` up, n bytes, little-endian. -/
def held (s : State) (ea : Word) (n : Nat) : Nat := s.num (.tile s.curTile) ea.toNat n

/-- R183: the loads by size code, each in its two forms, with the access size and what wd takes from the bytes read. -/
def loads : List ((BitVec 5 → BitVec 5 → BitVec 9 → Instr) × (BitVec 5 → BitVec 4 → Instr) × Nat × (Nat → Word)) :=
  [ (.ldtB, .ldtBAreg, 1, fun x => (BitVec.ofNat 8 x).signExtend 64), (.ldtBu, .ldtBuAreg, 1, fun x => BitVec.ofNat 64 x)
  , (.ldtH, .ldtHAreg, 2, fun x => (BitVec.ofNat 16 x).signExtend 64), (.ldtHu, .ldtHuAreg, 2, fun x => BitVec.ofNat 64 x)
  , (.ldtW, .ldtWAreg, 4, fun x => (BitVec.ofNat 32 x).signExtend 64), (.ldtWu, .ldtWuAreg, 4, fun x => BitVec.ofNat 64 x)
  , (.ldtD, .ldtDAreg, 8, fun x => BitVec.ofNat 64 x) ]

/-- R183: the stores by size code, each in its two forms, with the access size. -/
def stores : List ((BitVec 5 → BitVec 5 → BitVec 9 → Instr) × (BitVec 5 → BitVec 4 → Instr) × Nat) :=
  [ (.sttB, .sttBAreg, 1), (.sttH, .sttHAreg, 2), (.sttW, .sttWAreg, 4), (.sttD, .sttDAreg, 8) ]

/-- The address of a T-format access: wa + Sext(imm9, 9) × n modulo 2^64. -/
def offsetAddress (s : State) (a : BitVec 5) (i : BitVec 9) (n : Nat) : Word := s.readW a + i.signExtend 64 * BitVec.ofNat 64 n

/-- R181: the executing thread's stores log nothing. -/
def NoLog (s : State) : Prop := s.recovering s.curTile = false ∨ s.curThread = 8

/-- R181: the executing thread's stores log, and the primary share has room for `nl` lines. -/
def LogRoom (s : State) (nl : Nat) : Prop :=
  s.recovering s.curTile = true ∧ s.curThread ≠ 8 ∧ (s.tile s.curTile).undoPrim + nl ≤ 448 ∧ s.fullSince = none

/-- A store that logs nothing: of the module only the executing thread and the stored bytes change, and of the thread only registers listed and
the queue. -/
def Stored (s t : State) (but : List (Nat × Nat)) (a n : Nat) : Prop :=
  OnlyThreadAndMemory s t ∧ SameButRegsAndQueue s.thr t.thr ∧ RegsKept s t but ∧ QueueMovedAfter s t ∧ BytesKept s t s.curTile a n

/-- Bytes of tile k's SRAM from a up, and the data bytes of the next m slots of a share of its log, are the only ones that may differ. -/
def BytesKeptButLog (s t : State) (k a n share m : Nat) : Prop :=
  ∀ sp x, x < sp.size → (sp = .tile k → x < a ∨ a + n ≤ x) → OffLog s k share m sp x → t.byte sp x = s.byte sp x

/-- A store under recovery: registers but those listed, every byte outside the stored ones and the queue's rule are as without it; a line that has
no flag yet gets one, and its old 64 bytes head the undo entries and enter the tile's log; the thread issues again one cycle later for it. -/
def StoredLogged (s t : State) (but : List (Nat × Nat)) (a n : Nat) : Prop :=
  let line := (Space.tile s.curTile).key a / 64
  RegsKept s t but ∧ QueueMovedAfter s t ∧
  if s.logged.get line then BytesKept s t s.curTile a n ∧ t.undo = s.undo ∧ ∀ l, t.logged.get l = s.logged.get l
  else BytesKeptButLog s t s.curTile a n 0 1 ∧ (t.tile s.curTile).undoPrim = (s.tile s.curTile).undoPrim + 1 ∧
    (∃ e, (t.tile s.curTile).log.get (logSlot (s.tile s.curTile) 0 0) = e ∧ t.undo = e :: s.undo ∧ e.kind = 1 ∧ e.tile = s.curTile ∧ e.place = 64 * line ∧
      e.old = (List.range 64).map (fun i => Memory.get s.mem (64 * line + i))) ∧
    t.logged.get line = true ∧ (∀ l, l ≠ line → t.logged.get l = s.logged.get l) ∧ s.cyc + 2 ≤ t.thr.notBefore

/-- R184: what each atomic but CAS writes, from the old value and wb at its width. -/
def atomics : List ((BitVec 5 → BitVec 5 → BitVec 5 → BitVec 1 → Instr) × ((n : Nat) → BitVec n → BitVec n → BitVec n)) :=
  [ (.amtAdd, fun _ o b => o + b), (.amtSwap, fun _ _ b => b)
  , (.amtMin, fun _ o b => if o.toInt ≤ b.toInt then o else b), (.amtMax, fun _ o b => if b.toInt ≤ o.toInt then o else b)
  , (.amtAnd, fun _ o b => o &&& b), (.amtOr, fun _ o b => o ||| b), (.amtXor, fun _ o b => o ^^^ b) ]

/-- The width in bits of an atomic. -/
def atomicBits (w : BitVec 1) : Nat := if w = 1#1 then 64 else 32

/-- Lane i is active under mk (R133). -/
def Active (s : State) (m : BitVec 3) (i : Nat) : Prop := i < 16 ∧ (s.readM m.toNat).getLsbD i = true

/-- What vd reads where a predicated instruction leaves a lane: vd is a source under a mask other than m0 (R134). -/
def ReadableOld (s : State) (d : BitVec 5) (m : BitVec 3) : Prop := ReadableM s m.toNat ∧ (m ≠ 0#3 → ReadableV s d)

/-- R185, R186: vector loads with latency, whether the third field is a w register, a v register or an immediate, and lane addresses. -/
def vectorLoads : List ((BitVec 5 → BitVec 5 → BitVec 5 → BitVec 3 → Instr) × Nat × (State → BitVec 5 → Prop) × (State → BitVec 5 → BitVec 5 → Nat → Word)) :=
  [ (.vldt, 4, fun _ _ => True, fun s a b i => s.readW a + b.signExtend 64 * 64#64 + BitVec.ofNat 64 (4 * i))
  , (.vldts, 4, fun s b => ReadableW s b, fun s a b i => s.readW a + BitVec.ofNat 64 i * (BitVec.setWidth 32 (s.readW b)).signExtend 64)
  , (.vgath, 6, fun s b => ReadableV s b, fun s a b i => s.readW a + ((s.readV b).extractLsb' (32 * i) 32).setWidth 64) ]

/-- The vector stores, in the same form. -/
def vectorStores : List ((BitVec 5 → BitVec 5 → BitVec 5 → BitVec 3 → Instr) × (State → BitVec 5 → Prop) × (State → BitVec 5 → BitVec 5 → Nat → Word)) :=
  [ (.vstt, fun _ _ => True, fun s a b i => s.readW a + b.signExtend 64 * 64#64 + BitVec.ofNat 64 (4 * i))
  , (.vstts, fun s b => ReadableW s b, fun s a b i => s.readW a + BitVec.ofNat 64 i * (BitVec.setWidth 32 (s.readW b)).signExtend 64)
  , (.vscat, fun s b => ReadableV s b, fun s a b i => s.readW a + ((s.readV b).extractLsb' (32 * i) 32).setWidth 64) ]

/-- Table 10.4: a copy descriptor for n elements from si to di, under any rounding mode. -/
def CopyDescriptor (x : Word) (n si di : Nat) : Prop :=
  (∃ mode, mode < 4 ∧ x.toNat = n + 2 ^ 11 * si + 2 ^ 21 * di + 2 ^ 31 * mode) ∧ 1 ≤ n ∧ n ≤ 1024 ∧ si + n ≤ 1024 ∧ di + n ≤ 1024

/-- A raw bank that a copy may name. -/
def RawBank (s : State) (v : Word) : Prop :=
  let b := (v.extractLsb' 0 9).toNat
  b < 384 ∧ s.bankReserved s.curTile b = false ∧ (s.bfmt s.curTile b).getLsbD 7 = true

/-- R188: a side of a copy that passes the checks: its bank lies in tile SRAM and is not reserved, its n elements of `nib` half-bytes from `first` on
lie in it, and the companion of a D8B bank holds E8 scales and is not reserved. -/
def CopySide (s : State) (v : Word) (first n nib : Nat) : Prop :=
  let b := (v.extractLsb' 0 9).toNat
  let w := s.bfmt s.curTile b
  b < 384 ∧ s.bankReserved s.curTile b = false ∧ (first + n) * nib ≤ 2048 ∧
  (bfD8b w = true → s.bankReserved s.curTile (bfBank w) = false ∧ bfE8 (s.bfmt s.curTile (bfBank w)) = true)

/-- R41, Table 2.6, R303: FMTRES at a copy parks the tile with nothing written; the message names the offending code and its place. -/
def CopyParked (s t : State) (code loc : Word) : Prop :=
  let k := s.curTile
  MemoryKept s t ∧ RegsKept s t [] ∧ (t.tile k).copies = (s.tile k).copies ∧ (if s.curThread = 8 then (t.tile k).fillParked = true else (t.tile k).parked = true) ∧
  ∃ m : Message, Due t (s.cyc + 20) (.mailboxArrival (dieOf k) m) ∧ m.kind = 1 ∧ m.unit = 1 ∧ m.detail = 0x0A ∧ m.value = code ∧ m.location = loc ∧
    (t.die (dieOf k)).held.get m.ticket ≠ .none

/-- R191: the cycles of a copy that reads and writes so many bytes and, where it quantises, ends 4 later. -/
def copyCycles (read : Nat) (bs : List (Nat × Byte)) (quant : Bool) : Nat := 2 + (read + 63) / 64 + (bs.length + 63) / 64 + if quant then 4 else 0

/-- R191: a copy of the bytes listed has started that runs for D cycles: it ends with the last of them, and the thread issues again after it. -/
def CopyStarted (s t : State) (bs : List (Nat × Byte)) (D : Nat) : Prop :=
  t = { s with tiles := t.tiles, events := t.events } ∧ MemoryKept s t ∧ RegsKept s t [] ∧ QueueMoved s t ∧
  SameButRegsAndQueue { s.thr with notBefore := t.thr.notBefore } t.thr ∧ s.cyc + D ≤ t.thr.notBefore ∧
  (t.tile s.curTile).copies.get s.curThread = bs ∧ Due t (s.cyc + D) (.copyEnd s.curTile s.curThread)

end Sys2Proof.Claims

/-- R182, R183: a load whose element passes the checks completes: wd takes the bytes at the address, extended as its size code says, after 3 cycles, and
nothing else changes but the queue. The address is wa plus the scaled offset, or address register ak. R181 to R183: a store whose element passes the checks
completes: the n bytes at the address take the low bytes of ws, little-endian, and no other byte and no register changes. Under recovery, while the log has
room, it also logs the line when it is the first write to it in the interval. -/
def Obligations.ScalarLoadsAndStores : Prop :=
  (∀ e ∈ loads, ∀ s : State,
    (∀ (d a : BitVec 5) (i : BitVec 9), ReadableW s a → ElementOk s (offsetAddress s a i e.2.2.1) e.2.2.1 →
      ∃ t, exec (e.1 d a i) s = .next t ∧ WritesW s t d 3 (e.2.2.2 (held s (offsetAddress s a i e.2.2.1) e.2.2.1))) ∧
    ∀ (d : BitVec 5) (k : BitVec 4), ElementOk s (addressRegister s k.toNat) e.2.2.1 →
      ∃ t, exec (e.2.1 d k) s = .next t ∧ WritesW s t d 3 (e.2.2.2 (held s (addressRegister s k.toNat) e.2.2.1))) ∧
  (∀ e ∈ stores, ∀ s : State,
    let n := e.2.2
    (∀ (d a : BitVec 5) (i : BitVec 9), ReadableW s a → ReadableW s d → let ea := offsetAddress s a i n
      ElementOk s ea n →
      (NoLog s → ∃ t, exec (e.1 d a i) s = .next t ∧ held t ea n = (s.readW d).toNat % 256 ^ n ∧ Stored s t [] ea.toNat n) ∧
      (LogRoom s 1 → ∃ t, exec (e.1 d a i) s = .next t ∧ held t ea n = (s.readW d).toNat % 256 ^ n ∧ StoredLogged s t [] ea.toNat n)) ∧
    ∀ (d : BitVec 5) (k : BitVec 4), ReadableW s d → let ea := addressRegister s k.toNat
      ElementOk s ea n →
      (NoLog s → ∃ t, exec (e.2.1 d k) s = .next t ∧ held t ea n = (s.readW d).toNat % 256 ^ n ∧ Stored s t [] ea.toNat n) ∧
      (LogRoom s 1 → ∃ t, exec (e.2.1 d k) s = .next t ∧ held t ea n = (s.readW d).toNat % 256 ^ n ∧ StoredLogged s t [] ea.toNat n))

/-- R102, R121, R129: where a transfer or a nest write traps instead. CALL and CALLR with no room trap WSPILL with tval 0, a CALLR with an odd target included;
an odd target traps ALIGN with the register's value; RET without the caller's octets traps WFILL; with checking on a nest write that names an active level
traps LOOPWR with the level. R182: a scalar access whose address is misaligned traps ALIGN, one that passes tile SRAM TADDR, one in a reserved bank SPILLPROT,
the lowest code first, with the address in tval and no effect. -/
def Obligations.TransferAndAccessTraps : Prop :=
  ((∀ (j : BitVec 22) (s : State), 12 < s.thr.resident + 2 → exec (.call j) s = .next (s.takeTrap ⟨0x04, 0#64⟩)) ∧
  (∀ (a : BitVec 5) (s : State), ReadableW s a → 12 < s.thr.resident + 2 → exec (.callr a) s = .next (s.takeTrap ⟨0x04, 0#64⟩)) ∧
  (∀ (a : BitVec 5) (s : State), ReadableW s a → (s.readW a).getLsbD 0 = true → s.thr.resident + 2 ≤ 12 →
    exec (.callr a) s = .next (s.takeTrap ⟨0x06, s.readW a⟩)) ∧
  (∀ (a : BitVec 5) (s : State), ReadableW s a → (s.readW a).getLsbD 0 = true → exec (.jr a) s = .next (s.takeTrap ⟨0x06, s.readW a⟩)) ∧
  (∀ s : State, ReadableW s 15#5 → s.thr.resident < 5 → exec .ret s = .next (s.takeTrap ⟨0x05, 0#64⟩)) ∧
  (∀ s : State, ReadableW s 15#5 → 5 ≤ s.thr.resident → (s.readW 15#5).getLsbD 0 = true →
    exec .ret s = .next (s.takeTrap ⟨0x06, s.readW 15#5⟩)) ∧
  (∀ (k a : BitVec 5) (j : BitVec 2) (s : State), ReadableW s a → ¬ LevelFree s j →
    exec (.lnset a j) s = .next (s.takeTrap ⟨0x0C, j.setWidth 64⟩) ∧ exec (.lnco k a j) s = .next (s.takeTrap ⟨0x0C, j.setWidth 64⟩) ∧
    exec (.lnbase k a j) s = .next (s.takeTrap ⟨0x0C, j.setWidth 64⟩))) ∧
  (∀ (s : State) (ea : Word) (n : Nat) (i : Instr),
    ((∃ e ∈ loads, n = e.2.2.1 ∧
        ((∃ d a o, ReadableW s a ∧ ea = offsetAddress s a o n ∧ i = e.1 d a o) ∨ ∃ d k, ea = addressRegister s k.toNat ∧ i = e.2.1 d k)) ∨
      (∃ e ∈ stores, n = e.2.2 ∧
        ((∃ d a o, ReadableW s a ∧ ReadableW s d ∧ ea = offsetAddress s a o n ∧ i = e.1 d a o) ∨
          ∃ d k, ReadableW s d ∧ ea = addressRegister s k.toNat ∧ i = e.2.1 d k)) ∨
      (∃ e ∈ atomics, ∃ d a b w, ReadableW s a ∧ ReadableW s b ∧ n = atomicBits w / 8 ∧ ea = s.readW a ∧ i = e.1 d a b w) ∨
      ∃ d a b w, ReadableW s a ∧ ReadableW s b ∧ ReadableW s d ∧ n = atomicBits w / 8 ∧ ea = s.readW a ∧ i = .amtCas d a b w) →
    (ea.toNat % n ≠ 0 → exec i s = .next (s.takeTrap ⟨0x06, ea⟩)) ∧
    (ea.toNat % n = 0 → 393216 < ea.toNat + n → exec i s = .next (s.takeTrap ⟨0x07, ea⟩)) ∧
    (ea.toNat % n = 0 → ea.toNat + n ≤ 393216 → s.bankReserved s.curTile (ea.toNat / 1024) = true → exec i s = .next (s.takeTrap ⟨0x08, ea⟩)))

/-- R184: an atomic writes its new value at wa and wd takes the old one, sign-extended at 32 bits, after 4 cycles, all in its issue cycle; CAS writes
wb only where the old value equals wd's low bits, and writes nothing otherwise. -/
def Obligations.TileAtomics : Prop :=
  ∀ (d a b : BitVec 5) (w : BitVec 1) (s : State), ReadableW s a → ReadableW s b →
    let ea := s.readW a
    let n := atomicBits w / 8
    let old := BitVec.ofNat (atomicBits w) (held s ea n)
    let wb := BitVec.setWidth (atomicBits w) (s.readW b)
    let got (t : State) : Prop := d ≠ 0#5 → Reads s t 0 (s.thr.phys d.toNat) 4 ((old.signExtend 64).setWidth 512)
    ElementOk s ea n →
    (∀ e ∈ atomics,
      (NoLog s → ∃ t, exec (e.1 d a b w) s = .next t ∧ held t ea n = (e.2 _ old wb).toNat ∧ got t ∧ Stored s t (placeW s d) ea.toNat n) ∧
      (LogRoom s 1 → ∃ t, exec (e.1 d a b w) s = .next t ∧ held t ea n = (e.2 _ old wb).toNat ∧ got t ∧
        StoredLogged s t (placeW s d) ea.toNat n)) ∧
    (ReadableW s d → old ≠ BitVec.setWidth (atomicBits w) (s.readW d) →
      ∃ t, exec (.amtCas d a b w) s = .next t ∧ WritesW s t d 4 (old.signExtend 64)) ∧
    (ReadableW s d → old = BitVec.setWidth (atomicBits w) (s.readW d) →
      (NoLog s → ∃ t, exec (.amtCas d a b w) s = .next t ∧ held t ea n = wb.toNat ∧ got t ∧ Stored s t (placeW s d) ea.toNat n) ∧
      (LogRoom s 1 → ∃ t, exec (.amtCas d a b w) s = .next t ∧ held t ea n = wb.toNat ∧ got t ∧ StoredLogged s t (placeW s d) ea.toNat n))

/-- R133, R185, R186: a vector load whose active lanes pass the checks fills each of them with the four bytes at its address and keeps the others; no other
register and no byte of memory changes. R133, R185, R186: a vector store whose active lanes pass the checks writes each of them at its address, in ascending
order, so that the highest lane to an address stands; no other byte and no register changes. -/
def Obligations.VectorLoadsAndStores : Prop :=
  (∀ e ∈ vectorLoads, ∀ (d a b : BitVec 5) (m : BitVec 3) (s : State), ReadableW s a → e.2.2.1 s b → ReadableOld s d m →
    (∀ i, Active s m i → ElementOk s (e.2.2.2 s a b i) 4) →
    ∃ t v, exec (e.1 d a b m) s = .next t ∧ WritesV s t d e.2.1 v ∧
      ∀ i, i < 16 → (Active s m i → (v.extractLsb' (32 * i) 32).toNat = held s (e.2.2.2 s a b i) 4) ∧
        (¬ Active s m i → v.extractLsb' (32 * i) 32 = (s.readV d).extractLsb' (32 * i) 32)) ∧
  (∀ e ∈ vectorStores, ∀ (d a b : BitVec 5) (m : BitVec 3) (s : State), ReadableW s a → e.2.1 s b → ReadableV s d → ReadableM s m.toNat →
    (∀ i, Active s m i → ElementOk s (e.2.2 s a b i) 4) → NoLog s ∨ LogRoom s 16 →
    ∃ t, exec (e.1 d a b m) s = .next t ∧ RegsKept s t [] ∧ QueueMovedAfter s t ∧
      (∀ i, Active s m i → (∀ j, i < j → Active s m j → e.2.2 s a b j ≠ e.2.2 s a b i) →
        held t (e.2.2 s a b i) 4 = ((s.readV d).extractLsb' (32 * i) 32).toNat) ∧
      (∀ sp x, x < sp.size → (∀ i, Active s m i → sp = .tile s.curTile → x < (e.2.2 s a b i).toNat ∨ (e.2.2 s a b i).toNat + 4 ≤ x) →
        (NoLog s ∨ OffLog s s.curTile 0 16 sp x) → t.byte sp x = s.byte sp x) ∧
      (NoLog s → OnlyThreadAndMemory s t ∧ SameButRegsAndQueue s.thr t.thr))

/-- R187 to R191: COPYB between raw banks, and FILLB of a raw bank, start a copy that runs for D = 2 + ceil(Bs/64) + ceil(Bd/64) cycles, with the bytes to
write found at issue; its end writes exactly those bytes. Between banks of one format the codes are copied; between others the values of the source's elements
are encoded as the destination's (D8B in whole blocks with their scales), and FILLB writes its value n times; a code or a value that raises FMTRES parks the
tile. E8 on one side alone traps BANKFMT, where no FMTRES is due. The end of a copy is a next state, in every state. -/
def Obligations.RawCopyAndFill : Prop :=
  (∀ (k t : Nat) (s : State), ∃ u, exec (.copyEnd k t) s = .next u) ∧
  (∀ (d a c : BitVec 5) (s : State) (n si di : Nat), ReadableW s a → ReadableW s c → ReadableW s d → NoLog s →
    CopyDescriptor (s.readW c) n si di → RawBank s (s.readW d) →
    let dest := 1024 * ((s.readW d).extractLsb' 0 9).toNat + di
    (RawBank s (s.readW a) → ∃ t, exec (.copyb d a c) s = .next t ∧ CopyStarted s t
      ((List.range n).map (fun i => (dest + i, s.byte (.tile s.curTile) (1024 * ((s.readW a).extractLsb' 0 9).toNat + si + i))))
      (2 + (n + 63) / 64 + (n + 63) / 64)) ∧
    (si = 0 → ∃ t, exec (.fillb d a c) s = .next t ∧
      CopyStarted s t ((List.range n).map (fun i => (dest + i, (s.readW a).setWidth 8))) (2 + (n + 63) / 64))) ∧
  (∀ (d a c : BitVec 5) (s : State) (n si di mode : Nat), ReadableW s a → ReadableW s c → ReadableW s d → NoLog s →
    (s.readW c).toNat = n + 2 ^ 11 * si + 2 ^ 21 * di + 2 ^ 31 * mode → mode < 4 → 1 ≤ n → n ≤ 1024 → si < 1024 → di < 1024 →
    let rd := s.tileRd s.curTile
    let sb := ((s.readW a).extractLsb' 0 9).toNat
    let db := ((s.readW d).extractLsb' 0 9).toNat
    let sw := s.bfmt s.curTile sb
    let dw := s.bfmt s.curTile db
    let f := bfFmt sw
    let bytes := bfRaw sw || bfRaw dw
    let nib (w : Word) : Nat := if bytes then 2 else elemNibbles (bfFmt w)
    let span := ((si + n) * nib sw + 1) / 2 - si * nib sw / 2
    (CopySide s (s.readW a) si n (nib sw) → CopySide s (s.readW d) di n (nib dw) →
      (bytes = true ∨ (bfE8 sw = true ∧ bfE8 dw = true) →
        let bs := (List.range n).map (fun i => (1024 * db + di + i, s.byte (.tile s.curTile) (1024 * sb + si + i)))
        ∃ t, exec (.copyb d a c) s = .next t ∧ CopyStarted s t bs (copyCycles n bs (bfD8b dw))) ∧
      (bytes = false → bfE8 sw = bfE8 dw → bfE8 sw = false →
        (f = bfFmt dw → f ≠ 10 →
          let bs := codeBytes rd db f di ((List.range n).map (fun i => elemCode rd sb f (si + i)))
          ∃ t, exec (.copyb d a c) s = .next t ∧ CopyStarted s t bs (copyCycles span bs false)) ∧
        (f ≠ bfFmt dw ∨ f = 10 → match runValues rd sb sw s.thr.subst si n with
          | .error e => ∃ t, exec (.copyb d a c) s = .next t ∧ CopyParked s t e.code (BitVec.ofNat 64 e.loc)
          | .ok xs => match encodeRun rd db dw di (RMode.ofCode mode) xs with
            | .error i => ∃ t v, exec (.copyb d a c) s = .next t ∧ CopyParked s t v (BitVec.ofNat 64 (elemAddr sb f (si + i)))
            | .ok bs =>
              let blocks := if f = 10 then (dedup ((List.range n).map (fun i => blockOf (bfAxis sw) (si + i)))).length else 0
              ∃ t, exec (.copyb d a c) s = .next t ∧ CopyStarted s t bs (copyCycles (span + blocks) bs (bfD8b dw)))) ∧
      (bytes = false → bfE8 sw ≠ bfE8 dw → (bfE8 sw = true ∨ ∃ xs, runValues rd sb sw s.thr.subst si n = .ok xs) →
        exec (.copyb d a c) s = .next (s.takeTrap ⟨0x0B, BitVec.ofNat 64 (if bfE8 sw then sb else db)⟩))) ∧
    (CopySide s (s.readW d) di n (if bfRaw dw then 2 else elemNibbles (bfFmt dw)) → si = 0 → bfRaw dw = false →
      (bfE8 dw = true → exec (.fillb d a c) s = .next (s.takeTrap ⟨0x0B, BitVec.ofNat 64 db⟩)) ∧
      (bfE8 dw = false → bfFmt dw = 6 →
        let bs := codeBytes rd db 6 di (List.replicate n ((s.readW a).toNat % 4294967296))
        ∃ t, exec (.fillb d a c) s = .next t ∧ CopyStarted s t bs (copyCycles 0 bs false)) ∧
      (bfE8 dw = false → bfFmt dw ≠ 6 →
        let x := if fmtIsInt (bfFmt dw) then FVal.ofInteger (s.readW a).toInt
                 else fval (((substAt s.thr.subst 0).getD (s.readW a)).setWidth 32)
        match encodeRun rd db dw di (RMode.ofCode mode) (List.replicate n x) with
        | .error _ => ∃ t, exec (.fillb d a c) s = .next t ∧ CopyParked s t (((s.readW a).setWidth 32).setWidth 64) 0#64
        | .ok bs => ∃ t, exec (.fillb d a c) s = .next t ∧ CopyStarted s t bs (copyCycles 0 bs (bfD8b dw))))) ∧
  ∀ (k i : Nat) (s : State), i < 16 → let bs := (s.tile k).copies.get i
    (s.tile k).copyWait.get i = 0 → (∀ e ∈ bs, e.1 < 393216) → (bs.map Prod.fst).Nodup →
    ∃ t, exec (.copyEnd k i) s = .next t ∧ (∀ e ∈ bs, t.byte (.tile k) e.1 = e.2) ∧ (t.tile k).copies.get i = [] ∧
      (∀ sp x, x < sp.size → (sp = .tile k → x ∉ bs.map Prod.fst) → t.byte sp x = s.byte sp x) ∧ ∀ j n, t.thread j n = s.thread j n

/-! ## Vector and mask instructions (R28 to R40, R132 to R154) -/

namespace Sys2Proof.Claims

/-- RoundF32(x, RNE) (R30). -/
def roundF32 (x : FVal) : Lane := BitVec.ofNat 32 (fp32.round .rne x)

/-- A predicated lane-wise write of vd: active lanes take `f`, the others keep their value, and nothing else changes but the queue. -/
def Lanewise (s t : State) (d : BitVec 5) (m : BitVec 3) (lat : Nat) (f : Nat → Lane) : Prop :=
  ∃ v, WritesV s t d lat v ∧ ∀ i, i < 16 → lane v i = if (s.readM m.toNat).getLsbD i then f i else lane (s.readV d) i

/-- R136 to R138: FP32 instructions of two sources, with their latency. -/
noncomputable def floatTwo : List ((BitVec 5 → BitVec 5 → BitVec 5 → BitVec 3 → Instr) × Nat × (Lane → Lane → Lane)) :=
  [ (.vaddF, 4, fun a b => roundF32 ((fval a).add (fval b))), (.vsubF, 4, fun a b => roundF32 ((fval a).add (fval b).neg))
  , (.vmulF, 4, fun a b => roundF32 ((fval a).mul (fval b))), (.vdivF, 12, fun a b => roundF32 ((fval a).div (fval b)))
  , (.vminF, 4, minF), (.vmaxF, 4, maxF) ]

/-- R136 to R138: FP32 instructions of one source. -/
noncomputable def floatOne : List ((BitVec 5 → BitVec 5 → BitVec 3 → Instr) × Nat × (Lane → Lane)) :=
  [ (.vabsF, 4, fun a => if (fval a).isNan then 0x7FC00000#32 else BitVec.setWidth 32 (BitVec.setWidth 31 a))
  , (.vnegF, 4, fun a => if (fval a).isNan then 0x7FC00000#32 else a ^^^ 0x80000000#32)
  , (.vrcpF, 12, fun a => roundF32 ((FVal.fin false 1 0).div (fval a))), (.vrsqF, 12, fun a => roundF32 (fval a).rsqrt)
  , (.vsqrtF, 12, fun a => roundF32 (fval a).sqrt), (.vexp2F, 12, fun a => roundF32 (fval a).exp2), (.vlog2F, 12, fun a => roundF32 (fval a).log2) ]

/-- R136: the fused forms, of a, b and the old vd, with one rounding. -/
noncomputable def floatThree : List ((BitVec 5 → BitVec 5 → BitVec 5 → BitVec 3 → Instr) × (Lane → Lane → Lane → Lane)) :=
  [ (.vfmaF, fun a b d => roundF32 (((fval a).mul (fval b)).add (fval d))), (.vfmsF, fun a b d => roundF32 (((fval a).mul (fval b)).add (fval d).neg))
  , (.vfnmaF, fun a b d => roundF32 (((fval a).neg.mul (fval b)).add (fval d))) ]

/-- A signed number saturated to 32 bits. -/
def saturate (k : Int) : Lane := if 2147483647 < k then 0x7FFFFFFF#32 else if k < -2147483648 then 0x80000000#32 else BitVec.ofInt 32 k

/-- R139, R140: integer, logic and shift instructions of two sources. -/
noncomputable def integerTwo : List ((BitVec 5 → BitVec 5 → BitVec 5 → BitVec 3 → Instr) × (Lane → Lane → Lane)) :=
  [ (.vaddI, fun a b => a + b), (.vsubI, fun a b => a - b), (.vmulI, fun a b => a * b)
  , (.vmulhI, fun a b => BitVec.ofInt 32 (a.toInt * b.toInt / 2 ^ 32)), (.vmulhuI, fun a b => BitVec.ofNat 32 (a.toNat * b.toNat / 2 ^ 32))
  , (.vminI, fun a b => if a.toInt ≤ b.toInt then a else b), (.vmaxI, fun a b => if a.toInt ≤ b.toInt then b else a)
  , (.vminuI, fun a b => if a ≤ b then a else b), (.vmaxuI, fun a b => if a ≤ b then b else a)
  , (.vaddsI, fun a b => saturate (a.toInt + b.toInt)), (.vsubsI, fun a b => saturate (a.toInt - b.toInt))
  , (.vand, fun a b => a &&& b), (.vor, fun a b => a ||| b), (.vxor, fun a b => a ^^^ b), (.vandn, fun a b => a &&& ~~~b)
  , (.vshlV, fun a b => a <<< (b.extractLsb' 0 5)), (.vshrV, fun a b => a >>> (b.extractLsb' 0 5))
  , (.vsraV, fun a b => a.sshiftRight (b.extractLsb' 0 5).toNat) ]

/-- R139, R140: integer and logic instructions of one source. -/
noncomputable def integerOne : List ((BitVec 5 → BitVec 5 → BitVec 3 → Instr) × (Lane → Lane → Prop)) :=
  [ (.vabsI, fun a v => v = if a.toInt < 0 then 0#32 - a else a), (.vnot, fun a v => v = ~~~a)
  , (.vpopc, fun a v => v.toNat = (List.range 32).countP a.getLsbD)
  , (.vclz, fun a v => v.toNat ≤ 32 ∧ (∀ i, i < v.toNat → a.getLsbD (31 - i) = false) ∧ (v.toNat < 32 → a.getLsbD (31 - v.toNat) = true)) ]

/-- R140: shifts by an immediate. -/
noncomputable def integerImm : List ((BitVec 5 → BitVec 5 → BitVec 5 → BitVec 3 → Instr) × (Lane → Nat → Lane)) :=
  [ (.vshli, fun a n => a <<< n), (.vshri, fun a n => a >>> n), (.vsrai, fun a n => a.sshiftRight n) ]

/-- R154: the 16-bit words that stand for `op vd, vd, vs`, with the latency and operation of their twins. -/
noncomputable def shortForms : List ((BitVec 5 → BitVec 5 → BitVec 1 → Instr) × Nat × (Lane → Lane → Lane)) :=
  [ (.vaddF16, 4, fun a b => roundF32 ((fval a).add (fval b))), (.vsubF16, 4, fun a b => roundF32 ((fval a).add (fval b).neg))
  , (.vmulF16, 4, fun a b => roundF32 ((fval a).mul (fval b))), (.vmaxF16, 4, maxF), (.vminF16, 4, minF)
  , (.vaddI16, 2, fun a b => a + b), (.vsubI16, 2, fun a b => a - b), (.vmulI16, 2, fun a b => a * b)
  , (.vand16, 2, fun a b => a &&& b), (.vor16, 2, fun a b => a ||| b), (.vxor16, 2, fun a b => a ^^^ b)
  , (.vshlV16, 2, fun a b => a <<< (b.extractLsb' 0 5)), (.vshrV16, 2, fun a b => a >>> (b.extractLsb' 0 5))
  , (.vsraV16, 2, fun a b => a.sshiftRight (b.extractLsb' 0 5).toNat) ]

/-- The order of two values neither of which is NaN. -/
def ordered (a b : Lane) (o : Ordering) : Prop := (fval a).isNan = false ∧ (fval b).isNan = false ∧ (fval a).cmp (fval b) = o

/-- R141: the comparisons. -/
noncomputable def comparisons : List ((BitVec 5 → BitVec 5 → BitVec 5 → BitVec 3 → Instr) × (Lane → Lane → Prop)) :=
  [ (.vcmpFEq, fun a b => ordered a b .eq), (.vcmpFNe, fun a b => ¬ ordered a b .eq), (.vcmpFLt, fun a b => ordered a b .lt)
  , (.vcmpFLe, fun a b => ordered a b .lt ∨ ordered a b .eq), (.vcmpFUn, fun a b => (fval a).isNan = true ∨ (fval b).isNan = true)
  , (.vcmpIEq, fun a b => a = b), (.vcmpINe, fun a b => a ≠ b), (.vcmpILt, fun a b => a.toInt < b.toInt), (.vcmpILe, fun a b => a.toInt ≤ b.toInt)
  , (.vcmpILtu, fun a b => a < b), (.vcmpILeu, fun a b => a ≤ b) ]

/-- Table 8.5: the class of an FP32 code, one bit by sign, exponent and fraction. -/
def classOf (a : Lane) : Lane :=
  let x := (a.extractLsb' 23 8).toNat
  let f := (a.extractLsb' 0 23).toNat
  let neg := a.getLsbD 31
  if x = 255 then (if f = 0 then (if neg then 0x001#32 else 0x080#32) else if a.getLsbD 22 then 0x200#32 else 0x100#32)
  else if x = 0 then (if f = 0 then (if neg then 0x008#32 else 0x010#32) else if neg then 0x004#32 else 0x020#32)
  else if neg then 0x002#32 else 0x040#32

/-- The rounding mode of a code (R144). -/
def modeOf (r : BitVec 2) : RMode := match r with
  | 0#2 => .rne
  | 1#2 => .rz
  | 2#2 => .ru
  | _ => .rd

/-- Node(l, j) of R149 over lanes that are present or absent. -/
def node (op : Lane → Lane → Lane) (leaf : Nat → Option Lane) : Nat → Nat → Option Lane
  | 0, j => leaf j
  | l + 1, j =>
    match node op leaf l (2 * j), node op leaf l (2 * j + 1) with
    | none, y => y
    | x, none => x
    | some x, some y => some (op x y)

/-- The prefix of lanes 0 to i of R151: blocks of the bits of i + 1, most significant first. -/
def blocksOf (op : Lane → Lane → Lane) (leaf : Nat → Option Lane) (i : Nat) : Option Lane :=
  let add (p : Option Lane × Nat) (l : Nat) : Option Lane × Nat :=
    if (i + 1).testBit l then
      (match p.1, node op leaf l (p.2 / 2 ^ l) with
        | none, y => y
        | x, none => x
        | some x, some y => some (op x y), p.2 + 2 ^ l)
    else p
  (add (add (add (add (add (none, 0) 4) 3) 2) 1) 0).1

/-- The active lanes of a register, present, each after `pre`. -/
def leaves (s : State) (a : BitVec 5) (m : BitVec 3) (pre : Lane → Lane) (i : Nat) : Option Lane :=
  if (s.readM m.toNat).getLsbD i then some (pre (lane (s.readV a) i)) else none

/-- Table 8.7: reductions, with what is done to each lane first, the operation and its identity. -/
noncomputable def reductions : List ((BitVec 5 → BitVec 5 → BitVec 3 → Instr) × (Lane → Lane) × (Lane → Lane → Lane) × Lane) :=
  [ (.vredaddF, id, fun a b => roundF32 ((fval a).add (fval b)), 0#32), (.vredaddI, id, fun a b => a + b, 0#32)
  , (.vredmaxF, id, maxF, 0xFF800000#32), (.vredminF, id, minF, 0x7F800000#32)
  , (.vredmaxI, id, fun a b => if a.toInt ≤ b.toInt then b else a, 0x80000000#32)
  , (.vamax, fun a => if (fval a).isNan then 0x7FC00000#32 else BitVec.setWidth 32 (BitVec.setWidth 31 a), maxF, 0#32) ]

/-- Table 8.7: scans. -/
noncomputable def scans : List ((BitVec 5 → BitVec 5 → BitVec 3 → Instr) × (Lane → Lane → Lane)) :=
  [ (.vscanI, fun a b => a + b), (.vscanF, fun a b => roundF32 ((fval a).add (fval b))) ]

/-- Active lanes below lane i. -/
def rankBelow (s : State) (m : BitVec 3) (i : Nat) : Nat := (List.range i).countP (s.readM m.toNat).getLsbD

/-- Table 8.9: mask operations, of one or two mask registers. -/
noncomputable def maskTwo : List ((BitVec 5 → BitVec 5 → BitVec 5 → Instr) × (Mask → Mask → Mask)) :=
  [ (.mand, fun a b => a &&& b), (.mor, fun a b => a ||| b), (.mxor, fun a b => a ^^^ b) ]

noncomputable def maskOne : List ((BitVec 5 → BitVec 5 → Instr) × (Mask → Mask → Prop)) :=
  [ (.mnot, fun a v => v = ~~~a)
  , (.mpop, fun a v => ∀ i, i < 16 → v.getLsbD i = decide (i < (List.range 16).countP a.getLsbD))
  , (.mfirst, fun a v => ∀ i, i < 16 → (v.getLsbD i = true ↔ a.getLsbD i = true ∧ ∀ j, j < i → a.getLsbD j = false)) ]

end Sys2Proof.Claims

/-- R133, R134, R136 to R138, R154: FP32 lane arithmetic under a mask, in its one-, two- and three-source forms. Every result is the exact one rounded once by
RNE; a three-source form reads vd whatever the mask. (How many places exp2 and log2 keep before rounding is the model's, log entry 13.) R133, R139, R140:
integer, logic and shift lanes under a mask, with a latency of 2 cycles. R80, R154: a 16-bit word does to vd what its 32-bit twin does, under m0 or m1: `op vd,
vd, vs`, a move for VMOV, and vs × v31 + vd for VFMAC. -/
def Obligations.VectorArithmetic : Prop :=
  (∀ (d a b : BitVec 5) (m : BitVec 3) (s : State), ReadableV s a → ReadableOld s d m →
    (∀ e ∈ floatOne, ∃ t, exec (e.1 d a m) s = .next t ∧ Lanewise s t d m e.2.1 (fun i => e.2.2 (lane (s.readV a) i))) ∧
    (ReadableV s b → ∀ e ∈ floatTwo,
      ∃ t, exec (e.1 d a b m) s = .next t ∧ Lanewise s t d m e.2.1 (fun i => e.2.2 (lane (s.readV a) i) (lane (s.readV b) i))) ∧
    (ReadableV s b → ReadableV s d → ∀ e ∈ floatThree, ∃ t, exec (e.1 d a b m) s = .next t ∧
      Lanewise s t d m 4 (fun i => e.2 (lane (s.readV a) i) (lane (s.readV b) i) (lane (s.readV d) i)))) ∧
  (∀ (d a b : BitVec 5) (m : BitVec 3) (s : State), ReadableV s a → ReadableOld s d m →
    (∀ e ∈ integerOne, ∃ t f, exec (e.1 d a m) s = .next t ∧ Lanewise s t d m 2 f ∧ ∀ i, i < 16 → e.2 (lane (s.readV a) i) (f i)) ∧
    (∀ e ∈ integerImm, ∃ t, exec (e.1 d a b m) s = .next t ∧ Lanewise s t d m 2 (fun i => e.2 (lane (s.readV a) i) b.toNat)) ∧
    (ReadableV s b → ∀ e ∈ integerTwo,
      ∃ t, exec (e.1 d a b m) s = .next t ∧ Lanewise s t d m 2 (fun i => e.2 (lane (s.readV a) i) (lane (s.readV b) i)))) ∧
  (∀ (d v : BitVec 5) (m : BitVec 1) (s : State), ReadableV s v → ReadableOld s d (m.setWidth 3) →
    (∃ t, exec (.vmov16 d v m) s = .next t ∧ Lanewise s t d (m.setWidth 3) 2 (fun i => lane (s.readV v) i)) ∧
    (ReadableV s d → ∀ e ∈ shortForms, ∃ t, exec (e.1 d v m) s = .next t ∧
      Lanewise s t d (m.setWidth 3) e.2.1 (fun i => e.2.2 (lane (s.readV d) i) (lane (s.readV v) i))) ∧
    (ReadableV s d → ReadableV s 31#5 → ∃ t, exec (.vfmac16 d v m) s = .next t ∧
      Lanewise s t d (m.setWidth 3) 4 (fun i => roundF32 (((fval (lane (s.readV v) i)).mul (fval (lane (s.readV 31#5) i))).add (fval (lane (s.readV d) i))))))

/-- R26 to R31, R144, R145: the register conversions, each with a latency of 4 cycles. A narrowing form and VPACK.I8 replace the halfwords or bytes of the
active lanes in their half or quarter and keep every other bit of vd; a widening form and VUNPK.I8 fill active lanes exactly. -/
def Obligations.VectorConversions : Prop :=
  ∀ (d a : BitVec 5) (h u : BitVec 1) (r q : BitVec 2) (m : BitVec 3) (s : State), ReadableV s a → ReadableOld s d m →
    let la (i : Nat) : Lane := lane (s.readV a) i
    let on (i : Nat) : Bool := (s.readM m.toNat).getLsbD i
    (∃ t, exec (.vcvtFI d a u r m) s = .next t ∧ Lanewise s t d m 4 (fun i =>
      BitVec.ofNat 32 (fp32.round (modeOf r) (.ofInteger (if u = 1#1 then ((la i).toNat : Int) else (la i).toInt))))) ∧
    (∃ t, exec (.vcvtIF d a u r m) s = .next t ∧ Lanewise s t d m 4 (fun i =>
      BitVec.ofInt 32 ((fval (la i)).toIntSat (modeOf r) (if u = 1#1 then 0 else -2 ^ 31) (if u = 1#1 then 2 ^ 32 - 1 else 2 ^ 31 - 1)))) ∧
    (∀ e ∈ [(Instr.vcvtFBf, bf16), (.vcvtFH, fp16)], ∃ t, exec (e.1 d a h m) s = .next t ∧ Lanewise s t d m 4 (fun i =>
      BitVec.ofNat 32 (fp32.round .rne (e.2.decode ((s.readV a).extractLsb' (256 * h.toNat + 16 * i) 16).toNat)))) ∧
    (ReadableV s d → ∀ e ∈ [(Instr.vcvtBfF, bf16), (.vcvtHF, fp16)], ∃ t v, exec (e.1 d a h r m) s = .next t ∧ WritesV s t d 4 v ∧
      ∀ j, j < 32 → BitVec.extractLsb' (16 * j) 16 v = if j / 16 = h.toNat ∧ on (j % 16) = true
        then BitVec.ofNat 16 (e.2.round (modeOf r) (fval (la (j % 16)))) else (s.readV d).extractLsb' (16 * j) 16) ∧
    (ReadableV s d → ∃ t v, exec (.vpackI8 d a q u m) s = .next t ∧ WritesV s t d 4 v ∧
      ∀ j, j < 64 → BitVec.extractLsb' (8 * j) 8 v = if j / 16 = q.toNat ∧ on (j % 16) = true
        then (if u = 1#1 then BitVec.ofNat 8 (min 255 (la (j % 16)).toNat) else BitVec.ofInt 8 (max (-128) (min 127 (la (j % 16)).toInt)))
        else (s.readV d).extractLsb' (8 * j) 8) ∧
    ∃ t, exec (.vunpkI8 d a q u m) s = .next t ∧ Lanewise s t d m 4 (fun i =>
      let x := (s.readV a).extractLsb' (128 * q.toNat + 8 * i) 8
      if u = 1#1 then x.setWidth 32 else x.signExtend 32)

/-- R146 to R148: VQUANT of finite active elements writes the block image of Quantise (R39) after 6 cycles, inactive elements counting as 0, and parks the
tile with vd unchanged where an active element is NaN or infinite. VDEQ of a block without a reserved code in an active lane gives each active lane its
value, and parks the tile otherwise. -/
def Obligations.BlockQuantAndDequant : Prop :=
  ∀ (d a b : BitVec 5) (h : BitVec 1) (m : BitVec 3) (s : State), ReadableV s a → s.thr.subst = [] →
    let on (i : Nat) : Bool := (s.readM m.toNat).getLsbD i
    (ReadableV s b → ReadableM s m.toNat →
      let x (j : Nat) : FVal := if on (j % 16) then fval (if j < 16 then lane (s.readV a) j else lane (s.readV b) (j - 16)) else .fin false 0 0
      ((∀ j, j < 32 → (x j).special = false) → ∃ t v cs k, exec (.vquant d a b m) s = .next t ∧ WritesV s t d 6 v ∧
        quantise ((List.range 32).map x) = .ok (cs, k) ∧
        ∀ j, j < 64 → BitVec.extractLsb' (8 * j) 8 v = if j < 32 then cs.getD j 0#8 else if j = 32 then k else 0#8) ∧
      ((∃ j, j < 32 ∧ (x j).special = true) → ∃ t, exec (.vquant d a b m) s = .next t ∧ RegsKept s t [] ∧ MemoryKept s t ∧
        if s.curThread = 8 then (t.tile s.curTile).fillParked = true else (t.tile s.curTile).parked = true)) ∧
    (ReadableOld s d m →
      let k := (s.readV a).extractLsb' 256 8
      let c (i : Nat) : Byte := (s.readV a).extractLsb' (128 * h.toNat + 8 * i) 8
      let dec (i : Nat) : FVal := match fromD8 (c i) with
        | .fin n x e => .fin n x (e + (k.toNat : Int) - 127)
        | w => w
      ((∀ i, i < 16 → on i = true → c i ≠ 0x80#8) → ∃ t, exec (.vdeq d a h 1#1 m) s = .next t ∧ Lanewise s t d m 6 (fun i => roundF32 (fromD8 (c i)))) ∧
      (k = 0#8 → ∃ t, exec (.vdeq d a h 0#1 m) s = .next t ∧ Lanewise s t d m 6 (fun _ => 0#32)) ∧
      (k ≠ 0#8 → k ≠ 255#8 → (∀ i, i < 16 → on i = true → c i ≠ 0x80#8) →
        ∃ t, exec (.vdeq d a h 0#1 m) s = .next t ∧ Lanewise s t d m 6 (fun i => roundF32 (dec i))) ∧
      ((∃ i, i < 16 ∧ on i = true ∧ (k = 255#8 ∨ k ≠ 0#8 ∧ c i = 0x80#8)) → ∃ t, exec (.vdeq d a h 0#1 m) s = .next t ∧ RegsKept s t [] ∧ MemoryKept s t ∧
        if s.curThread = 8 then (t.tile s.curTile).fillParked = true else (t.tile s.curTile).parked = true))

/-- R149 to R151: a reduction puts Node(4, 0) of the fixed tree over the active lanes, or the identity, into lane 0 and 0 into the others; a scan gives each
active lane the combination of the tree's blocks for lanes 0 to i, and leaves in the others what vd then holds. The latency is 6 cycles. R152: the permutes, with a latency of 3 cycles. -/
def Obligations.VectorReductionsAndPermutes : Prop :=
  (∀ (d a : BitVec 5) (m : BitVec 3) (s : State), ReadableV s a → ReadableM s m.toNat →
    (∀ e ∈ reductions, ∃ t v, exec (e.1 d a m) s = .next t ∧ WritesV s t d 6 v ∧ lane v 0 = (node e.2.2.1 (leaves s a m e.2.1) 4 0).getD e.2.2.2 ∧
      ∀ i, 0 < i → i < 16 → lane v i = 0#32) ∧
    ∀ e ∈ scans, ∃ t v, exec (e.1 d a m) s = .next t ∧ WritesV s t d 6 v ∧ ∀ i, i < 16 → lane v i =
      if (s.readM m.toNat).getLsbD i then (blocksOf e.2 (leaves s a m id) i).getD 0#32
      else lane (s.thr.readAt (s.cyc + 6) 1 d.toNat) i) ∧
  (∀ (d a b : BitVec 5) (n : BitVec 4) (m : BitVec 3) (s : State),
    let la (i : Nat) : Lane := lane (s.readV a) i
    let on (i : Nat) : Bool := (s.readM m.toNat).getLsbD i
    (ReadableV s a → ReadableV s b → ReadableOld s d m → ∃ t, exec (.vperm d a b m) s = .next t ∧
      Lanewise s t d m 3 (fun i => la ((lane (s.readV b) i).extractLsb' 0 4).toNat)) ∧
    (ReadableW s a → ReadableOld s d m → ∃ t, exec (.vbcast d a m) s = .next t ∧ Lanewise s t d m 3 (fun _ => (s.readW a).setWidth 32)) ∧
    (ReadableV s a → ∃ t, exec (.vextr d a n) s = .next t ∧ WritesW s t d 3 ((la n.toNat).signExtend 64)) ∧
    (ReadableW s a → ReadableM s m.toNat → ReadableV s d → ∃ t v, exec (.vins d a n m) s = .next t ∧ WritesV s t d 3 v ∧
      ∀ i, i < 16 → lane v i = if i = n.toNat ∧ on i = true then (s.readW a).setWidth 32 else lane (s.readV d) i) ∧
    (ReadableV s a → ReadableM s m.toNat → ∃ t v, exec (.vcompr d a m) s = .next t ∧ WritesV s t d 3 v ∧
      (∀ j, j < 16 → on j = true → lane v (rankBelow s m j) = la j) ∧ ∀ i, rankBelow s m 16 ≤ i → i < 16 → lane v i = 0#32) ∧
    (ReadableV s a → ReadableOld s d m → ∃ t, exec (.vexpnd d a m) s = .next t ∧ Lanewise s t d m 3 (fun i => la (rankBelow s m i))) ∧
    (ReadableV s a → ReadableOld s d m → ∃ t, exec (.vrot d a n m) s = .next t ∧ Lanewise s t d m 3 (fun i => la ((i + n.toNat) % 16))) ∧
    (ReadableM s m.toNat → ∃ t v, exec (.viota d m) s = .next t ∧ WritesV s t d 3 v ∧
      ∀ i, i < 16 → (lane v i).toNat = rankBelow s m (i + 1)))

/-- R141 to R143: a compare writes the whole of md, a bit for each lane that is active and meets the condition; a NaN makes every FP32 condition false but NE
and UN. VSEL chooses by the mask, and VCLASS gives the one-hot class of each active lane. R105, R153: the mask operations write md after 1 cycle; a write to m0
is ignored, and m0 reads all ones. -/
def Obligations.VectorComparesAndMasks : Prop :=
  (∀ (d a b : BitVec 5) (m : BitVec 3) (s : State), ReadableV s a → ReadableM s m.toNat →
    (ReadableV s b → ∀ e ∈ comparisons, ∃ t v, exec (e.1 d a b m) s = .next t ∧ WritesM s t d.toNat 2 v ∧
      ∀ i, i < 16 → (v.getLsbD i = true ↔ (s.readM m.toNat).getLsbD i = true ∧ e.2 (lane (s.readV a) i) (lane (s.readV b) i))) ∧
    (ReadableV s b → ∃ t v, exec (.vsel d a b m) s = .next t ∧ WritesV s t d 2 v ∧
      ∀ i, i < 16 → lane v i = if (s.readM m.toNat).getLsbD i then lane (s.readV a) i else lane (s.readV b) i) ∧
    (ReadableOld s d m → ∃ t, exec (.vclass d a m) s = .next t ∧ Lanewise s t d m 2 (fun i => classOf (lane (s.readV a) i)))) ∧
  (∀ (d a b : BitVec 5) (n : BitVec 4) (s : State), ReadableM s a.toNat →
    (ReadableM s b.toNat → ∀ e ∈ maskTwo, ∃ t, exec (e.1 d a b) s = .next t ∧ WritesM s t d.toNat 1 (e.2 (s.readM a.toNat) (s.readM b.toNat))) ∧
    (∀ e ∈ maskOne, ∃ t v, exec (e.1 d a) s = .next t ∧ WritesM s t d.toNat 1 v ∧ e.2 (s.readM a.toNat) v) ∧
    (∃ t v, exec (.mset d b) s = .next t ∧ WritesM s t d.toNat 1 v ∧ ∀ i, i < 16 → v.getLsbD i = decide (i < b.toNat)) ∧
    (∃ t, exec (.mget d a n) s = .next t ∧ WritesM s t d.toNat 1 (s.readM a.toNat >>> n.toNat)) ∧
    s.readM 0 = 0xFFFF#16)

/-- R28 to R33: a code of FP32, FP16 or BF16 that is not NaN decodes to a value that rounds back to it under every mode, and NaN rounds to the canonical
NaN; every D8 code but 0x80 decodes to a value that encodes back to it. -/
def Obligations.FormatsKeepTheirCodes : Prop :=
  (∀ l ∈ [fp32, fp16, bf16], ∀ (md : RMode) (c : Nat), c < 2 ^ (1 + l.eb + l.fb) →
    l.round md (l.decode c) = if c / 2 ^ l.fb % 2 ^ l.eb = 2 ^ l.eb - 1 ∧ c % 2 ^ l.fb ≠ 0 then (2 ^ l.eb - 1) * 2 ^ l.fb + 2 ^ (l.fb - 1) else c) ∧
  ∀ c : Byte, c ≠ 0x80#8 → ∃ n m e, fromD8 c = .fin n m e ∧ toD8 n m e = c

/-! ## The matrix engine (R155 to R170) -/

namespace Sys2Proof.Claims

/-- R105, R155: the accumulators that the executing thread may name. -/
def AccOk (s : State) (c : BitVec 3) : Prop := if s.curThread = 8 then 4 ≤ c.toNat else c.toNat < 4

/-- The command queue of the executing thread (R155). -/
def ownQueue (s : State) : List MCmd := if s.curThread = 8 then (s.tile s.curTile).mqFill else (s.tile s.curTile).mq

/-- R163: the command has entered the queue of its owner, last of it, and the thread goes on; no register, no accumulator and no byte of memory
changes. -/
def Enqueued (s t : State) (acc : Nat) (kind : MKind) : Prop :=
  (ownQueue t).map MCmd.id = (ownQueue s).map MCmd.id ++ [(s.tile s.curTile).mNext] ∧
  (∃ c ∈ ownQueue t, c.id = (s.tile s.curTile).mNext ∧ c.acc = acc ∧ c.kind = kind ∧ c.thread = s.curThread ∧ c.issued = s.cyc) ∧
  (t.tile s.curTile).acc = (s.tile s.curTile).acc ∧ RegsKept s t [] ∧ MemoryKept s t ∧ QueueMoved s t ∧ SameButRegsAndQueue s.thr t.thr ∧
  ∀ k i, k ≠ s.curTile ∨ i ≠ s.curThread → t.thread k i = s.thread k i

/-- The instruction did not issue: it stays at Q0, and no register, queue or byte of memory changes. -/
def Stalled (s t : State) : Prop :=
  OnlyThread s { t with cursor := s.cursor } ∧ RegsKept s t [] ∧ MemoryKept s t ∧
  t.thr = { s.thr with heldFrom := some (s.thr.heldFrom.getD s.cyc), notBefore := t.thr.notBefore } ∧ s.cyc < t.thr.notBefore

/-- R160: the address of row r of A. -/
def rowAddress (s : State) (x : BitVec 1) (bank : BitVec 9) (n : BitVec 5) (r : Nat) : Nat :=
  let w := s.readW n
  if x = 1#1 then ((s.readV n).extractLsb' (32 * r) 19).toNat
  else 1024 * bank.toNat + (w.extractLsb' 0 10).toNat + r * (w.extractLsb' 10 10).toNat

/-- R160: element (i, c) of B in tile SRAM. -/
def elementOfB (w : Word) (t : BitVec 1) (e i c : Nat) : Nat :=
  let base := (w.extractLsb' 20 19).toNat
  let stride := (w.extractLsb' 39 10).toNat
  if t = 1#1 then base + c * stride + i * e else base + i * stride + c * e

/-- R161: the format suits the type: BF16, FP16, D8 or D8B with an E8 companion, INT8 or UINT8; a raw bank never does. -/
def Suits (s : State) (ty b : Nat) : Prop :=
  let w := s.bfmt s.curTile b
  let f := (w.extractLsb' 0 4).toNat
  let comp := s.bfmt s.curTile (w.extractLsb' 8 9).toNat
  s.bankReserved s.curTile b = false ∧ w.getLsbD 7 = false ∧
  match ty with
  | 0 => f = 8
  | 1 => f = 7
  | 2 => f = 9 ∨ f = 10 ∧ comp.getLsbD 7 = false ∧ (comp.extractLsb' 0 4).toNat = 11
  | _ => f = 0 ∨ f = 1

/-- A run of n bytes from a that an MMA may read. -/
def RunOk (s : State) (ty a n : Nat) : Prop := a + n ≤ 393216 ∧ ∀ b, a / 1024 ≤ b → b ≤ (a + n - 1) / 1024 → Suits s ty b

/-- R159 to R161: the conditions under which an MMA of a type passes its checks. -/
def MmaReady (s : State) (ty : Nat) (b t x : BitVec 1) (bank : BitVec 9) (n : BitVec 5) (c : BitVec 3) : Prop :=
  let w := s.readW n
  let e := if ty ≤ 1 then 2 else 1
  let k := (w.extractLsb' 49 8).toNat
  ReadableW s n ∧ (x = 1#1 → ReadableV s n) ∧ (b = 1#1 → ReadableW s (n + 1#5)) ∧ AccOk s c ∧
  w.extractLsb' 59 5 = 0#5 ∧ 1 ≤ k ∧ k ≤ (if ty ≤ 1 then 64 else 128) ∧ (b = 1#1 → w.extractLsb' 36 3 = 0#3) ∧
  (ty ≤ 1 → (∀ r, r < 16 → s.thr.mrow.getLsbD r = true → rowAddress s x bank n r % 2 = 0) ∧
    (b = 0#1 → w.getLsbD 20 = false ∧ w.getLsbD 39 = false) ∧ (x = 0#1 → w.getLsbD 10 = false)) ∧
  (∀ r, r < 16 → s.thr.mrow.getLsbD r = true → RunOk s ty (rowAddress s x bank n r) (k * e)) ∧
  (b = 0#1 → t = 1#1 → ∀ j, j < 16 → RunOk s ty (elementOfB w t e 0 j) (k * e)) ∧
  (b = 0#1 → t = 0#1 → ∀ i, i < k → RunOk s ty (elementOfB w t e i 0) (16 * e))

/-- The MMA instructions with their type. -/
noncomputable def mmaTypes : List ((BitVec 1 → BitVec 1 → BitVec 1 → BitVec 9 → BitVec 5 → BitVec 3 → Instr) × Nat) :=
  [(.mmaBf, 0), (.mmaH, 1), (.mmaD8, 2), (.mmaI8, 3)]

/-- R168: the conditions under which an MSTA passes its checks; d is the element size of the destination. -/
def MstaReady (s : State) (bank : BitVec 9) (n : BitVec 5) (c : BitVec 3) (d : Nat) : Prop :=
  let w := s.readW n
  let f := s.bfmt s.curTile bank.toNat
  let fmt := (f.extractLsb' 0 4).toNat
  let comp := s.bfmt s.curTile (f.extractLsb' 8 9).toNat
  let off := (w.extractLsb' 0 10).toNat
  let stride := (w.extractLsb' 10 10).toNat
  ReadableW s n ∧ AccOk s c ∧ w.extractLsb' 38 26 = 0#26 ∧ off % d = 0 ∧ stride % d = 0 ∧ bank.toNat < 384 ∧
  (∀ r, r < 16 → w.getLsbD (20 + r) = true → off + r * stride + 16 * d ≤ 1024) ∧
  s.bankReserved s.curTile bank.toNat = false ∧ f.getLsbD 7 = false ∧
  (fmt, d) ∈ [(0, 1), (1, 1), (2, 2), (3, 4), (4, 8), (6, 4), (7, 2), (8, 2), (9, 1), (10, 1)] ∧
  (fmt = 10 → s.bankReserved s.curTile (f.extractLsb' 8 9).toNat = false ∧ comp.getLsbD 7 = false ∧ (comp.extractLsb' 0 4).toNat = 11)

/-- R164: how many rows of an accumulator can be read: a command of the queue that writes it is an MZERO, an MWR or an MMA; an MMA whose rows 0 to 7 are
final leaves 8. -/
def rowsReadable (s : State) (c : Nat) : Nat :=
  let l := (ownQueue s).filter (fun x => x.writes c)
  if l = [] then 16 else if l.all (fun x => x.stage == 4) then 8 else 0

/-- The commands that an MWAIT names (R169). -/
def awaited (s : State) (q : BitVec 1) (c : BitVec 3) : List Nat :=
  ((ownQueue s).filter (fun x => q == 0#1 || x.acc == c.toNat)).map MCmd.id

/-- The command of that number in queue o of tile k. -/
def command (s : State) (k o id : Nat) : Option MCmd := s.cmd k o id

/-- R37, R162: what a latch takes for the element at tile address a: code, scale code (127 where it has none) and format. An element of a block of scale 0
is 0. -/
def elementAt (s : State) (k : Nat) (op : MmaOp) (a : Nat) : Nat × Nat × Nat :=
  let w := op.fmts.get (a / 1024)
  let f := (w.extractLsb' 0 4).toNat
  let code := s.num (.tile k) a (if op.ty ≤ 1 then 2 else 1)
  let j := if w.getLsbD 4 then a % 1024 % 32 else a % 1024 / 32
  let sc := (s.byte (.tile k) (1024 * (w.extractLsb' 8 9).toNat + 32 * (a / 1024 % 32) + j)).toNat
  if f = 10 then (if sc = 0 then (0, 0, 10) else (code, sc, 10)) else (code, 127, f)

/-- R41: the element's code, and its scale where it has one, can be decoded. -/
def Decodes (x : Nat × Nat × Nat) : Prop := (x.2.2 = 9 → x.1 ≠ 0x80) ∧ (x.2.2 = 10 → x.2.1 = 0 ∨ x.2.1 ≠ 255 ∧ x.1 ≠ 0x80)

/-- R160: element (i, j) of B: in tile SRAM, or under .BS in the tensor store from the coordinates of the operand on. -/
def operandB (s : State) (k : Nat) (op : MmaOp) (i j : Nat) : Option (Nat × Nat × Nat) :=
  let d := dieOf k
  let t := s.tensorDir d op.handle
  let c (n : Nat) : Nat := (op.coords.extractLsb' (16 * n) 16).toNat
  if op.bs then (s.tensorAddr d t (c 0 + j) (c 1 + i) (c 2) (c 3)).map (fun a => (s.num (.tensor d) a t.elem, 127, t.fmt))
  else some (elementAt s k op (op.bbase + i * op.bk + j * op.bc))

/-- R160 to R162: a latch meets no failure: the directory admits a .BS operand and the tile's column is not lost, the scale register holds a scale, and
every element that mrow and mcol select can be decoded. -/
def LatchPasses (s : State) (k : Nat) (op : MmaOp) : Prop :=
  (op.bs = true → s.bsGood (dieOf k) op = true ∧ (s.die (dieOf k)).lost.contains (columnOf k) = false) ∧
  (op.ty = 2 → op.sfcode ≠ 0xFF#8) ∧
  (∀ r i, r < 16 → i < op.k → op.mrow.getLsbD r = true → Decodes (elementAt s k op (op.rows.getD r 0 + i * (if op.ty ≤ 1 then 2 else 1)))) ∧
  ∀ i j, i < op.k → j < 16 → op.mcol.getLsbD j = true → op.mrow ≠ 0#16 → ∃ x, operandB s k op i j = some x ∧ Decodes x

/-- R158, R162, R168: the latch of a command begins in this cycle: it has latched nothing, the tile's ports are free and the latches before it have ended,
and of the commands before it in its queue none is held for the proctor and none is an MSTA. -/
def LatchFree (s : State) (k o : Nat) (c : MCmd) : Prop :=
  c.lat = [] ∧ c.passed = 0 ∧ (c.due = 0 ∨ c.due = s.cyc) ∧ s.latchFree k o c.id ≤ s.cyc ∧
  ∀ x ∈ (s.mqueue k o).takeWhile (fun x => x.id != c.id), x.stage ≠ 5 ∧ ∀ op, x.kind ≠ .msta op

/-- Only rows of one accumulator of tile k, and the engine's queues, may differ among accumulators. -/
def AccKept (s t : State) (k : Nat) (but : List Nat) : Prop :=
  (∀ r, r ∉ but → (t.tile k).acc.get r = (s.tile k).acc.get r) ∧ ∀ j, j ≠ k → (t.tile j).acc = (s.tile j).acc

end Sys2Proof.Claims

/-- R159 to R163: an MMA that passes its checks enters its owner's queue with everything it samples at issue; with the queue full it stalls. R163, R165 to
R168: MZERO, MWR and MSTA enter the queue, MWR with vs and MSTA with its descriptor and bank format captured at issue; with the queue full each stalls. Naming
an accumulator of the other owner is ILLEGAL with the word in tval. -/
def Obligations.MatrixWordsIssue : Prop :=
  (∀ e ∈ mmaTypes, ∀ (b t x : BitVec 1) (bank : BitVec 9) (n : BitVec 5) (c : BitVec 3) (s : State), MmaReady s e.2 b t x bank n c →
    let w := s.readW n
    let sz := if e.2 ≤ 1 then 2 else 1
    ((ownQueue s).length < 8 → ∃ u o, exec (e.1 b t x bank n c) s = .next u ∧ Enqueued s u c.toNat (.mma o) ∧
      o.ty = e.2 ∧ o.k = (w.extractLsb' 49 8).toNat ∧ o.bs = (b == 1#1) ∧ o.gx = (x == 1#1) ∧ o.mrow = s.thr.mrow ∧ o.mcol = s.thr.mcol ∧
      (∀ r, r < 16 → o.rows.getD r 0 = rowAddress s x bank n r) ∧ (∀ i j, o.bbase + i * o.bk + j * o.bc = elementOfB w t sz i j) ∧
      o.handle = (w.extractLsb' 20 16).toNat ∧ (b = 1#1 → o.coords = s.readW (n + 1#5)) ∧ o.sfcode = s.thr.sf.get (w.extractLsb' 57 2).toNat ∧
      ∀ r, r < 16 → s.thr.mrow.getLsbD r = true → ∀ a, rowAddress s x bank n r ≤ a → a < rowAddress s x bank n r + o.k * sz →
        o.fmts.get (a / 1024) = s.bfmt s.curTile (a / 1024)) ∧
    (8 ≤ (ownQueue s).length → ∃ u, exec (e.1 b t x bank n c) s = .next u ∧ Stalled s u)) ∧
  (∀ (r : BitVec 4) (v n : BitVec 5) (f : BitVec 1) (bank : BitVec 9) (c : BitVec 3) (s : State),
    (AccOk s c → (ownQueue s).length < 8 → ∃ t, exec (.mzero c) s = .next t ∧ Enqueued s t c.toNat .mzero) ∧
    (AccOk s c → ReadableV s v → (ownQueue s).length < 8 → ∃ t, exec (.mwr r v c) s = .next t ∧ Enqueued s t c.toNat (.mwr r.toNat (s.readV v))) ∧
    (∀ d, MstaReady s bank n c d → (ownQueue s).length < 8 → ∃ t o, exec (.msta f bank n c) s = .next t ∧ Enqueued s t c.toNat (.msta o) ∧
      o.bank = bank.toNat ∧ o.off = ((s.readW n).extractLsb' 0 10).toNat ∧ o.stride = ((s.readW n).extractLsb' 10 10).toNat ∧
      o.rmask = (s.readW n).extractLsb' 20 16 ∧ o.mode = ((s.readW n).extractLsb' 36 2).toNat ∧ o.isInt = (f == 1#1) ∧ o.bfmt = s.bfmt s.curTile bank.toNat) ∧
    (8 ≤ (ownQueue s).length →
      (AccOk s c → ∃ t, exec (.mzero c) s = .next t ∧ Stalled s t) ∧ (AccOk s c → ReadableV s v → ∃ t, exec (.mwr r v c) s = .next t ∧ Stalled s t) ∧
      ∀ d, MstaReady s bank n c d → ∃ t, exec (.msta f bank n c) s = .next t ∧ Stalled s t) ∧
    (¬ AccOk s c → ∀ i ∈ [Instr.mzero c, .mrd r v c, .mwr r v c, .mwm v c, .mwait 1#1 c],
      exec i s = .next (s.takeTrap ⟨0x01, (s.textWord s.curTile s.curThread s.thr.q0).setWidth 64⟩))) ∧
  ∀ (b t x : BitVec 1) (bank : BitVec 9) (n : BitVec 5) (c : BitVec 3) (s : State), ¬ AccOk s c →
    (∀ e ∈ mmaTypes, exec (e.1 b t x bank n c) s = .next (s.takeTrap ⟨0x01, (s.textWord s.curTile s.curThread s.thr.q0).setWidth 64⟩)) ∧
    exec (.msta b bank n c) s = .next (s.takeTrap ⟨0x01, (s.textWord s.curTile s.curThread s.thr.q0).setWidth 64⟩)

/-- R164, R167, R169, R170: MRD reads a row below the watermark (after the 12-cycle wake where its hold had lasted 64 cycles when the row became final, R104) and holds otherwise;
MWM reads the watermark; MWAIT waits for the commands it names, if any; MSCALE and MMASK write their fields from the next issue on. -/
def Obligations.AccumulatorReadsAndWaits : Prop :=
  (∀ (q : BitVec 1) (c : BitVec 3) (s : State), (q = 1#1 → AccOk s c) →
    (awaited s q c = [] → ∃ t, exec (.mwait q c) s = .next t ∧ QueueOnly s t ∧ QueueMoved s t) ∧
    (awaited s q c ≠ [] → ∃ t, exec (.mwait q c) s = .next t ∧ OnlyThreadAndEvents s t ∧ WaitsAs s t (.matrix (awaited s q c)))) ∧
  ∀ (r : BitVec 4) (d : BitVec 5) (c : BitVec 3) (m : BitVec 4) (s : State), AccOk s c →
    let since := (s.tile s.curTile).accAt.get (if r.toNat < 8 then c.toNat + 8 else c.toNat)
    (r.toNat < rowsReadable s c.toNat → (∀ h, s.thr.heldFrom = some h → since < h + 64) →
      ∃ t, exec (.mrd r d c) s = .next t ∧ WritesV s t d 2 ((s.tile s.curTile).acc.get (16 * c.toNat + r.toNat))) ∧
    (r.toNat < rowsReadable s c.toNat → (∃ h, s.thr.heldFrom = some h ∧ h + 64 ≤ since) →
      ∃ t, exec (.mrd r d c) s = .next t ∧ RegsKept s t [] ∧ MemoryKept s t ∧ t.thr = { s.thr with heldFrom := none, notBefore := s.cyc + 12 }) ∧
    (rowsReadable s c.toNat ≤ r.toNat → ∃ t, exec (.mrd r d c) s = .next t ∧ Stalled s t) ∧
    (∃ t, exec (.mwm d c) s = .next t ∧ WritesW s t d 1 (BitVec.ofNat 64 (rowsReadable s c.toNat))) ∧
    (ReadableW s d → (∃ t, exec (.mscale m d) s = .next t ∧ OnlyThread s t ∧ RegsKept s t [] ∧ MemoryKept s t ∧ QueueMoved s t ∧
        SameButRegsAndQueue { s.thr with sf := t.thr.sf } t.thr ∧
        ∀ k, t.thr.sf.get k = if k < 4 ∧ m.getLsbD k = true then (s.readW d).extractLsb' (8 * k) 8 else s.thr.sf.get k) ∧
      ∃ t, exec (.mmask d) s = .next t ∧ OnlyThread s t ∧ RegsKept s t [] ∧ MemoryKept s t ∧ QueueMoved s t ∧
        SameButRegsAndQueue { s.thr with mrow := (s.readW d).extractLsb' 0 16, mcol := (s.readW d).extractLsb' 16 16 } t.thr)

/-- R160 to R163, R166, R168: what the stages of a queued command do. A latch of any type, .BS included, that meets no failure takes the elements that stand in
tile SRAM or in the tensor store, in the time of Table 9.2; a pass accumulates into its eight rows, under mrow and mcol, and leaves every other element; its rows are final 4 cycles later, and the command ends with the
second pass. MZERO and MWR write their rows and end; an MSTA whose elements all convert writes its bytes when it ends.
Each event ends in a next state, in every state. -/
def Obligations.MatrixCommandsRun : Prop :=
  (∀ (k o id : Nat) (s : State), (∃ u, exec (.mmaLatch k o id) s = .next u) ∧
    (∃ u, exec (.mzeroExecute k o id) s = .next u) ∧
    (∃ u, exec (.mwrExecute k o id) s = .next u) ∧
    (∃ u, exec (.mstaExecute k o id) s = .next u) ∧
    ∃ u, exec (.mstaEnd k o id) s = .next u) ∧
  (∀ (k o id p : Nat) (s : State), (∃ u, exec (.mmaPass k o id p) s = .next u) ∧
    ∃ u, exec (.mmaRowsFinal k o id p) s = .next u) ∧
  ∀ (k o id : Nat) (c : MCmd) (s : State), command s k o id = some c →
    (∀ op, c.kind = .mma op →
      (c.subst = [] → LatchFree s k o c → LatchPasses s k op →
        let e := if op.ty ≤ 1 then 2 else 1
        ∃ t c', exec (.mmaLatch k o id) s = .next t ∧ command t k o id = some c' ∧ MemoryKept s t ∧ AccKept s t k [] ∧
          c'.latchEnd = s.cyc + 2 + (if op.gx then popcount op.mrow else (popcount op.mrow + 1) / 2) +
            (if op.bs then 24 + (16 * e * op.k + 7) / 8 else (16 * e * op.k + 255) / 256) ∧
          (∀ r i, r < 16 → i < op.k → (c'.aLat.getD r []).getD i none =
            if op.mrow.getLsbD r then some (elementAt s k op (op.rows.getD r 0 + i * e)) else none) ∧
          ∀ i j, i < op.k → j < 16 → (c'.bLat.getD i []).getD j none = if op.mcol.getLsbD j ∧ op.mrow ≠ 0#16 then operandB s k op i j else none) ∧
      (∀ p, p = 1 ∨ p = 2 → (o = 0 ∨ p = 2 ∨ c.due = s.cyc) → ∃ t, exec (.mmaPass k o id p) s = .next t ∧ MemoryKept s t ∧ Due t (s.cyc + 4) (.mmaRowsFinal k o id p) ∧
        AccKept s t k ((List.range 8).map (fun r => 16 * c.acc + 8 * (p - 1) + r)) ∧
        ∀ r j, r < 8 → j < 16 → lane ((t.tile k).acc.get (16 * c.acc + 8 * (p - 1) + r)) j =
          let old := lane ((s.tile k).acc.get (16 * c.acc + 8 * (p - 1) + r)) j
          let row := c.aLat.getD (8 * (p - 1) + r) []
          let col := c.bLat.map (fun x => x.getD j none)
          if op.mrow.getLsbD (8 * (p - 1) + r) ∧ op.mcol.getLsbD j then
            (if op.ty = 3 then old + BitVec.ofInt 32 ((row.zipWith (fun x y => latInt x * latInt y) col).sum)
             else mmaElement op (match substAt c.subst 2000000 with
               | some v => v.setWidth 8
               | none => op.sfcode) row col old)
          else old) ∧
      (∃ t c', exec (.mmaRowsFinal k o id 1) s = .next t ∧ command t k o id = some c' ∧ c'.stage = 4 ∧ MemoryKept s t ∧ AccKept s t k []) ∧
      ∃ t, exec (.mmaRowsFinal k o id 2) s = .next t ∧ command t k o id = none ∧ MemoryKept s t ∧ AccKept s t k []) ∧
    (c.kind = .mzero → ∃ t, exec (.mzeroExecute k o id) s = .next t ∧ command t k o id = none ∧ MemoryKept s t ∧
      AccKept s t k ((List.range 16).map (fun r => 16 * c.acc + r)) ∧ ∀ r, r < 16 → (t.tile k).acc.get (16 * c.acc + r) = 0#512) ∧
    (∀ r v, c.kind = .mwr r v → ∃ t, exec (.mwrExecute k o id) s = .next t ∧ command t k o id = none ∧ MemoryKept s t ∧
      AccKept s t k [16 * c.acc + r] ∧ (t.tile k).acc.get (16 * c.acc + r) = v) ∧
    (∀ op bs, c.kind = .msta op → s.mstaBytes k c.acc op c.subst = .ok bs → s.recovering k = false → s.portsFree k o ≤ s.cyc →
      ∃ t c', exec (.mstaExecute k o id) s = .next t ∧ command t k o id = some c' ∧ c'.out = bs ∧ MemoryKept s t ∧ AccKept s t k [] ∧
        Due t (s.cyc + 2 + popcount op.rmask + (if (op.bfmt.extractLsb' 0 4).toNat = 9 ∨ (op.bfmt.extractLsb' 0 4).toNat = 10 then 4 else 0)) (.mstaEnd k o id)) ∧
    ∀ op, c.kind = .msta op → (o = 0 ∨ c.due = s.cyc) → (∀ e ∈ c.out, e.1 < 393216) → (c.out.map Prod.fst).Nodup →
      ∃ t, exec (.mstaEnd k o id) s = .next t ∧ command t k o id = none ∧ AccKept s t k [] ∧ (∀ e ∈ c.out, t.byte (.tile k) e.1 = e.2) ∧
        ∀ sp x, x < sp.size → (sp = .tile k → x ∉ c.out.map Prod.fst) → t.byte sp x = s.byte sp x

/-! ## The machine: words, steps, reset and memory (R3, R7, R11, R78 to R88, R116, R222, R336) -/

namespace Sys2Proof.Claims

/-- Words written out from the encodings of chapters 5 to 10, with the instructions that they stand for. -/
noncomputable def specWords : List (Nat × Nat × Instr) :=
  [ (32, 0xFFCE2481, .ldi 9#5 0x1FF9C#17), (32, 0x00821401, .mfsr 5#5 0x008#12), (32, 0x00018001, .eret), (32, 0x0C520CB1, .csel 3#5 4#5 5#5 6#5)
  , (32, 0x00020131, .call 0x80#22), (32, 0x000002B1, .bseal), (32, 0x02019EB1, .bwait 7#5 3#5), (32, 0x03719D61, .ldtDAreg 7#5 3#4)
  , (32, 0x00248D91, .vldt 3#5 9#5 2#5 0#3), (32, 0x04C5A9A1, .copyb 10#5 11#5 12#5), (32, 0x00418A21, .mand 2#5 3#5 4#5)
  , (32, 0x07018251, .mscale 3#4 7#5), (16, 0x8488, .vfmac16 4#5 1#5 1#1), (32, 0x000A9401, .idle 5#5) ]

/-- The machine events, which no word encodes, and the word that no table assigns. -/
def isEvent : Instr → Bool
  | .mmaLatch .. | .mmaPass .. | .mmaRowsFinal .. | .mzeroExecute .. | .mwrExecute .. | .mstaExecute .. | .mstaEnd .. | .copyEnd ..
  | .translationWalkDone .. | .getLand .. | .streamProgramStart .. | .sepollSample .. | .streamMoveLand .. | .windowCounterIncrement ..
  | .streamListStart .. | .arrivalBellDone .. | .writeHalf .. | .bellRelease .. | .barrierGenerationComplete .. | .kmintDone .. | .krevEffect ..
  | .csetDone .. | .cfreeDone .. | .bucketOpen .. | .bucketComplete .. | .bucketTimeout .. | .collectiveDelivery .. | .planFiring ..
  | .frameReceive .. | .ackTimeout .. | .replayRequestTimeout .. | .laneFault .. | .trainDone .. | .trainTimeout .. | .e2eStatus .. | .e2eTimeout ..
  | .vcEscape .. | .bufferRepair .. | .keyCheck .. | .hbmWriteMatch .. | .selection .. | .launchEntry .. | .planEntry .. | .collEntry ..
  | .sealEntry .. | .waitevEntry .. | .sigevEntry .. | .killEntry .. | .killQuiesced .. | .textLoad .. | .startBroadcast .. | .firstFetch ..
  | .watchdogExpiry .. | .lineRefill .. | .fillerFetch .. | .tickArrival .. | .tickTaken .. | .threadPark .. | .swaitExpiry .. | .idleWake ..
  | .mailboxArrival .. | .tileResume .. | .engineRetry .. | .gangStop .. | .contextSave .. | .contextRestore .. | .undoLogDrain ..
  | .groupUndoDrain .. | .saveSeal .. | .emergencyTimeout .. | .escrowAck .. | .uncorrectableFault .. | .rollbackDone .. | .tileRetire ..
  | .finalExchange .. | .completionReport .. | .completionCommit .. | .launchComplete .. | .completionAdd .. | .completionAddDone .. | .rampTick ..
  | .telemetryTick .. | .overtempWarning .. | .thermalShutdown .. | .coldReset .. | .warmReset .. | .repairLearned .. | .repairCommit .. | .boot ..
  | .spdmRequest .. | .cxlMemAccess .. | .managementWrite .. | .mgLinkctl .. | .mgBbctl .. | .mgPod .. | .unassignedWord ..
  | .trainingPatternArrival .. | .switchFailure .. | .translationInvalidation .. => true
  | _ => false

/-- The code of the word that a thread is to issue: its low halfword where bit 0 is 0 (R78). -/
def codeOf (w : BitVec 32) : Code := if w.getLsbD 0 then .w32 w else .w16 (w.setWidth 16)

/-- After its issue a thread asks for the text lines of its next instruction (R91): of the module, only the refills under way in that thread and the
events to come may differ. -/
def LinesAsked (u v : State) (k t : Nat) : Prop :=
  v = { u with tiles := v.tiles, events := v.events } ∧ (∀ j, v.tile j = { u.tile j with threads := (v.tile j).threads }) ∧
  (∀ j i, j ≠ k ∨ i ≠ t → v.thread j i = u.thread j i) ∧ v.thread k t = { u.thread k t with refill := (v.thread k t).refill } ∧
  ∀ e ∈ u.events, e ∈ v.events

/-- No event is due in this cycle. -/
def NoEvent (s : State) : Prop := s.powered = true ∧ ∀ e ∈ s.events, s.cyc < e.1

end Sys2Proof.Claims

/-- R78 to R88: the decoder gives a word written out from the spec's tables the instruction that it stands for, with every operand at its value. -/
def Obligations.DecodeSpecWords : Prop := ∀ e ∈ specWords, decodeTableWord e.1 e.2.1 = some e.2.2

/-- R78 to R88, R222, R223: every word that the encoder writes for a well-formed instruction, with any operands and any stall count, decodes to that
instruction and that stall count; a 16-bit word and a stream command hold no stall count. Every well-formed instruction but the machine's events has a
word. -/
def Obligations.EncodeDecodeRoundTrip : Prop :=
  (∀ (i : Instr) (n : BitVec 3), i.wellFormed = true → isEvent i = false → ∃ c, encode i n = some c) ∧
  ∀ (i : Instr) (n : BitVec 3) (c : Code), i.wellFormed = true → encode i n = some c →
    decode c = .ok (i, match c with | .w32 _ => n | .w16 _ => 0#3 | .command _ => 0#3)

/-- R7, R11, R78, R88, R96: a thread whose turn to issue has come is live, has not halted and waits for nothing; when the text at its Q0 decodes to an instruction, the step is that instruction in the
state in which its tile takes its turn, after which the thread asks for the lines of its next one. A word that the tables do not assign is issued as the
unassigned word, which traps.
The unassigned word ends in a next state, in every state. -/
def Obligations.StepRunsTheIssuedWord : Prop :=
  (∀ (w : BitVec 32) (s : State), ∃ u, exec (.unassignedWord w) s = .next u) ∧
  ∀ (s : State) (k t : Nat) (w : BitVec 32), NoEvent s → s.dueProg = none → s.nextAct = some (k, .issue t w) →
    let s0 : State := { s with cursor := k + 1, curTile := k, curThread := t }
    w = s.textWord k t (s.thread k t).q0 ∧ (s.thread k t).live = true ∧ (s.thread k t).halted = false ∧ (s.thread k t).wait = .none ∧
    (∀ i n u, decode (codeOf w) = .ok (i, n) → exec i s0 = .next u → ∃ v, step s = .next v ∧ LinesAsked u v k t) ∧
    ∀ e u, decode (codeOf w) = .error e → exec (.unassignedWord w) s0 = .next u → ∃ v, step s = .next v ∧ LinesAsked u v k t

/-- R7, R224, R298, R300, R341, R358: a step is one event that is due, the first of the list; else the due command of a stream program; else one tile's turn,
here a TICK, taken in a slot in which the instruction at Q0 would issue, and held while that instruction is; else the end of the cycle, which changes nothing
but the cycle counter where no thread of a proctor 1 waits for a message that its mailbox holds and no flit is due at its link. A module that is powered off stops; with power every step, and in every state every instruction and event, ends in a next state. -/
def Obligations.EveryStepDoesOneThing : Prop :=
  ∀ s : State,
    (∀ i : Instr, ∃ t, exec i s = .next t) ∧
    (s.powered = true → ∃ t, step s = .next t) ∧
    (s.powered = true → ∀ c e r, s.events = (c, e) :: r → c ≤ s.cyc → step s = exec e { s with events := r }) ∧
    (NoEvent s → ∀ key w i, s.dueProg = some key → s.command key = some w → decodeCommand w = .ok i → step s = exec i { s with curProg := key }) ∧
    (NoEvent s → s.dueProg = none → ∀ k t, s.nextAct = some (k, .tick t) →
      let x := s.thread k t
      let s0 : State := { s with cursor := k + 1, curTile := k, curThread := t }
      (x.n0 = true → ∀ u, exec (.tickTaken k t) s0 = .next u → ∃ v, step s = .next v ∧ LinesAsked u v k t) ∧
      ∀ i n u, x.n0 = false → decode (codeOf (s.textWord k t x.q0)) = .ok (i, n) → exec i s0 = .next u →
        ((u.thread k t).lastIssue ≠ x.lastIssue → ∀ w, exec (.tickTaken k t) s0 = .next w → ∃ v, step s = .next v ∧ LinesAsked w v k t) ∧
        ((u.thread k t).lastIssue = x.lastIssue → (u.thread k t).nested = x.nested → ∃ v, step s = .next v ∧ LinesAsked u v k t)) ∧
    (NoEvent s → s.dueProg = none → s.nextAct = none → ∃ u, step s = .next { u with cyc := s.cyc + 1, cursor := 0 } ∧ u = s.endCycle ∧
      ((∀ d, (s.die d).mailbox = [] ∨ ∀ i b e, i < 8 → (s.thread (262145 + 2 * d) i).wait ≠ .mailbox b e) → (∀ e ∈ s.outbox, s.cyc < e.due) → u = s)) ∧
    (s.powered = false → step s = .fault .poweredOff)

/-- R116: an instruction at Q0 with n0 = 1 issues in the first own slot in which its text is present, whatever its stall count; it reads and writes nothing
and takes no trap, moves the queue by the last row of Table 7.2, and counts as the thread's previous issue. -/
def Obligations.AnnulledInstruction : Prop :=
  ∀ (s : State) (k t : Nat),
    let x := s.thread k t
    (x.n0 = true → x.live = true → x.halted = false → x.stopped = false → x.wait = .none → x.notBefore ≤ s.cyc → x.ticks = 0 →
      (if t = 8 then (s.tile k).fillParked = false else (s.tile k).parked = false) →
      (s.textPresent k t = true → s.ready k t = some (.annul t)) ∧ (s.textPresent k t = false → s.ready k t = none)) ∧
    (NoEvent s → s.dueProg = none → s.nextAct = some (k, .annul t) → ∃ u v, step s = .next v ∧ LinesAsked u v k t ∧
      let s0 : State := { s with cursor := k + 1, curTile := k, curThread := t }
      OnlyThread s0 u ∧ SameButRegsAndQueue s0.thr u.thr ∧ RegsKept s0 u [] ∧ MemoryKept s0 u ∧ QueueMoved s0 u)

/-- R336, R313 and log entries 1 and 17: after cold reset the cycle counter and rin are 0, no launch, transfer, bell, program, cohort or key stands, every
byte reads 0, which is the model's choice, the registers of Table 18.4 hold their reset values, and memory is in its canonical form. -/
def Obligations.ResetState : Prop :=
  let s := State.reset
  s.cyc = 0 ∧ s.rin = 0#32 ∧ s.powered = true ∧ Memory.wf s.mem = true ∧ (∀ sp a, s.byte sp a = 0#8) ∧
  (∀ l, (s.launch l).state = .none) ∧ (∀ x, s.xfers.get x = none) ∧ s.bells = [] ∧ (∀ k, (s.prog k).st = 0) ∧ (∀ c, (s.cohorts.get c).live = false) ∧
  (∀ p n, ((s.pkg p).regions.get n).v = false) ∧ (∀ k t, (s.thread k t).live = false) ∧ s.undo = [] ∧
  (∀ p, p < 8 → ∀ o, s.mg p o = if o = 0x20 then 4#64 else if o = 0x28 then 3600000#64 else 0#64) ∧
  ∀ o, s.mgMod.get o = if o = 0x100 then 0xA0003#64 else 0#64

/-- Memory keeps its canonical form, addresses strictly rising and no entry equal to what an unlisted address reads as, over every step from every state
that has it. -/
def Obligations.StepKeepsMemoryCanonical : Prop :=
  ∀ s t : State, Memory.wf s.mem = true → step s = .next t → Memory.wf t.mem = true

/-- R3: the bytes of a write read back at their addresses and every byte of every memory outside them reads as before; a number is read little-endian. -/
def Obligations.MemoryReadsBack : Prop :=
  (∀ (s : State) (sp : Space) (a : Nat) (bs : List Byte), a + bs.length ≤ sp.size →
    (∀ i, i < bs.length → (s.poke sp a bs).byte sp (a + i) = bs.getD i 0#8) ∧
    ∀ sq x, x < sq.size → (sq = sp → x < a ∨ a + bs.length ≤ x) → (s.poke sp a bs).byte sq x = s.byte sq x) ∧
  ∀ (s : State) (sp : Space) (a n : Nat), s.num sp a 0 = 0 ∧ s.num sp a (n + 1) = (s.byte sp a).toNat + 256 * s.num sp (a + 1) n

/-! ## Transfers (R192 to R218) -/

namespace Sys2Proof.Claims

/-- The operands of a transfer instruction that reads ad, loc and len from wa, wt and wl. -/
def operands (s : State) (space : Nat) (get depa : Bool) (limit : Nat) (inv : Bool) (t a l : BitVec 5) : XReq :=
  ⟨space, get, depa, limit, inv, s.readW a, s.readW t, s.readW l⟩

/-- R216: the deposits and level atomics of the tile, and the gets of the thread, that have no final state. -/
def writesOut (s : State) : Nat :=
  (s.xfers.filter (fun e => match e.2 with | some x => x.tile == s.curTile && !x.final && x.kind.isDep | none => false)).length
def getsOut (s : State) : Nat :=
  (s.xfers.filter (fun e => match e.2 with | some x => x.tile == s.curTile && !x.final && (x.kind == .get && x.thread == s.curThread) | none => false)).length

/-- R195, R206: the operands pass every check of theirs at issue. -/
def Admitted (s : State) (r : XReq) : Prop :=
  let a := r.ad.toNat
  let l := r.loc.toNat
  let bl := s.xlevel r
  let bt := s.xtile r
  let w := s.xbank r
  let ta := (r.ad.extractLsb' 0 19).toNat
  -- Table 11.3 and the byte limit
  r.n ≠ 0 ∧ r.len.extractLsb' 27 5 = 0#5 ∧ (r.space = 1 → r.tag < 65536) ∧ (r.space ≠ 1 → r.space ≠ 4 → r.tag = 0) ∧
  (r.space = 1 ∨ r.cv = false → r.len.extractLsb' 20 4 = 0#4) ∧ (r.space = 5 → r.inv = false) ∧ bt ≤ r.limit ∧
  (r.depa = true → r.cv = false ∧ r.n % 8 = 0 ∧ ta % 8 = 0) ∧
  -- alignment of converted elements
  (r.cv = true → (elemNibbles (bfFmt w) / 2 ≠ 0 → l % (elemNibbles (bfFmt w) / 2) = 0) ∧
    (r.space ≠ 1 → r.space ≠ 5 → a % s.xelem r = 0) ∧ l / 1024 = (l + bt - 1) / 1024) ∧
  -- ranges (Table 11.1)
  l + bt ≤ 393216 ∧
  (if r.space = 0 then a + bl ≤ 2097152 ∧ isProctor s.curTile = false
   else if r.space = 1 then True
   else if r.space = 3 then a + bl ≤ 18446744073709551616
   else if r.space = 2 ∨ r.space = 4 then a + bl ≤ 281474976710656
   else (r.ad.extractLsb' 32 32).toNat < s.thr.ident.ntile.toNat ∧
     if r.depa then r.ad.extractLsb' 22 10 = 0#10 ∧ r.ad.getLsbD 19 = false
     else r.ad.extractLsb' 19 13 = 0#13 ∧ ta + bl ≤ 393216 ∧ (r.get = false → (s.xtarget r).map groupOf = some (groupOf s.curTile))) ∧
  -- reserved banks and ranges
  s.firstReserved s.curTile l bt = none ∧ (r.space = 5 → r.depa = false → s.firstReserved s.curTile ta bl = none) ∧
  (r.space = 0 → a + bl ≤ if s.recovering s.curTile then 0x140000 else 0x1C0000) ∧
  -- formats of a conversion
  (r.cv = true → s.xfmt r ≠ 5 ∧ s.xfmt r < 10 ∧ bfRaw w = false ∧ bfE8 w = false ∧ (bfD8b w = true → bfE8 (s.bfmt s.curTile (bfBank w)) = true))

/-- R195, R206, R216: the operands pass every check at issue, and the exchange queue has room. -/
def Passes (s : State) (r : XReq) : Prop := Admitted s r ∧ if r.get then getsOut s < 32 else writesOut s < 64

/-- Readable operands of a thread that does not wait, which every thread that issues is. -/
def XferReads (s : State) (t a l : BitVec 5) : Prop := s.thr.wait = .none ∧ ReadableW s t ∧ ReadableW s a ∧ ReadableW s l

/-- What every transfer leaves at its issue: it is the next transfer, in the thread's open batch, and no register, no byte and no other transfer
changes; the queue moves. -/
def Issues (s t : State) : Prop :=
  t.nextXfer = s.nextXfer + 1 ∧ (∀ j, j ≠ s.nextXfer → t.xfers.get j = s.xfers.get j) ∧ RegsKept s t [] ∧ MemoryKept s t ∧ QueueMoved s t ∧
  t.cyc = s.cyc ∧ ∀ k i, k ≠ s.curTile ∨ i ≠ s.curThread → t.thread k i = s.thread k i

/-- The transfer as it stands after its issue. -/
def Standing (s t : State) (x : Xfer) : Prop :=
  t.xfers.get s.nextXfer = some x ∧ x.final = false ∧ x.tile = s.curTile ∧ x.thread = s.curThread ∧ x.batch = s.thr.nextBatch ∧ x.issued = s.cyc ∧
  x.lid = (s.lidOf s.curTile s.curThread).getD 0

/-- The fields that a transfer takes from its operands. -/
def TakesOperands (s : State) (r : XReq) (x : Xfer) : Prop :=
  x.space = r.space ∧ x.addr = r.ad.toNat ∧ x.local_ = r.loc.toNat ∧ x.n = r.n ∧ x.cv = r.cv ∧ x.mode = r.mode ∧ x.tag = r.tag ∧ x.bfmt = s.xbank r

/-- The transfer fails at its issue with a status: it is gone, and the first failure since the last BWAIT is kept. -/
def FailsAtIssue (s t : State) (st : Nat) : Prop :=
  t.xfers.get s.nextXfer = none ∧ t.thr.badStatus = if s.thr.badStatus = 0 then st else s.thr.badStatus

/-- A key that the launch has no peer for (R282). -/
def NoPeer (s : State) (r : XReq) : Prop := r.space = 4 ∧ s.peerOf ((s.lidOf s.curTile s.curThread).getD 0) r.tag = none

/-- A transfer held for the proctor, with its translation message due 20 cycles later (R200, Table 16.4). -/
def HeldFor (s t : State) (x : Xfer) (detail : Nat) : Prop :=
  x.ticket ≠ 0 ∧ ∃ m, Due t (s.cyc + 20) (.mailboxArrival (dieOf s.curTile) m) ∧ m.kind = 2 ∧ m.detail = detail ∧ m.ticket = x.ticket

/-- The gets, with their spaces. -/
noncomputable def gets : List ((BitVec 5 → BitVec 5 → BitVec 5 → BitVec 1 → Instr) × Nat) :=
  [(.getg, 0), (.gets, 1), (.getm, 2), (.geth, 3), (.getr, 4), (fun t a l _ => .gett t a l, 5)]

/-- The deposits that capture at issue, and those that do not (DEPB), with their spaces; DEPA writes through DEPT's. -/
noncomputable def deposits : List ((BitVec 5 → BitVec 5 → BitVec 5 → Instr) × Nat × Bool) :=
  [(.depg, 0, false), (.deps, 1, false), (.depm, 2, false), (.deph, 3, false), (.depr, 4, false), (.dept, 5, false), (.depa, 5, true)]
noncomputable def bulkDeposits : List ((BitVec 5 → BitVec 5 → BitVec 5 → Instr) × Nat) :=
  [(.depbG, 0), (.depbS, 1), (.depbM, 2), (.depbH, 3), (.depbR, 4), (.depbT, 5)]

/-- R210: bytes of escrow that a deposit of a launch with recovery reserves at issue, if it is irrevocable. -/
def escrowBytes (s : State) (r : XReq) : Option Nat :=
  let lid := (s.lidOf s.curTile s.curThread).getD 0
  if (s.launch lid).recover = false ∨ s.curThread = 8 then none
  else if r.space = 3 then some (s.xlevel r)
  else if r.space = 4 then
    match s.peerOf lid r.tag with
    | some m => if s.inDomain lid m then none else some (s.xlevel r)
    | none => none
  else none

/-- The deposit needs no escrow, or its package has the room. -/
def EscrowRoom (s : State) (r : XReq) : Prop := ∀ n, escrowBytes s r = some n → (s.pkg (pkgOf s.curTile)).escrowUsed + n ≤ 67108864

/-- R12, R163: the cycle from which the executing thread's S gets have the tile's column: a .BS latch of the primary holds it for every thread, one of the
filler for the filler alone. -/
def columnFrom (s : State) : Nat :=
  let t := s.tile s.curTile
  if s.curThread = 8 then max t.colEnd t.fillColEnd else t.colEnd

/-- R264, R271, R275, R278: the request of a GETR: to a key of this module its check and the limit of 360,000 cycles are due; to another module it is one
frame on its way to its link, 40 cycles later or 88 from another package's switch. -/
def Requested (s u : State) (m key off n : Nat) : Prop :=
  let b := bytesOfNat 4 n
  if m = s.podModule then
    Due u (s.cyc + 40 + if key / 33554432 % 8 = pkgOf s.curTile then 0 else 48) (.keyCheck m 2 (BitVec.ofNat 32 key) off n s.nextXfer b) ∧
    Due u (s.cyc + 40 + 360000) (.e2eTimeout s.nextXfer)
  else ∃ f ∈ u.outbox, f.owner = some s.nextXfer ∧ (f.due = s.cyc + 40 ∨ f.due = s.cyc + 88) ∧ f.frame.last = true ∧ f.frame.op = 2 ∧
    f.frame.src = s.podModule ∧ f.frame.dst = m ∧ f.frame.key = key ∧ f.frame.offset = off ∧ f.frame.tag = s.nextXfer % 65536 ∧ f.frame.bytes = b

/-- R203: the get lands in this cycle, or later where an earlier one of its thread and space lands later. -/
def LandsAt (s u : State) (space c : Nat) : Prop :=
  ∃ n, c ≤ n ∧ Due u n (.getLand s.nextXfer) ∧
    ((∀ e ∈ s.xfers, ∀ y, e.2 = some y → y.tile = s.curTile → y.thread = s.curThread → y.kind = .get → y.space = space → y.land ≤ c) → n = c)

/-- The reservation, and nothing else of any package but its translation cache, its counters of frames and its links, changes. -/
def Reserved (s t : State) (r : XReq) : Prop :=
  ∀ p, (t.pkg p).escrowUsed = (s.pkg p).escrowUsed + if p = pkgOf s.curTile then (escrowBytes s r).getD 0 else 0

/-- The level atomics: space, operation code of R212, instruction. -/
noncomputable def levelAtomics : List ((BitVec 5 → BitVec 5 → BitVec 5 → Instr) × Nat × Nat) :=
  [(.amogAdd, 0, 0), (.amogMin, 0, 1), (.amogMax, 0, 2), (.amogSwap, 0, 3), (.amogCas, 0, 4),
   (.amomAdd, 2, 0), (.amomMin, 2, 1), (.amomMax, 2, 2), (.amomSwap, 2, 3), (.amomCas, 2, 4),
   (.amorAdd, 4, 0), (.amorMin, 4, 1), (.amorMax, 4, 2), (.amorSwap, 4, 3), (.amorCas, 4, 4)]

/-- R212: the operands of a level atomic pass its checks. -/
def AtomicAdmitted (s : State) (space op : Nat) (t a v : BitVec 5) : Prop :=
  XferReads s t a v ∧ v.toNat ≤ (if space = 4 then 29 else if op = 4 then 30 else 31) ∧ (op = 4 → ReadableW s (v + 1#5)) ∧
  (space = 4 → ReadableW s (v + 2#5)) ∧ (s.readW t).toNat % 8 = 0 ∧ (s.readW a).toNat % 8 = 0 ∧ (s.readW t).toNat + 8 ≤ 393216 ∧
  s.firstReserved s.curTile (s.readW t).toNat 8 = none ∧
  (if space = 0 then (s.readW a).toNat + 8 ≤ (if s.recovering s.curTile then 0x140000 else 0x1C0000) ∧ isProctor s.curTile = false
   else (s.readW a).toNat + 8 ≤ 281474976710656)

/-- R212, R216: the operands of a level atomic pass its checks, and the exchange queue has room. -/
def AtomicPasses (s : State) (space op : Nat) (t a v : BitVec 5) : Prop := AtomicAdmitted s space op t a v ∧ writesOut s < 64

/-- R215: the sealed batches of the executing thread that are unfinished, and the word BWAIT returns. -/
def openBatches (s : State) : Nat := s.unfinished s.curTile s.curThread
def batchResult (s : State) : Word := BitVec.ofNat 64 (s.thr.badStatus % 16) ||| (BitVec.ofNat 64 (s.thr.nextBatch - openBatches s) <<< 32)

end Sys2Proof.Claims

/-- R194 to R205, Tables 11.2 and 11.6: a get that passes its checks becomes a transfer of the open batch. Its data land after its zero-load count in G, in S
where the directory accepts it, and, unless an earlier get of its thread and space lands later, in M where its pages are cached and in H inside the window; where a page is not cached its walk ends after its count; a failed
translation holds it with a message; R waits for its peer's status, or fails with INVALID_KEY without one; T waits for the read half. R206, R208, R210, R214: a
deposit that passes its checks becomes a transfer of the open batch. DEP and DEPA capture the local region at issue, and the next instruction issues after the
capture; DEPB captures nothing and has not completed locally (R208). Without conversion the captured bytes are the bytes to apply, and a deposit whose space
takes it is complete locally at once; nothing is written. An irrevocable write reserves its bytes of the escrow, and stalls while there is no room.
R195, R216: a GETT with .INV traps ILLEGAL with the length word; a get beyond 32 of its thread, and a deposit beyond 64 of its tile, trap BATCHOV. -/
def Obligations.GetsAndDepositsIssue : Prop :=
  (∀ (w : BitVec 32) (s : State), w.extractLsb' 25 7 = 0x0D#7 → w.extractLsb' 4 6 = 0x27#6 →
    exec (.unassignedWord w) s = .next (s.takeTrap ⟨0x01, s.readW (w.extractLsb' 20 5)⟩)) ∧
  (∀ e ∈ gets, ∀ (t a l : BitVec 5) (v : BitVec 1) (s : State), XferReads s t a l →
    Admitted s (operands s e.2 true false 393216 (v == 1#1) t a l) → 32 ≤ getsOut s →
    exec (e.1 t a l v) s = .next (s.takeTrap ⟨0x11, 3#64⟩)) ∧
  (∀ (t a l : BitVec 5) (s : State), XferReads s t a l → 64 ≤ writesOut s →
    (∀ e ∈ deposits, Admitted s (operands s e.2.1 false e.2.2 256 false t a l) → (e.2.2 = true → isProctor s.curTile = false) →
      exec (e.1 t a l) s = .next (s.takeTrap ⟨0x11, 2#64⟩)) ∧
    ∀ e ∈ bulkDeposits, Admitted s (operands s e.2 false false 393216 false t a l) → exec (e.1 t a l) s = .next (s.takeTrap ⟨0x11, 2#64⟩)) ∧
  (∀ e ∈ gets, ∀ (t a l : BitVec 5) (v : BitVec 1) (s : State), XferReads s t a l →
    let r := operands s e.2 true false 393216 (v == 1#1) t a l
    let k := s.curTile
    let b := max (s.xlevel r) (s.xtile r)
    let extra := if r.cv then 4 else 0
    Passes s r → ∃ u, exec (e.1 t a l v) s = .next u ∧ Issues s u ∧ (NoPeer s r → FailsAtIssue s u 3) ∧
      (¬ NoPeer s r → ∃ x, Standing s u x ∧ TakesOperands s r x ∧ x.kind = .get ∧
        (r.space = 0 → Due u (max s.cyc s.thr.gEnd + extra + 14 + (b * s.thr.rot + 63) / 64) (.getLand s.nextXfer)) ∧
        (r.space = 1 →
          let d := s.tensorDir (dieOf k) r.tag
          let co := coordsOf r.ad.toNat
          (d.accepts r.tag false co r.n 1 = true → (s.tensorRun (dieOf k) d co r.n).isSome = true →
            Due u (max (max s.cyc (columnFrom s)) s.thr.sEnd + extra + 40 + (b * s.thr.rot + 7) / 8) (.getLand s.nextXfer)) ∧
          (d.accepts r.tag false co r.n 1 = false → HeldFor s u x 7)) ∧
        (r.space = 2 → ∀ s1 cost res, s.mapRun (cacheOf k) (s.launch x.lid).ctx refuseRead (s.xlevel r / 4096 + 2) r.ad.toNat (s.xlevel r) = (s1, cost, res) →
          (0 < cost → Due u (s.cyc + cost) (.translationWalkDone (dieOf k) 0 s.nextXfer)) ∧
          (cost = 0 → ∀ g, res = .error g → HeldFor s u x g.1) ∧
          (cost = 0 → ∀ g, res = .ok g →
            LandsAt s u 2 (s.cyc + extra + 200 + (b + 31) / 32 + if g.any (fun y => keyUnit y.key != pkgOf k) then 96 else 0))) ∧
        (r.space = 3 →
          (s.inWindow (pkgOf k) r.ad.toNat (s.xlevel r) = true → LandsAt s u 3 (s.cyc + extra + 1600 + (b + 15) / 16)) ∧
          (s.inWindow (pkgOf k) r.ad.toNat (s.xlevel r) = false → HeldFor s u x 8)) ∧
        (r.space = 4 → x.sent = true ∧ ∀ m, s.peerOf x.lid r.tag = some m → Requested s u m r.tag r.ad.toNat (s.xlevel r)) ∧
        (r.space = 5 → x.ready = true))) ∧
  (∀ (t a l : BitVec 5) (s : State), XferReads s t a l →
    (∀ e ∈ deposits,
      let r := operands s e.2.1 false e.2.2 256 false t a l
      Passes s r → (e.2.2 = true → isProctor s.curTile = false) →
      (EscrowRoom s r → ∃ u, exec (e.1 t a l) s = .next u ∧ Issues s u ∧ s.cyc + (s.xtile r + 63) / 64 ≤ u.thr.notBefore ∧ Reserved s u r ∧
        (¬ NoPeer s r → ∃ x, Standing s u x ∧ TakesOperands s r x ∧ x.kind = (if e.2.2 then .depa else .dep) ∧
          (∀ i, i < s.xtile r → (r.loc.toNat + i, s.byte (.tile s.curTile) (r.loc.toNat + i)) ∈ x.cap) ∧
          (r.cv = false → x.data = s.bytes (.tile s.curTile) r.loc.toNat (s.xtile r)) ∧
          (r.cv = false → r.space = 0 ∨ r.space = 4 ∨ r.space = 5 → x.local_done = true)) ∧
        (NoPeer s r → r.cv = false → FailsAtIssue s u 3)) ∧
      (∀ n, escrowBytes s r = some n → 67108864 < (s.pkg (pkgOf s.curTile)).escrowUsed + n →
        ∃ u, exec (e.1 t a l) s = .next u ∧ RegsKept s u [] ∧ MemoryKept s u ∧ u.thr.q0 = s.thr.q0 ∧ u.xfers = s.xfers ∧
          u.thr.wt.get 4 = s.thr.wt.get 4 + BitVec.ofNat 64 s.thr.rot)) ∧
    ∀ e ∈ bulkDeposits,
      let r := operands s e.2 false false 393216 false t a l
      Passes s r → EscrowRoom s r → ∃ u, exec (e.1 t a l) s = .next u ∧ Issues s u ∧ Reserved s u r ∧ (NoPeer s r → FailsAtIssue s u 3) ∧
        (¬ NoPeer s r → ∃ x, Standing s u x ∧ TakesOperands s r x ∧ x.kind = .depb ∧ x.cap = [] ∧ x.data = [] ∧
          x.local_done = false ∧ (r.space = 0 ∨ r.space = 4 ∨ r.space = 5 → x.ready = true)))

/-- R212, R214 to R217: a level atomic that passes its checks becomes a transfer with its operands captured. BSEAL closes the open batch while fewer than
16 sealed ones are unfinished, and a level atomic beyond 64 transfers of its tile traps BATCHOV (R216); BWAIT ends at once, and clears the kept status, where at most n are, and waits otherwise; XFENCE holds the thread for 4 cycles. -/
def Obligations.LevelAtomicsAndBatches : Prop :=
  (∀ e ∈ levelAtomics, ∀ (t a v : BitVec 5) (s : State), AtomicAdmitted s e.2.1 e.2.2 t a v → 64 ≤ writesOut s →
    exec (e.1 t a v) s = .next (s.takeTrap ⟨0x11, 2#64⟩)) ∧
  (∀ e ∈ levelAtomics, ∀ (t a v : BitVec 5) (s : State), AtomicPasses s e.2.1 e.2.2 t a v →
    let key := if e.2.1 = 4 then (s.readW (v + 2#5)).toNat % 4294967296 else 0
    let peer := s.peerOf ((s.lidOf s.curTile s.curThread).getD 0) key
    ∃ u, exec (e.1 t a v) s = .next u ∧ Issues s u ∧ (e.2.1 = 4 → peer = none → FailsAtIssue s u 3) ∧
      (¬ (e.2.1 = 4 ∧ peer = none) → ∃ x, Standing s u x ∧
        x.kind = .amo e.2.2 (s.readW v) (if e.2.2 = 4 then s.readW (v + 1#5) else 0#64) ∧ x.space = e.2.1 ∧ x.addr = (s.readW a).toNat ∧
        x.local_ = (s.readW t).toNat ∧ x.tag = key ∧ (e.2.1 = 0 → x.local_done = true) ∧
        (e.2.1 = 4 → ∀ m, peer = some m → (s.launch x.lid).recover = true → s.inDomain x.lid m = false → HeldFor s u x 11))) ∧
  ∀ (d a : BitVec 5) (ca cb : BitVec 5) (s : State),
    (openBatches s < 16 → ∃ u, exec .bseal s = .next u ∧ OnlyThread s u ∧ SameButRegsAndQueue { s.thr with nextBatch := s.thr.nextBatch + 1 } u.thr ∧
      RegsKept s u [] ∧ MemoryKept s u ∧ QueueMoved s u) ∧
    (16 ≤ openBatches s → exec .bseal s = .next (s.takeTrap ⟨0x11, 1#64⟩)) ∧
    (ReadableW s a →
      (openBatches s ≤ (s.readW a).toNat → ∃ u, exec (.bwait d a) s = .next u ∧ OnlyThread s u ∧ MemoryKept s u ∧ QueueMoved s u ∧
        SameButRegsAndQueue { s.thr with badStatus := 0 } u.thr ∧ RegsKept s u (placeW s d) ∧
        (d ≠ 0#5 → Reads s u 0 (s.thr.phys d.toNat) 1 ((batchResult s).setWidth 512))) ∧
      ((s.readW a).toNat < openBatches s → ∃ u, exec (.bwait d a) s = .next u ∧ OnlyThreadAndEvents s u ∧ RegsKept s u [] ∧ QueueMoved s u ∧
        MemoryKept s u ∧ u.thr.wait = .batch (s.readW a).toNat d.toNat ∧ u.thr.waitFrom = s.cyc)) ∧
    (ca.toNat ≤ 4 → cb.toNat ≤ 4 → ∃ u, exec (.xfence ca cb) s = .next u ∧ OnlyThread s u ∧ RegsKept s u [] ∧ MemoryKept s u ∧ QueueMoved s u ∧
      SameButRegsAndQueue { s.thr with notBefore := max s.thr.notBefore (s.cyc + 4) } u.thr) ∧
    (¬ (ca.toNat ≤ 4 ∧ cb.toNat ≤ 4) →
      exec (.xfence ca cb) s = .next (s.takeTrap ⟨0x01, (s.textWord s.curTile s.curThread s.thr.q0).setWidth 64⟩))

/-- R199 to R211, R214, R264, R275, R323: what moves transfers on. A get without conversion, whose source is sound and whose exchange share has room, lands its
bytes, but those that a later-issued get of its thread and space has written (R203), and nothing else; a walk that ends lets its get go on, or holds it; a peer's status ends a transfer, with an atomic's old value; 360,000 cycles without
one are a FABRIC fault; a released write frees its escrow; an invalidated translation leaves its cache.
Each event ends in a next state, in every state. -/
def Obligations.TransferEvents : Prop :=
  (∀ (d kind id : Nat) (s : State), ∃ u, exec (.translationWalkDone d kind id) s = .next u) ∧
  (∀ (x : Nat) (s : State), (∃ u, exec (.getLand x) s = .next u) ∧
    ∃ u, exec (.e2eTimeout x) s = .next u) ∧
  (∀ (x st : Nat) (bytes : List (BitVec 8)) (s : State), ∃ u, exec (.e2eStatus x st bytes) s = .next u) ∧
  (∀ (p x : Nat) (s : State), ∃ u, exec (.escrowAck p x) s = .next u) ∧
  (∀ (kind index ctx page : Nat) (s : State), ∃ u, exec (.translationInvalidation kind index ctx page) s = .next u) ∧
  (∀ (id : Nat) (x : Xfer) (s : State), s.xfers.get id = some x → x.final = false →
    let k := x.tile
    let b := x.data
    let ws := (spread x.local_ b).filter (fun w => !x.skip.contains w.1)
    let sound : Prop := (∀ g ∈ x.segs, ∀ i, i < g.len → s.poison.get ((g.key + i) / 64) = false) ∧
      (x.space = 1 → columnOf k ∉ (s.die (dieOf k)).lost)
    let room (n : Nat) : Prop := x.thread = 8 ∨ s.recovering k = false ∨ ((s.tile k).undoExch + n ≤ 64 ∧ s.fullSince = none)
    let others (t : State) : Prop := ∀ j i, j ≠ k ∨ i ≠ x.thread → t.thread j i = s.thread j i
    (x.ticket = 0 → x.land ≤ s.cyc → x.local_done = false → x.cv = false → sound → room (s.freshOf k ws) → x.local_ + b.length ≤ 393216 →
      ∃ t, exec (.getLand id) s = .next t ∧ t.xfers.get id = none ∧
        (∀ i, i < b.length → x.local_ + i ∉ x.skip → t.byte (.tile k) (x.local_ + i) = b.getD i 0#8) ∧
        (∀ sp y, y < sp.size → (sp = .tile k → y < x.local_ ∨ x.local_ + b.length ≤ y ∨ y ∈ x.skip) →
          (x.thread = 8 ∨ s.recovering k = false ∨ OffLog s k 1 (s.freshOf k ws) sp y) → t.byte sp y = s.byte sp y) ∧ others t) ∧
    (x.ticket ≠ 0 ∨ s.cyc < x.land → exec (.getLand id) s = .next s) ∧
    (∀ d s1 n res, s.mapRun (cacheOf k) (s.launch x.lid).ctx x.refuse (s.xferBytes x / 4096 + 2) x.addr (s.xferBytes x) = (s1, n, res) →
      (∀ e, res = .error e → ∃ t m, exec (.translationWalkDone d 0 id) s = .next t ∧ MemoryKept s t ∧ others t ∧
        Due t (s.cyc + 20) (.mailboxArrival (dieOf k) m) ∧ m.kind = 2 ∧ m.detail = e.1 ∧ ∃ y, t.xfers.get id = some y ∧ y.ticket = m.ticket) ∧
      (∀ l s2 l2, res = .ok l → x.space = 2 → x.kind = .get →
        s1.mapRun (cacheOf k) (s.launch x.lid).ctx x.refuse (s.xferBytes x / 4096 + 2) x.addr (s.xferBytes x) = (s2, 0, .ok l2) →
        ∃ t c, exec (.translationWalkDone d 0 id) s = .next t ∧ MemoryKept s t ∧ others t ∧ s.cyc + 200 ≤ c ∧ Due t c (.getLand id) ∧
          ∃ y, t.xfers.get id = some y ∧ y.segs = l2)) ∧
    (x.sent = true → ∀ (st : Nat) (bytes : List Byte),
      (0 < st → st < 16 → x.kind ≠ .mcast → (s.thread k x.thread).wait = .none → ∃ t, exec (.e2eStatus id st bytes) s = .next t ∧ t.xfers.get id = none ∧ MemoryKept s t ∧
        others t ∧ (t.thread k x.thread).badStatus = if (s.thread k x.thread).badStatus = 0 then st else (s.thread k x.thread).badStatus) ∧
      (x.kind = .dep ∨ x.kind = .depb ∨ x.kind = .depa → ∃ t, exec (.e2eStatus id 0 bytes) s = .next t ∧ t.xfers.get id = none ∧ MemoryKept s t) ∧
      (∀ op v c, x.kind = .amo op v c → bytes.length = 8 → x.local_ + 8 ≤ 393216 → room 2 → ∃ t, exec (.e2eStatus id 0 bytes) s = .next t ∧ t.xfers.get id = none ∧
        (∀ i, i < 8 → t.byte (.tile k) (x.local_ + i) = bytes.getD i 0#8) ∧ BytesKeptButLog s t k x.local_ 8 1 2)) ∧
    ((s.launch x.lid).recover = false ∨ x.thread = 8 → ∃ t m, exec (.e2eTimeout id) s = .next t ∧ t.xfers.get id = none ∧ MemoryKept s t ∧
      Due t (s.cyc + 20) (.mailboxArrival (dieOf k) m) ∧ m.kind = 6 ∧ m.unit = 7) ∧
    ((s.launch x.lid).recover = true → x.thread ≠ 8 → s.membersIn (s.launch x.lid).podSeal ≠ [] →
      ∃ t, exec (.e2eTimeout id) s = .next t ∧
        Due t (s.cyc + 180) (.rollbackDone (if (s.launch x.lid).podSeal then 0x30000#32 else 0x20000#32) 0#32))) ∧
  (∀ (p n : Nat) (w : EscrowWrite) (s : State), (s.pkg p).escrow.find? (fun v => v.id == n) = some w →
    ∃ t, exec (.escrowAck p n) s = .next t ∧ (∀ v ∈ (t.pkg p).escrow, v.id ≠ n) ∧
      (t.pkg p).escrowUsed = (s.pkg p).escrowUsed - (if w.kind = 2 then 8 else w.data.length) ∧
      ((∀ v ∈ (s.pkg p).escrow, v.id ≠ n → v.released = false) → MemoryKept s t)) ∧
  (∀ (ctx page d : Nat) (s : State), page < 68719476736 →
    let c := Cache.pkg (d / 8)
    ∃ t, exec (.translationWalkDone d 1 (68719476736 * ctx + page)) s = .next t ∧ t = { s with pkgs := t.pkgs } ∧ (∀ p, p ≠ d / 8 → t.pkg p = s.pkg p) ∧
      ((s.cache c).find? (fun e => e.hits ctx (4096 * page)) = none → ∀ w, (s.walkCtx c.home ctx (4096 * page)).1 = some w →
        ∃ e ∈ t.cache c, e.hits ctx (4096 * page) = true ∧ e.entry = w)) ∧
  ∀ (g p c va : Nat) (s : State),
    (∃ t, exec (.translationInvalidation 0 g c va) s = .next t ∧ t = { s with groups := t.groups } ∧ (∀ j, j ≠ g → t.group j = s.group j) ∧
      ∀ e, e ∈ (t.group g).tlb ↔ e ∈ (s.group g).tlb ∧ ¬ (e.ctx = c ∧ e.page = va / 2 ^ e.size)) ∧
    ∃ t, exec (.translationInvalidation 1 p c va) s = .next t ∧ t = { s with pkgs := t.pkgs } ∧ (∀ j, j ≠ p → t.pkg j = s.pkg j) ∧
      ∀ e, e ∈ (t.pkg p).tlb ↔ e ∈ (s.pkg p).tlb ∧ ¬ (e.ctx = c ∧ e.page = va / 2 ^ e.size)

/-! ## Stream engines and arrival windows (R219 to R237, R367) -/

namespace Sys2Proof.Claims

/-- The latency between a tile and an engine: 24 cycles to a die's, 96 to a package's (R230, R233). -/
def engineTime (key : Nat) : Nat := if pslotPkg key then 96 else 24

/-- R225: number of window w of the executing thread among its tile's: a filler's own stand after the sixteen. -/
def windowNumber (s : State) (w : Nat) : Nat := if s.curThread = 8 then 16 + w else w

/-- R225: a thread may name the window. -/
def MayName (s : State) (w : Nat) : Prop := s.curThread = 8 → w ≤ 3

/-- R226: a permit stands. -/
def Permits (x : Window) : Prop := (x.c - x.rel).toNat < x.count

/-- R235: the counter covers n, or the window has failed. -/
def Covers (x : Window) (n : BitVec 32) : Prop := (x.c - n).toNat < 2147483648 ∨ x.status ≠ 0

/-- R235: what WAITA returns. -/
def arrivalWord (x : Window) : Word := (x.c.setWidth 64 <<< 32) ||| BitVec.ofNat 64 (x.status % 16)

/-- No window but window w of tile k differs. -/
def OtherWindows (s t : State) (k w : Nat) : Prop := ∀ j v, j ≠ k ∨ v ≠ w → v < 20 → t.window j v = s.window j v

/-- R233: the state word of a pslot for a launch. -/
def stateWord (s : State) (lid key : Nat) : Word :=
  let p := s.prog key
  if p.st = 0 ∨ p.lid ≠ lid then 0#64 else BitVec.ofNat 64 (p.st + 16 * (p.status % 16) + 256 * (p.pc % 65536))

/-- The program being executed. -/
def program (s : State) : Prog := s.prog s.curProg

/-- R223: the program has become p, one command on, its next command due in the next cycle; no other program and no byte changes. -/
def CommandDone (s t : State) (p : Prog) : Prop :=
  t = { s with progs := t.progs, events := t.events } ∧ (∀ k, k ≠ s.curProg → t.prog k = s.prog k) ∧
  t.prog s.curProg = { p with pc := (program s).pc + 1, due := s.cyc + 1, subst := [] }

/-- The program waits at its command. -/
def CommandWaits (s t : State) : Prop :=
  t = { s with progs := t.progs, events := t.events } ∧ (∀ k, k ≠ s.curProg → t.prog k = s.prog k) ∧
  ∃ d, t.prog s.curProg = { program s with st := 2, due := d }

/-- R224: the program is held at its command, and its message is due. -/
def CommandHeld (s t : State) (kind detail : Nat) : Prop :=
  MemoryKept s t ∧ (∀ k, k ≠ s.curProg → t.prog k = s.prog k) ∧ t.prog s.curProg = { program s with st := 3 } ∧
  ∃ m, Due t (s.cyc + if pslotPkg s.curProg then 64 else 20) (.mailboxArrival (pslotDie s.curProg) m) ∧ m.kind = kind ∧ m.detail = detail ∧
    m.item = pslotHandle s.curProg

/-- Table 12.1: the value formed by z, gk and the immediate. -/
def commandValue (s : State) (imm : BitVec 32) (z : BitVec 1) (g : BitVec 2) : Word :=
  (if z = 1#1 then 0#64 else (program s).g.get g.toNat) + imm.signExtend 64

end Sys2Proof.Claims

/-- R230 to R236: the tile's stream instructions. SESTART takes an empty pslot and counts the wait for one in wt.win; SESTOP stops a program of its own launch
and has no other effect; SEPOLL's sample gives the state word; WDEF defines a window; WAITA ends at once on a window that covers n and waits otherwise; RELA
adds to rel. No register but those named changes, and no byte of memory.
The sample of SEPOLL ends in a next state, in every state. -/
def Obligations.StreamInstructions : Prop :=
  (∀ (k t h rd : Nat) (s : State), ∃ u, exec (.sepollSample k t h rd) s = .next u) ∧
  ∀ (d a b : BitVec 5) (w : BitVec 4) (s : State),
    let k := s.curTile
    let lid := (s.lidOf k s.curThread).getD 0
    let x := s.readW a
    let key := handleKey k x.toNat
    (b.toNat ≤ 28 → x.extractLsb' 16 48 = 0#48 → x.extractLsb' 6 2 = 0#2 → (x.extractLsb' 0 6).toNat < (s.launchOf k s.curThread).progs.length →
      ReadableW s a → (∀ i, i < 4 → ReadableW s (b + BitVec.ofNat 5 i)) →
      ((s.prog key).busy = false → ∃ t, exec (.sestart a b) s = .next t ∧ RegsKept s t [] ∧ MemoryKept s t ∧
        QueueMoved s t ∧ (∀ j, j ≠ key → t.prog j = s.prog j) ∧ Due t (s.cyc + engineTime key) (.streamProgramStart key) ∧
        t.prog key = { (default : Prog) with
          run := s.nextXfer, lid := lid, tile := k, thread := s.curThread, number := (x.extractLsb' 0 6).toNat, g := (t.prog key).g
          epoch := (s.thr.ss.get (if pslotPkg key then 2 else 1)).setWidth 32, st := 2, due := s.cyc + engineTime key } ∧
        ∀ i, i < 4 → (t.prog key).g.get i = s.readW (b + BitVec.ofNat 5 i)) ∧
      ((s.prog key).busy = true → ∃ t, exec (.sestart a b) s = .next t ∧ RegsKept s t [] ∧ MemoryKept s t ∧ t.progs = s.progs ∧ t.thr.q0 = s.thr.q0 ∧
        t.thr.wt.get 1 = s.thr.wt.get 1 + BitVec.ofNat 64 s.thr.rot)) ∧
    (ReadableW s a →
      ((s.prog key).busy = true → (s.prog key).lid = lid → ∃ t, exec (.sestop a) s = .next t ∧ RegsKept s t [] ∧ MemoryKept s t ∧ QueueMoved s t ∧
        (∀ j, j ≠ key → t.prog j = s.prog j) ∧ t.prog key = { s.prog key with st := 5, verdict := 0 }) ∧
      ((s.prog key).busy = false ∨ (s.prog key).lid ≠ lid → ∃ t, exec (.sestop a) s = .next t ∧ QueueOnly s t ∧ QueueMoved s t) ∧
      (∃ t, exec (.sepoll d a) s = .next t ∧ OnlyThreadAndEvents s t ∧ WaitsAs s t .poll ∧
        Due t (s.cyc + engineTime key) (.sepollSample k s.curThread key d.toNat)) ∧
      (MayName s w.toNat → ∃ t, exec (.rela a w) s = .next t ∧ RegsKept s t [] ∧ MemoryKept s t ∧ QueueMoved s t ∧
        OtherWindows s t k (windowNumber s w.toNat) ∧
        t.window k (windowNumber s w.toNat) = { s.window k (windowNumber s w.toNat) with
          rel := (s.window k (windowNumber s w.toNat)).rel + x.setWidth 32 }) ∧
      (MayName s w.toNat → ∀ v, v = s.window k (windowNumber s w.toNat) →
        (Covers v (x.setWidth 32) → ∃ t, exec (.waita d a w) s = .next t ∧ WritesW s t d 1 (arrivalWord v)) ∧
        (¬ Covers v (x.setWidth 32) → ∃ t, exec (.waita d a w) s = .next t ∧ OnlyThreadAndEvents s t ∧
          WaitsAs s t (.window w.toNat (x.extractLsb' 0 32).toNat d.toNat)))) ∧
    (ReadableW s a → ReadableW s b →
      let y := s.readW b
      let bank := (x.extractLsb' 16 9).toNat
      let size := (y.extractLsb' 0 32).toNat
      let count := (y.extractLsb' 32 32).toNat
      let n := (x.extractLsb' 0 4).toNat
      s.thr.wait = .none → x.extractLsb' 4 12 = 0#12 → x.extractLsb' 25 39 = 0#39 → size ≠ 0 → size % 64 = 0 → 1 ≤ count → count ≤ 256 → MayName s n →
      1024 * bank + size * count ≤ 393216 → s.firstReserved k (1024 * bank) (size * count) = none →
      ∃ t, exec (.wdef a b) s = .next t ∧ RegsKept s t [] ∧ MemoryKept s t ∧ QueueMoved s t ∧ OtherWindows s t k (windowNumber s n) ∧
        t.window k (windowNumber s n) = { bank := bank, size := size, count := count, c := 0#32, rel := 0#32, status := 0, landed := [] } ∧
        ∀ i m rd, s.curThread < 8 → i < 8 → i ≠ s.curThread → (s.thread k i).wait = .window n m rd → (0#32 - BitVec.ofNat 32 m).toNat < 2147483648 →
          (t.thread k i).wait = .none) ∧
    (∀ (j i key rd : Nat), (s.thread j i).wait = .poll → ∃ t, exec (.sepollSample j i key rd) s = .next t ∧ OnlyThreadAt s t j i ∧ MemoryKept s t ∧
      (t.thread j i).wait = .none ∧
      (rd ≠ 0 → ∀ c, s.cyc ≤ c → (t.thread j i).readAt c 0 ((s.thread j i).phys rd) = (stateWord s ((s.lidOf j i).getD 0) key).setWidth 512))

/-- R221 to R224, R231, R237: the commands that set cursors, loops and the counter, with the value z·gk + imm; a field out of range is a program fault, which
holds the program with a message. A program started by SESTART or by its launch's list runs from its due cycle. R223, R226 to R229, R367: SC.WAITP, SC.ARRIVE,
SC.BARR and SC.END go on, or wait, by the window's permit, the landing of the program's moves and the level's counter; a move whose source translates captures
its bytes at once, for its window after its zero-load count and its walks or for level memory in its epoch's write half; without a permit it waits; a
landing writes exactly its bytes. A window command with B in level memory, and a count or a tag out of range, is a program fault.
Each command and event ends in a next state, in every state. -/
def Obligations.StreamCommands : Prop :=
  (∀ (key : Nat) (s : State), ∃ u, exec (.streamProgramStart key) s = .next u) ∧
  (∀ (key k w : Nat) (bytes : List (Nat × BitVec 8)) (s : State), ∃ u, exec (.streamMoveLand key k w bytes) s = .next u) ∧
  (∀ (k w key : Nat) (s : State), ∃ u, exec (.windowCounterIncrement k w key) s = .next u) ∧
  (∀ (lid : Nat) (s : State), ∃ u, exec (.streamListStart lid) s = .next u) ∧
  (∀ (imm : BitVec 32) (h : BitVec 16) (z : BitVec 1) (g : BitVec 2) (f : BitVec 4) (s : State), ∃ u, exec (.scSeta imm h z g f) s = .next u) ∧
  (∀ (imm : BitVec 32) (h : BitVec 16) (kind : BitVec 3) (z : BitVec 1) (g : BitVec 2) (f : BitVec 4) (s : State), ∃ u, exec (.scSetb imm h kind z g f) s = .next u) ∧
  (∀ (n : BitVec 20) (s : State), ∃ u, exec (.scMove n) s = .next u) ∧
  (∀ (n : BitVec 20) (mode : BitVec 2) (f : BitVec 4) (s : State), ∃ u, exec (.scMoveq n mode f) s = .next u) ∧
  (∀ (imm : BitVec 32) (z : BitVec 1) (g : BitVec 2) (f : BitVec 4) (s : State), (∃ u, exec (.scLoop imm z g f) s = .next u) ∧
    ∃ u, exec (.scBarr imm z g f) s = .next u) ∧
  (∀ (t : BitVec 16) (f : BitVec 4) (s : State), ∃ u, exec (.scNext t f) s = .next u) ∧
  (∀ (s : State), (∃ u, exec .scWaitp s = .next u) ∧
    (∃ u, exec .scArrive s = .next u) ∧
    ∃ u, exec .scEnd s = .next u) ∧
  (∀ (t : BitVec 16) (s : State), ∃ u, exec (.scJump t) s = .next u) ∧
  ((∀ (imm : BitVec 32) (h : BitVec 16) (kind : BitVec 3) (z : BitVec 1) (g : BitVec 2) (f : BitVec 4) (t : BitVec 16) (s : State),
    let p := program s
    let v := commandValue s imm z g
    let held (i : Instr) : Prop := ∃ u, exec i s = .next u ∧ CommandHeld s u 2 9
    (f = 0#4 → ∃ u, exec (.scSeta imm h z g f) s = .next u ∧ CommandDone s u { p with aBase := v, aTag := h }) ∧
    (1 ≤ f.toNat → f.toNat ≤ 4 → h = 0#16 → ∃ u, exec (.scSeta imm h z g f) s = .next u ∧ CommandDone s u { p with aS := p.aS.set (f.toNat - 1) v }) ∧
    (4 < f.toNat ∨ (f ≠ 0#4 ∧ h ≠ 0#16) → held (.scSeta imm h z g f)) ∧
    (f = 0#4 → kind.toNat ≤ 1 → (kind = 1#3 → h.toNat < 16) → ∃ u, exec (.scSetb imm h kind z g f) s = .next u ∧
      CommandDone s u { p with bBase := v, bKind := kind.toNat, bTag := h }) ∧
    (1 ≤ f.toNat → f.toNat ≤ 4 → h = 0#16 → kind = 0#3 → ∃ u, exec (.scSetb imm h kind z g f) s = .next u ∧
      CommandDone s u { p with bS := p.bS.set (f.toNat - 1) v }) ∧
    (4 < f.toNat ∨ 1 < kind.toNat ∨ (f ≠ 0#4 ∧ (h ≠ 0#16 ∨ kind ≠ 0#3)) → held (.scSetb imm h kind z g f)) ∧
    (f.toNat ≤ 3 → ∃ u, exec (.scLoop imm z g f) s = .next u ∧
      CommandDone s u { p with cnt := p.cnt.set f.toNat (v.setWidth 32), idx := p.idx.set f.toNat 0#32 }) ∧
    (3 < f.toNat → held (.scLoop imm z g f) ∧ held (.scNext t f)) ∧
    (∀ i, i = p.idx.get f.toNat + 1#32 →
      (f.toNat ≤ 3 → i.toNat < (p.cnt.get f.toNat).toNat → ∃ u, exec (.scNext t f) s = .next u ∧ u = { s with progs := u.progs } ∧
        (∀ k, k ≠ s.curProg → u.prog k = s.prog k) ∧
        u.prog s.curProg = { p with idx := p.idx.set f.toNat i, pc := t.toNat, due := s.cyc + 1, subst := [] }) ∧
      (f.toNat ≤ 3 → (p.cnt.get f.toNat).toNat ≤ i.toNat → ∃ u, exec (.scNext t f) s = .next u ∧
        CommandDone s u { p with idx := p.idx.set f.toNat 0#32 })) ∧
    ∃ u, exec (.scJump t) s = .next u ∧ u = { s with progs := u.progs } ∧ (∀ k, k ≠ s.curProg → u.prog k = s.prog k) ∧
      u.prog s.curProg = { p with pc := t.toNat, due := s.cyc + 1, subst := [] }) ∧
  (∀ (key : Nat) (s : State), (s.prog key).st = 2 → (s.prog key).pc = 0 → (s.prog key).due = s.cyc →
    ∃ u, exec (.streamProgramStart key) s = .next u ∧ u = { s with progs := u.progs } ∧ (∀ k, k ≠ key → u.prog k = s.prog k) ∧
      u.prog key = { s.prog key with st := 1 }) ∧
  ∀ (lid : Nat) (s : State), (s.launch lid).state = .starting →
    ((∀ e ∈ (s.launch lid).streams, (s.prog e.1).busy = false) → ((s.launch lid).streams.map Prod.fst).Nodup →
      ∃ u, exec (.streamListStart lid) s = .next u ∧ MemoryKept s u ∧ Due u (s.cyc + 22) (.firstFetch lid) ∧
        (∀ e ∈ (s.launch lid).streams, (u.prog e.1).lid = lid ∧ (u.prog e.1).number = e.2.1 ∧ (u.prog e.1).st = 1 ∧ (u.prog e.1).due = s.cyc ∧
          (u.prog e.1).pc = 0 ∧ ∀ i, i < 4 → (u.prog e.1).g.get i = e.2.2.getD i 0#64) ∧
        ∀ k, k ∉ (s.launch lid).streams.map Prod.fst → u.prog k = s.prog k) ∧
    ((∃ e ∈ (s.launch lid).streams, (s.prog e.1).busy = true) → ∃ u, exec (.streamListStart lid) s = .next u ∧
      u = { s with events := u.events } ∧ Due u (s.cyc + 1) (.streamListStart lid))) ∧
  ((∀ (imm : BitVec 32) (z : BitVec 1) (g : BitVec 2) (f : BitVec 4) (n : BitVec 20) (mode : BitVec 2) (s : State),
    let p := program s
    let key := s.curProg
    let v : BitVec 32 := (commandValue s imm z g).setWidth 32
    let own := if pslotPkg key then 2 else 1
    let held (i : Instr) : Prop := ∃ u, exec i s = .next u ∧ CommandHeld s u 2 9
    (p.bKind = 0 ∨ (p.bKind = 1 ∧ s.bWindow key = none) → held .scWaitp ∧ held .scArrive ∧ held (.scMoveq n mode f)) ∧
    (n.toNat = 0 ∨ 65536 < n.toNat ∨ (pslotPkg key = true ∧ p.aTag ≠ 0#16) → held (.scMove n) ∧ held (.scMoveq n mode f)) ∧
    (∀ k w, p.bKind = 1 → s.bWindow key = some (k, w) → ¬ Permits (s.window k w) → 1 ≤ n.toNat → n.toNat ≤ 65536 → (pslotPkg key = true → p.aTag = 0#16) →
      (∃ u, exec (.scMove n) s = .next u ∧ CommandWaits s u) ∧
      ((if pslotPkg key then f.toNat ≠ 5 ∧ f.toNat < 10 else f = 0#4) → ∃ u, exec (.scMoveq n mode f) s = .next u ∧ CommandWaits s u)) ∧
    (∀ k w x, p.bKind = 1 → s.bWindow key = some (k, w) → x = s.window k w →
      (Permits x → ∃ u, exec .scWaitp s = .next u ∧ CommandDone s u p) ∧ (¬ Permits x → ∃ u, exec .scWaitp s = .next u ∧ CommandWaits s u) ∧
      (32 * k + w ∈ p.moves → ∃ u, exec .scArrive s = .next u ∧ CommandWaits s u) ∧
      (32 * k + w ∉ p.moves → ∃ u, exec .scArrive s = .next u ∧ CommandWaits s u ∧
        Due u (max s.cyc (p.lastLand + 2)) (.windowCounterIncrement k w p.run)) ∧
      (1 ≤ n.toNat → n.toNat ≤ 65536 → (pslotPkg key = true → p.aTag = 0#16) → Permits x →
        let src := p.levelAddr key p.aBase p.aS
        let off := (cursorSum p.bBase p.bS p.idx).toNat % 4294967296
        let dst := 1024 * x.bank + x.c.toNat % max 1 x.count * x.size + off
        ∀ s1 c1 l e fd, s.moveSide key false src p.aTag.toNat n.toNat = (s1, c1, .ok (l, e, fd)) → s.badRead (some k) l = false →
          off + n.toNat * e ≤ x.size → ∃ u t, exec (.scMove n) s = .next u ∧ MemoryKept s u ∧
            (u.prog key).pc = p.pc + 1 ∧ (u.prog key).moves = (32 * k + w) :: p.moves ∧ (∀ j, j ≠ key → u.prog j = s.prog j) ∧
            t = (if pslotPkg key then 200 + (n.toNat * e + 31) / 32 + (n.toNat * e + 7) / 8 + (if l.any (fun y => keyUnit y.key != engineInst key) then 96 else 0)
              else 40 + (n.toNat * e + 7) / 8) ∧
            Due u (s.cyc + t + c1) (.streamMoveLand p.run k w (spread dst (s.segBytes l)))) ∧
      (1 ≤ n.toNat → n.toNat ≤ 65536 → pslotPkg key = false → f = 0#4 → Permits x →
        let src := p.levelAddr key p.aBase p.aS
        let dst := 1024 * x.bank + x.c.toNat % max 1 x.count * x.size + (cursorSum p.bBase p.bS p.idx).toNat % 4294967296
        let bf := s.bfmt k (dst / 1024)
        let bt := (n.toNat * elemNibbles (bfFmt bf) + 1) / 2
        ∀ s1 c1 l e fd bs, s.moveSide key false src p.aTag.toNat n.toNat = (s1, c1, .ok (l, e, fd)) → s.badRead (some k) l = false →
          (cursorSum p.bBase p.bS p.idx).toNat % 4294967296 + bt ≤ x.size → bfRaw bf = false → bfFmt bf ≤ 9 → dst / 1024 = (dst + bt - 1) / 1024 →
          (2 ≤ elemNibbles (bfFmt bf) → dst % (elemNibbles (bfFmt bf) / 2) = 0) →
          s.moveBytes k dst (some (RMode.ofCode mode.toNat)) fd n.toNat src 1 (s.segBytes l) = .ok bs →
          ∃ u, exec (.scMoveq n mode f) s = .next u ∧ MemoryKept s u ∧ (u.prog key).pc = p.pc + 1 ∧ (u.prog key).moves = (32 * k + w) :: p.moves ∧
            Due u (s.cyc + 44 + (max (n.toNat * e) bt + 7) / 8 + c1) (.streamMoveLand p.run k w bs))) ∧
    (p.bKind = 0 → 1 ≤ n.toNat → n.toNat ≤ 65536 → (pslotPkg key = true → p.aTag = 0#16) →
      ∀ s1 s2 c1 c2 l m e fd fm, s.moveSide key false (p.levelAddr key p.aBase p.aS) p.aTag.toNat n.toNat = (s1, c1, .ok (l, e, fd)) →
        s1.moveSide key true (p.levelAddr key p.bBase p.bS) p.bTag.toNat n.toNat = (s2, c2, .ok (m, e, fm)) → s.badRead none l = false →
        ∃ u w, exec (.scMove n) s = .next u ∧ MemoryKept s u ∧ (u.prog key).pc = p.pc + 1 ∧ u.streamWrites = s.streamWrites ++ [w] ∧
          w.key = key ∧ w.lid = p.lid ∧ w.epoch = p.epoch ∧ w.bytes.map Prod.snd = (s.segBytes l).take w.bytes.length ∧
          w.bytes.map Prod.fst = (m.flatMap (fun y => (List.range y.len).map (fun i => y.key + i))).take w.bytes.length) ∧
    (1 ≤ f.toNat → f.toNat ≤ 4 → own ≤ f.toNat →
      (v.toNat ≤ s.levelCounter p.lid key f.toNat → ∃ u, exec (.scBarr imm z g f) s = .next u ∧
        CommandDone s u (if f.toNat = own then { p with epoch := v } else p)) ∧
      (s.levelCounter p.lid key f.toNat < v.toNat → ∃ u d, exec (.scBarr imm z g f) s = .next u ∧ MemoryKept s u ∧
        (∀ j, j ≠ key → u.prog j = s.prog j) ∧
        u.prog key = { p with epoch := if f.toNat = own then v else p.epoch, st := 2, due := d })) ∧
    (f.toNat = 0 ∨ 4 < f.toNat ∨ f.toNat < own → ∃ u, exec (.scBarr imm z g f) s = .next u ∧ CommandHeld s u 2 9) ∧
    (p.moves = [] → ∃ u, exec .scEnd s = .next u ∧ u = { s with progs := u.progs, events := u.events } ∧ (∀ j, j ≠ key → u.prog j = s.prog j) ∧
      u.prog key = { p with st := 4 }) ∧
    (p.moves ≠ [] → ∃ u, exec .scEnd s = .next u ∧ CommandWaits s u)) ∧
  (∀ (run k w : Nat) (bs : List (Nat × Byte)) (s : State), Tab.canon default s.progs = true →
    w ≥ 16 ∨ s.recovering k = false ∨ ((s.tile k).undoExch + s.freshOf k bs ≤ 64 ∧ s.fullSince = none) → (bs.map Prod.fst).Nodup →
    (∀ e ∈ bs, e.1 < 393216) →
    ∃ u, exec (.streamMoveLand run k w bs) s = .next u ∧ (∀ e ∈ bs, u.byte (.tile k) e.1 = e.2) ∧
      (∀ sp x, x < sp.size → (sp = .tile k → x ∉ bs.map Prod.fst) → (16 ≤ w ∨ s.recovering k = false ∨ OffLog s k 1 (s.freshOf k bs) sp x) →
        u.byte sp x = s.byte sp x) ∧
      ∀ key, s.pslotOf run = some key →
        (u.prog key).moves = (s.prog key).moves.erase (32 * k + w) ∧ s.cyc ≤ (u.prog key).lastLand ∧ (s.prog key).lastLand ≤ (u.prog key).lastLand) ∧
  ∀ (k w run key : Nat) (s : State), w < 20 → s.pslotOf run = some key → (s.prog key).st = 2 →
    ∃ u, exec (.windowCounterIncrement k w run) s = .next u ∧ MemoryKept s u ∧
    OtherWindows s u k w ∧ u.window k w = { s.window k w with c := (s.window k w).c + 1#32 } ∧
    u.prog key = { s.prog key with st := 1, pc := (s.prog key).pc + 1, due := s.cyc + 1, subst := [] } ∧ ∀ j, j ≠ key → u.prog j = s.prog j)

/-! ## Supersteps: bells, exchanges, aborts, SEAL and barriers (R206 to R212, R240 to R257, R320, R321) -/

namespace Sys2Proof.Claims

/-- R218, R244 steps 1 and 2: the matrix engine has settled for the thread, and its deposits are captured and translated. -/
def MayArrive (s : State) : Prop := s.matrixSettled s.curTile s.curThread = true ∧ s.depsReady s.curTile s.curThread = true

/-- The executing thread's launch. -/
def launchOf (s : State) : Nat := (s.lidOf s.curTile s.curThread).getD 0

/-- R241, R244: the thread has arrived; no register and no byte changes, and it waits for the bell. Where it was the last, the arrival bell rings. -/
def Arrives (s t : State) (lvl op : Nat) (v : Word) (rd : Nat) (isSeal : Bool) : Prop :=
  let k := s.curTile
  RegsKept s t [] ∧ MemoryKept s t ∧ QueueMoved s t ∧ t.thr.wait = .bell ∧ t.thr.waitFrom = s.cyc ∧
  t.thr.arr = some { lvl := lvl, op := op, val := v, at_ := s.cyc, rd := rd, isSeal := isSeal, held := s.thr.abort } ∧
  (∀ j i, j ≠ k ∨ i ≠ s.curThread → t.thread j i = s.thread j i) ∧
  (t.gathered (launchOf s) lvl (instOf lvl k) isSeal = true → s.bellAt (launchOf s) lvl (instOf lvl k) = none → s.sealAsked = false →
    Due t (s.cyc + (s.launch (launchOf s)).bellTime lvl) (.arrivalBellDone (launchOf s) lvl (instOf lvl k)))

/-- R9, R313: a launch has pod scope where it lies in several modules. -/
def topLevel (l : Launch) : Nat := if l.place.kind = 3 ∧ 1 < l.place.modules then 4 else 3

/-- The level that a SYNC names, as the launch uses it (R241): pod without pod scope is module. -/
def syncLevel (s : State) (l : BitVec 3) : Nat := min l.toNat (topLevel (s.launch (launchOf s)))

/-- Table 13.2: the integer reductions, with their unit. -/
def integerReductions : List (Nat × (Word → Word → Word) × Word) :=
  [ (1, fun a b => a + b, 0#64), (2, fun a b => if b.toInt < a.toInt then b else a, 0x7FFFFFFFFFFFFFFF#64)
  , (3, fun a b => if a.toInt < b.toInt then b else a, 0x8000000000000000#64), (4, fun a b => if b.toNat < a.toNat then b else a, 0xFFFFFFFFFFFFFFFF#64)
  , (5, fun a b => if a.toNat < b.toNat then b else a, 0#64), (6, fun a b => a &&& b, 0xFFFFFFFFFFFFFFFF#64), (7, fun a b => a ||| b, 0#64)
  , (8, fun a b => a ^^^ b, 0#64) ]

/-- What the awake members of a bell have contributed. -/
def contributions (s : State) (b : Bell) : List Word :=
  (s.awake b.lid b.lvl b.inst).filterMap (fun m => ((s.thread m.1 m.2).arr).map Arrival.val)

/-- Every awake member has arrived with one operator. -/
def OneOperator (s : State) (b : Bell) (op : Nat) : Prop := ∀ m ∈ s.awake b.lid b.lvl b.inst, ∀ a, (s.thread m.1 m.2).arr = some a → a.op = op

/-- The bell of an instance stands so. -/
def BellStands (t : State) (lid lvl inst : Nat) (p : Bell → Prop) : Prop := ∃ b, t.bellAt lid lvl inst = some b ∧ p b

end Sys2Proof.Claims

/-- R241 to R244, R251, R320: SYNC and SEAL arrive once the thread's matrix work and deposits have settled and wait before, their waits counted; a SEAL that
R320 does not allow is ILLEGAL, and one with five octets or more resident first spills the two oldest and stays at the queue's head. ABORT sets the pending abort with the thread's tile as its origin, and ACLR clears it and abt. -/
def Obligations.SyncSealAbort : Prop :=
  ∀ (d a : BitVec 5) (p : BitVec 4) (l : BitVec 3) (s : State),
    let word : Word := (s.textWord s.curTile s.curThread s.thr.q0).setWidth 64
    let sealLevel := if (s.launch (launchOf s)).podSeal then topLevel (s.launch (launchOf s)) else 3
    (isProctor s.curTile = false → ReadableW s a → MayArrive s → ∃ t, exec (.sync d a p l) s = .next t ∧
      Arrives s t (syncLevel s l) p.toNat (s.readW a) d.toNat false) ∧
    (isProctor s.curTile = true → exec (.sync d a p l) s = .next (s.takeTrap ⟨0x01, word⟩)) ∧
    (isProctor s.curTile = false → s.matrixSettled s.curTile s.curThread = false → ∃ t, exec (.sync d a p l) s = .next t ∧ Stalled s t) ∧
    (isProctor s.curTile = false → s.matrixSettled s.curTile s.curThread = true → s.depsReady s.curTile s.curThread = false →
      ∃ t, exec (.sync d a p l) s = .next t ∧ RegsKept s t [] ∧ MemoryKept s t ∧ t.thr.q0 = s.thr.q0 ∧
        t.thr.wt.get 2 = s.thr.wt.get 2 + BitVec.ofNat 64 s.thr.rot) ∧
    (s.curThread ≠ 8 → isProctor s.curTile = false → s.thr.recov = false → MayArrive s → ∃ t, exec (.seal d) s = .next t ∧
      Arrives s t sealLevel 0 0#64 d.toNat false) ∧
    (s.curThread ≠ 8 → isProctor s.curTile = false → s.thr.recov = true → (∀ j, j < 4 → s.thr.nest.act.get j = false) →
      s.thr.depth + (s.thr.resident - 3) / 2 ≤ 16 → s.thr.resident < 5 → MayArrive s → (s.tile s.curTile).mq = [] →
      (∀ e ∈ s.xfersOf s.curTile s.curThread, e.2.kind = .get → e.2.final = true) → ∃ t, exec (.seal d) s = .next t ∧
      Arrives s t sealLevel 0 0#64 d.toNat true) ∧
    (s.curThread < 8 → isProctor s.curTile = false → s.thr.recov = true → (∀ j, j < 4 → s.thr.nest.act.get j = false) →
      s.thr.depth + (s.thr.resident - 3) / 2 ≤ 16 → 5 ≤ s.thr.resident → s.thr.chk = false →
      s.recovering s.curTile = false ∨ ((s.tile s.curTile).undoPrim + 2 ≤ 448 ∧ s.fullSince = none) →
      ∃ t, exec (.seal d) s = .next t ∧ OctetsSpilled s t ∧ t.thr.q0 = s.thr.q0 ∧ t.thr.arr = s.thr.arr ∧ t.thr.wait = s.thr.wait) ∧
    (s.curThread = 8 ∨ isProctor s.curTile = true ∨
        (s.thr.recov = true ∧ ((∃ j, j < 4 ∧ s.thr.nest.act.get j = true) ∨ 16 < s.thr.depth + (s.thr.resident - 3) / 2)) →
      exec (.seal d) s = .next (s.takeTrap ⟨0x01, word⟩)) ∧
    (ReadableW s a → ∃ t, exec (.abort a) s = .next t ∧ OnlyThread s t ∧ RegsKept s t [] ∧ MemoryKept s t ∧ QueueMoved s t ∧
      SameButRegsAndQueue { s.thr with abort := ⟨(s.readW a).setWidth 16, s.thr.ident.tile.setWidth 32, 0⟩ } t.thr) ∧
    ∃ t, exec .aclr s = .next t ∧ OnlyThread s t ∧ RegsKept s t [] ∧ MemoryKept s t ∧ QueueMoved s t ∧
      SameButRegsAndQueue { s.thr with abort := { s.thr.abort with code := 0#16 }, abt := 0#64 } t.thr

/-- R256, R257: BARA adds its mask to the generation of the tile's next arrival and waits while two generations stand ahead; BARW ends at once when the generation
of the tile's last arrival is complete and waits for it otherwise; a completed generation lets exactly the threads that wait for it go on. Both are ILLEGAL for a filler
and for a proctor. TSYNC waits until every primary thread of the tile that has not halted waits, and lets them all go on from the next cycle; it is a NOP for
a filler.
The completion ends in a next state, in every state. -/
def Obligations.BarriersAndTsync : Prop :=
  (∀ (g id : Nat) (s : State), ∃ u, exec (.barrierGenerationComplete g id) s = .next u) ∧
  (∀ (a : BitVec 5) (i : BitVec 3) (s : State), s.curThread < 8 → isProctor s.curTile = false →
    let k := s.curTile
    let g := groupOf k
    let n := (s.tile k).barCount.get i.toNat
    let done := ((s.group g).barriers.get i.toNat).done
    (ReadableW s a → n < done + 2 → ∃ t, exec (.bara a i) s = .next t ∧ RegsKept s t [] ∧ MemoryKept s t ∧
      QueueMoved s t ∧ (t.tile k).barCount.get i.toNat = n + 1 ∧ ((t.group g).barriers.get i.toNat).done = done ∧
      ∀ m, ((t.group g).barriers.get i.toNat).masks.get m =
        ((s.group g).barriers.get i.toNat).masks.get m ||| (if m = n then (s.readW a).setWidth 16 else 0#16)) ∧
    (ReadableW s a → done + 2 ≤ n → ∃ t, exec (.bara a i) s = .next t ∧ RegsKept s t [] ∧ MemoryKept s t ∧ t.thr.q0 = s.thr.q0 ∧ t.groups = s.groups ∧
      t.thr.wt.get 0 = s.thr.wt.get 0 + BitVec.ofNat 64 s.thr.rot) ∧
    (n ≤ done → ∃ t, exec (.barw i) s = .next t ∧ QueueOnly s t ∧ QueueMoved s t) ∧
    (done < n → ∃ t, exec (.barw i) s = .next t ∧ OnlyThreadAndEvents s t ∧ WaitsAs s t (.barrier i.toNat (n - 1))) ∧
    ((∃ j, j < 8 ∧ j ≠ s.curThread ∧ (s.thread k j).live = true ∧ (s.thread k j).halted = false ∧ (s.thread k j).wait ≠ .tsync) →
      ∃ t, exec .tsync s = .next t ∧ OnlyThreadAndEvents s t ∧ WaitsAs s t .tsync) ∧
    (s.thr.live = true → s.thr.halted = false →
      (∀ j, j < 8 → j ≠ s.curThread → (s.thread k j).live = true → (s.thread k j).halted = false → (s.thread k j).wait = .tsync) →
      ∃ t, exec .tsync s = .next t ∧ RegsKept s t [] ∧ MemoryKept s t ∧ QueueMoved s t ∧
        ∀ j, j < 8 → (s.thread k j).live = true → (s.thread k j).halted = false →
          (t.thread k j).wait = .none ∧ s.cyc + 1 ≤ (t.thread k j).notBefore)) ∧
  (∀ (a : BitVec 5) (i : BitVec 3) (s : State), s.curThread = 8 ∨ isProctor s.curTile = true →
    let trap := s.takeTrap ⟨0x01, (s.textWord s.curTile s.curThread s.thr.q0).setWidth 64⟩
    exec (.bara a i) s = .next trap ∧ exec (.barw i) s = .next trap) ∧
  (∀ s : State, s.curThread = 8 → ∃ t, exec .tsync s = .next t ∧ QueueOnly s t ∧ QueueMoved s t) ∧
  ∀ (g id : Nat) (s : State),
    let b := (s.group g).barriers.get id
    (b.due = true → ∃ t, exec (.barrierGenerationComplete g id) s = .next t ∧ MemoryKept s t ∧ ((t.group g).barriers.get id).done = b.done + 1 ∧
      (∀ i j n, i < 16 → j < 8 → (s.thread (16 * g + i) j).wait = .barrier id n → n ≤ b.done → (t.thread (16 * g + i) j).wait = .none) ∧
      (∀ k j, (∀ n, (s.thread k j).wait ≠ .barrier id n) → t.thread k j = s.thread k j)) ∧
    (b.due = false → exec (.barrierGenerationComplete g id) s = .next s)

namespace Sys2Proof.Claims

/-- The memories that a transfer's pieces lie in: group SRAM, tensor store, HBM. -/
def levelSpace (sp : Space) : Prop := match sp with
  | .group _ => True
  | .tensor _ => True
  | .hbm _ => True
  | _ => False

/-- The transfer is final, its bytes stand from a up in one memory, and no other byte differs but those that a condition on space and address lets differ. -/
def Landed (s t : State) (id : Nat) (sp : Space) (a : Nat) (b : List Byte) (off : Space → Nat → Prop) : Prop :=
  t.xfers.get id = none ∧ (∀ i, i < b.length → t.byte sp (a + i) = b.getD i 0#8) ∧
  ∀ q y, y < q.size → (q = sp → y < a ∨ a + b.length ≤ y) → off q y → t.byte q y = s.byte q y

/-- R314: every line without a flag that the write touched has one, and its old 64 bytes stand in an undo entry of the launch. -/
def LinesLogged (s t : State) (lid key n : Nat) : Prop :=
  ∀ line ∈ linesOf key n, t.logged.get line = true ∧ (s.logged.get line = false → ∃ e ∈ t.undo, e.place = 64 * line ∧ e.lid = lid ∧
    e.old = (List.range 64).map (fun i => Memory.get s.mem (64 * line + i)))

/-- R212: what a level atomic writes, and whether it writes. -/
def atomicNew (op : Nat) (old v c : Word) : Word := match op with
  | 0 => old + v
  | 1 => if v.toInt < old.toInt then v else old
  | 2 => if old.toInt < v.toInt then v else old
  | 3 => v
  | _ => if old = c then v else old

end Sys2Proof.Claims

/-- R209, R210, R212, R314: the application of one deposit or level atomic, without recovery and with it. Its bytes stand where its space says, group, tensor,
HBM, host or another tile, an atomic's old value stands in the tile, no other byte of any memory changes, and the transfer is final. Under recovery each line
that has no flag yet is logged first, into the tile's exchange share or the log of its level; a deposit to the host or to a peer outside the domain
enters the escrow and changes no byte; a transfer to a peer leaves and waits for its status, or fails where the launch has no such peer. -/
def Obligations.DepositsApply : Prop :=
  (∀ (id wait : Nat) (x : Xfer) (s : State), s.xfers.get id = some x → x.final = false →
    let l := s.launch x.lid
    let plain : Prop := ∀ op v c, x.kind ≠ .amo op v c
    let t := (s.applyXfer wait id).1
    let anywhere (_ : Space) (_ : Nat) : Prop := True
    (l.recover = false →
      (∀ sp a, levelSpace sp → x.space ≤ 2 → plain → x.segs = [⟨sp.key a, x.data.length, 0#64⟩] → a + x.data.length ≤ sp.size →
        (∀ d, sp = .tensor d → ∀ v ∈ s.saves, v.marks = []) → Landed s t id sp a x.data anywhere) ∧
      (x.space = 3 → plain → x.addr + x.data.length ≤ 18446744073709551616 → Landed s t id .host x.addr x.data anywhere) ∧
      (∀ j, x.space = 5 → plain → s.tileOfId x.lid (x.addr / 4294967296) = some j → s.recovering j = false →
        x.addr % 524288 + x.data.length ≤ 393216 → Landed s t id (.tile j) (x.addr % 524288) x.data anywhere) ∧
      ∀ sp a op v c, levelSpace sp → x.space ≤ 2 → x.kind = .amo op v c → x.segs = [⟨sp.key a, 8, 0#64⟩] → a + 8 ≤ sp.size →
        (∀ d, sp = .tensor d → ∀ w ∈ s.saves, w.marks = []) → x.local_ + 8 ≤ 393216 → s.recovering x.tile = false →
        let old := BitVec.ofNat 64 (s.num sp a 8)
        t.xfers.get id = none ∧ t.num sp a 8 = (atomicNew op old v c).toNat ∧ t.num (.tile x.tile) x.local_ 8 = old.toNat ∧
        ∀ q y, y < q.size → (q = sp → y < a ∨ a + 8 ≤ y) → (q = .tile x.tile → y < x.local_ ∨ x.local_ + 8 ≤ y) → t.byte q y = s.byte q y) ∧
    (l.recover = true → x.thread ≠ 8 →
      (∀ sp a, levelSpace sp → x.space ≤ 2 → plain → x.segs = [⟨sp.key a, x.data.length, 0#64⟩] → a + x.data.length ≤ sp.size →
        (∀ g, sp = .group g → a + x.data.length ≤ 0x140000) → (∀ d, sp = .tensor d → ∀ v ∈ s.saves, v.marks = []) →
        Landed s t id sp a x.data (fun q y => ∀ g, q = .group g → q = sp → y < 0x140000) ∧ LinesLogged s t x.lid (sp.key a) x.data.length) ∧
      (x.space = 3 → plain → t.xfers.get id = none ∧ MemoryKept s t ∧
        ∃ w ∈ (t.pkg (pkgOf x.tile)).escrow, w.kind = 0 ∧ w.addr = x.addr ∧ w.data = x.data ∧ w.released = false) ∧
      (∀ m, x.space = 4 → plain → x.kind ≠ .get → s.peerOf x.lid x.tag = some m → s.inDomain x.lid m = false → t.xfers.get id = none ∧ MemoryKept s t ∧
        ∃ w ∈ (t.pkg (pkgOf x.tile)).escrow, w.kind = 1 ∧ w.addr = x.addr ∧ w.data = x.data ∧ w.released = false)) ∧
    (∀ j, x.thread ≠ 8 → x.space = 5 → plain → s.tileOfId x.lid (x.addr / 4294967296) = some j → s.recovering j = true →
      let a := x.addr % 524288
      let nl := (s.newTileLines j [(a, x.data.length)]).length
      a + x.data.length ≤ 0x54000 → (s.tile j).undoExch + nl ≤ 64 →
      Landed s t id (.tile j) a x.data (fun q y => OffLog s j 1 nl q y) ∧ (s.applyXfer wait id).2 = nl ∧
      LinesLogged s t ((s.lidOf j 0).getD 0) ((Space.tile j).key a) x.data.length) ∧
    (x.space = 4 → s.peerOf x.lid x.tag = none → t.xfers.get id = none ∧ MemoryKept s t) ∧
    ∀ m, x.space = 4 → s.peerOf x.lid x.tag = some m → s.irrevocable x = none →
      MemoryKept s t ∧ ∃ y, t.xfers.get id = some y ∧ y.sent = true ∧ y.final = false ∧ y.sentAt = s.cyc)

namespace Sys2Proof.Claims

/-- R149, R245: a fixed binary tree of p levels from leaf 2^p i on, whose absent leaves pass their partners through. -/
def treeReduce (f : Lane → Lane → Lane) (leaf : Nat → Option Lane) : Nat → Nat → Option Lane
  | 0, i => leaf i
  | p + 1, i => match treeReduce f leaf p (2 * i), treeReduce f leaf p (2 * i + 1) with
    | some a, some b => some (f a b)
    | some a, none => some a
    | none, r => r

/-- The members that have not halted, by their member index (R242), with the 32 low bits they contribute. -/
def leafOfMember (s : State) (lid lvl inst : Nat) (i : Nat) : Option Lane :=
  ((s.awake lid lvl inst).find? (fun m => s.memberIndex lid lvl m.1 m.2 == i)).bind (fun m => ((s.thread m.1 m.2).arr).map (fun a => a.val.setWidth 32))

/-- Table 13.2: the FP32 reductions, with their unit. -/
def floatReductions : List (Nat × (Lane → Lane → Lane) × Lane) :=
  [ (9, fun a b => f32 ((fval a).add (fval b)), 0#32), (10, minF, 0x7F800000#32), (11, maxF, 0xFF800000#32) ]

/-- R245: levels of a reduction's tree. -/
def leafBits (lvl modules : Nat) : Nat := [7, 15, 18, 21].getD lvl (21 + clog2 modules)

/-- R252: the pending abort that an aborted release leaves, of the one contributed. -/
def pendingAfter (own : AbortCode) (lvl top : Nat) (code : BitVec 16) (origin : BitVec 32) : AbortCode :=
  let new : AbortCode := if own.ps ≤ lvl ∨ own.code.toNat < code.toNat ∨ (code = own.code ∧ origin.toNat < own.origin.toNat) then ⟨code, origin, lvl + 1⟩
    else own
  if top < new.ps then ⟨0#16, new.origin, new.ps⟩ else new

/-- R339: no ramp limit holds the release: it is no module release, the limiter is off, or no power rise is asked for and none waits. -/
def RampFree (s : State) (lid lvl : Nat) : Prop := lvl ≠ 3 ∨ (s.mgMod.get 0x100).getLsbD 0 = false ∨ (s.rampHeld = [] ∧ s.rampNeed lid = 0)

end Sys2Proof.Claims

/-- R246, R249, R252, R254, R322: an arrival bell that has rung selects the highest pending abort and the lowest origin of it and opens the exchange, whose write
half is due when its gets have landed; class 0xF at the seal level of a launch with recovery rolls back. A write half whose gets, programs and logs are ready
moves the exchange to its release, or for a SEAL to its commit; one that meets a full log stands at that application (R318); an aborted one discards the
launch's held deposits and writes no byte. A final exchange waits for deposits of its scope that are not ready, and ends with its release (R331). R16, R244,
R245, R249, R252, R321: a release that no ramp limit holds lets every awake member go on: its superstep counters of the bell's level and below go up by one, wd
reads the reduction of all contributions, integer or on the fixed tree of FP32, and an aborted one leaves abt and the pending abort of R252; a module release
that the limiter holds waits (R339). The commit of a SEAL takes its domain's entries out of the undo log and of the fabric's, clears the logged flags, advances
the domain's rin, writes the thread records into the buffer of the interval that begins (R322) and has the release due one bell later; under a rollback of the
domain it is not made. (That one launch's own bell commits for its whole domain is the model's choice, log entry 63, as are the numbering of the records' interval
and the places of the log, log entry 29, and the tree's handling of a lone value, log entry 82.)
Each event ends in a next state, in every state. -/
def Obligations.ExchangesToRelease : Prop :=
  (∀ (lid lvl inst : Nat) (s : State), (∃ u, exec (.arrivalBellDone lid lvl inst) s = .next u) ∧
    (∃ u, exec (.writeHalf lid lvl inst) s = .next u) ∧
    ∃ u, exec (.bellRelease lid lvl inst) s = .next u) ∧
  (∀ (lid lvl inst : Nat) (b : Bell) (s : State), s.bellAt lid lvl inst = some b → (s.launch lid).state.frozen = false →
    let l := s.launch lid
    let sel := s.selectAbort lid lvl inst
    (b.phase = 0 → ¬ (l.recover = true ∧ l.isFiller = false ∧ lvl = l.sealLevel ∧ ∃ x, sel = some x ∧ x.1.toNat / 4096 = 15) →
      ∃ t, exec (.arrivalBellDone lid lvl inst) s = .next t ∧
        BellStands t lid lvl inst (fun y => y.phase = 1 ∧ y.abort = sel ∧ s.cyc ≤ y.upto ∧ Due t y.upto (.writeHalf lid lvl inst)) ∧
        ((∀ e ∈ s.xfers, ∀ x, e.2 = some x → x.kind ≠ .get) → MemoryKept s t)) ∧
    (∀ x, b.phase = 0 → l.recover = true → l.isFiller = false → lvl = l.sealLevel → sel = some x → x.1.toNat / 4096 = 15 →
      s.membersIn l.podSeal ≠ [] →
      ∃ t, exec (.arrivalBellDone lid lvl inst) s = .next t ∧
        Due t (s.cyc + 180) (.rollbackDone ((if l.podSeal then 0x30000#32 else 0x20000#32) ||| x.1.setWidth 32) x.2)) ∧
    (b.phase = 1 → b.upto ≤ s.cyc → s.inExchange lid lvl inst (fun x => x.readBy lvl) = [] → s.programsBehind lid lvl inst = false →
      s.finalBehind b = false → (b.abort = none → (s.writeHalves b).stuck = none) →
      (b.isFinal = true → (if b.abort = none then (s.writeHalves b).st else s.discardHeld lid lvl inst).finalBehind b = false) →
      ∃ t, exec (.writeHalf lid lvl inst) s = .next t ∧
        BellStands t lid lvl inst (fun y => y.phase = (if b.isSeal ∧ b.isFinal = false then 2 else 3) ∧ s.cyc ≤ y.upto ∧
          Due t y.upto (.bellRelease lid lvl inst)) ∧
        (b.abort ≠ none → MemoryKept s t ∧
          ∀ id x, s.xfers.get id = some x → x.lid = lid → instOf lvl x.tile = inst → x.final = false → x.kind.isDep = true → x.scope ≤ lvl →
            x.sent = false → x.ticket = 0 → t.xfers.get id = none)) ∧
    (b.phase = 1 → b.upto ≤ s.cyc → s.finalBehind b = true → ∃ t, exec (.writeHalf lid lvl inst) s = .next t ∧ MemoryKept s t ∧
      t.xfers = s.xfers ∧ BellStands t lid lvl inst (fun y => y.phase = 1)) ∧
    (∀ v, b.phase = 1 → b.upto ≤ s.cyc → s.inExchange lid lvl inst (fun x => x.readBy lvl) = [] → s.programsBehind lid lvl inst = false →
      s.finalBehind b = false → b.abort = none → (s.writeHalves b).stuck = some v →
      ∃ t, exec (.writeHalf lid lvl inst) s = .next t ∧ BellStands t lid lvl inst (fun y => y.phase = 1 ∧ y.next = v ∧ y.begun = true ∧ s.cyc ≤ y.upto))) ∧
  (∀ (lid lvl inst : Nat) (b : Bell) (s : State), s.bellAt lid lvl inst = some b → (s.launch lid).state.frozen = false → b.upto ≤ s.cyc →
    s.peersDone b = true →
    (b.isFinal = true → b.phase = 3 → ∃ t, exec (.bellRelease lid lvl inst) s = .next t ∧ MemoryKept s t ∧ t.bellAt lid lvl inst = none ∧
      ∀ k i, t.thread k i = s.thread k i) ∧
    (b.isFinal = false → b.phase = 3 → ¬ RampFree s lid lvl → ∃ t, exec (.bellRelease lid lvl inst) s = .next t ∧ MemoryKept s t ∧
      BellStands t lid lvl inst (fun y => y.phase = 5) ∧ t.rampHeld ≠ [] ∧ ∀ k i, t.thread k i = s.thread k i) ∧
    (b.isFinal = false → b.phase = 3 → RampFree s lid lvl → ∃ t, exec (.bellRelease lid lvl inst) s = .next t ∧ MemoryKept s t ∧ t.rin = s.rin ∧
      t.podRin = s.podRin ∧ t.bellAt lid lvl inst = none ∧
      (∀ m ∈ s.awake lid lvl inst, ∀ a, (s.thread m.1 m.2).arr = some a →
        let v := s.thread m.1 m.2
        let u := t.thread m.1 m.2
        let wd (w : Word) : Prop := a.rd ≠ 0 → ∀ c, s.cyc ≤ c → u.readAt c 0 (v.phys a.rd) = w.setWidth 512
        u.arr = none ∧ u.wait = .none ∧ (∀ i, u.ss.get i = v.ss.get i + if i ≤ lvl then 1#64 else 0#64) ∧
        (b.abort = none → u.abt = v.abt ∧ u.abort = v.abort) ∧
        (∀ code origin, b.abort = some (code, origin) →
          u.abt = BitVec.ofNat 64 lvl <<< 48 ||| origin.setWidth 64 <<< 16 ||| code.setWidth 64 ∧
          u.abort = if v.abort = a.held then pendingAfter a.held lvl (s.launch lid).top code origin else v.abort) ∧
        (∀ e ∈ integerReductions, OneOperator s b e.1 → wd ((contributions s b).foldl e.2.1 e.2.2)) ∧
        (∀ e ∈ floatReductions, OneOperator s b e.1 → ((s.awake lid lvl inst).map (fun n => s.memberIndex lid lvl n.1 n.2)).Nodup →
          let p := leafBits lvl (s.launch lid).place.modules
          (∀ n ∈ s.awake lid lvl inst, s.memberIndex lid lvl n.1 n.2 < 2 ^ p) →
          wd (((treeReduce e.2.1 (leafOfMember s lid lvl inst) p 0).getD e.2.2).setWidth 64)) ∧
        (OneOperator s b 0 → wd 0#64)) ∧
      ∀ k i, (k, i) ∉ s.awake lid lvl inst → t.thread k i = s.thread k i) ∧
    (b.isFinal = false → b.phase = 2 → s.rollingDomain (s.launch lid).podSeal = true → exec (.bellRelease lid lvl inst) s = .next s) ∧
    (b.isFinal = false → b.phase = 2 → s.rollingDomain (s.launch lid).podSeal = false → let pod := (s.launch lid).podSeal
      ∃ t, exec (.bellRelease lid lvl inst) s = .next t ∧
        t.rin = (if pod then s.rin else s.rin + 1#32) ∧ t.podRin = (if pod then s.podRin + 1#32 else s.podRin) ∧
        t.undo = s.undo.filter (fun e => e.pod != pod) ∧ ((∀ e ∈ s.undo, e.pod = pod) → t.logged = []) ∧
        t.fabricLog = s.fabricLog.filter (fun e => e.pod != pod) ∧ t.fullSince = none ∧
        BellStands t lid lvl inst (fun y => y.phase = 3) ∧ Due t (s.cyc + (s.launch lid).bellTime lvl) (.bellRelease lid lvl inst) ∧
        let n := (if pod then s.podRin else s.rin).toNat
        let buffer := 0x52000 + 4096 * ((n + 1) % 2)
        (∀ k i, (k, i) ∈ s.awake lid lvl inst → i < 8 → (s.thread k i).live = true → t.num (.tile k) (buffer + 480 * i) 8 = n ∧
          t.num (.tile k) (buffer + 480 * i + 0x180) 4 = (s.thread k i).q0.toNat ∧ t.num (.tile k) (buffer + 480 * i + 0x198) 8 = (s.thread k i).tvec.toNat ∧
          ∃ r, (t.tile k).sealBuf.threads.get i = some r ∧ r.q0 = (s.thread k i).q0) ∧
        ((∀ e ∈ s.pkgs, e.2.escrow = []) → (∀ e ∈ s.groups, e.2.undo = 0) →
          ∀ sp a, a < sp.size → (∀ k, (∃ i, (k, i) ∈ s.atInst lid lvl inst) → sp = .tile k → a < buffer ∨ buffer + 4096 ≤ a) → t.byte sp a = s.byte sp a)))

/-! ## Keys, cohorts, collectives and plans (R275 to R295, R358) -/

namespace Sys2Proof.Claims

/-- The thread takes a result of a fabric instruction: it waits no longer, and wd reads the value from this cycle on. -/
def TakesResult (s t : State) (k i rd : Nat) (v : Word) : Prop :=
  MemoryKept s t ∧ (t.thread k i).wait = .none ∧ (∀ j n, j ≠ k ∨ n ≠ i → t.thread j n = s.thread j n) ∧
  (rd ≠ 0 → ∀ c, s.cyc ≤ c → (t.thread k i).readAt c 0 ((s.thread k i).phys rd) = v.setWidth 512)

/-- The thread waits for the fabric; no register and no byte changes. -/
def WaitsForFabric (s t : State) : Prop :=
  RegsKept s t [] ∧ MemoryKept s t ∧ QueueMoved s t ∧ t.thr.wait = .fabric ∧ t.thr.waitFrom = s.cyc ∧
  ∀ k i, k ≠ s.curTile ∨ i ≠ s.curThread → t.thread k i = s.thread k i

/-- Bits [hi:lo] of a word as a number. -/
def bitsOf (w : Word) (hi lo : Nat) : Nat := w.toNat / 2 ^ lo % 2 ^ (hi - lo + 1)

/-- The context of the executing thread's launch. -/
def contextOf (s : State) : Nat := (s.launch (launchOf s)).ctx

/-- R286, R195, R216: a collective's source of n bytes at a passes its checks. -/
def SourceOk (s : State) (a n : Nat) : Prop := a + n ≤ 393216 ∧ s.firstReserved s.curTile a n = none ∧
  (s.xfers.filter (fun e => match e.2 with
    | some x => x.tile == s.curTile && !x.final && x.kind.isDep
    | none => false)).length < 64

/-- A contribution of the executing thread is on its way to bucket seq of cohort c: it is a transfer of the open batch, its bytes are captured and the thread
issues again after the capture. -/
def Contributes (s t : State) (kind : XKind) (c seq cast a n : Nat) (p : Contribution → Prop) : Prop :=
  Issues s t ∧ (∃ x, Standing s t x ∧ x.kind = kind) ∧ s.cyc + (n + 63) / 64 ≤ t.thr.notBefore ∧
  ∃ b ∈ t.buckets, ∃ f ∈ b.flying, b.cohort = c ∧ b.seq = seq ∧ b.cast = cast ∧ f.xid = s.nextXfer ∧ f.tile = s.curTile ∧
    f.data = s.bytes (.tile s.curTile) a n ∧ p f ∧ Due t f.due (.bucketOpen c seq)

/-- A contribution or multicast to a cohort of another module leaves for that module's switch, and is outstanding until its end-to-end status (R275, R286):
its last flit stands among those on their way to their links, owned by it. -/
def SendsCast (s t : State) (kind : XKind) (dst : Nat) : Prop :=
  Issues s t ∧ (∃ x, Standing s t x ∧ x.kind = kind ∧ x.sent = true) ∧ t.buckets = s.buckets ∧
  ∃ e ∈ t.outbox, e.owner = some s.nextXfer ∧ e.pkg = pkgOf s.curTile ∧ e.frame.last = true ∧ e.frame.dst = dst ∧ s.cyc + 40 ≤ e.due

/-- R287: two contributions that cannot stand in one bucket: of one tile, of different counts or flags, or, by element key, of overlapping blocks. -/
def Disagrees (keyed : Bool) (x y : Contribution) : Prop :=
  x.n ≠ y.n ∨ x.bf ≠ y.bf ∨ x.rf ≠ y.rf ∨ x.w32 ≠ y.w32 ∨ x.arr ≠ y.arr ∨ x.tile = y.tile ∨
  (keyed = true ∧ x.key0 < y.key0 + 2 ^ y.keyl ∧ y.key0 < x.key0 + 2 ^ x.keyl)

/-- R287: n bytes fit the slot of a member's window. -/
def Fits (s : State) (m : Member) (n : Nat) : Prop := m.base + n ≤ ((s.tile m.tile).windows.get m.window).size

/-- The bucket of that cohort, sequence and multicast. -/
def OnlyBucket (s : State) (c seq : Nat) (b : Bucket) : Prop :=
  s.buckets.filter (fun x => x.cohort == c && x.seq == seq) = [b] ∧ b.cohort = c ∧ b.seq = seq

end Sys2Proof.Claims

/-- R279 to R285: KMINT takes the lowest free entry of its package's region table, with the entry's generation and check value in the key; KREV revokes an entry
that its key names and its context owns, and else gives the status of Table 11.7; CSET takes the lowest cohort index and the lowest open VC for a good list of
members, and else gives a failure code; CFREE frees a live cohort of its context, once no bucket of it is open. Each thread waits for its result. (That
CSET takes its entry at issue, that a second CFREE of a word freed meanwhile returns 0, and that a CFREE looks again in every cycle, are the model's choice,
log entry 53; the free check values log entry 5; the time of a cohort whose members share a group log entry 108.)
Each event ends in a next state, in every state. -/
def Obligations.KeysAndCohorts : Prop :=
  (∀ (k t rd : Nat) (key : BitVec 64) (s : State), ∃ u, exec (.kmintDone k t rd key) s = .next u) ∧
  (∀ (k t rd : Nat) (key : BitVec 32) (s : State), ∃ u, exec (.krevEffect k t rd key) s = .next u) ∧
  (∀ (k t rd : Nat) (v : BitVec 64) (s : State), ∃ u, exec (.csetDone k t rd v) s = .next u) ∧
  (∀ (k t rd c : Nat) (s : State), ∃ u, exec (.cfreeDone k t rd c) s = .next u) ∧
  (∀ (d a b : BitVec 5) (s : State), ReadableW s a → ReadableW s b →
    let x := s.readW a
    let y := s.readW b
    let k := s.curTile
    let n := bitsOf y 47 0
    bitsOf y 59 48 = 0 → n ≠ 0 → n % 64 = 0 → bitsOf x 63 48 = 0 → bitsOf y 63 61 ≠ 0 → x.toNat % 64 = 0 → bitsOf x 47 0 + n ≤ 281474976710656 →
    (∀ ev ∈ s.events, ∀ j i r key, ev.2 = .kmintDone j i r key → ev.1 ≠ s.cyc + 24) →
    (∀ e, 1 ≤ e → e < 512 → ((s.pkg (pkgOf k)).regions.get e).v = false → (∀ m, 1 ≤ m → m < e → ((s.pkg (pkgOf k)).regions.get m).v = true) →
      ∃ t, exec (.kmint d a b) s = .next t ∧ WaitsForFabric s t ∧ (∀ m, m ≠ e → (t.pkg (pkgOf k)).regions.get m = (s.pkg (pkgOf k)).regions.get m) ∧
        ∃ r key, (t.pkg (pkgOf k)).regions.get e = r ∧ r.v = true ∧ r.w = y.getLsbD 63 ∧ r.r = y.getLsbD 62 ∧ r.a = y.getLsbD 61 ∧ r.ext = y.getLsbD 60 ∧
          r.ctx = contextOf s ∧ r.base = bitsOf x 47 0 ∧ r.len = n ∧ r.gen = ((s.pkg (pkgOf k)).regions.get e).gen ∧
          key = (regionKey (pkgOf k) e r).setWidth 64 ∧ Due t (s.cyc + 24) (.kmintDone k s.curThread d.toNat key)) ∧
    ((∀ e, 1 ≤ e → e < 512 → ((s.pkg (pkgOf k)).regions.get e).v = true) →
      ∃ t, exec (.kmint d a b) s = .next t ∧ WaitsForFabric s t ∧ t.pkgs = s.pkgs ∧ Due t (s.cyc + 24) (.kmintDone k s.curThread d.toNat 0#64))) ∧
  (∀ (d a : BitVec 5) (s : State), ReadableW s a →
    let key : BitVec 32 := (s.readW a).setWidth 32
    let own : Prop := (key.extractLsb' 25 3).toNat = pkgOf s.curTile
    (s.krevHeld s.curTile s.curThread key = false → ∃ t, exec (.krev d a) s = .next t ∧ WaitsForFabric s t ∧ t.pkgs = s.pkgs ∧
      (own → Due t (s.cyc + 24) (.krevEffect s.curTile s.curThread d.toNat key)) ∧
      (¬ own → Due t (s.cyc + 120) (.krevEffect s.curTile s.curThread d.toNat key))) ∧
    (s.krevHeld s.curTile s.curThread key = true → (s.pkg (pkgOf s.curTile)).escrowUsed + 8 ≤ 67108864 →
      ∃ t, exec (.krev d a) s = .next t ∧ WaitsForFabric s t ∧ (t.pkg (pkgOf s.curTile)).escrowUsed = (s.pkg (pkgOf s.curTile)).escrowUsed + 8)) ∧
  (∀ (k i rd : Nat) (key : BitVec 32) (v : Word) (s : State), (s.thread k i).wait = .fabric →
    let p := (key.extractLsb' 25 3).toNat
    let e := (key.extractLsb' 16 9).toNat
    let r := (s.pkg p).regions.get e
    let mine := (s.launch ((s.lidOf k i).getD 0)).ctx
    let held := s.krevHeld k i key
    (∃ t, exec (.kmintDone k i rd v) s = .next t ∧ TakesResult s t k i rd v) ∧ (∃ t, exec (.csetDone k i rd v) s = .next t ∧ TakesResult s t k i rd v) ∧
    ((s.thread k i).spare = 0 → r.v = false ∨ r.gen ≠ (key.extractLsb' 28 4).toNat →
      ∃ t, exec (.krevEffect k i rd key) s = .next t ∧ TakesResult s t k i rd 2#64 ∧ t.pkgs = s.pkgs) ∧
    ((s.thread k i).spare = 0 → r.v = true → r.gen = (key.extractLsb' 28 4).toNat → e = 0 ∨ r.check ≠ key.setWidth 16 ∨ r.ctx ≠ mine →
      ∃ t, exec (.krevEffect k i rd key) s = .next t ∧ TakesResult s t k i rd 3#64 ∧ t.pkgs = s.pkgs) ∧
    ((s.thread k i).spare = 0 → r.v = true → r.gen = (key.extractLsb' 28 4).toNat → e ≠ 0 → r.check = key.setWidth 16 → r.ctx = mine → r.revoking = false →
      held = false → ∃ t, exec (.krevEffect k i rd key) s = .next t ∧ TakesResult s t k i rd 0#64 ∧
        (t.pkg p).regions.get e = { r with v := false, gen := (r.gen + 1) % 16 } ∧ ∀ m, m ≠ e → (t.pkg p).regions.get m = (s.pkg p).regions.get m) ∧
    (e ≠ 0 → r.check = key.setWidth 16 → r.ctx = mine → held = true → ∃ t, exec (.krevEffect k i rd key) s = .next t ∧ TakesResult s t k i rd 0#64 ∧
      (t.pkg p).regions.get e = { r with revoking := true } ∧ ∃ w ∈ (t.pkg (pkgOf k)).escrow, w.kind = 2 ∧ w.addr = 512 * p + e)) ∧
  (∀ (d a b : BitVec 5) (s : State), ReadableW s a → ReadableW s b →
    let x := (s.readW a).toNat
    let y := s.readW b
    let n := bitsOf y 12 0
    bitsOf y 15 14 = 0 → bitsOf y 63 32 = 0 → 1 ≤ n → n ≤ 4096 → x % 8 = 0 → x + 8 * n ≤ 393216 → s.firstReserved s.curTile x (8 * n) = none →
    let ms := (List.range n).map (fun i => s.memberOf (BitVec.ofNat 64 (s.num (.tile s.curTile) (x + 8 * i) 8)))
    let good := ms.filterMap id
    let ks := good.map Member.tile
    let due := s.cyc + (8 * n + 63) / 64 + s.cohortTime ks
    let sound : Prop := none ∉ ms ∧ ks.Nodup
    let fails (v : Word) : Prop := ∃ t, exec (.cset d a b) s = .next t ∧ WaitsForFabric s t ∧ t.cohorts = s.cohorts ∧
      Due t due (.csetDone s.curTile s.curThread d.toNat v)
    (¬ sound → fails 0x4000000000000000#64) ∧
    (sound → (∀ i, 1 ≤ i → i < 4096 → (s.cohorts.get i).live = true) → fails 0x1000000000000000#64) ∧
    (∀ i, sound → 1 ≤ i → i < 4096 → (s.cohorts.get i).live = false → (∀ m, 1 ≤ m → m < i → (s.cohorts.get m).live = true) →
      (s.freeVc ks = none → fails 0x2000000000000000#64) ∧
      ∀ v, s.freeVc ks = some v → (s.switchFull ks = true → fails 0x3000000000000000#64) ∧
        (s.switchFull ks = false → ∃ t, exec (.cset d a b) s = .next t ∧ WaitsForFabric s t ∧
          t.cohorts.get i = { live := true, gen := (s.cohorts.get i).gen, ctx := contextOf s, lid := launchOf s, members := good
                              elementKeyed := y.getLsbD 13, timeout := 1024 * bitsOf y 31 16, vc := v, freeing := false } ∧
          (∀ m, m ≠ i → t.cohorts.get m = s.cohorts.get m) ∧
          Due t due (.csetDone s.curTile s.curThread d.toNat (BitVec.ofNat 64 (i + 4096 * (s.cohorts.get i).gen + 65536 * v)))))) ∧
  (∀ (d a : BitVec 5) (s : State), ReadableW s a →
    let i := bitsOf (s.readW a) 11 0
    let h := s.cohorts.get i
    let mine : Prop := i ≠ 0 ∧ h.live = true ∧ h.gen = bitsOf (s.readW a) 15 12 ∧ h.ctx = contextOf s
    (¬ mine → ∃ t, exec (.cfree d a) s = .next t ∧ WritesW s t d 1 1#64) ∧
    (mine → ∃ t, exec (.cfree d a) s = .next t ∧ WaitsForFabric s t ∧ t.cohorts.get i = { h with freeing := true } ∧
      Due t (s.cyc + s.cohortTime (h.members.map Member.tile)) (.cfreeDone s.curTile s.curThread d.toNat (i + 4096 * h.gen)))) ∧
  ∀ (k i rd c gen : Nat) (s : State), (s.thread k i).wait = .fabric → c < 4096 →
    let h := s.cohorts.get c
    let word := c + 4096 * gen
    (h.live = true → h.gen = gen → s.cohortBusy c = true → ∃ t, exec (.cfreeDone k i rd word) s = .next t ∧ t = { s with events := t.events } ∧
      Due t (s.cyc + 1) (.cfreeDone k i rd word)) ∧
    (h.live = true → h.gen = gen → s.cohortBusy c = false → ∃ t, exec (.cfreeDone k i rd word) s = .next t ∧ TakesResult s t k i rd 0#64 ∧
      t.cohorts.get c = { h with live := false, freeing := false, gen := (h.gen + 1) % 16 } ∧ ∀ m, m ≠ c → t.cohorts.get m = s.cohorts.get m) ∧
    (h.live = false ∨ h.gen ≠ gen → ∃ t, exec (.cfreeDone k i rd word) s = .next t ∧ TakesResult s t k i rd 0#64 ∧ t.cohorts = s.cohorts)

/-- R286, R293: MLRED and MCAST capture their source and send it to the bucket of the cohort word and sequence that they name; CFIRE fires a sequence of a live
plan of its context whose leaders its tile is among, and fails with KEY_BAD (3) otherwise. No register and no byte changes. (That a live handle of another
context fails so too, where R293 names a handle that is not live and a tile that is no leader, is the model's choice, log entry 69.) -/
def Obligations.CollectivesIssue : Prop :=
  ∀ (k a b : BitVec 5) (w x : BitVec 1) (s : State), s.thr.wait = .none → ReadableW s a → ReadableW s b →
    let wa := s.readW a
    let wb := s.readW b
    let wk := s.readW k
    let here : Prop := bitsOf wa 63 48 = s.podModule
    let c := bitsOf wa 11 0
    let at_ := bitsOf wb 18 0
    let n := bitsOf wb 44 32
    let bytes := n * if wb.getLsbD 20 then 2 else 4
    (ReadableW s k → bitsOf wb 31 21 = 0 → bitsOf wb 63 45 = 0 → 1 ≤ n → n ≤ 4096 → ¬ (wb.getLsbD 19 = true ∧ w = 1#1) → bitsOf wk 63 54 = 0 →
      bitsOf wk 47 0 % 2 ^ bitsOf wk 53 48 = 0 → SourceOk s at_ bytes → ∃ t, exec (.mlred k a b w x) s = .next t ∧
      (here → Contributes s t .mlred c (bitsOf wa 47 16) 0 at_ bytes (fun f => f.w32 = (w == 1#1) ∧ f.arr = (x == 1#1) ∧ f.rf = wb.getLsbD 19 ∧
        f.bf = wb.getLsbD 20 ∧ f.n = n ∧ f.key0 = bitsOf wk 47 0 ∧ f.keyl = bitsOf wk 53 48 ∧ f.gen = bitsOf wa 15 12)) ∧
      (¬ here → SendsCast s t .mlred (bitsOf wa 63 48))) ∧
    (bitsOf wb 31 19 = 0 → bitsOf wb 63 47 = 0 → 1 ≤ bitsOf wb 46 32 → bitsOf wb 46 32 ≤ 16384 → SourceOk s at_ (bitsOf wb 46 32) →
      ∃ t, exec (.mcast a b) s = .next t ∧
      (here → Contributes s t .mcast c (bitsOf wa 47 16) s.nextXfer at_ (bitsOf wb 46 32) (fun f => f.n = bitsOf wb 46 32 ∧ f.gen = bitsOf wa 15 12)) ∧
      (¬ here → SendsCast s t .mcast (bitsOf wa 63 48))) ∧
    (isProctor s.curTile = false →
      let i := bitsOf wa 27 16
      let p := s.plans.get i
      let mine : Prop := i ≠ 0 ∧ p.live = true ∧ p.gen = bitsOf wa 31 28 ∧ p.kind = bitsOf wa 15 12 ∧ p.scope = bitsOf wa 11 8 ∧ bitsOf wa 7 0 = 0 ∧
        s.curTile ∈ p.leaders ∧ p.ctx = contextOf s
      (¬ mine → ∃ t, exec (.cfire a) s = .next t ∧ Issues s t ∧ FailsAtIssue s t 3) ∧
      (mine → ∃ t y, exec (.cfire a) s = .next t ∧ Issues s t ∧ Standing s t y ∧ y.kind = .cfire ∧
        ∃ f ∈ t.firings, f.plan = i ∧ f.seq = bitsOf wa 63 32 ∧ (s.curTile, s.nextXfer) ∈ f.members))

/-- R275, R282, R287 to R293, R358: what buckets, deliveries, plans and keys do. A member's first contribution opens its bucket where every member is present, a
further one joins it, and one that disagrees with it fails it; one from a tile that the list does not name is dropped and counted and its issuer gets ABSENT;
a complete reduction leaves for every member, a multicast for the members that are present and have room; a timeout fails its bucket. A delivery with a
permit lands in its slot and moves the counter two cycles later, and one more for each line logged; one without waits, one that the slot does not take leaves
ABSENT, one for a tile that has gone is dropped. A remote access that its key does not allow is answered with its status; one that it allows reads, or is
performed at its memory when it is due there, and waits there for room in the logs. A switch that fails loses its open buckets. (Which switch counts a flit,
and what a delivery that no longer fits does, are the model's choice, log entries 60 and 104.)
Each event ends in a next state, in every state. -/
def Obligations.CollectivesRun : Prop :=
  (∀ (c seq : Nat) (s : State), (∃ u, exec (.bucketOpen c seq) s = .next u) ∧
    (∃ u, exec (.bucketComplete c seq) s = .next u) ∧
    ∃ u, exec (.bucketTimeout c seq) s = .next u) ∧
  (∀ (c k w base seq : Nat) (bytes : List (BitVec 8)) (s : State), ∃ u, exec (.collectiveDelivery c k w base seq bytes) s = .next u) ∧
  (∀ (plan seq : Nat) (s : State), ∃ u, exec (.planFiring plan seq) s = .next u) ∧
  (∀ (src op : Nat) (key : BitVec 32) (off n tag : Nat) (bytes : List (BitVec 8)) (s : State), ∃ u, exec (.keyCheck src op key off n tag bytes) s = .next u) ∧
  (∀ (lvl index : Nat) (s : State), ∃ u, exec (.switchFailure lvl index) s = .next u) ∧
  (∀ (c seq : Nat) (b : Bucket) (f : Contribution) (s : State), OnlyBucket s c seq b →
    let h := s.cohorts.get c
    let ks := h.members.map Member.tile
    let failed (t : State) : Prop := MemoryKept s t ∧ (∃ y ∈ t.buckets, y.cohort = c ∧ y.seq = seq ∧ y.failed = 4) ∧
      Due t (s.cyc + s.legTo ks + 2) (.bucketComplete c seq)
    let holds (t : State) (cs : List Contribution) : Prop := MemoryKept s t ∧
      ∃ y ∈ t.buckets, y.cohort = c ∧ y.seq = seq ∧ y.opened = true ∧ y.contribs = cs ∧ y.failed = 0 ∧ y.flying.all (fun g => g.xid != f.xid) = true
    h.others = [] →
    (b.flying = [f] → f.due ≤ s.cyc → b.failed = 0 → h.live = true → c ≠ 0 → h.gen = f.gen → h.ctx = (s.launch (s.xfer f.xid).lid).ctx → h.freeing = false →
      s.vcClosed ks h.vc = false →
      (b.opened = false → b.contribs = [] → b.cast = 0 → (s.buckets.filter (fun x => x.cohort == c && x.opened && !x.sent && x.failed == 0)).length < 16 →
        (f.tile ∈ ks → (∀ k ∈ ks, s.present k h.ctx = true) → ∃ t, exec (.bucketOpen c seq) s = .next t ∧ holds t [f] ∧
          (h.timeout ≠ 0 → Due t (s.cyc + h.timeout) (.bucketTimeout c seq)) ∧ (h.members.length = 1 → Due t s.cyc (.bucketComplete c seq))) ∧
        (f.tile ∈ ks → (∃ k ∈ ks, s.present k h.ctx = false) → ∃ t, exec (.bucketOpen c seq) s = .next t ∧ failed t) ∧
        (f.tile ∉ ks → ∀ x, s.xfers.get f.xid = some x → x.final = false → ∃ t, exec (.bucketOpen c seq) s = .next t ∧ MemoryKept s t ∧
          t.xfers.get f.xid = none ∧
          (∀ w, w = meets ks f.tile → t.stale.get (8 * w.2 + w.1) = s.stale.get (8 * w.2 + w.1) + 1) ∧
          ∃ y ∈ t.buckets, y.cohort = c ∧ y.seq = seq ∧ y.opened = false ∧ y.contribs = [])) ∧
      (b.opened = true → b.sent = false → b.cast = 0 → f.tile ∈ ks → (∀ k ∈ ks, k ∈ b.present) →
        ((∀ g ∈ b.contribs, ¬ Disagrees h.elementKeyed f g) → ∃ t, exec (.bucketOpen c seq) s = .next t ∧ holds t (b.contribs ++ [f]) ∧
          (b.contribs.length + 1 = h.members.length → Due t s.cyc (.bucketComplete c seq))) ∧
        ((∃ g ∈ b.contribs, Disagrees h.elementKeyed f g) → ∃ t, exec (.bucketOpen c seq) s = .next t ∧ failed t))) ∧
    (b.opened = true → b.sent = false → b.contribs ≠ [] → b.failed = 0 → b.cast = 0 → b.contribs.length = h.members.length →
      let g := b.contribs.headD default
      let bytes := reduceBytes g.w32 g.rf g.arr g.bf g.n s.nonce
        (b.contribs.map (fun y => (if h.elementKeyed then y.key0 else ks.findIdx (fun k => k == y.tile), y.data)))
      ((∀ m ∈ h.members, Fits s m bytes.length) → ∃ t, exec (.bucketComplete c seq) s = .next t ∧ MemoryKept s t ∧
        ∀ m ∈ h.members, ∃ d, s.cyc ≤ d ∧ Due t d (.collectiveDelivery c m.tile m.window m.base seq bytes)) ∧
      ((∃ m ∈ h.members, ¬ Fits s m bytes.length) → ∃ t, exec (.bucketComplete c seq) s = .next t ∧ failed t)) ∧
    (b.opened = true → b.sent = false → b.contribs = [f] → b.failed = 0 → b.cast ≠ 0 →
      let takes (m : Member) : Prop := Fits s m f.data.length ∧ m.tile ∈ b.present
      ∃ t, exec (.bucketComplete c seq) s = .next t ∧ MemoryKept s t ∧
        (∀ m ∈ h.members, takes m → ∃ d, s.cyc ≤ d ∧ Due t d (.collectiveDelivery c m.tile m.window m.base seq f.data)) ∧
        ((∃ m ∈ h.members, takes m) → ∃ y ∈ t.buckets, y.cohort = c ∧ y.seq = seq ∧ y.sent = true ∧ (y.status = 0 ↔ ∀ m ∈ h.members, takes m) ∧
          (y.status ≠ 0 → y.status = 4)) ∧
        ((∀ m ∈ h.members, ¬ takes m) → ∀ x, s.xfers.get f.xid = some x → x.final = false → t.xfers.get f.xid = none)) ∧
    (b.opened = true → b.sent = false → b.failed = 0 → b.cast = 0 → b.contribs.length < h.members.length →
      ∃ t, exec (.bucketTimeout c seq) s = .next t ∧ failed t)) ∧
  (∀ (c k w base seq l : Nat) (bytes : List Byte) (s : State), c < 4096 → w < 16 → (s.tile k).prim = some l → (s.launch l).ctx = (s.cohorts.get c).ctx →
    (s.launch l).state = .running →
    let x := s.window k w
    let a := 1024 * x.bank + seq % max 1 x.count * x.size + base
    let nl := s.freshOf k (spread a bytes)
    let permit : Prop := (BitVec.ofNat 32 seq - x.rel).toNat < x.count
    let fits : Prop := base + bytes.length ≤ x.size ∧ a + bytes.length ≤ 393216 ∧ s.firstReserved k a bytes.length = none
    (bytes ≠ [] → permit → fits → nl = 0 ∨ ((s.tile k).undoExch + nl ≤ 64 ∧ s.fullSince = none) →
      ∃ t, exec (.collectiveDelivery c k w base seq bytes) s = .next t ∧ (∀ i, i < bytes.length → t.byte (.tile k) (a + i) = bytes.getD i 0#8) ∧
        BytesKeptButLog s t k a bytes.length 1 nl ∧ t.window k w = x ∧ Due t (s.cyc + 2 + nl) (.collectiveDelivery c k w base seq [])) ∧
    (∃ t, exec (.collectiveDelivery c k w base seq []) s = .next t ∧ MemoryKept s t ∧
      (x.landed = [] → x.c.toNat = seq % 4294967296 → (t.window k w).c = x.c + 1#32) ∧
      (x.landed = [] → x.c.toNat ≠ seq % 4294967296 → (t.window k w).c = x.c)) ∧
    (bytes ≠ [] → permit → ¬ fits → ∃ t, exec (.collectiveDelivery c k w base seq bytes) s = .next t ∧ MemoryKept s t ∧
      t.window k w = { x with status := if x.status = 0 then 4 else x.status }) ∧
    (bytes ≠ [] → ¬ permit → ∃ t, exec (.collectiveDelivery c k w base seq bytes) s = .next t ∧ t = { s with events := t.events } ∧
      Due t (s.cyc + 1) (.collectiveDelivery c k w base seq bytes))) ∧
  (∀ (c k w base seq : Nat) (bytes : List Byte) (s : State), (s.tile k).prim = none → s.saves = [] →
    ∃ t, exec (.collectiveDelivery c k w base seq bytes) s = .next t ∧ MemoryKept s t) ∧
  (∀ (i seq : Nat) (f : Firing) (s : State), s.firings.find? (fun g => g.plan == i && g.seq == seq && !g.ran) = some f →
    let p := s.plans.get i
    (p.vcs.any (s.vcClosed p.leaders) = true ∨ s.sourcesGood p = false → ∃ t, exec (.planFiring i seq) s = .next t ∧ MemoryKept s t ∧
      ∀ g ∈ t.firings, g.plan = i → g.seq = seq → g.ran = true) ∧
    (p.vcs.any (s.vcClosed p.leaders) = false → s.sourcesGood p = true → p.others = [] →
      (∀ e ∈ p.leaders.zip (s.planRuns p), p.dst + e.2.length ≤ ((s.tile e.1).windows.get p.window).size) → ∃ t, exec (.planFiring i seq) s = .next t ∧ MemoryKept s t ∧
      ∀ e ∈ p.leaders.zip (s.planRuns p), ∃ d, s.cyc ≤ d ∧ Due t d (.collectiveDelivery (4096 + i) e.1 p.window p.dst seq e.2))) ∧
  (∀ (op n off tag : Nat) (key : BitVec 32) (bytes : List Byte) (x : Xfer) (s : State), s.xfers.get tag = some x →
    let p := (key.extractLsb' 25 3).toNat
    let e := (key.extractLsb' 16 9).toNat
    let r := (s.pkg p).regions.get e
    let src := s.podModule
    let back := if pkgOf x.tile = p then 40 else 88
    let m := if op = 1 then bytes.length else n
    let answered (w st : Nat) (bs : List Byte) : Prop := ∃ t, exec (.keyCheck src op key off n tag bytes) s = .next t ∧ MemoryKept s t ∧
      Due t (s.cyc + w + back) (.e2eStatus tag st bs)
    let accepted (d : Nat) (l : List Seg) : Prop := ∃ t, exec (.keyCheck src op key off n tag bytes) s = .next t ∧ MemoryKept s t ∧
      (∃ y ∈ (t.pkg p).txns, y.src = src ∧ y.tag = tag ∧ y.op = op ∧ y.data = bytes ∧ y.whole = some l) ∧
      Due t (s.cyc + d) (.keyCheck src 256 key off bytes.length tag [])
    let right : Prop := (op = 1 → r.w = true) ∧ (op = 2 → r.r = true) ∧ (op = 4 → r.a = true)
    let refuse := if op = 1 then refuseWrite else if op = 2 then refuseRead else refuseAtomic
    let away (l : List Seg) : Nat := if l.all (fun g => keyUnit g.key == p) then 0 else 96
    (s.pkg p).txns.find? (fun y => y.src == src && y.tag == tag) = none → op = 1 ∨ op = 2 ∨ op = 4 → n ≠ 0 →
    (r.v = false ∨ r.gen ≠ (key.extractLsb' 28 4).toNat → answered 4 2 []) ∧
    (r.v = true → r.gen = (key.extractLsb' 28 4).toNat →
      e = 0 ∨ r.check ≠ key.setWidth 16 ∨ r.len < off + m ∨ ¬ right ∨ (s.inDomain r.lid src = false ∧ r.ext = false) → answered 4 3 []) ∧
    (r.v = true → r.gen = (key.extractLsb' 28 4).toNat → e ≠ 0 → r.check = key.setWidth 16 → off + m ≤ r.len → right → s.inDomain r.lid src = true ∨ r.ext = true →
      (∀ s1 w z, s.mapRun (.pkg p) r.ctx refuse (m / 4096 + 2) (r.base + off) m = (s1, w, .error z) → answered (4 + w) 3 []) ∧
      (∀ s1 w l, s.mapRun (.pkg p) r.ctx refuse (m / 4096 + 2) (r.base + off) m = (s1, w, .ok l) →
        (op = 2 → answered (164 + (n + 31) / 32 + (w + away l)) 0 (s.segBytes l)) ∧
        (op = 4 → accepted (164 + 1 + (w + away l) - away l / 2) l) ∧
        (op = 1 → ∀ s2 w2 l2, s1.mapRun (.pkg p) r.ctx refuse (m / 4096 + 2) (r.base + off) m = (s2, w2, .ok l2) →
          accepted (164 + (m + 31) / 32 + max (w + away l) (w2 + away l2) - away l2 / 2) l2)))) ∧
  (∀ (n off tag q a : Nat) (w : Word) (key : BitVec 32) (bytes : List Byte) (y : Txn) (x : Xfer) (s : State), s.xfers.get tag = some x →
    let p := (key.extractLsb' 25 3).toNat
    let src := s.podModule
    let late := s.cyc + (if q = p then 0 else 48) + if pkgOf x.tile = p then 40 else 88
    let z := if y.op = 1 then y.data.length else 8
    let old := BitVec.ofNat 64 (s.num (.hbm q) a 8)
    let written (t : State) (bs : List Byte) : Prop := (∀ i, i < bs.length → t.byte (.hbm q) (a + i) = bs.getD i 0#8) ∧
      ∀ sp i, i < sp.size → (sp = .hbm q → i < a ∨ a + bs.length ≤ i) → t.byte sp i = s.byte sp i
    (s.pkg p).txns.find? (fun y => y.src == src && y.tag == tag && y.whole.isSome) = some y → y.whole = some [⟨(Space.hbm q).key a, z, w⟩] → pteCb w = false →
    a + z ≤ 549755813888 →
    (s.levelShut y.lid [⟨(Space.hbm q).key a, z, w⟩] = true → ∃ t, exec (.keyCheck src 256 key off n tag bytes) s = .next t ∧ t = { s with events := t.events } ∧
      Due t (s.cyc + 1) (.keyCheck src 256 y.key y.off y.data.length tag [])) ∧
    ((s.launch y.lid).recover = false → ∃ t, exec (.keyCheck src 256 key off n tag bytes) s = .next t ∧
      (y.op = 1 → written t y.data ∧ Due t late (.e2eStatus tag 0 [])) ∧
      (y.op = 4 → 24 ≤ y.data.length →
        written t (bytesOfNat 8 (atomicNew (natOfBytes (y.data.take 1)) old (BitVec.ofNat 64 (natOfBytes ((y.data.drop 8).take 8)))
          (BitVec.ofNat 64 (natOfBytes ((y.data.drop 16).take 8)))).toNat) ∧
        Due t late (.e2eStatus tag 0 (bytesOfNat 8 old.toNat))))) ∧
  ∀ (lvl index : Nat) (s : State), ∃ t, exec (.switchFailure lvl index) s = .next t ∧
    t = { s with buckets := t.buckets, events := t.events, pkgs := t.pkgs, outbox := t.outbox } ∧ (lvl ≠ 3 → t.pkgs = s.pkgs) ∧
    ∀ b ∈ s.buckets, ∀ k r, ((s.cohorts.get b.cohort).members.map Member.tile) = k :: r → rootLevel (k :: r) = lvl → switchOf lvl k = index → b.sent = false →
      b ∉ t.buckets ∧ ∀ f ∈ b.contribs ++ b.flying, Due t (max s.cyc (f.at_ + 360000)) (.e2eTimeout f.xid)

/-! ## Links (R272 to R277, R353) -/

namespace Sys2Proof.Claims

/-- Nothing of the module differs but one link end and the events to come. -/
def OnlyLink (s t : State) (p l : Nat) : Prop :=
  t = { s with pkgs := t.pkgs, events := t.events } ∧ (∀ q, t.pkg q = { s.pkg q with links := (t.pkg q).links }) ∧
  ∀ q m, q ≠ p ∨ m ≠ l → t.link q m = s.link q m

/-- Every field of a frame fits its place in Table 15.1. -/
def FrameFits (f : Frame) : Prop :=
  f.seq < 4096 ∧ f.kind < 16 ∧ (∀ a, f.ack = some a → a < 4096) ∧ f.vc < 16 ∧ f.op < 256 ∧ f.src < 65536 ∧ f.dst < 65536 ∧ f.tag < 65536 ∧
  f.key < 4294967296 ∧ f.offset < 281474976710656 ∧ f.bytes ≠ [] ∧ f.bytes.length ≤ 256 ∧ f.e2e < 4294967296

/-- A control frame: its kind, the sequence it names and the sequence it acknowledges (R273). -/
def control (kind seq : Nat) (ack : Option Nat) : Frame := { (default : Frame) with kind := kind, seq := seq, ack := ack, bytes := [0#8] }

/-- A dropped frame (R273): the first for the expected sequence sends one replay request, repeated after 360 cy. -/
def Drops (s t : State) (p l : Nat) : Prop :=
  let x := s.link p l
  (x.asked = some x.rxNext → t.link p l = { x with crcFails := (t.link p l).crcFails }) ∧
  (x.asked ≠ some x.rxNext →
    t.link p l = { x with crcFails := (t.link p l).crcFails, asked := some x.rxNext, sent := x.sent ++ [(35 * s.cyc, control 2 x.rxNext none)] } ∧
    Due t (s.cyc + 360) (.replayRequestTimeout p l x.rxNext))

/-- Frames that have been sent and have begun to leave, by the cycle; a cycle is 35 of the link's units of time. -/
def begun (x : Link) (c : Nat) : List (Nat × Frame) := x.sent.filter (fun e => decide (e.1 ≤ 35 * c))

/-- An acknowledgement leaves (R273): in a null frame where no data is waiting, else in a frame that has not begun to leave. -/
def Acknowledges (s : State) (x y : Link) (seq : Nat) : Prop :=
  (begun x s.cyc = x.sent → y.sent = x.sent ++ [(35 * s.cyc, control 0 0 (some seq))]) ∧
  (begun x s.cyc ≠ x.sent → y.sent.map Prod.fst = x.sent.map Prod.fst ∧ ∃ g ∈ y.sent, 35 * s.cyc < g.1 ∧ g.2.ack = some seq)

/-- Frames leave again as they stand in the retry buffer, the first of them with an acknowledgement that one of the old was to carry (R273). -/
def Resends (fs gs : List Frame) : Prop :=
  fs.drop 1 = gs.drop 1 ∧ fs.map (fun f => { f with ack := none }) = gs.map (fun f => { f with ack := none })

/-- The lanes of Table 15.2 in the order of its choice: the halves, then the quarters. -/
def laneChoice (faulted : BitVec 16) : Option (BitVec 16) :=
  [0x00FF#16, 0xFF00#16, 0x000F#16, 0x00F0#16, 0x0F00#16, 0xF000#16].find? (fun m => m &&& faulted == 0#16)

/-- The link end enters TRAIN on lanes `m`, with 7,200 cy to end it. -/
def Trains (s t : State) (p l : Nat) (m : BitVec 16) : Prop :=
  OnlyLink s t p l ∧ (t.link p l).state = .train m ∧ (t.link p l).trainStart = s.cyc ∧ (t.link p l).retry = (s.link p l).retry ∧
  Due t (s.cyc + 7200) (.trainTimeout p l s.cyc)

/-- The record of a link event in die 0 of its package (R274, R353), where its ring is not frozen. -/
def Recorded (s t : State) (p l ev seq width : Nat) (faulted : BitVec 16) : Prop :=
  (s.die (8 * p)).frozen = false → (s.die (8 * p)).blackBox.length < 4096 → ∃ r ∈ (t.die (8 * p)).blackBox, r.event = BitVec.ofNat 8 ev ∧
    r.source = BitVec.ofNat 16 (32768 + p + 8 * l) ∧ r.data = BitVec.ofNat 32 (seq + 4096 * width + 65536 * faulted.toNat)

/-- The sequence from which a link end replays. -/
def replayFrom (x : Link) : Nat := match x.retry with | f :: _ => f.seq | [] => x.txNext

/-- The link is retired (R274, R275): it keeps no frame, and its unacknowledged frames stand, in order, behind those of the lowest other
up link between the same pair of switches. -/
def Retires (s t : State) (p l : Nat) (faulted : BitVec 16) : Prop :=
  let x := s.link p l
  MemoryKept s t ∧ t.xfers = s.xfers ∧ t.tiles = s.tiles ∧ (t.link p l).state = .retired ∧
  (x.state ≠ .retired → (t.link p l).retry = [] ∧ Recorded s t p l 0x07 (replayFrom x) 0 faulted ∧
    ∀ m, m < 8 → m ≠ l → Config.farSwitch p m = Config.farSwitch p l → (s.link p m).state.up = true →
      (∀ n, n < m → n ≠ l → Config.farSwitch p n = Config.farSwitch p l → (s.link p n).state.up = false) →
      (t.link p m).retry.map (fun f => (f.bytes, f.e2e)) = ((s.link p m).retry ++ x.retry).map (fun f => (f.bytes, f.e2e)))

end Sys2Proof.Claims

/-- R272, R273, R276, R277: a frame's 288 bytes give back its fields. A link end takes the next data frame once, acknowledging after 16 frames or 360 cy; it
drops any other and any with a bad CRC, asking once for the expected one and again after 360 cy; a replay resends from the retry buffer, in place of what had not
begun to leave; an end in TRAIN takes nothing. A bulk flit that has waited moves to VC 15. Buffer repair closes the VCs that R277 names and retires a port with fewer than 8 frames.
Each event ends in a next state, in every state. -/
def Obligations.FramesCrossLinks : Prop :=
  (∀ (p l : Nat) (bytes : List (BitVec 8)) (s : State), ∃ u, exec (.frameReceive p l bytes) s = .next u) ∧
  (∀ (p l since : Nat) (s : State), ∃ u, exec (.ackTimeout p l since) s = .next u) ∧
  (∀ (p l seq : Nat) (s : State), (∃ u, exec (.replayRequestTimeout p l seq) s = .next u) ∧
    ∃ u, exec (.vcEscape p l seq) s = .next u) ∧
  (∀ (p port c : Nat) (s : State), ∃ u, exec (.bufferRepair p port c) s = .next u) ∧
  (∀ f : Frame, FrameFits f → f.wire.length = 288 ∧ frameOf f.wire = some f) ∧
  ∀ (p l : Nat) (s : State),
    let x := s.link p l
    (∀ bytes, x.state.up = false → exec (.frameReceive p l bytes) s = .next s) ∧
    (∀ bytes, x.state.up = true → frameOf bytes = none → x.crcFails.length < 7 → ∃ t, exec (.frameReceive p l bytes) s = .next t ∧ Drops s t p l ∧
      MemoryKept s t ∧ t.xfers = s.xfers) ∧
    (∀ bytes f, x.state.up = true → frameOf bytes = some f → f.ack = none →
      (f.kind = 1 → f.seq = x.rxNext → ∃ t, exec (.frameReceive p l bytes) s = .next t ∧ MemoryKept s t ∧ (t.link p l).rxNext = (x.rxNext + 1) % 4096 ∧
        (t.link p l).asked = none ∧ (x.unacked = 0 → Due t (s.cyc + 360) (.ackTimeout p l s.cyc)) ∧
        (x.unacked ≠ 15 → (t.link p l).unacked = x.unacked + 1 ∧ (t.link p l).sent = x.sent) ∧
        (x.unacked = 15 → (t.link p l).unacked = 0 ∧ Acknowledges s x (t.link p l) f.seq) ∧
        (f.op = 1 → (s.pkg p).e2eSeen.contains (f.src, f.e2e) = false → Due t (s.cyc + if f.key / 33554432 % 8 = p then 0 else 48)
          (.keyCheck f.src 1 (BitVec.ofNat 32 f.key) f.offset (if f.last then f.bytes.length else 0) f.tag f.bytes)) ∧
        ((s.pkg p).e2eSeen.contains (f.src, f.e2e) = true → t.xfers = s.xfers ∧
          ∀ e ∈ t.events, e ∈ s.events ∨ e = (s.cyc + 360, .ackTimeout p l s.cyc))) ∧
      (f.kind = 1 → f.seq ≠ x.rxNext → ∃ t, exec (.frameReceive p l bytes) s = .next t ∧ Drops s t p l ∧ OnlyLink s t p l) ∧
      (f.kind = 2 → ∃ t, exec (.frameReceive p l bytes) s = .next t ∧ OnlyLink s t p l ∧
        t.link p l = { x with sent := (t.link p l).sent, busy := (t.link p l).busy } ∧
        ∃ fs, (t.link p l).sent.map Prod.snd = (begun x s.cyc).map Prod.snd ++ fs ∧ Resends fs (x.retry.take 1024))) ∧
    (∀ bytes f a pre g rest, x.state.up = true → frameOf bytes = some f → f.kind = 0 → f.ack = some a → x.retry = pre ++ g :: rest → g.seq = a →
      (∀ h ∈ pre, h.seq ≠ a) → x.retry.length ≤ 1024 →
      ∃ t, exec (.frameReceive p l bytes) s = .next t ∧ OnlyLink s t p l ∧
        t.link p l = { x with retry := rest, busy := (t.link p l).busy }) ∧
    (∀ since, x.state.up = true → x.unacked ≠ 0 → x.oldest = since → ∃ t, exec (.ackTimeout p l since) s = .next t ∧ OnlyLink s t p l ∧
      t.link p l = { x with unacked := 0, sent := (t.link p l).sent } ∧ Acknowledges s x (t.link p l) ((x.rxNext + 4095) % 4096)) ∧
    (∀ since, x.unacked = 0 ∨ x.oldest ≠ since → exec (.ackTimeout p l since) s = .next s) ∧
    (∀ seq, x.state.up = true → x.asked = some seq → x.rxNext = seq → ∃ t, exec (.replayRequestTimeout p l seq) s = .next t ∧ OnlyLink s t p l ∧
      t.link p l = { x with sent := x.sent ++ [(35 * s.cyc, control 2 seq none)] } ∧ Due t (s.cyc + 360) (.replayRequestTimeout p l seq)) ∧
    (∀ seq, x.asked ≠ some seq ∨ x.rxNext ≠ seq → exec (.replayRequestTimeout p l seq) s = .next s) ∧
    (∀ seq, let escaped (f : Frame) : Frame := if f.seq = seq ∧ 10 ≤ f.vc ∧ f.vc ≤ 13 then { f with vc := 15 } else f
      ∃ t, exec (.vcEscape p l seq) s = .next t ∧ OnlyLink s t p l ∧
        t.link p l = { x with retry := x.retry.map escaped, sent := x.sent.map (fun e => if e.1 ≤ 35 * s.cyc then e else (e.1, escaped e.2)) }) ∧
    (∀ c, 8 ≤ c → ∃ t, exec (.bufferRepair p l c) s = .next t ∧ MemoryKept s t ∧ (t.pkg p).links = (s.pkg p).links ∧ (t.pkg p).buffers.get l = c ∧
      (∀ v, (l, v) ∈ (t.pkg p).closed ↔ 1 ≤ v ∧ v ≤ 9 ∧ c < 16 * v + 8) ∧ ∀ q v, q ≠ l → ((q, v) ∈ (t.pkg p).closed ↔ (q, v) ∈ (s.pkg p).closed)) ∧
    (∀ c, c < 8 → ∃ t, exec (.bufferRepair p l c) s = .next t ∧ Retires s t p l x.faulted)

/-- R274, R275, R353 and Table 15.2: a lane fault takes an end to TRAIN over the lanes of the table's choice, or retires it; so does a fault among the lanes in
training, and a training pattern that tells faulted lanes; one that tells none takes an end to TRAIN over all. The end of training gives the widest state that its
lanes allow, takes the partner's report, sends its own in a null frame and replays; 7,200 cy without it retire the link, whose frames move to another up link.
Records go to die 0 of the package. (That a pattern tells the partner's faulted lanes is read from R355, log entry 100.)
Each event ends in a next state, in every state. -/
def Obligations.LinksDegradeAndRetrain : Prop :=
  (∀ (p l lane : Nat) (s : State), ∃ u, exec (.laneFault p l lane) s = .next u) ∧
  (∀ (p l lanes last : Nat) (s : State), ∃ u, exec (.trainDone p l lanes last) s = .next u) ∧
  (∀ (p l since : Nat) (s : State), ∃ u, exec (.trainTimeout p l since) s = .next u) ∧
  (∀ (p : Nat) (l : Pattern) (s : State), ∃ u, exec (.trainingPatternArrival p l) s = .next u) ∧
  ∀ (p l : Nat) (s : State),
    let x := s.link p l
    (∀ i lanes, (∃ n, n < 16 ∧ lanes = 1#16 <<< n ∧ i = .laneFault p l n) ∨ (∃ n, lanes = BitVec.ofNat 16 n ∧ lanes ≠ 0#16 ∧ i = .trainingPatternArrival p ⟨l, n⟩) →
      x.state ≠ .retired →
      let f := x.faulted ||| lanes
      let any := ∃ t, exec i s = .next t ∧ (t.link p l).faulted = f ∧ ∀ m, laneChoice f = some m → Trains s t p l m
      let same := ∃ t, exec i s = .next t ∧ OnlyLink s t p l ∧ t.link p l = { x with faulted := f, crcFails := (t.link p l).crcFails }
      (16 - popcount f < 4 → ∃ t, exec i s = .next t ∧ Retires s t p l f) ∧
      (4 ≤ 16 - popcount f →
        (x.state = .a16 → any) ∧ (∀ m, x.state = .train m → (if m &&& lanes = 0#16 then same else any)) ∧
        (x.state = .a16 → laneChoice f = none → ∃ t, exec i s = .next t ∧ Retires s t p l f) ∧
        (∀ h, x.state = .a8 h → if h &&& lanes = 0#16 then same else ∃ t, exec i s = .next t ∧
          match [0x000F#16, 0x00F0#16, 0x0F00#16, 0xF000#16].find? (fun m => m &&& h == m && m &&& f == 0#16) with
          | some m => Trains s t p l m
          | none => Retires s t p l f) ∧
        (∀ q, x.state = .a4 q → if q &&& lanes = 0#16 then same else ∃ t, exec i s = .next t ∧ Retires s t p l f))) ∧
    (∀ m lanes last, x.state = .train m →
      let y := { x.acked s.cyc (last % 4096) with unacked := 0 }
      let passed := BitVec.ofNat 16 lanes
      let done (st : LinkState) (w : Nat) : Prop := ∃ t fs, exec (.trainDone p l lanes last) s = .next t ∧
        (t.link p l).sent.map Prod.snd = (begun x s.cyc).map Prod.snd ++ [control 0 0 (some ((x.rxNext + 4095) % 4096))] ++ fs ∧
        Resends fs (y.retry.take 1024) ∧ t.link p l = { y with state := st, sent := (t.link p l).sent, busy := (t.link p l).busy } ∧
        Recorded s t p l 0x06 (replayFrom y) w x.faulted ∧ MemoryKept s t ∧ t.xfers = s.xfers ∧ ∀ q n, q ≠ p ∨ n ≠ l → t.link q n = s.link q n
      (m = 0xFFFF#16 →
        (passed = 0xFFFF#16 → done .a16 0) ∧ (∀ h ∈ [0x00FF#16, 0xFF00#16], passed = h → done (.a8 h) 8) ∧
        (∀ q ∈ [0x000F#16, 0x00F0#16, 0x0F00#16, 0xF000#16], passed = q → done (.a4 q) 4) ∧
        (passed = 0#16 → ∃ t, exec (.trainDone p l lanes last) s = .next t ∧ Retires s t p l x.faulted)) ∧
      (passed &&& m = m → (m ∈ [0x00FF#16, 0xFF00#16] → done (.a8 m) 8) ∧
        (m ∈ [0x000F#16, 0x00F0#16, 0x0F00#16, 0xF000#16] → done (.a4 m) 4)) ∧
      (m ≠ 0xFFFF#16 → passed &&& m ≠ m → exec (.trainDone p l lanes last) s = .next s)) ∧
    (∀ lanes last, (∀ m, x.state ≠ .train m) → exec (.trainDone p l lanes last) s = .next s) ∧
    (∀ m since, x.state = .train m → x.trainStart = since → ∃ t, exec (.trainTimeout p l since) s = .next t ∧ Retires s t p l x.faulted) ∧
    (∀ since, (∀ m, x.state ≠ .train m) ∨ x.trainStart ≠ since → exec (.trainTimeout p l since) s = .next s) ∧
    (∀ n, BitVec.ofNat 16 n = 0#16 → x.state ≠ .retired → ∃ t, exec (.trainingPatternArrival p ⟨l, n⟩) s = .next t ∧ Trains s t p l 0xFFFF#16) ∧
    (∀ n, x.state = .retired → exec (.trainingPatternArrival p ⟨l, n⟩) s = .next s)

/-! ## The registrar (R57 to R77, R291, R294) -/

namespace Sys2Proof.Claims

/-- The byte of package HBM at a physical address. -/
def physByte (s : State) (pa : Nat) : Byte := Memory.get s.mem (physKey pa)

/-- Every byte of every memory reads as before, but those at some physical addresses. -/
def PhysKept (s t : State) (but : List Nat) : Prop := ∀ sp x, (∀ a ∈ but, sp.key x ≠ physKey a) → t.byte sp x = s.byte sp x

/-- The running selection has chosen an entry of a kind (R59), and the registrar finds it ready (Table 4.4). -/
def EntryReady (s : State) (p q a kind : Nat) : Prop := s.chosenOf p q = some (.entry a kind) ∧ ∃ c, s.judge p q (.entry a kind) = .ready c

/-- What KILL takes for its target: a launch of its context, started or held, which an entry of its package has made from the record it
names (R77). -/
def killTarget (s : State) (p ctx target : Nat) : Option (Nat × Launch) :=
  s.launches.find? (fun e => e.2.ctx == ctx && e.2.alive && e.2.records.contains (p, target))

/-- Nothing of the module differs but launch `lid`, memory, package state and the events to come. -/
def OnlyLaunch (s t : State) (lid : Nat) : Prop :=
  t = { s with launches := t.launches, mem := t.mem, pkgs := t.pkgs, events := t.events } ∧ ∀ l, l ≠ lid → t.launch l = s.launch l

/-- Nothing of the module differs but memory, package state and the events to come. -/
def OnlyQueues (s t : State) : Prop := t = { s with mem := t.mem, pkgs := t.pkgs, events := t.events }

/-- R68's search: the queues of the priority that are still ahead in this pass, the deficits, the queue that is served and the deficits that are left.
`cost` is that of a ready head. -/
inductive Served (ring : List Nat) (cost : Nat → Option Nat) (quantum : Nat → Nat) : List Nat → (Nat → Nat) → Nat → (Nat → Nat) → Prop where
  | take (q : Nat) (ahead : List Nat) (d : Nat → Nat) (n : Nat) : cost q = some n → n ≤ d q →
      Served ring cost quantum (q :: ahead) d q (fun x => if x = q then d q - n else d x)
  | add (q : Nat) (ahead : List Nat) (d : Nat → Nat) (n u : Nat) (e : Nat → Nat) : cost q = some n → d q < n →
      Served ring cost quantum ahead (fun x => if x = q then d q + quantum q else d x) u e → Served ring cost quantum (q :: ahead) d u e
  | clear (q : Nat) (ahead : List Nat) (d : Nat → Nat) (u : Nat) (e : Nat → Nat) : cost q = none →
      Served ring cost quantum ahead (fun x => if x = q then 0 else d x) u e → Served ring cost quantum (q :: ahead) d u e
  | pass (d : Nat → Nat) (u : Nat) (e : Nat → Nat) : Served ring cost quantum ring d u e → Served ring cost quantum [] d u e

/-- The cost of a queue's head, where the registrar finds it ready (R68, R69). -/
def readyCost (s : State) (p q : Nat) : Option Nat :=
  match s.headOf p q with
  | some h => match s.judge p q h with
    | .ready n => some n
    | _ => none
  | none => none

/-- Queues in cyclic order from a pointer on (R68). -/
def cyclicFrom (at_ : Nat) (qs : List Nat) : List Nat := qs.filter (fun q => decide (at_ ≤ q)) ++ qs.filter (fun q => decide (q < at_))

/-- What the registrar does with a ready head, by the entry's kind (R70). -/
noncomputable def entryEvent (p q : Nat) : Nat → Instr
  | 1 => .launchEntry p q
  | 2 => .planEntry p q
  | 3 => .collEntry p q
  | 4 => .sealEntry p q
  | 5 => .waitevEntry p q
  | 6 => .sigevEntry p q
  | _ => .killEntry p q

end Sys2Proof.Claims

/-- R57, R61, R62: a head that ends has its state (3 DONE, 4 REJECTED) and reason written into its status and the head index goes up by one; no other byte
changes. A counter's add changes that counter alone. WAITEV is ready exactly when its counter has reached its value; an unknown kind is rejected. A ready WAITEV, SIGEV or SEAL entry
is carried out and ends, a rejected head ends so, and one that is blocked stays.
Each event ends in a next state, in every state. -/
def Obligations.QueueHeadsEnd : Prop :=
  (∀ (p q : Nat) (s : State), (∃ u, exec (.sealEntry p q) s = .next u) ∧
    (∃ u, exec (.waitevEntry p q) s = .next u) ∧
    ∃ u, exec (.sigevEntry p q) s = .next u) ∧
  (∀ (p q a pa st reason : Nat) (s t : State), reason < 256 → s.ctxPa p (q / 64) (a + 2) = some pa → pa + 2 ≤ 4398046511104 →
    (t = s.doneHead p q a ∧ st = 3 ∧ reason = 0) ∨ (t = s.rejectHead p q a reason ∧ st = 4) →
    let u := s.putStatus p q a st reason
    let d := s.descAddr p q
    u.desc p q = s.desc p q → u.descAddr p q = d → d + 64 ≤ 4398046511104 → pa + 2 ≤ d ∨ d + 64 ≤ pa → ((s.pkg p).queues.get q).removed = [] →
    physByte t pa = BitVec.ofNat 8 reason ∧ physByte t (pa + 1) = BitVec.ofNat 8 st ∧ t.physNum (d + 0x18) 4 = ((s.desc p q).head + 1) % 4294967296 ∧
    PhysKept s t [pa, pa + 1, d + 0x18, d + 0x19, d + 0x1A, d + 0x1B] ∧ OnlyQueues s t) ∧
  (∀ (p ctx va pa : Nat) (v : Word) (s : State), s.ctxPa p ctx va = some pa → pa + 8 ≤ 4398046511104 →
    let t := s.addCounter p ctx va v
    t.physNum pa 8 = (s.physNum pa 8 + v.toNat) % 18446744073709551616 ∧ PhysKept s t ((List.range 8).map (fun i => pa + i)) ∧
    t = { s with mem := t.mem, events := t.events }) ∧
  ∀ (p q : Nat) (s : State),
    (∀ a kind, kind = 0 ∨ 7 < kind → s.judge p q (.entry a kind) = .reject 0x0A) ∧
    (∀ a, s.entryReserved p q a 5 = false → s.badCounter p (q / 64) (s.entryNum p q a 0x10 8) false = false →
      (s.judge p q (.entry a 5) = .ready 1 ↔ s.entryNum p q a 0x18 8 ≤ s.ctxNum p (q / 64) (s.entryNum p q a 0x10 8) 8)) ∧
    (∀ a, EntryReady s p q a 5 → exec (.waitevEntry p q) s = .next (s.doneHead p q a)) ∧
    (∀ a, EntryReady s p q a 6 → exec (.sigevEntry p q) s =
      .next ((s.addCounter p (q / 64) (s.entryNum p q a 0x10 8) (word (s.entryNum p q a 0x18 8))).doneHead p q a)) ∧
    (∀ a, EntryReady s p q a 4 → ∃ t, exec (.sealEntry p q) s = .next t ∧ t = { s with sealAsked := true }.doneHead p q a ∧ t.sealAsked = true) ∧
    (∀ a r, s.chosenOf p q = some (.entry a 5) → s.judge p q (.entry a 5) = .reject r → exec (.waitevEntry p q) s = .next (s.rejectHead p q a r)) ∧
    (∀ a r, s.chosenOf p q = some (.entry a 6) → s.judge p q (.entry a 6) = .reject r → exec (.sigevEntry p q) s = .next (s.rejectHead p q a r)) ∧
    (∀ a l, s.chosenOf p q = some (.entry a 5) → s.judge p q (.entry a 5) = .blocked l → exec (.waitevEntry p q) s = .next s)

/-- R70, R74, R77, R291, R294, R334: a ready LAUNCH that finds its tiles free becomes the next launch and goes on to its text or its start. A ready PLAN makes its plan
or frees one, waiting for its firings; a ready COLL fires its plan for every member and is rejected for no plan of its context. KILL stops a launch that runs,
drops an entry that is still queued, and ends with reason 0x0C where there is neither; a stopped target takes KILLED and its KILL entries end.
The model's choices: that COLL of another context's plan is rejected with 7 and that a PLAN free looks again each cycle (log entry 69), which of several
targets a KILL takes (log entry 99), and that a killed launch's fillers are killed with it (log entry 93).
Each event ends in a next state, in every state. -/
def Obligations.LaunchPlanCollKill : Prop :=
  (∀ (p q : Nat) (s : State), (∃ u, exec (.launchEntry p q) s = .next u) ∧
    (∃ u, exec (.planEntry p q) s = .next u) ∧
    (∃ u, exec (.collEntry p q) s = .next u) ∧
    ∃ u, exec (.killEntry p q) s = .next u) ∧
  (∀ (lid : Nat) (s : State), ∃ u, exec (.killQuiesced lid) s = .next u) ∧
  (∀ (p q a : Nat) (s : State), EntryReady s p q a 1 →
    let r := s.recordAt p (q / 64) (s.entryNum p q a 0x10 8)
    let n := s.nextLaunch
    r.tag = 0 → r.place.packages = [p] → s.ctxFiller p (q / 64) = false →
    (∀ e ∈ s.launches, e.2.holds p = true → ∀ g ∈ s.groupsIn p r.place, e.2.place.hasGroup g = false) →
    ∃ t, exec (.launchEntry p q) s = .next t ∧ t.nextLaunch = n + 1 ∧ (t.launch n).state = .starting ∧ (t.launch n).ctx = q / 64 ∧
      (t.launch n).records = [(p, r.addr)] ∧ (t.launch n).place = r.place ∧ (t.launch n).nthr = r.nthr ∧ (t.launch n).recover = r.recover ∧
      (t.launch n).image = r.image ∧ (t.launch n).entry = r.entry ∧ (∀ l, l ≠ n → t.launch l = s.launch l) ∧ t.tiles = s.tiles ∧ t.xfers = s.xfers ∧
      (Due t (s.cyc + 64) (.startBroadcast n) ∨ Due t (s.cyc + 600 + ceilDiv (t.launch n).textSize 256) (.textLoad n))) ∧
  (∀ (p q a : Nat) (s : State), EntryReady s p q a 2 → s.freeingHead p q = none →
    let frees := (s.entryNum p q a 0x30 1).testBit 7
    let found := s.planAt (BitVec.ofNat 32 (s.entryNum p q a 0x4C 4))
    (∀ i h, frees = false → s.planOf p q a = .ok (i, h) → ∃ t, exec (.planEntry p q) s = .next t ∧ t.plans.get i = h ∧
      (∀ j, j ≠ i → t.plans.get j = s.plans.get j) ∧ t.tiles = s.tiles ∧ t.xfers = s.xfers) ∧
    (∀ r, frees = false → s.planOf p q a = .error r → exec (.planEntry p q) s = .next (s.rejectHead p q a r)) ∧
    (∀ i h, frees = true → found = some (i, h) → s.firings.any (fun f => f.plan == i) = false → ∃ t, exec (.planEntry p q) s = .next t ∧
      t.plans.get i = { s.plans.get i with live := false, freeing := none, gen := ((s.plans.get i).gen + 1) % 16 } ∧
      ∀ j, j ≠ i → t.plans.get j = s.plans.get j) ∧
    (∀ i h, frees = true → found = some (i, h) → s.firings.any (fun f => f.plan == i) = true → ∃ t, exec (.planEntry p q) s = .next t ∧ MemoryKept s t ∧
      (t.plans.get i).freeing = some (p, q, a) ∧ Due t (s.cyc + 1) (.planEntry p q))) ∧
  (∀ (p q a i : Nat) (s : State), s.freeingHead p q = some (a, i) →
    (s.firings.any (fun f => f.plan == i) = false → ∃ t, exec (.planEntry p q) s = .next t ∧ (t.plans.get i).live = false ∧ (t.plans.get i).freeing = none ∧
      (t.plans.get i).gen = ((s.plans.get i).gen + 1) % 16 ∧ ∀ j, j ≠ i → t.plans.get j = s.plans.get j) ∧
    (s.firings.any (fun f => f.plan == i) = true → ∃ t, exec (.planEntry p q) s = .next t ∧ MemoryKept s t ∧
      (t.plans.get i).freeing = some (p, q, a) ∧ Due t (s.cyc + 1) (.planEntry p q))) ∧
  (∀ (p q a : Nat) (s : State), EntryReady s p q a 3 →
    let found := s.planAt (BitVec.ofNat 32 (s.entryNum p q a 0x10 4))
    let n := s.entryNum p q a 0x18 4
    (∀ i h, found = some (i, h) → h.superstep = false → h.ctx = q / 64 → ∃ t, exec (.collEntry p q) s = .next t ∧ Due t s.cyc (.planFiring i n) ∧
      t.plans = s.plans ∧ t.tiles = s.tiles ∧ ∃ f ∈ t.firings, f.plan = i ∧ f.seq = n ∧ f.ran = false ∧ ∀ k ∈ h.leaders, (k, 0) ∈ f.members) ∧
    ((∀ i h, found = some (i, h) → h.superstep = true ∨ h.ctx ≠ q / 64) → exec (.collEntry p q) s = .next (s.rejectHead p q a 7))) ∧
  (∀ (p q a : Nat) (s : State), EntryReady s p q a 7 →
    let target := s.entryNum p q a 0x10 8
    let k := (p + 8 * q, a, s.entryNum p q a 0x18 8, word (s.entryNum p q a 0x20 8))
    let queued := s.queuedLaunches p (q / 64) (fun va => va == target)
    (∀ lid l, killTarget s p (q / 64) target = some (lid, l) → l.tag = 0 → queued = [] ∨ (s.recordAt p (q / 64) target).tag = 0 → ∃ t, exec (.killEntry p q) s = .next t ∧ MemoryKept s t ∧
      t.launch lid = { s.launch lid with killers := (s.launch lid).killers ++ [k] } ∧ (∀ j, j ≠ lid → t.launch j = s.launch j) ∧ t.tiles = s.tiles ∧
      Due t (s.cyc + s.stopTime lid) (.gangStop lid 3)) ∧
    (∀ x i rest, killTarget s p (q / 64) target = none → queued = (x, i) :: rest → (s.recordAt p (q / 64) target).tag = 0 →
      exec (.killEntry p q) s = .next ((s.dropEntry p x i).retireKill (q / 64) k 0)) ∧
    (killTarget s p (q / 64) target = none → queued = [] →
      exec (.killEntry p q) s = .next (s.retireKill (q / 64) k 0x0C))) ∧
  (∀ (p q i : Nat) (s : State), i ≠ (s.desc p q).head →
    i ∈ (((s.dropEntry p q i).pkg p).queues.get q).removed ∧
    (∀ pa, s.ctxPa p (q / 64) ((s.desc p q).base + 128 * (i % 2 ^ (s.desc p q).n) + 2) = some pa → pa + 2 ≤ 4398046511104 →
      physByte (s.dropEntry p q i) (pa + 1) = 5#8 ∧ PhysKept s (s.dropEntry p q i) [pa, pa + 1])) ∧
  ∀ (lid : Nat) (s : State),
    ((s.launch lid).state = .stopping 3 → s.fillersOf lid = [] → ∃ t, exec (.killQuiesced lid) s = .next t ∧ (t.launch lid).state = .killed ∧
      (t.launch lid).killers = [] ∧ (∀ v ∈ t.saves, v.lid ≠ lid) ∧
      ∀ k ∈ s.tilesOf lid, if (s.launch lid).isFiller then (t.tile k).filler = none else (t.tile k).prim = none) ∧
    ((s.launch lid).state ≠ .stopping 3 → exec (.killQuiesced lid) s = .next s)

/-- R58, R59, R68: a write to a descriptor begins a selection where none runs, and stops a queue that it makes bad. A selection takes 36 cy: of the ready heads those
of the highest priority compete, and the deficit round-robin picks one of their queues and leaves each its deficit; its entry is carried out at the end. Without a
ready head none is. A selection that was asked for again is followed by another (that one which has chosen a head is asked for again is log entry 58).
Each event ends in a next state, in every state. -/
def Obligations.SelectionsRun : Prop :=
  (∀ (p a : Nat) (s : State), ∃ u, exec (.hbmWriteMatch p a) s = .next u) ∧
  (∀ (p : Nat) (s : State), ∃ u, exec (.selection p) s = .next u) ∧
  ∀ (p : Nat) (s : State),
    (∀ a, s.mg p 0x10 ≠ 0#64 → (∀ q ∈ s.allQueues p, s.descAddr p q / 64 ≠ a / 64) → ∃ t, exec (.hbmWriteMatch p a) s = .next t ∧ MemoryKept s t ∧
      t = { s with pkgs := t.pkgs, events := t.events } ∧
      ((s.pkg p).selecting = 0 → (t.pkg p).selecting = 1 ∧ Due t s.cyc (.selection p)) ∧
      ((s.pkg p).selecting = 2 → (t.pkg p).selecting = 2 ∧ (t.pkg p).again = true)) ∧
    (∀ a q, s.mg p 0x10 ≠ 0#64 → (s.allQueues p).filter (fun x => s.descAddr p x / 64 == a / 64) = [q] → (s.desc p q).stops = true →
      ∃ t, exec (.hbmWriteMatch p a) s = .next t ∧ ((t.pkg p).queues.get q).stopped = true) ∧
    ((s.pkg p).selecting = 0 → exec (.selection p) s = .next s) ∧
    ((s.pkg p).selecting = 2 → (s.pkg p).again = false → ∃ t, exec (.selection p) s = .next t ∧ (t.pkg p).selecting = 0 ∧ t = { s with pkgs := t.pkgs }) ∧
    ((s.pkg p).selecting = 2 → (s.pkg p).again = true → ∃ t, exec (.selection p) s = .next t ∧ (t.pkg p).selecting = 1 ∧ (t.pkg p).again = false ∧
      Due t (s.cyc + 1) (.selection p)) ∧
    ((s.pkg p).selecting = 1 →
      let s0 := s.updPkg p (fun x => { x with selecting := 2, again := false })
      let qs := s0.allQueues p
      (∀ q ∈ s.allQueues p, (s.desc p q).stops = false ∧ ((s.pkg p).queues.get q).stopped = false) →
      (∀ q ∈ qs, ∀ h r, s0.headOf p q = some h → s0.judge p q h ≠ .reject r) →
      ((∀ q ∈ qs, ∀ h n, s0.headOf p q = some h → s0.judge p q h ≠ .ready n) → ∃ t, exec (.selection p) s = .next t ∧ MemoryKept s t ∧
        (t.pkg p).selecting = 2 ∧ (t.pkg p).again = false ∧ ∀ e, e ∈ t.events ↔ e ∈ s.events ∨ e = (s.cyc + 36, .selection p)) ∧
      ∀ q n a kind, q ∈ qs → s0.headOf p q = some (.entry a kind) → s0.judge p q (.entry a kind) = .ready n → n ≤ (s0.desc p q).deficit →
        (∀ x ∈ qs, x ≠ q → ∀ h m, s0.headOf p x = some h → s0.judge p x h ≠ .ready m) → 1 ≤ kind → kind ≤ 7 →
        ∃ t, exec (.selection p) s = .next t ∧ (t.pkg p).selecting = 2 ∧ (t.pkg p).again = true ∧ (t.pkg p).ptr.get (s0.desc p q).prio = q ∧
          ∀ e, e ∈ t.events ↔ e ∈ s.events ∨ e = (s.cyc + 36, entryEvent p q kind) ∨ e = (s.cyc + 36, .selection p)) ∧
    ((s.pkg p).selecting = 1 → ∀ top,
      let s0 := s.updPkg p (fun x => { x with selecting := 2, again := false })
      let qs := s0.allQueues p
      let ring := cyclicFrom ((s.pkg p).ptr.get top) (qs.filter (fun q => decide ((s0.desc p q).prio = top)))
      let field (x : Nat) : Nat := s.descAddr p x + 0x1C
      (∀ q ∈ s.allQueues p, (s.desc p q).stops = false ∧ ((s.pkg p).queues.get q).stopped = false) →
      (∀ q ∈ qs, ∀ h r, s0.headOf p q = some h → s0.judge p q h ≠ .reject r) →
      (∃ q ∈ qs, (s0.desc p q).prio = top ∧ readyCost s0 p q ≠ none) → (∀ q ∈ qs, readyCost s0 p q ≠ none → (s0.desc p q).prio ≤ top) →
      (∀ q ∈ ring, ∀ n, readyCost s0 p q = some n → n ≤ 2048) →
      (∀ x ∈ ring, field x + 4 ≤ 4398046511104 ∧ ∀ y ∈ ring, y ≠ x → field x + 4 ≤ field y ∨ field y + 4 ≤ field x) →
      ∃ t u e, exec (.selection p) s = .next t ∧
        Served ring (readyCost s0 p) (fun x => (s0.desc p x).quantum) ring (fun x => (s0.desc p x).deficit) u e ∧
        (t.pkg p).selecting = 2 ∧ (t.pkg p).again = true ∧ (t.pkg p).ptr.get top = u ∧ (∀ x ∈ ring, t.physNum (field x) 4 = e x) ∧
        (∀ a kind, s0.headOf p u = some (.entry a kind) → (t.pkg p).chosen = some (u, .entry a kind) ∧ Due t (s.cyc + 36) (entryEvent p u kind)) ∧
        (∀ l, s0.headOf p u = some (.resume l) → (t.pkg p).chosen = some (u, .resume l) ∧ Due t (s.cyc + 36) (.launchEntry p u)) ∧
        Due t (s.cyc + 36) (.selection p))

/-- R62, R73 to R76, R311: the text of a launch is loaded whole into every group of its placement; the end of the broadcast gives every thread of every tile the
state of R75, its program counters not yet loaded, and writes RUNNING; the end of the first fetch lets its threads issue from the entry point. A launch that
was held goes on in the same two stages. The watchdog reports a launch without progress once: one that runs, or that is reserved in a package.
The model's choices: when RUNNING is written and text counts as resident (log entry 57), that the watchdog looks again after a report (log entry 68), and
whose interval and alarm a spanning launch has (log entry 98).
Each event ends in a next state, in every state. -/
def Obligations.LaunchesStart : Prop :=
  (∀ (lid : Nat) (s : State), (∃ u, exec (.textLoad lid) s = .next u) ∧
    (∃ u, exec (.startBroadcast lid) s = .next u) ∧
    ∃ u, exec (.firstFetch lid) s = .next u) ∧
  (∀ (lid since : Nat) (s : State), ∃ u, exec (.watchdogExpiry lid since) s = .next u) ∧
  ∀ (lid : Nat) (s : State),
    let l := s.launch lid
    (l.state = .starting ∨ l.state = .saved → l.textBase + l.textSize ≤ 262144 → ∃ t, exec (.textLoad lid) s = .next t ∧
      (∀ g ∈ s.groupsOf lid, (if l.isFiller then (t.group g).fillText else (t.group g).text) = l.textKey ∧
        ∀ i, i < l.textSize → t.byte (.istore g) (l.textBase + i) = s.ctxByte (g / 2048) l.ctx ((l.part 0).1 + i)) ∧
      (∀ sp a, a < sp.size → (∀ g ∈ s.groupsOf lid, sp = .istore g → a < l.textBase ∨ l.textBase + l.textSize ≤ a) → t.byte sp a = s.byte sp a) ∧
      t.tiles = s.tiles ∧ t.launches = s.launches ∧ (l.state = .starting → Due t (s.cyc + s.startTime lid) (.startBroadcast lid)) ∧
      (l.state = .saved → ∃ c, s.cyc ≤ c ∧ Due t c (.contextRestore lid))) ∧
    (l.state ≠ .starting → l.state ≠ .saved → exec (.textLoad lid) s = .next s) ∧
    (l.state = .starting → l.isFiller = false → ((l.place.tiles s.podModule).map Prod.fst).Nodup →
      (∀ e ∈ l.place.tiles s.podModule, pkgOf e.1 ∈ l.place.packages) → ∃ t, exec (.startBroadcast lid) s = .next t ∧
      (t.launch lid).started = s.cyc ∧ (t.launch lid).state = .starting ∧
      Due t (s.cyc + 20 + ceilDiv (s.runTime lid) 64 + l.keyCount) (.streamListStart lid) ∧
      (∀ k x y, (k, x, y) ∈ l.place.tiles s.podModule → (t.tile k).prim = some lid ∧ (t.tile k).mq = [] ∧ (t.tile k).xperm = 0 ∧ (t.tile k).lst = [] ∧
        (t.tile k).parked = false ∧ (∀ i, i < 64 → (t.tile k).acc.get i = 0#512) ∧
        ∀ i, i < 2 ^ l.lcode → ∃ id, t.thread k i = freshThread false l.chk l.recover false false l.lcode id 0 0 0 ∧ id.tile = word (x + l.gw * y) ∧
          id.x = word x ∧ id.y = word y ∧ id.ntile = word (l.gw * l.gh) ∧ id.nthr = word l.nthr ∧ id.pkg = word (pkgOf k)) ∧
      ∀ k, k ∉ (l.place.tiles s.podModule).map Prod.fst → t.tile k = s.tile k) ∧
    (l.state = .heldStop → l.reports = [] → ∃ t, exec (.startBroadcast lid) s = .next t ∧ t = { s with events := t.events } ∧
      Due t (s.cyc + 22) (.firstFetch lid)) ∧
    (l.state ≠ .starting → l.state ≠ .heldStop → exec (.startBroadcast lid) s = .next s ∧ exec (.firstFetch lid) s = .next s) ∧
    (l.state = .starting → ∃ t, exec (.firstFetch lid) s = .next t ∧ (t.launch lid).state = .running ∧ (t.launch lid).progress = s.cyc ∧
      (l.signals = [] → MemoryKept s t) ∧
      ∀ m ∈ s.membersOf lid,
        let e := BitVec.ofNat 18 l.entry
        let u := t.thread m.1 m.2
        u.live = true ∧ u.q0 = e ∧ u.q1 = s.seqOf m.1 m.2 e ∧ u.q2 = s.seqOf m.1 m.2 (s.seqOf m.1 m.2 e) ∧ u.notBefore = s.cyc ∧
        u.regs = (s.thread m.1 m.2).regs) ∧
    (l.state = .heldStop → ∃ t, exec (.firstFetch lid) s = .next t ∧ (t.launch lid).state = .running ∧ (t.launch lid).stopper = none) ∧
    ∀ since, let w := s.ctxWatchdog l.pkg l.ctx
      let looked := l.state = .running ∨ (s.reservedOnly lid = true ∧ l.reports ≠ [])
      (w = 0 ∨ ¬ looked → exec (.watchdogExpiry lid since) s = .next s) ∧
      (w ≠ 0 → looked →
        (l.progress ≠ since → ∃ t, exec (.watchdogExpiry lid since) s = .next t ∧ MemoryKept s t ∧ (t.launch lid).watched = false ∧
          Due t (l.progress + w) (.watchdogExpiry lid l.progress)) ∧
        (l.progress = since → l.watched = true → ∃ t, exec (.watchdogExpiry lid since) s = .next t ∧ t = { s with events := t.events } ∧
          Due t (s.cyc + w) (.watchdogExpiry lid since)) ∧
        (l.progress = since → l.watched = false → ∃ t, exec (.watchdogExpiry lid since) s = .next t ∧ (t.launch lid).watched = true ∧
          Due t (s.cyc + w) (.watchdogExpiry lid since) ∧
          t = ((s.updLaunch lid (fun x => { x with watched := true })).setStatus lid 6 0 |>.alarm l.pkg l.ctx |>.schedule (s.cyc + w)
            (.watchdogExpiry lid since))))

/-! ## Fetch, mailboxes, parks and engines (R90 to R95, R298 to R306) -/

namespace Sys2Proof.Claims

/-- No proctor thread of a die waits for a message, but those listed. -/
def NoReader (s : State) (d : Nat) (but : List (Nat × Nat)) : Prop :=
  ∀ e ∈ proctorThreads d, e ∉ but → ∀ a rd, (s.thread e.1 e.2).wait ≠ .mailbox a rd

/-- No message of a lower poster is due at the mailbox in this cycle (R302). -/
def FirstPoster (s : State) (d : Nat) (m : Message) : Prop :=
  ∀ e ∈ s.events, e.1 ≤ s.cyc → ∀ n, e.2 = .mailboxArrival d n → ¬ posterRank n < posterRank m

/-- The refills of primary threads that a tile reads in this cycle (R91, R94). -/
def primaryReads (s : State) (k : Nat) : List (Nat × Instr) :=
  s.events.filter (fun e => match e.2 with
    | .lineRefill j i _ => decide (e.1 = s.cyc + 6 ∧ j = k ∧ i < 8)
    | _ => false)

/-- A thread that runs and is not stopped. -/
def Running (x : Thread) : Prop := x.live = true ∧ x.halted = false ∧ x.stopped = false

end Sys2Proof.Claims

/-- R91, R94, R126, R298, R300, R302 to R304, R306: a refill writes its line into the share; a filler's line is read in a frame that reads fewer than 8 primary lines.
A posted TICK adds one to what is pending in the mask's running threads, and is taken before the instruction at Q0. A message enters the mailbox, or its
poster holds it, and a waiting reader of proctor 0 takes it at once, one of proctor 1 at the end of the cycle, after proctor 0's words of the cycle; IDLE ends with
a message or at its time. A park that ends gives its threads their queues back; a held
engine goes on, or its item fails.
Each event ends in a next state, in every state. -/
def Obligations.FetchAndProctorEvents : Prop :=
  (∀ (k t line : Nat) (s : State), ∃ u, exec (.lineRefill k t line) s = .next u) ∧
  (∀ (k line : Nat) (s : State), ∃ u, exec (.fillerFetch k line) s = .next u) ∧
  (∀ (k mask : Nat) (s : State), ∃ u, exec (.tickArrival k mask) s = .next u) ∧
  (∀ (k t : Nat) (s : State), ∃ u, exec (.tickTaken k t) s = .next u) ∧
  (∀ (k t since : Nat) (s : State), ∃ u, exec (.idleWake k t since) s = .next u) ∧
  (∀ (d : Nat) (msg : Message) (s : State), ∃ u, exec (.mailboxArrival d msg) s = .next u) ∧
  (∀ (k fill : Nat) (s : State), ∃ u, exec (.tileResume k fill) s = .next u) ∧
  (∀ (kind id : Nat) (s : State), ∃ u, exec (.engineRetry kind id) s = .next u) ∧
  (∀ (k i line : Nat) (s : State),
    let x := s.thread k i
    (line ∈ x.refill → ∃ t, exec (.lineRefill k i line) s = .next t ∧ OnlyThreadAt s t k i ∧
      t.thread k i = { x with lines := (t.thread k i).lines, refill := (t.thread k i).refill } ∧ (t.thread k i).hasLine line = true ∧
      line ∉ (t.thread k i).refill ∧ ∀ l, l % x.share ≠ line % x.share → (t.thread k i).hasLine l = x.hasLine l) ∧
    (line ∉ x.refill → exec (.lineRefill k i line) s = .next s)) ∧
  (∀ (k line : Nat) (s : State), ∃ t, exec (.fillerFetch k line) s = .next t ∧ t = { s with events := t.events } ∧
    if (primaryReads s k).length < 8 then Due t (s.cyc + 6) (.lineRefill k 8 line) else Due t (s.cyc + 16) (.fillerFetch k line)) ∧
  (∀ (k mask : Nat) (s : State), ∃ t, exec (.tickArrival k mask) s = .next t ∧ t = { s with tiles := t.tiles } ∧
    ∀ i, i < 8 → (t.thread k i).ticks = (s.thread k i).ticks +
      if mask.testBit i = true ∧ (s.tile k).prim ≠ none ∧ i < (s.launchOf k 0).nthr ∧ (s.thread k i).halted = false then 1 else 0) ∧
  (∀ (k i : Nat) (s : State),
    let x := s.thread k i
    (x.ticks ≠ 0 → x.tie = true → x.inTrap = false → x.tvec ≠ 0#64 → ∃ t, exec (.tickTaken k i) s = .next t ∧ MemoryKept s t ∧
      (t.thread k i).ticks = 0 ∧ (t.thread k i).inTrap = true ∧ (t.thread k i).q0 = x.tvec.setWidth 18 ∧ (t.thread k i).trap.tcause = 0x0E#64 ∧
      (t.thread k i).trap.tval = word (min x.ticks 0xFFFF) ∧ (t.thread k i).trap.epc0 = x.q0.setWidth 64 ∧ (t.thread k i).trap.tstat.getLsbD 2 = true ∧
      (t.thread k i).regs = x.regs ∧ ∀ j n, j ≠ k ∨ n ≠ i → t.thread j n = s.thread j n) ∧
    (x.ticks = 0 ∨ x.tie = false ∨ x.inTrap = true → exec (.tickTaken k i) s = .next s)) ∧
  (∀ (k i since : Nat) (s : State),
    let x := s.thread k i
    (∀ u, x.wait = .idle u → x.waitFrom = since → (s.die (dieOf k)).mailbox ≠ [] ∨ (u ≠ 0 ∧ u ≤ s.cyc) →
      ∃ t, exec (.idleWake k i since) s = .next t ∧ OnlyThreadAt s t k i ∧ (t.thread k i).wait = .none) ∧
    (∀ u, x.wait = .idle u → x.waitFrom ≠ since ∨ ((s.die (dieOf k)).mailbox = [] ∧ (u = 0 ∨ s.cyc < u)) → exec (.idleWake k i since) s = .next s) ∧
    ((∀ u, x.wait ≠ .idle u) → exec (.idleWake k i since) s = .next s)) ∧
  (∀ (d : Nat) (m : Message) (s : State), FirstPoster s d m →
    (NoReader s d [] → ∃ t, exec (.mailboxArrival d m) s = .next t ∧ t = { s with dies := t.dies, events := t.events } ∧
      ((s.die d).mailbox.length < 1024 → t.die d = { s.die d with mailbox := (s.die d).mailbox ++ [m] }) ∧
      (1024 ≤ (s.die d).mailbox.length → t.die d = { s.die d with waiting := (s.die d).waiting ++ [m] }) ∧
      ∀ e ∈ proctorThreads d, ∀ u, (s.thread e.1 e.2).wait = .idle u → Due t s.cyc (.idleWake e.1 e.2 (s.thread e.1 e.2).waitFrom)) ∧
    ∀ k i a rd, (k, i) ∈ proctorThreads d → (s.thread k i).wait = .mailbox a rd → NoReader s d [(k, i)] → (s.die d).mailbox = [] →
      (s.die d).waiting = [] → a + 32 ≤ 393216 →
      (k % 2 = 0 → ∃ t, exec (.mailboxArrival d m) s = .next t ∧ t.die d = s.die d ∧ MessageAt t k a m ∧
        BytesKept s t k a 32 ∧ (t.thread k i).wait = .none ∧
        (rd ≠ 0 → ∀ c, s.cyc + 12 ≤ c → (t.thread k i).readAt c 0 ((s.thread k i).phys rd) = (0x8000000000000000#64).setWidth 512)) ∧
      (k % 2 = 1 → ∃ t, exec (.mailboxArrival d m) s = .next t ∧ MemoryKept s t ∧ t.tiles = s.tiles ∧ (t.die d).mailbox = [m])) ∧
  (∀ (d k i a rd : Nat) (m : Message) (rest : List Message) (s : State), NoEvent s → s.dueProg = none → s.nextAct = none →
    (k, i) ∈ proctorThreads d → k % 2 = 1 → (s.thread k i).wait = .mailbox a rd → NoReader s d [(k, i)] → (s.die d).mailbox = m :: rest →
    (s.die d).waiting = [] → (∀ e ∈ s.dies, e.1 ≠ d → e.2.mailbox = []) → (∀ e ∈ s.outbox, s.cyc < e.due) → a + 32 ≤ 393216 →
    ∃ t, step s = .next t ∧ t.cyc = s.cyc + 1 ∧ MessageAt t k a m ∧ BytesKept s t k a 32 ∧ (t.die d).mailbox = rest ∧ (t.thread k i).wait = .none ∧
      (rd ≠ 0 → ∀ c, s.cyc + 12 ≤ c →
        (t.thread k i).readAt c 0 ((s.thread k i).phys rd) = (0x8000000000000000#64 + word rest.length).setWidth 512)) ∧
  (∀ (k : Nat) (s : State),
    ((s.tile k).parked = true → ∃ t, exec (.tileResume k 0) s = .next t ∧ MemoryKept s t ∧ (t.tile k).parked = false ∧ t.thread k 8 = s.thread k 8 ∧
      ∀ i, i < 8 → (¬ Running (s.thread k i) → t.thread k i = s.thread k i) ∧ ∀ n, Running (s.thread k i) → (s.thread k i).nested = some n →
        let x := s.thread k i
        let u := t.thread k i
        u.q0 = x.trap.epc0.setWidth 18 ∧ u.q1 = x.trap.epc1.setWidth 18 ∧ u.q2 = x.trap.epc2.setWidth 18 ∧ u.n0 = x.trap.tstat.getLsbD 0 ∧
        u.n1 = x.trap.tstat.getLsbD 1 ∧ u.trap = n ∧ u.nested = none ∧ u.stallDone = true ∧ u.regs = x.regs ∧ s.cyc ≤ u.notBefore) ∧
    ((s.tile k).parked = false → exec (.tileResume k 0) s = .next s)) ∧
  ∀ (id : Nat) (s : State),
    (∀ x, s.xfers.get id = some x → x.kind = .get → x.segs ≠ [] → x.verdict = 1 → ∃ t, exec (.engineRetry 0 id) s = .next t ∧ MemoryKept s t ∧
      (∃ y, t.xfers.get id = some y ∧ y.ticket = 0) ∧ Due t s.cyc (.getLand id)) ∧
    (∀ x, s.xfers.get id = some x → x.final = false → x.verdict = 2 → ∃ t, exec (.engineRetry 0 id) s = .next t ∧ MemoryKept s t ∧
      t.xfers.get id = none) ∧
    (s.xfers.get id = none ∨ (∃ x, s.xfers.get id = some x ∧ x.verdict = 0) → exec (.engineRetry 0 id) s = .next s) ∧
    (∀ key, s.pslotOf id = some key →
      ((s.prog key).st = 3 → (s.prog key).verdict = 1 → ∃ t, exec (.engineRetry 1 id) s = .next t ∧ t = { s with progs := t.progs } ∧
        t.prog key = { s.prog key with st := 1, verdict := 0, due := s.cyc } ∧ ∀ j, j ≠ key → t.prog j = s.prog j) ∧
      ((s.prog key).st = 3 → (s.prog key).verdict = 2 → (s.prog key).wrote = [] → s.moveWindow key = [] → ∃ t, exec (.engineRetry 1 id) s = .next t ∧
        MemoryKept s t ∧ (t.prog key).st = 6 ∧ (t.prog key).status = if (s.prog key).status = 0 then 1 else (s.prog key).status) ∧
      ((s.prog key).st ≠ 3 → exec (.engineRetry 1 id) s = .next s)) ∧
    (s.pslotOf id = none → exec (.engineRetry 1 id) s = .next s) ∧
    ∃ t, exec (.engineRetry 2 id) s = .next t ∧ MemoryKept s t ∧ ∀ c ∈ t.mqueue (id / 2) (id % 2), c.stage ≠ 5

/-! ## Gang-stop, save, restore and save seals (R307 to R312, R318, R319, R334) -/

/-- R307 to R309, R311, R334: a gang-stop stops every running thread of the launch with its queue saved, waits until its engines have come to rest, climbs the report
tree, and then saves, or holds the launch and tells the proctor that asked; a stop that finds the launch stopped, or gone, tells it at once. KILL stops at once and
drops everything in flight, after a replay that runs (R326). A save keeps the launch's area and frees
its tiles; a restore puts its bytes and its tiles back and starts it by broadcast. A stop is named by its kind, 0 pre-emption, 1 GSTOP, 2 save seal, 3 KILL, with 10
more while the engines come to rest, 20 more on the report's arrival, and in the hundreds the proctor tile that asks.
The model's choices: when engines are at rest (log entry 59), when a second GSTOP is answered (log entry 91), what a KILL leaves of buckets and firings (log entry
105), what of a save keeps to its record (log entry 77), and that a launch whose completion has begun to be reported is not pre-empted (log entry 70).
Each event ends in a next state, in every state. -/
def Obligations.GangStopSaveRestore : Prop :=
  (∀ (lid why : Nat) (s : State), ∃ u, exec (.gangStop lid why) s = .next u) ∧
  (∀ (lid : Nat) (s : State), (∃ u, exec (.contextSave lid) s = .next u) ∧
    ∃ u, exec (.contextRestore lid) s = .next u) ∧
  ∀ (lid : Nat) (s : State),
    let l := s.launch lid
    (∀ code, code % 100 ≤ 2 → l.state = .running → (code % 100 = 0 → l.completed = false ∧ l.topDone = false) →
      ∃ t, exec (.gangStop lid code) s = .next t ∧ MemoryKept s t ∧ t.xfers = s.xfers ∧ (t.launch lid).state = .stopping (code % 100) ∧
        (t.launch lid).stopAt = s.cyc ∧ Due t (s.cyc + 1) (.gangStop lid (code + 10)) ∧
        (code % 100 = 0 → ∀ f ∈ s.fillersOf lid, Due t s.cyc (.gangStop f 0)) ∧
        ∀ m ∈ s.membersOf lid, Running (s.thread m.1 m.2) →
          let x := s.thread m.1 m.2
          let u := t.thread m.1 m.2
          u.stopped = true ∧ u.regs = x.regs ∧ ((∀ c o, x.wait ≠ .swait c o) → x.nested = none →
            u.nested = some x.trap ∧ u.trap.epc0 = x.q0.setWidth 64 ∧ u.trap.epc1 = x.q1.setWidth 64 ∧ u.trap.epc2 = x.q2.setWidth 64 ∧
            u.trap.tstat.getLsbD 0 = x.n0 ∧ u.trap.tstat.getLsbD 1 = x.n1)) ∧
    (l.state = .running → l.completed = true ∨ l.topDone = true → exec (.gangStop lid 0) s = .next s) ∧
    (lid ∈ s.members → s.replaying l.podSeal = true → ∃ t, exec (.gangStop lid 3) s = .next t ∧ t = { s with events := t.events } ∧
      Due t (s.cyc + 1) (.gangStop lid 3)) ∧
    (l.state = .running → s.fillersOf lid = [] → s.replaying l.podSeal = false → ∃ t, exec (.gangStop lid 3) s = .next t ∧ MemoryKept s t ∧ (t.launch lid).state = .stopping 3 ∧
      (∀ id x, t.xfers.get id = some x → x.lid ≠ lid) ∧ (∀ b ∈ t.bells, b.lid ≠ lid) ∧ (∀ w ∈ t.streamWrites, w.lid ≠ lid) ∧
      Due t (s.cyc + s.reportTime lid) (.killQuiesced lid)) ∧
    (∀ code, code % 100 ≤ 2 → l.state = .stopping (code % 100) →
      (s.atRest lid = true → ∃ t, exec (.gangStop lid (code + 10)) s = .next t ∧ t = { s with launches := t.launches, events := t.events } ∧
        (t.launch lid).state = .stopping (code % 100 + 10) ∧ Due t (s.cyc + s.reportTime lid) (.gangStop lid (code + 20))) ∧
      (s.atRest lid = false → ∃ t, exec (.gangStop lid (code + 10)) s = .next t ∧ t = { s with events := t.events } ∧
        Due t (s.cyc + 1) (.gangStop lid (code + 10)))) ∧
    (l.state = .stopping 10 → ∃ t c, exec (.gangStop lid 20) s = .next t ∧ t = { s with events := t.events } ∧ s.cyc + 1000 ≤ c ∧
      Due t c (.contextSave lid)) ∧
    (∀ k, l.state = .stopping 11 → ∃ t m, exec (.gangStop lid (21 + 100 * (k + 1))) s = .next t ∧ (t.launch lid).state = .heldStop ∧
      Due t (s.cyc + 20) (.mailboxArrival (dieOf k) m) ∧ m.kind = 7 ∧ m.unit = 8 ∧ m.detail = 0 ∧ m.ctx = l.ctx) ∧
    (∀ k, (∃ w, l.state = .stopping w ∧ 10 ≤ w ∧ w ≠ 11) ∨ (l.state = .heldStop ∧ s.resuming lid = false) →
      ∃ t m, exec (.gangStop lid (1 + 100 * (k + 1))) s = .next t ∧ t = { s with events := t.events } ∧
        Due t (s.cyc + 20) (.mailboxArrival (dieOf k) m) ∧ m.kind = 7 ∧ m.unit = 8 ∧ m.detail = 0 ∧ m.ctx = l.ctx) ∧
    (∀ k, l.state = .stopping 3 ∨ l.state = .killed ∨ l.state = .done → ∃ t m, exec (.gangStop lid (1 + 100 * (k + 1))) s = .next t ∧
      t = { s with events := t.events } ∧ Due t (s.cyc + 20) (.mailboxArrival (dieOf k) m) ∧ m.kind = 7 ∧ m.unit = 8 ∧ m.detail = 1) ∧
    (∀ code, l.state = .heldStop → s.resuming lid = true → code < 3 → ∃ t, exec (.gangStop lid code) s = .next t ∧ t = { s with events := t.events } ∧
      Due t (s.cyc + 1) (.gangStop lid code)) ∧
    (l.state = .heldStop → s.resuming lid = false → ∃ t c, exec (.gangStop lid 0) s = .next t ∧ (t.launch lid).state = .stopping 10 ∧ s.cyc + 1000 ≤ c ∧
      Due t c (.contextSave lid)) ∧
    (l.state = .stopping 12 → ∃ t, exec (.gangStop lid 22) s = .next t ∧ t = { s with launches := t.launches } ∧ (t.launch lid).state = .heldStop) ∧
    (l.state = .stopping 10 → ∃ t, exec (.contextSave lid) s = .next t ∧ t.saves = s.saves ++ [(s.recorded lid).saveArea lid] ∧
      (t.launch lid).state = .saved ∧ (t.launch lid).preempted = true ∧ ∀ k ∈ s.tilesOf lid, if l.isFiller then (t.tile k).filler = none else (t.tile k).prim = none) ∧
    (l.state ≠ .stopping 10 → exec (.contextSave lid) s = .next s) ∧
    (s.saves.find? (fun v => v.lid == lid) = none → exec (.contextRestore lid) s = .next s) ∧
    (l.state ≠ .saved → exec (.contextRestore lid) s = .next s) ∧
    ∀ held v, s.saves.find? (fun v => v.lid == lid) = some held → v = s.readSave held → l.state = .saved →
      (v.progs.any (fun e => e.2.busy && (s.prog e.1).busy) = true → ∃ t, exec (.contextRestore lid) s = .next t ∧ t = { s with events := t.events } ∧
        Due t (s.cyc + 1) (.contextRestore lid)) ∧
      (v.progs.any (fun e => e.2.busy && (s.prog e.1).busy) = false → l.isFiller = false → v.pages = [] → Memory.wf v.mem = true →
        (v.tiles.map Prod.fst).Nodup → ∃ t, exec (.contextRestore lid) s = .next t ∧ (t.launch lid).state = .heldStop ∧
          Due t (s.cyc + s.startTime lid) (.startBroadcast lid) ∧ (∀ w ∈ t.saves, w.lid ≠ lid) ∧
          (∀ k i, (k, i) ∈ v.tiles → (t.tile k).prim = i.prim ∧ (t.tile k).windows = i.windows ∧ (t.tile k).bfmt = i.bfmt ∧ (t.tile k).mq = i.mq ∧
            (t.tile k).filler = (s.tile k).filler ∧ ∀ n, n < 8 → t.thread k n = i.threads.get n) ∧
          (∀ k, k ∉ v.tiles.map Prod.fst → t.tile k = s.tile k) ∧
          ∀ sp a, a < sp.size → savedKey (v.tiles.map Prod.fst) (v.groups.map Prod.fst) (sp.key a) = true → t.byte sp a = Memory.get v.mem (sp.key a))

namespace Sys2Proof.Claims

/-- R181: the oldest entry of a tile's primary share, a ring of 448. -/
def oldestEntry (t : Tile) : UndoEntry := t.log.get ((t.fillPrim + 448 - t.undoPrim % 448) % 448)

/-- Table 17.2: an entry stands at the tail of a group undo area, with its header, and the tail index is one on; no other byte changes. -/
def EntersArea (s t : State) (g : Nat) (e : UndoEntry) : Prop :=
  let i := ((s.group g).undoHead + (s.group g).undo) % 7168
  (∀ j, j < 64 → t.byte (.group g) (0x140000 + 64 * i + j) = e.old.getD j 0#8) ∧
  t.num (.group g) (0x1B0000 + 8 * i) 8 = e.header % 18446744073709551616 ∧ t.num (.group g) 0x1BE008 8 = (i + 1) % 7168 ∧
  ∀ sp x, x < sp.size → (sp = .group g → (x < 0x140000 + 64 * i ∨ 0x140000 + 64 * i + 64 ≤ x) ∧ (x < 0x1B0000 + 8 * i ∨ 0x1B0000 + 8 * i + 8 ≤ x) ∧
    (x < 0x1BE008 ∨ 0x1BE010 ≤ x)) → t.byte sp x = s.byte sp x

end Sys2Proof.Claims

/-- R181, R316, R318, R319, R321: a tile's share drains a line to the group area while that has room, and the group area to its package's region; a region full for
the emergency timeout makes an emergency save seal. A save seal stops every placed member, waits until all are held, keeps their save and commits the interval,
and starts them again; one that is called off starts them again alone.
The model's choices: undo entries as data beside their bytes (log entry 29), where an area lies and what of a save keeps to its record (log entry 77), and how an
emergency seal's time is counted (log entry 61).
Each event ends in a next state, in every state. -/
def Obligations.DrainsAndSaveSeals : Prop :=
  (∀ (k share : Nat) (s : State), ∃ u, exec (.undoLogDrain k share) s = .next u) ∧
  (∀ (g : Nat) (s : State), ∃ u, exec (.groupUndoDrain g) s = .next u) ∧
  (∀ (emergency : Nat) (s : State), ∃ u, exec (.saveSeal emergency) s = .next u) ∧
  (∀ (p since : Nat) (s : State), ∃ u, exec (.emergencyTimeout p since) s = .next u) ∧
  (∀ (k : Nat) (s : State),
    let n := (s.tile k).undoPrim
    let g := groupOf k
    (n = 0 → ∃ t, exec (.undoLogDrain k 0) s = .next t ∧ t = { s with tiles := t.tiles } ∧ t.tile k = { s.tile k with drainP := false }) ∧
    (n ≠ 0 → 7168 ≤ (s.group g).undo → ∃ t, exec (.undoLogDrain k 0) s = .next t ∧ t = { s with events := t.events } ∧
      Due t (s.cyc + 1) (.undoLogDrain k 0)) ∧
    (n ≠ 0 → (s.group g).undo < 7168 → (oldestEntry (s.tile k)).old.length ≤ 64 → ∃ t, exec (.undoLogDrain k 0) s = .next t ∧
      EntersArea s t g (oldestEntry (s.tile k)) ∧ t.undo = s.undo ∧ (t.tile k).undoPrim = n - 1 ∧
      (t.tile k).undoExch = (s.tile k).undoExch ∧ (t.group g).undo = (s.group g).undo + 1 ∧
      ((s.group g).draining = false → Due t (s.cyc + 8) (.groupUndoDrain g)) ∧ (n ≠ 1 → Due t (s.cyc + 2) (.undoLogDrain k 0)))) ∧
  (∀ (g : Nat) (s : State),
    let p := g / 2048
    ((s.group g).undo = 0 → ∃ t, exec (.groupUndoDrain g) s = .next t ∧ t = { s with groups := t.groups } ∧ (t.group g).draining = false) ∧
    ((s.group g).undo ≠ 0 → s.undoSize p ≤ (s.pkg p).undo → ∃ t, exec (.groupUndoDrain g) s = .next t ∧ t = { s with events := t.events } ∧
      Due t (s.cyc + 8) (.groupUndoDrain g)) ∧
    ((s.group g).undo ≠ 0 → (s.pkg p).undo < s.undoSize p → ∃ t, exec (.groupUndoDrain g) s = .next t ∧
      t.num (.group g) 0x1BE000 8 = ((s.group g).undoHead + 1) % 7168 ∧
      (∀ sp x, x < sp.size → (sp = .group g → x < 0x1BE000 ∨ 0x1BE008 ≤ x) → t.byte sp x = s.byte sp x) ∧
      (t.group g).undo = (s.group g).undo - 1 ∧ (t.pkg p).undo = (s.pkg p).undo + 1 ∧
      (3 * s.undoSize p ≤ 4 * ((s.pkg p).undo + 1) → t.sealAsked = true) ∧
      (s.fullSince = none → s.undoSize p ≤ (s.pkg p).undo + 1 → t.fullSince = some s.cyc ∧
        Due t (s.cyc + (s.mg p 0x28).toNat) (.emergencyTimeout p s.cyc)))) ∧
  (∀ (p since : Nat) (s : State),
    (s.fullSince = some since → ∃ t, exec (.emergencyTimeout p since) s = .next t ∧ t = { s with events := t.events } ∧ Due t s.cyc (.saveSeal 1)) ∧
    (s.fullSince ≠ some since → exec (.emergencyTimeout p since) s = .next s)) ∧
  ∀ s : State,
    let ms := s.placedMembers
    let begins := s.sealAsked = true ∧ ms ≠ [] ∧ ∀ l ∈ ms, s.atSealSync l = true ∧ (s.launch l).state = .running
    (begins → ∃ t, exec (.saveSeal 0) s = .next t ∧ t = { s with events := t.events } ∧ (∀ l ∈ ms, Due t (s.cyc + s.stopTime l) (.gangStop l 2)) ∧
      Due t (s.cyc + 1) (.saveSeal 4)) ∧
    (¬ begins → exec (.saveSeal 0) s = .next s) ∧
    (∃ t, exec (.saveSeal 1) s = .next t ∧ t = { s with events := t.events } ∧ (∀ l ∈ ms, Due t (s.cyc + s.stopTime l) (.gangStop l 2)) ∧
      Due t (s.cyc + 1) (.saveSeal 5)) ∧
    (∀ n, n = 4 ∨ n = 5 →
      ((∀ l ∈ ms, (s.launch l).state = .heldStop ∧ s.resuming l = false) → ∃ t, exec (.saveSeal n) s = .next t ∧ t = { s with events := t.events } ∧
        Due t (s.cyc + s.sealTime ms) (.saveSeal (n - 2))) ∧
      ((∃ l ∈ ms, (s.launch l).state ≠ .heldStop ∨ s.resuming l = true) → ∃ t, exec (.saveSeal n) s = .next t ∧ t = { s with events := t.events } ∧
        Due t (s.cyc + 1) (.saveSeal n))) ∧
    (∃ t, exec (.saveSeal 6) s = .next t ∧ ∀ l ∈ ms, (s.launch l).state = .heldStop → (s.launch l).stopper = none → s.resuming l = false →
      Due t (s.cyc + s.startTime l) (.startBroadcast l)) ∧
    ∀ n, n = 2 ∨ n = 3 → ∃ t, exec (.saveSeal n) s = .next t ∧
      t.rin = (if s.membersIn false = [] then s.rin else s.rin + 1#32) ∧ t.podRin = (if s.membersIn true = [] then s.podRin else s.podRin + 1#32) ∧
      (∀ e, e ∈ t.undo ↔ e ∈ s.undo ∧ s.membersIn e.pod = []) ∧
      (s.members ≠ [] → t.sealAsked = false ∧ t.fullSince = none ∧ ((∀ e ∈ s.undo, s.membersIn e.pod ≠ []) → t.logged = [])) ∧
      (∃ w, t.cut = some w ∧ (∀ l ∈ ms, (s.recorded l).saveArea l ∈ w.saves) ∧ (∀ v ∈ s.saves, v.lid ∈ s.members → v ∈ w.saves) ∧
        (∀ b ∈ s.bells, b.lid ∈ s.members → b ∈ w.bells) ∧ ∀ x ∈ s.streamWrites, x.lid ∈ s.members → x ∈ w.writes) ∧
      (∀ l ∈ s.members, (t.launch l).hadSeal = true) ∧
      (∀ l ∈ ms, (s.launch l).stopper = none → Due t (s.cyc + s.sealTime ms + s.startTime l) (.startBroadcast l)) ∧
      ((∀ e ∈ s.pkgs, e.2.escrow = []) → (∀ e ∈ s.groups, e.2.undo = 0) →
        (∀ l ∈ ms, ({ s with cut := none } : State).areasFor l = none) → MemoryKept s t)

/-- R211, R324 to R328, R335, R368: an uncorrectable error in what is a member's freezes the die's ring and begins a rollback, whose stop reaches every member 180
cycles later; another parks the tile, a filler's alone where it is the filler's, or gives the line POISON, and tells the proctor; a place outside recovery gets POISON
alone. When the stop arrives, every member's threads stand and their bells are gone. A replay that ends has written every undo entry's old bytes back, newest first.
A rollback that ends has left rin, emptied the logs and put every member thread back to its seal record, with rbk one higher and abt naming the record that was
selected, and every window's counts and status.
The model's choices: how a fault names its place (log entry 34), that the stop takes 180 cycles whatever a member does (log entry 92), that a thread leaves its
handler and that named barriers are empty (log entries 32 and 44), the level in abt (log entry 76), and undo entries as data (log entry 29).
Each event ends in a next state, in every state. -/
def Obligations.FaultsAndRollback : Prop :=
  (∀ (unit index place : Nat) (s : State), ∃ u, exec (.uncorrectableFault unit index place) s = .next u) ∧
  (∀ (code origin : BitVec 32) (s : State), ∃ u, exec (.rollbackDone code origin) s = .next u) ∧
  (∀ (unit index place : Nat) (s : State),
    (∀ pod, unit = 6 ∨ (unit = 9 ∧ place / 256 ≠ 8) ∨ (unit = 2 ∧ place < 4) → (∃ l ∈ s.membersIn pod, (s.tile index).prim = some l) →
      ∃ t, exec (.uncorrectableFault unit index place) s = .next t ∧ (t.die (dieOf index)).frozen = true ∧
        Due t (s.cyc + 180) (.rollbackDone (if pod then 0x30000#32 else 0x20000#32) 0) ∧ MemoryKept s t ∧ t.tiles = s.tiles ∧ t.undo = s.undo ∧
        ∀ l ∈ s.membersIn pod, (s.launch l).state ≠ .saved → (t.launch l).state = .stopping 4) ∧
    (∀ f, (unit = 9 ∧ place / 256 = 8) ∨ (unit = 2 ∧ 4 ≤ place) → (s.tile index).filler = some f → (s.launch f).isFiller = true →
      ∃ t m, exec (.uncorrectableFault unit index place) s = .next t ∧ MemoryKept s t ∧ t.launches = s.launches ∧ (t.tile index).fillParked = true ∧
        (t.tile index).parked = (s.tile index).parked ∧ (t.die (dieOf index)).frozen = true ∧ Due t (s.cyc + 20) (.mailboxArrival (dieOf index) m) ∧
        m.kind = 3 ∧ m.unit = unit ∧ m.ctx = (s.launch f).ctx ∧ m.item = (s.thread index 8).faultPc.toNat) ∧
    (s.members = [] → unit = 6 → (s.tile index).prim ≠ none → ∃ t m, exec (.uncorrectableFault unit index place) s = .next t ∧ MemoryKept s t ∧
      (t.tile index).parked = true ∧ (t.die (dieOf index)).frozen = true ∧ Due t (s.cyc + 20) (.mailboxArrival (dieOf index) m) ∧ m.kind = 3 ∧
      m.unit = 6 ∧ m.location = word place ∧ m.item = (s.thread index 0).faultPc.toNat) ∧
    (unit = 10 ∨ unit = 11 ∨ unit = 12 →
      let key := if unit = 10 then (Space.group index).key place else if unit = 11 then (Space.tensor index).key place else (Space.hbm index).key place
      let d := if unit = 10 then index / 256 else if unit = 11 then index else 8 * index
      (s.members = [] → s.unlogged unit index place = false → ∃ t m, exec (.uncorrectableFault unit index place) s = .next t ∧ MemoryKept s t ∧
        t.poison.get (key / 64) = true ∧ (t.die d).frozen = true ∧
        t.tiles = s.tiles ∧ Due t (s.cyc + 20) (.mailboxArrival d m) ∧ m.kind = 3 ∧ m.unit = unit) ∧
      (∀ pod, s.unlogged unit index place = false → (∃ l ∈ s.membersIn pod, s.concerns l unit index place = true) →
        ∃ t, exec (.uncorrectableFault unit index place) s = .next t ∧ (t.die d).frozen = true ∧
          Due t (s.cyc + 180) (.rollbackDone (if pod then 0x30000#32 else 0x20000#32) 0) ∧ MemoryKept s t ∧ t.tiles = s.tiles ∧ t.undo = s.undo) ∧
      (s.unlogged unit index place = true → ∃ t, exec (.uncorrectableFault unit index place) s = .next t ∧
        t = { s with dies := t.dies, poison := s.poison.set (key / 64) true } ∧ (t.die d).frozen = true))) ∧
  (∀ (code origin : BitVec 32) (s : State), code.getLsbD 17 = true → (∀ e ∈ s.launches, e.2.isFiller = false) →
    let pod := code.getLsbD 16
    let ms := s.membersIn pod
    ∃ t, exec (.rollbackDone code origin) s = .next t ∧ MemoryKept s t ∧ t.rin = s.rin ∧ t.podRin = s.podRin ∧ t.undo = s.undo ∧
      Due t (s.cyc + s.replayTime pod) (.rollbackDone ((if pod then 0x50000#32 else 0x40000#32) ||| (code.setWidth 16).setWidth 32) origin) ∧
      ∀ l ∈ ms, (∀ e ∈ t.bells, e.lid ≠ l) ∧ ((s.launch l).state ≠ .saved → (t.launch l).state = .stopping 4) ∧
        ∀ k ∈ s.tilesOf l, ∀ i, i < 8 → (s.thread k i).live = true → (t.thread k i).stopped = true) ∧
  (∀ (code origin : BitVec 32) (s : State), code.getLsbD 17 = false → code.getLsbD 18 = true →
    (∀ e ∈ s.undo, (s.launch e.lid).state ≠ .saved) →
    let pod := code.getLsbD 16
    (∀ e ∈ s.undo, e.pod = pod ∧ ∃ l ∈ s.membersIn pod, (s.launch l).ctx = e.ctx) →
    ∃ t, exec (.rollbackDone code origin) s = .next t ∧ t.undo = s.undo ∧ t.rin = s.rin ∧ t.podRin = s.podRin ∧
      t.mem = s.undo.foldl (fun m e => if e.kind = 2 then m else Memory.putAll m e.place e.old) s.mem ∧
      Due t (s.cyc + 4 + 8 * ((s.membersIn pod).map (fun l => (s.launch l).nthr)).foldl max 0)
        (.rollbackDone ((if pod then 0x10000#32 else 0#32) ||| (code.setWidth 16).setWidth 32) origin)) ∧
  ∀ (code origin : BitVec 32) (s : State), code.getLsbD 17 = false → code.getLsbD 18 = false → s.saves = [] → s.cut = none → Tab.canon default s.tiles = true → s.members.Nodup →
    let pod := code.getLsbD 16
    s.members = s.membersIn pod → (∀ e ∈ s.undo, e.pod = pod) → (∀ e ∈ s.groups, e.2.undo = 0) →
    (∀ e ∈ s.tiles, e.2.filler = none ∧ Tab.canon default e.2.threads = true) →
    (∀ l ∈ s.members, (s.launch l).hadSeal = true ∧ (s.launch l).state ≠ .saved) →
    ∃ t, exec (.rollbackDone code origin) s = .next t ∧ t.rin = s.rin ∧ t.podRin = s.podRin ∧ t.undo = [] ∧ t.logged = [] ∧
      (∀ e ∈ t.fabricLog, e.pod ≠ pod) ∧ t.fullSince = none ∧ t.mem = s.mem ∧
      ∀ l ∈ s.members, (t.launch l).state = .running ∧ ∀ k ∈ s.tilesOf l,
        let b := (s.tile k).sealBuf
        (∀ i, i < 16 → (t.tile k).windows.get i = { (s.tile k).windows.get i with c := (b.windows.get i).c, rel := (b.windows.get i).rel
                                                                                  status := (b.windows.get i).status, landed := (b.windows.get i).landed }) ∧
        (t.tile k).xperm = b.xperm ∧ (t.tile k).lst = b.lst ∧ (t.tile k).mq = [] ∧ (t.tile k).parked = false ∧
        (∀ i, i < 64 → (t.tile k).acc.get i = 0#512) ∧
        ∀ i r, i < 8 → (s.thread k i).live = true → b.threads.get i = some r →
          let u := t.thread k i
          u.q0 = r.q0 ∧ u.q1 = r.q1 ∧ u.q2 = r.q2 ∧ u.n0 = r.n0 ∧ u.n1 = r.n1 ∧ u.halted = false ∧ u.stopped = false ∧ u.wait = .none ∧
          u.inTrap = false ∧ u.rbk = (s.thread k i).rbk + 1#64 ∧ u.vregs = [] ∧ u.mregs = [] ∧ u.pend = [] ∧ u.ss = r.ss ∧ u.base = r.base ∧
          u.tvec = r.tvec ∧ u.notBefore = s.cyc + 202 ∧
          u.abt = (word (s.launch l).sealLevel <<< 48) ||| (origin.setWidth 64 <<< 16) ||| (code.setWidth 16).setWidth 64 ∧
          (r.rd = 0 → u.regs = r.octets.foldl (fun (a : Tab Word) e => a.set e.1 e.2) r.globals) ∧
          (r.rd ≠ 0 → u.regs.get (u.phys r.rd) = u.rbk)

/-! ## Retirement, power, resets and management (R313, R328 to R341) -/

/-- R330 to R333: a tile retires when nothing of it runs; a level that has wholly halted has its final exchange without a bell; the last report of a unit starts the
unit's own, up to the launch; with recovery the open interval is then committed; once the escrow is acknowledged the launch completes, its completion counter
takes its add, and it is DONE with its tiles free. A launch that is over ignores reports, and a stopped one has them wait (log entry 70).
The model's other choices: that a launch's commit closes its domain's open interval for every member (log entry 63), and that its fillers are stopped as it completes
(log entry 67).
Each event ends in a next state, in every state. -/
def Obligations.CompletionClimbs : Prop :=
  (∀ (k : Nat) (s : State), ∃ u, exec (.tileRetire k) s = .next u) ∧
  (∀ (lid lvl inst : Nat) (s : State), (∃ u, exec (.finalExchange lid lvl inst) s = .next u) ∧
    ∃ u, exec (.completionReport lid lvl inst) s = .next u) ∧
  (∀ (lid : Nat) (s : State), (∃ u, exec (.completionCommit lid) s = .next u) ∧
    (∃ u, exec (.launchComplete lid) s = .next u) ∧
    (∃ u, exec (.completionAdd lid) s = .next u) ∧
    ∃ u, exec (.completionAddDone lid) s = .next u) ∧
  (∀ (k : Nat) (s : State), (s.tile k).filler = none →
    (∀ lid, (s.tile k).prim = some lid → (s.tile k).retired = false → s.tileQuiet lid k = true → ∃ t, exec (.tileRetire k) s = .next t ∧
      t = { s with tiles := t.tiles, events := t.events } ∧ t.tile k = { s.tile k with retired := true } ∧ ∀ j, j ≠ k → t.tile j = s.tile j) ∧
    ((s.tile k).prim = none → exec (.tileRetire k) s = .next s) ∧
    (∀ lid, (s.tile k).prim = some lid → s.tileQuiet lid k = false → exec (.tileRetire k) s = .next s)) ∧
  ∀ (lid : Nat) (s : State),
    let l := s.launch lid
    (∀ lvl inst,
      (s.bellAt lid lvl inst = none → s.awake lid lvl inst = [] → s.atInst lid lvl inst ≠ [] → ∃ t, exec (.finalExchange lid lvl inst) s = .next t ∧
        BellStands t lid lvl inst (fun y => y.phase = 1 ∧ y.isFinal = true ∧ s.cyc ≤ y.upto ∧ Due t y.upto (.writeHalf lid lvl inst))) ∧
      (s.bellAt lid lvl inst ≠ none ∨ s.awake lid lvl inst ≠ [] ∨ s.atInst lid lvl inst = [] → exec (.finalExchange lid lvl inst) s = .next s)) ∧
    (l.over = true → (∀ lvl inst, exec (.completionReport lid lvl inst) s = .next s) ∧ exec (.completionCommit lid) s = .next s ∧
      exec (.launchComplete lid) s = .next s) ∧
    (l.over = false → l.state ≠ .running →
      (∀ lvl inst, ∃ t, exec (.completionReport lid lvl inst) s = .next t ∧ t = { s with events := t.events } ∧
        Due t (s.cyc + 1) (.completionReport lid lvl inst)) ∧
      (∃ t, exec (.completionCommit lid) s = .next t ∧ t = { s with events := t.events } ∧ Due t (s.cyc + 1) (.completionCommit lid)) ∧
      ∃ t, exec (.launchComplete lid) s = .next t ∧ t = { s with events := t.events } ∧ Due t (s.cyc + 1) (.launchComplete lid)) ∧
    (l.over = false → l.state = .running →
      (∀ g, g ∉ l.grpDone → ∃ t, exec (.completionReport lid 0 g) s = .next t ∧ t = { s with launches := t.launches, events := t.events } ∧
        (t.launch lid).grpDone = g :: l.grpDone ∧ ((∀ h ∈ s.groupsOf lid, h / 256 = g / 256 → h = g ∨ h ∈ l.grpDone) →
          Due t (s.cyc + 20) (.completionReport lid 1 (g / 256)))) ∧
      (∀ d, ∃ t, exec (.completionReport lid 1 d) s = .next t ∧ (t.launch lid).dieDone = d :: l.dieDone ∧
        ((∀ h ∈ s.groupsOf lid, h / 2048 = d / 8 → h / 256 = d ∨ h / 256 ∈ l.dieDone) → Due t (s.cyc + 64) (.completionReport lid 2 (d / 8)))) ∧
      (∀ p, ∃ t, exec (.completionReport lid 2 p) s = .next t ∧ (t.launch lid).pkgDone = p :: l.pkgDone ∧
        (l.place.packages.length ≤ 1 → (t.launch lid).topDone = true ∧ Due t s.cyc (.completionCommit lid)) ∧
        (1 < l.place.packages.length → (∀ q ∈ l.place.packages, q = p ∨ q ∈ l.pkgDone) → Due t (s.cyc + 180) (.completionReport lid 3 0))) ∧
      (∃ t, exec (.completionReport lid 3 0) s = .next t ∧ (t.launch lid).topDone = true ∧ Due t s.cyc (.completionCommit lid)) ∧
      (l.topDone = true → l.committed = false → (∀ e ∈ s.progs, e.2.lid = lid → e.2.busy = false) → ∃ t, exec (.completionCommit lid) s = .next t ∧
        (t.launch lid).committed = true ∧ Due t s.cyc (.launchComplete lid) ∧ (l.recover = false → t.rin = s.rin ∧ t.undo = s.undo ∧ MemoryKept s t) ∧
        (l.recover = true → (t.launch lid).acks = s.openEscrow l.podSeal) ∧
        (l.recover = true → t.rin = (if l.podSeal then s.rin else s.rin + 1#32) ∧ t.podRin = (if l.podSeal then s.podRin + 1#32 else s.podRin) ∧
          t.undo = s.undo.filter (fun e => e.pod != l.podSeal) ∧ ((∀ e ∈ s.undo, e.pod = l.podSeal) → t.logged = []))) ∧
      (l.topDone = false ∨ l.committed = true → exec (.completionCommit lid) s = .next s) ∧
      (l.committed = true → l.completed = false → s.escrowDone lid = true → ∃ t, exec (.launchComplete lid) s = .next t ∧ MemoryKept s t ∧
        (t.launch lid).completed = true ∧ Due t (s.cyc + 36) (.completionAdd lid) ∧
        ∀ f ∈ s.fillersOf lid, Due t (s.cyc + s.stopTime f) (.gangStop f 0)) ∧
      (l.committed = false ∨ l.completed = true ∨ s.escrowDone lid = false → exec (.launchComplete lid) s = .next s)) ∧
    (l.state = .done ∨ l.completed = false → exec (.completionAdd lid) s = .next s ∧ exec (.completionAddDone lid) s = .next s) ∧
    (l.state ≠ .done → l.completed = true →
      (∀ e, l.completion = some e →
        (∃ t, exec (.completionAdd lid) s = .next t ∧ t = { s with events := t.events } ∧ Due t (s.cyc + 200) (.completionAddDone lid)) ∧
        exec (.completionAddDone lid) s = .next ((s.addCounter (l.place.packages.headD l.pkg) l.ctx e.1 e.2).finishLaunch lid)) ∧
      (l.completion = none → exec (.completionAdd lid) s = .next (s.finishLaunch lid)) ∧
      ((s.finishLaunch lid).launch lid).state = .done ∧
      ∀ k ∈ s.tilesOf lid, if l.isFiller then ((s.finishLaunch lid).tile k).filler = none else ((s.finishLaunch lid).tile k).prim = none)

/-- R313, R328, R329, R337, R339 to R341: each tick of the ramp limiter lowers the floor by the slew, but never below the measured power, and takes the slew off what the
first held release lacks; telemetry goes to its ring where there is one; an overtemperature is flagged, and a thermal shutdown freezes the package's rings and
cuts the power. Cold reset keeps host memory alone, warm reset also cyc, HBM and the tensor stores. Repairs are learned and committed. Verified firmware
starts both proctors of each die in system mode at offset 0; firmware that fails its check starts nothing, and nothing of the module issues from then on.
The model's choices: powers as free values (log entry 7), whether firmware verifies (log entry 8), what resets keep (log entries 17 and 71), where and how proctors
start (log entry 72), and that there is no record while TEL.RING is 0 (log entry 107).
Each event ends in a next state, in every state. -/
def Obligations.PowerResetAndBoot : Prop :=
  (∀ (s : State), (∃ u, exec .rampTick s = .next u) ∧
    (∃ u, exec .telemetryTick s = .next u) ∧
    (∃ u, exec .coldReset s = .next u) ∧
    ∃ u, exec .warmReset s = .next u) ∧
  (∀ (p : Nat) (s : State), (∃ u, exec (.overtempWarning p) s = .next u) ∧
    ∃ u, exec (.thermalShutdown p) s = .next u) ∧
  (∀ (d col : Nat) (s : State), (∃ u, exec (.repairLearned d col) s = .next u) ∧
    ∃ u, exec (.repairCommit d col) s = .next u) ∧
  (∀ (p : Nat) (image text : List (BitVec 8)) (lc nthr : Nat) (s : State), ∃ u, exec (.boot p image text lc nthr) s = .next u) ∧
  (∀ s : State,
    (∃ t, exec .rampTick s = .next t ∧ Due t (s.cyc + 3600) .rampTick ∧
      (s.rampHeld = [] → MemoryKept s t ∧ t = { s with events := t.events, rampFloor := t.rampFloor, nonce := t.nonce, mgMod := t.mgMod } ∧
        s.rampFloor - s.sigma ≤ t.rampFloor ∧ t.mgMod.get 0x100 = s.mgMod.get 0x100 ∧ t.mgMod.get 0x110 = s.mgMod.get 0x110)) ∧
    (∀ key since left rest b, s.rampHeld = (key, since, left) :: rest → s.bellAt (key / 8) (key % 8) 0 = some b → b.phase = 5 →
      (s.launch b.lid).state.frozen = false → (s.mgMod.get 0x100).getLsbD 0 = true → s.sigma + 1 < left → ∃ t, exec .rampTick s = .next t ∧
      t.rampHeld = (key, since, left - s.sigma) :: rest ∧ t.bells = s.bells ∧ t.tiles = s.tiles) ∧
    (∃ t, exec .telemetryTick s = .next t ∧ Due t (s.cyc + 3600000) .telemetryTick ∧ t.tiles = s.tiles ∧ t.launches = s.launches ∧
      (s.mgMod.get 0x200 = 0#64 → MemoryKept s t ∧ t.pkgs = s.pkgs) ∧
      (s.mgMod.get 0x200 ≠ 0#64 → (t.pkg 0).telemetry = (s.pkg 0).telemetry + 8 ∧ ∀ p, p < 8 → (t.pkg p).overTemp = false)) ∧
    (∀ p, ∃ t, exec (.overtempWarning p) s = .next t ∧ t = { s with pkgs := t.pkgs } ∧ t.pkg p = { s.pkg p with overTemp := true } ∧
      ∀ q, q ≠ p → t.pkg q = s.pkg q) ∧
    (∀ p, ∃ t, exec (.thermalShutdown p) s = .next t ∧ t = { s with dies := t.dies, powered := false } ∧
      ∀ d, d < 8 → (t.die (8 * p + d)).frozen = true) ∧
    (∃ t, exec .coldReset s = .next t ∧ t = { State.reset with dies := t.dies, mem := t.mem } ∧
      (∀ d, d < 64 → t.die d = { (default : Die) with blackBox := (s.die d).blackBox, frozen := true, committed := (s.die d).committed }) ∧
      (Memory.wf s.mem = true → ∀ sp a, a < sp.size → t.byte sp a = if sp = .host then s.byte .host a else 0#8)) ∧
    (∃ t, exec .warmReset s = .next t ∧ t.cyc = s.cyc ∧ t.rin = 0#32 ∧ (∀ l, (t.launch l).state = .none) ∧ (∀ k i, (t.thread k i).live = false) ∧
      t.undo = [] ∧ t.xfers = [] ∧ (∀ d, d < 64 → (t.die d).frozen = true ∧ (t.die d).committed = (s.die d).committed ∧ (t.die d).mailbox = []) ∧
      (∃ c, s.cyc < c ∧ c % 3600 = 0 ∧ Due t c .rampTick) ∧
      (Memory.wf s.mem = true → ∀ sp a, a < sp.size → t.byte sp a = match sp with
        | .tile _ => 0#8
        | .group _ => 0#8
        | .istore _ => 0#8
        | .system _ => 0#8
        | _ => s.byte sp a)) ∧
    (∀ d col, ∃ t, exec (.repairLearned d col) s = .next t ∧ t = { s with dies := t.dies } ∧ col ∈ (t.die d).learned ∧ col ∉ (t.die d).lost ∧
      ∀ e, e ≠ d → t.die e = s.die e) ∧
    (∀ d col, (col ∈ (s.die d).learned → ∃ t, exec (.repairCommit d col) s = .next t ∧ t = { s with dies := t.dies } ∧ col ∈ (t.die d).committed) ∧
      (col ∉ (s.die d).learned → exec (.repairCommit d col) s = .next s)) ∧
    (s.bootFailed = true → s.nextAct = none ∧ ∀ p, s.askSelection p = s) ∧
    ∀ p image text lc nthr, (s.mg p 8).extractLsb' 0 2 = 2#2 → exec (.boot p image text lc nthr) s = .next s) ∧
  ∀ s : State, ∀ p image text lc nthr, (s.mg p 8).extractLsb' 0 2 ≠ 2#2 →
      (Config.signatureGood p image = true → Memory.wf s.mem = true → ∃ t, exec (.boot p image text lc nthr) s = .next t ∧ t.mg p 8 = 1#64 ∧
        (t.pkg p).firmware = image ∧
        (∀ j, j < 16 → t.sysText.get (16 * p + j) = min text.length 262144 ∧
          (∀ i, i < text.length → i < 262144 → t.byte (.system (16 * p + j)) i = text.getD i 0#8) ∧
          ∀ i, i < nthr → i < 2 ^ (lc % 4) →
            let u := t.thread (262144 + 16 * p + j) i
            u.live = true ∧ u.sys = true ∧ u.q0 = 0#18 ∧ u.halted = false ∧ u.lcode = lc % 4 ∧ u.notBefore = s.cyc ∧ u.ident.pkg = word p) ∧
        (∀ q a, a < (Space.hbm q).size → t.byte (.hbm q) a = s.byte (.hbm q) a) ∧ t.launches = s.launches) ∧
      (Config.signatureGood p image = false → ∃ t, exec (.boot p image text lc nthr) s = .next t ∧ t = { s with pkgs := t.pkgs, nonce := t.nonce } ∧
        (t.mg p 8).setWidth 16 = 2#16 ∧ t.bootFailed = true)

/-- R328, R335, R336, R338, R274, R313 and Table 18.4: a write to the management window takes effect within 1,000 cy and in order, and only from the management port or
firmware; MG.LINKCTL orders a retrain over all lanes, MG.BBCTL thaws the package's rings, MG.POD names the module and forms its domain, with rin 0. The host
reads and writes package HBM inside the windows of the port's four HDM decoders, of whole 256 MiB, and gets no answer outside. A reply stands in the attestation
mailbox. The model's choices: the free delay of a write (log entry 11), the free reply (log entry 8), HDM windows set from outside (log entry 62), the rings and lanes
that MG.BBCTL and MG.LINKCTL act on (log entry 73), and that the last MG.POD write counts and re-forms a domain only where it changes one (log entries 89 and 106).
Each event ends in a next state, in every state. -/
def Obligations.ManagementAndHostPort : Prop :=
  (∀ (p : Nat) (req : List (BitVec 8)) (s : State), ∃ u, exec (.spdmRequest p req) s = .next u) ∧
  (∀ (p : Nat) (write : Bool) (a : Nat) (bytes : List (BitVec 8)) (s : State), ∃ u, exec (.cxlMemAccess p write a bytes) s = .next u) ∧
  (∀ (p off : Nat) (v : BitVec 64) (trusted : Bool) (s : State), ∃ u, exec (.managementWrite p off v trusted) s = .next u) ∧
  (∀ (p : Nat) (v : BitVec 64) (trusted : Bool) (s : State), (∃ u, exec (.mgLinkctl p v trusted) s = .next u) ∧
    ∃ u, exec (.mgBbctl p v trusted) s = .next u) ∧
  (∀ (v : PkgWrite) (trusted : Bool) (s : State), ∃ u, exec (.mgPod v trusted) s = .next u) ∧
  ∀ (p : Nat) (s : State),
    (∀ req, ∃ t, exec (.spdmRequest p req) s = .next t ∧ t = { s with pkgs := t.pkgs, nonce := t.nonce } ∧ 
      (t.pkg p).doe = Config.spdmReply s.nonce p (s.pkg p).firmware
        ((List.range 16).map (fun j => s.bytes (.system (16 * p + j)) 0 (s.sysText.get (16 * p + j)))) req) ∧
    (∀ a bytes,
      let n := bytes.length
      let inside := ∀ i, i < n → ∃ w ∈ (s.pkg p).hdm.take 4, w.1 % 268435456 = 0 ∧ w.2 % 268435456 = 0 ∧ w.1 ≤ a + i ∧ a + i < w.1 + w.2
      (¬ inside → ∀ write, exec (.cxlMemAccess p write a bytes) s = .next s) ∧
      (inside → ∃ t, exec (.cxlMemAccess p false a bytes) s = .next t ∧ t = { s with pkgs := t.pkgs } ∧
        (t.pkg p).readOut = (List.range n).map (fun i => s.byte (.hbm p) (a + i))) ∧
      (inside → p < 8 → a + n ≤ 549755813888 → ∃ t, exec (.cxlMemAccess p true a bytes) s = .next t ∧ t = { s with mem := t.mem, events := t.events } ∧
        (∀ i, i < n → t.byte (.hbm p) (a + i) = bytes.getD i 0#8) ∧
        ∀ sp x, x < sp.size → (sp = .hbm p → x < a ∨ a + n ≤ x) → t.byte sp x = s.byte sp x)) ∧
    (∀ off v trusted, off < 65536 → ∃ t d, exec (.managementWrite p off v trusted) s = .next t ∧ t = { s with events := t.events, nonce := t.nonce } ∧
      s.cyc ≤ d ∧ Due t d (.managementWrite p (off + 65536) v trusted) ∧ (∀ e ∈ s.writesDue p, e ≤ d) ∧ (s.writesDue p = [] → d ≤ s.cyc + 1000)) ∧
    (∀ v,
      (∀ off ∈ [0x18, 0x28, 0x38, 0x40], ∃ t, exec (.managementWrite p (off + 65536) v true) s = .next t ∧ t = { s with pkgs := t.pkgs } ∧
        t.mg p off = v ∧ ∀ q o, q ≠ p ∨ o ≠ off → t.mg q o = s.mg q o) ∧
      (∃ t, exec (.managementWrite p (0x20 + 65536) v true) s = .next t ∧ t = { s with pkgs := t.pkgs } ∧
        (t.mg p 0x20).toNat = if v.toNat = 0 then 1 else if 16 < v.toNat then 16 else v.toNat) ∧
      (∃ t, exec (.managementWrite p (0x10 + 65536) v true) s = .next t ∧ MemoryKept s t ∧ t.mg p 0x10 = v ∧
        (v ≠ 0#64 → s.bootFailed = false → (s.pkg p).selecting = 0 → (t.pkg p).selecting = 1 ∧ Due t s.cyc (.selection p))) ∧
      (∃ t, exec (.managementWrite p (0x100 + 65536) v true) s = .next t ∧ t = { s with mgMod := t.mgMod } ∧
        (t.mgMod.get 0x100).extractLsb' 0 2 = v.extractLsb' 0 2 ∧ 1 ≤ ((t.mgMod.get 0x100).extractLsb' 16 16).toNat ∧
        ((t.mgMod.get 0x100).extractLsb' 16 16).toNat ≤ 500) ∧
      (∀ off, off ≠ 0x30 → off ≠ 0x48 → off ≠ 0x50 → exec (.managementWrite p (off + 65536) v false) s = .next s) ∧
      ∀ trusted,
        (∃ t, exec (.managementWrite p (0x30 + 65536) v trusted) s = .next t ∧ t = { s with events := t.events } ∧ Due t s.cyc (.mgPod ⟨p, v⟩ trusted)) ∧
        (∃ t, exec (.managementWrite p (0x48 + 65536) v trusted) s = .next t ∧ t = { s with events := t.events } ∧
          Due t s.cyc (.mgLinkctl p v trusted)) ∧
        ∃ t, exec (.managementWrite p (0x50 + 65536) v trusted) s = .next t ∧ t = { s with events := t.events } ∧ Due t s.cyc (.mgBbctl p v trusted)) ∧
    (∀ v : Word,
      (v.getLsbD 8 = true → ∃ t, exec (.mgLinkctl p v true) s = .next t ∧ Trains s t p (v.extractLsb' 0 3).toNat 0xFFFF#16 ∧
        (t.link p (v.extractLsb' 0 3).toNat).faulted = 0#16) ∧
      (v.getLsbD 8 = false → exec (.mgLinkctl p v true) s = .next s) ∧
      (∃ t, exec (.mgBbctl p v true) s = .next t ∧ t = { s with dies := t.dies } ∧ ∀ d, d < 8 → t.die (8 * p + d) =
        { s.die (8 * p + d) with frozen := if v.getLsbD 0 then false else (s.die (8 * p + d)).frozen, bbIndex := (v.extractLsb' 4 12).toNat }) ∧
      exec (.mgLinkctl p v false) s = .next s ∧ exec (.mgBbctl p v false) s = .next s ∧ exec (.mgPod ⟨p, v⟩ false) s = .next s ∧
      let m := (v.extractLsb' 0 16).toNat
      let first := (v.extractLsb' 16 16).toNat
      let n := (v.extractLsb' 32 16).toNat
      let stands := s.inPod = true ∧ s.podModule = m ∧ s.podFirst = first ∧ s.podCount = n
      ∃ t, exec (.mgPod ⟨p, v⟩ true) s = .next t ∧ MemoryKept s t ∧ t.podModule = m ∧ t.podFirst = first ∧ t.podCount = n ∧
        (t.inPod = true ↔ n ≠ 0 ∧ first ≤ m ∧ m < first + n) ∧
        (t.inPod = true → ¬ stands → t.rin = 0#32 ∧ t.podRin = 0#32) ∧ (t.inPod = false ∨ stands → t.rin = s.rin ∧ t.podRin = s.podRin) ∧
        t.mg p 0x30 = v ∧ ∀ q o, q ≠ p ∨ o ≠ 0x30 → t.mg q o = s.mg q o)
end

