-- ==== Sys2Proof/Laws/Encoding.lean ====
section
/-!
SUPPORT. What each field extractor of the decoder gives on each format of the encoder (Table 5.1): the bits stand where the table puts
them.
-/

namespace Sys2Proof.Laws.Encoding

set_option linter.unusedSimpArgs false

@[simp] theorem long_packR (f : BitVec 7) (b : BitVec 5) (a : BitVec 5) (d : BitVec 5) (mj : BitVec 6) (s : BitVec 3) : (packR f b a d mj s).extractLsb' 0 1 = 1#1 := by
  ext i hi; simp [packR, BitVec.getElem_append, BitVec.getLsbD_append]; grind
@[simp] theorem major_packR (f : BitVec 7) (b : BitVec 5) (a : BitVec 5) (d : BitVec 5) (mj : BitVec 6) (s : BitVec 3) : major (packR f b a d mj s) = mj := by
  ext i hi; simp [major, packR, BitVec.getElem_append, BitVec.getLsbD_append]; grind
@[simp] theorem stallCount_packR (f : BitVec 7) (b : BitVec 5) (a : BitVec 5) (d : BitVec 5) (mj : BitVec 6) (s : BitVec 3) : stallCount (packR f b a d mj s) = s := by
  ext i hi; simp [stallCount, packR, BitVec.getElem_append, BitVec.getLsbD_append]; grind
@[simp] theorem fn7_packR (f : BitVec 7) (b : BitVec 5) (a : BitVec 5) (d : BitVec 5) (mj : BitVec 6) (s : BitVec 3) : fn7 (packR f b a d mj s) = f := by
  ext i hi; simp [fn7, packR, BitVec.getElem_append, BitVec.getLsbD_append]; grind
@[simp] theorem rb_packR (f : BitVec 7) (b : BitVec 5) (a : BitVec 5) (d : BitVec 5) (mj : BitVec 6) (s : BitVec 3) : rb (packR f b a d mj s) = b := by
  ext i hi; simp [rb, packR, BitVec.getElem_append, BitVec.getLsbD_append]; grind
@[simp] theorem ra_packR (f : BitVec 7) (b : BitVec 5) (a : BitVec 5) (d : BitVec 5) (mj : BitVec 6) (s : BitVec 3) : ra (packR f b a d mj s) = a := by
  ext i hi; simp [ra, packR, BitVec.getElem_append, BitVec.getLsbD_append]; grind
@[simp] theorem rd_packR (f : BitVec 7) (b : BitVec 5) (a : BitVec 5) (d : BitVec 5) (mj : BitVec 6) (s : BitVec 3) : rd (packR f b a d mj s) = d := by
  ext i hi; simp [rd, packR, BitVec.getElem_append, BitVec.getLsbD_append]; grind
@[simp] theorem brb_packR (f : BitVec 7) (b : BitVec 5) (a : BitVec 5) (d : BitVec 5) (mj : BitVec 6) (s : BitVec 3) : brb (packR f b a d mj s) = a := by
  ext i hi; simp [brb, packR, BitVec.getElem_append, BitVec.getLsbD_append]; grind
@[simp] theorem bra_packR (f : BitVec 7) (b : BitVec 5) (a : BitVec 5) (d : BitVec 5) (mj : BitVec 6) (s : BitVec 3) : bra (packR f b a d mj s) = d := by
  ext i hi; simp [bra, packR, BitVec.getElem_append, BitVec.getLsbD_append]; grind
@[simp] theorem kf5_packR (f : BitVec 7) (b : BitVec 5) (a : BitVec 5) (d : BitVec 5) (mj : BitVec 6) (s : BitVec 3) : kf5 (packR f b a d mj s) = d := by
  ext i hi; simp [kf5, packR, BitVec.getElem_append, BitVec.getLsbD_append]; grind
@[simp] theorem long_packI (i : BitVec 12) (a : BitVec 5) (d : BitVec 5) (mj : BitVec 6) (s : BitVec 3) : (packI i a d mj s).extractLsb' 0 1 = 1#1 := by
  ext i hi; simp [packI, BitVec.getElem_append, BitVec.getLsbD_append]; grind
@[simp] theorem major_packI (i : BitVec 12) (a : BitVec 5) (d : BitVec 5) (mj : BitVec 6) (s : BitVec 3) : major (packI i a d mj s) = mj := by
  ext i hi; simp [major, packI, BitVec.getElem_append, BitVec.getLsbD_append]; grind
@[simp] theorem stallCount_packI (i : BitVec 12) (a : BitVec 5) (d : BitVec 5) (mj : BitVec 6) (s : BitVec 3) : stallCount (packI i a d mj s) = s := by
  ext i hi; simp [stallCount, packI, BitVec.getElem_append, BitVec.getLsbD_append]; grind
@[simp] theorem ra_packI (i : BitVec 12) (a : BitVec 5) (d : BitVec 5) (mj : BitVec 6) (s : BitVec 3) : ra (packI i a d mj s) = a := by
  ext i hi; simp [ra, packI, BitVec.getElem_append, BitVec.getLsbD_append]; grind
@[simp] theorem rd_packI (i : BitVec 12) (a : BitVec 5) (d : BitVec 5) (mj : BitVec 6) (s : BitVec 3) : rd (packI i a d mj s) = d := by
  ext i hi; simp [rd, packI, BitVec.getElem_append, BitVec.getLsbD_append]; grind
@[simp] theorem brb_packI (i : BitVec 12) (a : BitVec 5) (d : BitVec 5) (mj : BitVec 6) (s : BitVec 3) : brb (packI i a d mj s) = a := by
  ext i hi; simp [brb, packI, BitVec.getElem_append, BitVec.getLsbD_append]; grind
@[simp] theorem bra_packI (i : BitVec 12) (a : BitVec 5) (d : BitVec 5) (mj : BitVec 6) (s : BitVec 3) : bra (packI i a d mj s) = d := by
  ext i hi; simp [bra, packI, BitVec.getElem_append, BitVec.getLsbD_append]; grind
@[simp] theorem imm12_packI (i : BitVec 12) (a : BitVec 5) (d : BitVec 5) (mj : BitVec 6) (s : BitVec 3) : imm12 (packI i a d mj s) = i := by
  ext i hi; simp [imm12, packI, BitVec.getElem_append, BitVec.getLsbD_append]; grind
@[simp] theorem kf5_packI (i : BitVec 12) (a : BitVec 5) (d : BitVec 5) (mj : BitVec 6) (s : BitVec 3) : kf5 (packI i a d mj s) = d := by
  ext i hi; simp [kf5, packI, BitVec.getElem_append, BitVec.getLsbD_append]; grind
@[simp] theorem long_packU (i : BitVec 17) (d : BitVec 5) (mj : BitVec 6) (s : BitVec 3) : (packU i d mj s).extractLsb' 0 1 = 1#1 := by
  ext i hi; simp [packU, BitVec.getElem_append, BitVec.getLsbD_append]; grind
@[simp] theorem major_packU (i : BitVec 17) (d : BitVec 5) (mj : BitVec 6) (s : BitVec 3) : major (packU i d mj s) = mj := by
  ext i hi; simp [major, packU, BitVec.getElem_append, BitVec.getLsbD_append]; grind
@[simp] theorem stallCount_packU (i : BitVec 17) (d : BitVec 5) (mj : BitVec 6) (s : BitVec 3) : stallCount (packU i d mj s) = s := by
  ext i hi; simp [stallCount, packU, BitVec.getElem_append, BitVec.getLsbD_append]; grind
@[simp] theorem rd_packU (i : BitVec 17) (d : BitVec 5) (mj : BitVec 6) (s : BitVec 3) : rd (packU i d mj s) = d := by
  ext i hi; simp [rd, packU, BitVec.getElem_append, BitVec.getLsbD_append]; grind
@[simp] theorem bra_packU (i : BitVec 17) (d : BitVec 5) (mj : BitVec 6) (s : BitVec 3) : bra (packU i d mj s) = d := by
  ext i hi; simp [bra, packU, BitVec.getElem_append, BitVec.getLsbD_append]; grind
@[simp] theorem imm17_packU (i : BitVec 17) (d : BitVec 5) (mj : BitVec 6) (s : BitVec 3) : imm17 (packU i d mj s) = i := by
  ext i hi; simp [imm17, packU, BitVec.getElem_append, BitVec.getLsbD_append]; grind
@[simp] theorem kf5_packU (i : BitVec 17) (d : BitVec 5) (mj : BitVec 6) (s : BitVec 3) : kf5 (packU i d mj s) = d := by
  ext i hi; simp [kf5, packU, BitVec.getElem_append, BitVec.getLsbD_append]; grind
@[simp] theorem long_packB (o : BitVec 11) (n : BitVec 1) (b : BitVec 5) (a : BitVec 5) (mj : BitVec 6) (s : BitVec 3) : (packB o n b a mj s).extractLsb' 0 1 = 1#1 := by
  ext i hi; simp [packB, BitVec.getElem_append, BitVec.getLsbD_append]; grind
@[simp] theorem major_packB (o : BitVec 11) (n : BitVec 1) (b : BitVec 5) (a : BitVec 5) (mj : BitVec 6) (s : BitVec 3) : major (packB o n b a mj s) = mj := by
  ext i hi; simp [major, packB, BitVec.getElem_append, BitVec.getLsbD_append]; grind
@[simp] theorem stallCount_packB (o : BitVec 11) (n : BitVec 1) (b : BitVec 5) (a : BitVec 5) (mj : BitVec 6) (s : BitVec 3) : stallCount (packB o n b a mj s) = s := by
  ext i hi; simp [stallCount, packB, BitVec.getElem_append, BitVec.getLsbD_append]; grind
@[simp] theorem ra_packB (o : BitVec 11) (n : BitVec 1) (b : BitVec 5) (a : BitVec 5) (mj : BitVec 6) (s : BitVec 3) : ra (packB o n b a mj s) = b := by
  ext i hi; simp [ra, packB, BitVec.getElem_append, BitVec.getLsbD_append]; grind
@[simp] theorem rd_packB (o : BitVec 11) (n : BitVec 1) (b : BitVec 5) (a : BitVec 5) (mj : BitVec 6) (s : BitVec 3) : rd (packB o n b a mj s) = a := by
  ext i hi; simp [rd, packB, BitVec.getElem_append, BitVec.getLsbD_append]; grind
@[simp] theorem brb_packB (o : BitVec 11) (n : BitVec 1) (b : BitVec 5) (a : BitVec 5) (mj : BitVec 6) (s : BitVec 3) : brb (packB o n b a mj s) = b := by
  ext i hi; simp [brb, packB, BitVec.getElem_append, BitVec.getLsbD_append]; grind
@[simp] theorem bra_packB (o : BitVec 11) (n : BitVec 1) (b : BitVec 5) (a : BitVec 5) (mj : BitVec 6) (s : BitVec 3) : bra (packB o n b a mj s) = a := by
  ext i hi; simp [bra, packB, BitVec.getElem_append, BitVec.getLsbD_append]; grind
@[simp] theorem off11_packB (o : BitVec 11) (n : BitVec 1) (b : BitVec 5) (a : BitVec 5) (mj : BitVec 6) (s : BitVec 3) : off11 (packB o n b a mj s) = o := by
  ext i hi; simp [off11, packB, BitVec.getElem_append, BitVec.getLsbD_append]; grind
@[simp] theorem nBit_packB (o : BitVec 11) (n : BitVec 1) (b : BitVec 5) (a : BitVec 5) (mj : BitVec 6) (s : BitVec 3) : nBit (packB o n b a mj s) = n := by
  ext i hi; simp [nBit, packB, BitVec.getElem_append, BitVec.getLsbD_append]; grind
@[simp] theorem kf5_packB (o : BitVec 11) (n : BitVec 1) (b : BitVec 5) (a : BitVec 5) (mj : BitVec 6) (s : BitVec 3) : kf5 (packB o n b a mj s) = a := by
  ext i hi; simp [kf5, packB, BitVec.getElem_append, BitVec.getLsbD_append]; grind
@[simp] theorem long_packJ (o : BitVec 22) (mj : BitVec 6) (s : BitVec 3) : (packJ o mj s).extractLsb' 0 1 = 1#1 := by
  ext i hi; simp [packJ, BitVec.getElem_append, BitVec.getLsbD_append]; grind
@[simp] theorem major_packJ (o : BitVec 22) (mj : BitVec 6) (s : BitVec 3) : major (packJ o mj s) = mj := by
  ext i hi; simp [major, packJ, BitVec.getElem_append, BitVec.getLsbD_append]; grind
@[simp] theorem stallCount_packJ (o : BitVec 22) (mj : BitVec 6) (s : BitVec 3) : stallCount (packJ o mj s) = s := by
  ext i hi; simp [stallCount, packJ, BitVec.getElem_append, BitVec.getLsbD_append]; grind
@[simp] theorem off22_packJ (o : BitVec 22) (mj : BitVec 6) (s : BitVec 3) : off22 (packJ o mj s) = o := by
  ext i hi; simp [off22, packJ, BitVec.getElem_append, BitVec.getLsbD_append]; grind
@[simp] theorem long_packL (f : BitVec 7) (o : BitVec 15) (mj : BitVec 6) (s : BitVec 3) : (packL f o mj s).extractLsb' 0 1 = 1#1 := by
  ext i hi; simp [packL, BitVec.getElem_append, BitVec.getLsbD_append]; grind
@[simp] theorem major_packL (f : BitVec 7) (o : BitVec 15) (mj : BitVec 6) (s : BitVec 3) : major (packL f o mj s) = mj := by
  ext i hi; simp [major, packL, BitVec.getElem_append, BitVec.getLsbD_append]; grind
@[simp] theorem stallCount_packL (f : BitVec 7) (o : BitVec 15) (mj : BitVec 6) (s : BitVec 3) : stallCount (packL f o mj s) = s := by
  ext i hi; simp [stallCount, packL, BitVec.getElem_append, BitVec.getLsbD_append]; grind
@[simp] theorem fn7_packL (f : BitVec 7) (o : BitVec 15) (mj : BitVec 6) (s : BitVec 3) : fn7 (packL f o mj s) = f := by
  ext i hi; simp [fn7, packL, BitVec.getElem_append, BitVec.getLsbD_append]; grind
@[simp] theorem off15_packL (f : BitVec 7) (o : BitVec 15) (mj : BitVec 6) (s : BitVec 3) : off15 (packL f o mj s) = o := by
  ext i hi; simp [off15, packL, BitVec.getElem_append, BitVec.getLsbD_append]; grind
@[simp] theorem long_packT (i : BitVec 9) (z : BitVec 3) (a : BitVec 5) (d : BitVec 5) (mj : BitVec 6) (s : BitVec 3) : (packT i z a d mj s).extractLsb' 0 1 = 1#1 := by
  ext i hi; simp [packT, BitVec.getElem_append, BitVec.getLsbD_append]; grind
@[simp] theorem major_packT (i : BitVec 9) (z : BitVec 3) (a : BitVec 5) (d : BitVec 5) (mj : BitVec 6) (s : BitVec 3) : major (packT i z a d mj s) = mj := by
  ext i hi; simp [major, packT, BitVec.getElem_append, BitVec.getLsbD_append]; grind
@[simp] theorem stallCount_packT (i : BitVec 9) (z : BitVec 3) (a : BitVec 5) (d : BitVec 5) (mj : BitVec 6) (s : BitVec 3) : stallCount (packT i z a d mj s) = s := by
  ext i hi; simp [stallCount, packT, BitVec.getElem_append, BitVec.getLsbD_append]; grind
@[simp] theorem ra_packT (i : BitVec 9) (z : BitVec 3) (a : BitVec 5) (d : BitVec 5) (mj : BitVec 6) (s : BitVec 3) : ra (packT i z a d mj s) = a := by
  ext i hi; simp [ra, packT, BitVec.getElem_append, BitVec.getLsbD_append]; grind
@[simp] theorem rd_packT (i : BitVec 9) (z : BitVec 3) (a : BitVec 5) (d : BitVec 5) (mj : BitVec 6) (s : BitVec 3) : rd (packT i z a d mj s) = d := by
  ext i hi; simp [rd, packT, BitVec.getElem_append, BitVec.getLsbD_append]; grind
@[simp] theorem brb_packT (i : BitVec 9) (z : BitVec 3) (a : BitVec 5) (d : BitVec 5) (mj : BitVec 6) (s : BitVec 3) : brb (packT i z a d mj s) = a := by
  ext i hi; simp [brb, packT, BitVec.getElem_append, BitVec.getLsbD_append]; grind
@[simp] theorem bra_packT (i : BitVec 9) (z : BitVec 3) (a : BitVec 5) (d : BitVec 5) (mj : BitVec 6) (s : BitVec 3) : bra (packT i z a d mj s) = d := by
  ext i hi; simp [bra, packT, BitVec.getElem_append, BitVec.getLsbD_append]; grind
@[simp] theorem imm9_packT (i : BitVec 9) (z : BitVec 3) (a : BitVec 5) (d : BitVec 5) (mj : BitVec 6) (s : BitVec 3) : imm9 (packT i z a d mj s) = i := by
  ext i hi; simp [imm9, packT, BitVec.getElem_append, BitVec.getLsbD_append]; grind
@[simp] theorem sz3_packT (i : BitVec 9) (z : BitVec 3) (a : BitVec 5) (d : BitVec 5) (mj : BitVec 6) (s : BitVec 3) : sz3 (packT i z a d mj s) = z := by
  ext i hi; simp [sz3, packT, BitVec.getElem_append, BitVec.getLsbD_append]; grind
@[simp] theorem kf5_packT (i : BitVec 9) (z : BitVec 3) (a : BitVec 5) (d : BitVec 5) (mj : BitVec 6) (s : BitVec 3) : kf5 (packT i z a d mj s) = d := by
  ext i hi; simp [kf5, packT, BitVec.getElem_append, BitVec.getLsbD_append]; grind
@[simp] theorem long_packV (m : BitVec 3) (f : BitVec 4) (b : BitVec 5) (a : BitVec 5) (d : BitVec 5) (mj : BitVec 6) (s : BitVec 3) : (packV m f b a d mj s).extractLsb' 0 1 = 1#1 := by
  ext i hi; simp [packV, BitVec.getElem_append, BitVec.getLsbD_append]; grind
@[simp] theorem major_packV (m : BitVec 3) (f : BitVec 4) (b : BitVec 5) (a : BitVec 5) (d : BitVec 5) (mj : BitVec 6) (s : BitVec 3) : major (packV m f b a d mj s) = mj := by
  ext i hi; simp [major, packV, BitVec.getElem_append, BitVec.getLsbD_append]; grind
@[simp] theorem stallCount_packV (m : BitVec 3) (f : BitVec 4) (b : BitVec 5) (a : BitVec 5) (d : BitVec 5) (mj : BitVec 6) (s : BitVec 3) : stallCount (packV m f b a d mj s) = s := by
  ext i hi; simp [stallCount, packV, BitVec.getElem_append, BitVec.getLsbD_append]; grind
@[simp] theorem rb_packV (m : BitVec 3) (f : BitVec 4) (b : BitVec 5) (a : BitVec 5) (d : BitVec 5) (mj : BitVec 6) (s : BitVec 3) : rb (packV m f b a d mj s) = b := by
  ext i hi; simp [rb, packV, BitVec.getElem_append, BitVec.getLsbD_append]; grind
@[simp] theorem ra_packV (m : BitVec 3) (f : BitVec 4) (b : BitVec 5) (a : BitVec 5) (d : BitVec 5) (mj : BitVec 6) (s : BitVec 3) : ra (packV m f b a d mj s) = a := by
  ext i hi; simp [ra, packV, BitVec.getElem_append, BitVec.getLsbD_append]; grind
@[simp] theorem rd_packV (m : BitVec 3) (f : BitVec 4) (b : BitVec 5) (a : BitVec 5) (d : BitVec 5) (mj : BitVec 6) (s : BitVec 3) : rd (packV m f b a d mj s) = d := by
  ext i hi; simp [rd, packV, BitVec.getElem_append, BitVec.getLsbD_append]; grind
@[simp] theorem brb_packV (m : BitVec 3) (f : BitVec 4) (b : BitVec 5) (a : BitVec 5) (d : BitVec 5) (mj : BitVec 6) (s : BitVec 3) : brb (packV m f b a d mj s) = a := by
  ext i hi; simp [brb, packV, BitVec.getElem_append, BitVec.getLsbD_append]; grind
@[simp] theorem bra_packV (m : BitVec 3) (f : BitVec 4) (b : BitVec 5) (a : BitVec 5) (d : BitVec 5) (mj : BitVec 6) (s : BitVec 3) : bra (packV m f b a d mj s) = d := by
  ext i hi; simp [bra, packV, BitVec.getElem_append, BitVec.getLsbD_append]; grind
@[simp] theorem mask3_packV (m : BitVec 3) (f : BitVec 4) (b : BitVec 5) (a : BitVec 5) (d : BitVec 5) (mj : BitVec 6) (s : BitVec 3) : mask3 (packV m f b a d mj s) = m := by
  ext i hi; simp [mask3, packV, BitVec.getElem_append, BitVec.getLsbD_append]; grind
@[simp] theorem fn4_packV (m : BitVec 3) (f : BitVec 4) (b : BitVec 5) (a : BitVec 5) (d : BitVec 5) (mj : BitVec 6) (s : BitVec 3) : fn4 (packV m f b a d mj s) = f := by
  ext i hi; simp [fn4, packV, BitVec.getElem_append, BitVec.getLsbD_append]; grind
@[simp] theorem acc3_packV (m : BitVec 3) (f : BitVec 4) (b : BitVec 5) (a : BitVec 5) (d : BitVec 5) (mj : BitVec 6) (s : BitVec 3) : acc3 (packV m f b a d mj s) = m := by
  ext i hi; simp [acc3, packV, BitVec.getElem_append, BitVec.getLsbD_append]; grind
@[simp] theorem kf5_packV (m : BitVec 3) (f : BitVec 4) (b : BitVec 5) (a : BitVec 5) (d : BitVec 5) (mj : BitVec 6) (s : BitVec 3) : kf5 (packV m f b a d mj s) = d := by
  ext i hi; simp [kf5, packV, BitVec.getElem_append, BitVec.getLsbD_append]; grind
@[simp] theorem long_packM (c : BitVec 3) (v : BitVec 5) (k : BitVec 9) (f : BitVec 5) (mj : BitVec 6) (s : BitVec 3) : (packM c v k f mj s).extractLsb' 0 1 = 1#1 := by
  ext i hi; simp [packM, BitVec.getElem_append, BitVec.getLsbD_append]; grind
@[simp] theorem major_packM (c : BitVec 3) (v : BitVec 5) (k : BitVec 9) (f : BitVec 5) (mj : BitVec 6) (s : BitVec 3) : major (packM c v k f mj s) = mj := by
  ext i hi; simp [major, packM, BitVec.getElem_append, BitVec.getLsbD_append]; grind
@[simp] theorem stallCount_packM (c : BitVec 3) (v : BitVec 5) (k : BitVec 9) (f : BitVec 5) (mj : BitVec 6) (s : BitVec 3) : stallCount (packM c v k f mj s) = s := by
  ext i hi; simp [stallCount, packM, BitVec.getElem_append, BitVec.getLsbD_append]; grind
@[simp] theorem rd_packM (c : BitVec 3) (v : BitVec 5) (k : BitVec 9) (f : BitVec 5) (mj : BitVec 6) (s : BitVec 3) : rd (packM c v k f mj s) = f := by
  ext i hi; simp [rd, packM, BitVec.getElem_append, BitVec.getLsbD_append]; grind
@[simp] theorem bra_packM (c : BitVec 3) (v : BitVec 5) (k : BitVec 9) (f : BitVec 5) (mj : BitVec 6) (s : BitVec 3) : bra (packM c v k f mj s) = f := by
  ext i hi; simp [bra, packM, BitVec.getElem_append, BitVec.getLsbD_append]; grind
@[simp] theorem mask3_packM (c : BitVec 3) (v : BitVec 5) (k : BitVec 9) (f : BitVec 5) (mj : BitVec 6) (s : BitVec 3) : mask3 (packM c v k f mj s) = c := by
  ext i hi; simp [mask3, packM, BitVec.getElem_append, BitVec.getLsbD_append]; grind
@[simp] theorem acc3_packM (c : BitVec 3) (v : BitVec 5) (k : BitVec 9) (f : BitVec 5) (mj : BitVec 6) (s : BitVec 3) : acc3 (packM c v k f mj s) = c := by
  ext i hi; simp [acc3, packM, BitVec.getElem_append, BitVec.getLsbD_append]; grind
@[simp] theorem vidx5_packM (c : BitVec 3) (v : BitVec 5) (k : BitVec 9) (f : BitVec 5) (mj : BitVec 6) (s : BitVec 3) : vidx5 (packM c v k f mj s) = v := by
  ext i hi; simp [vidx5, packM, BitVec.getElem_append, BitVec.getLsbD_append]; grind
@[simp] theorem bank9_packM (c : BitVec 3) (v : BitVec 5) (k : BitVec 9) (f : BitVec 5) (mj : BitVec 6) (s : BitVec 3) : bank9 (packM c v k f mj s) = k := by
  ext i hi; simp [bank9, packM, BitVec.getElem_append, BitVec.getLsbD_append]; grind
@[simp] theorem kf5_packM (c : BitVec 3) (v : BitVec 5) (k : BitVec 9) (f : BitVec 5) (mj : BitVec 6) (s : BitVec 3) : kf5 (packM c v k f mj s) = f := by
  ext i hi; simp [kf5, packM, BitVec.getElem_append, BitVec.getLsbD_append]; grind

@[simp] theorem part_1_4_at_0_1 (x0 : BitVec 1) (x1 : BitVec 4) : BitVec.extractLsb' 0 1 (x0 ++ x1 : BitVec 5) = BitVec.extractLsb' 0 1 x1 := by
  ext i hi; simp [BitVec.getElem_append, BitVec.getLsbD_append]; grind
@[simp] theorem part_1_4_at_0_2 (x0 : BitVec 1) (x1 : BitVec 4) : BitVec.extractLsb' 0 2 (x0 ++ x1 : BitVec 5) = BitVec.extractLsb' 0 2 x1 := by
  ext i hi; simp [BitVec.getElem_append, BitVec.getLsbD_append]; grind
@[simp] theorem part_1_4_at_0_3 (x0 : BitVec 1) (x1 : BitVec 4) : BitVec.extractLsb' 0 3 (x0 ++ x1 : BitVec 5) = BitVec.extractLsb' 0 3 x1 := by
  ext i hi; simp [BitVec.getElem_append, BitVec.getLsbD_append]; grind
@[simp] theorem part_1_4_at_0_4 (x0 : BitVec 1) (x1 : BitVec 4) : BitVec.extractLsb' 0 4 (x0 ++ x1 : BitVec 5) = x1 := by
  ext i hi; simp [BitVec.getElem_append, BitVec.getLsbD_append]; grind
@[simp] theorem part_1_4_at_1_1 (x0 : BitVec 1) (x1 : BitVec 4) : BitVec.extractLsb' 1 1 (x0 ++ x1 : BitVec 5) = BitVec.extractLsb' 1 1 x1 := by
  ext i hi; simp [BitVec.getElem_append, BitVec.getLsbD_append]; grind
@[simp] theorem part_1_4_at_1_2 (x0 : BitVec 1) (x1 : BitVec 4) : BitVec.extractLsb' 1 2 (x0 ++ x1 : BitVec 5) = BitVec.extractLsb' 1 2 x1 := by
  ext i hi; simp [BitVec.getElem_append, BitVec.getLsbD_append]; grind
@[simp] theorem part_1_4_at_2_1 (x0 : BitVec 1) (x1 : BitVec 4) : BitVec.extractLsb' 2 1 (x0 ++ x1 : BitVec 5) = BitVec.extractLsb' 2 1 x1 := by
  ext i hi; simp [BitVec.getElem_append, BitVec.getLsbD_append]; grind
@[simp] theorem part_1_4_at_4_1 (x0 : BitVec 1) (x1 : BitVec 4) : BitVec.extractLsb' 4 1 (x0 ++ x1 : BitVec 5) = x0 := by
  ext i hi; simp [BitVec.getElem_append, BitVec.getLsbD_append]; grind
@[simp] theorem part_1_5_5_4_1_at_1_4 (x0 : BitVec 1) (x1 : BitVec 5) (x2 : BitVec 5) (x3 : BitVec 4) (x4 : BitVec 1) : BitVec.extractLsb' 1 4 (x0 ++ x1 ++ x2 ++ x3 ++ x4 : BitVec 16) = x3 := by
  ext i hi; simp [BitVec.getElem_append, BitVec.getLsbD_append]; grind
@[simp] theorem part_1_5_5_4_1_at_5_5 (x0 : BitVec 1) (x1 : BitVec 5) (x2 : BitVec 5) (x3 : BitVec 4) (x4 : BitVec 1) : BitVec.extractLsb' 5 5 (x0 ++ x1 ++ x2 ++ x3 ++ x4 : BitVec 16) = x2 := by
  ext i hi; simp [BitVec.getElem_append, BitVec.getLsbD_append]; grind
@[simp] theorem part_1_5_5_4_1_at_10_5 (x0 : BitVec 1) (x1 : BitVec 5) (x2 : BitVec 5) (x3 : BitVec 4) (x4 : BitVec 1) : BitVec.extractLsb' 10 5 (x0 ++ x1 ++ x2 ++ x3 ++ x4 : BitVec 16) = x1 := by
  ext i hi; simp [BitVec.getElem_append, BitVec.getLsbD_append]; grind
@[simp] theorem part_1_5_5_4_1_at_15_1 (x0 : BitVec 1) (x1 : BitVec 5) (x2 : BitVec 5) (x3 : BitVec 4) (x4 : BitVec 1) : BitVec.extractLsb' 15 1 (x0 ++ x1 ++ x2 ++ x3 ++ x4 : BitVec 16) = x0 := by
  ext i hi; simp [BitVec.getElem_append, BitVec.getLsbD_append]; grind
@[simp] theorem part_1_11_at_0_1 (x0 : BitVec 1) (x1 : BitVec 11) : BitVec.extractLsb' 0 1 (x0 ++ x1 : BitVec 12) = BitVec.extractLsb' 0 1 x1 := by
  ext i hi; simp [BitVec.getElem_append, BitVec.getLsbD_append]; grind
@[simp] theorem part_1_11_at_0_6 (x0 : BitVec 1) (x1 : BitVec 11) : BitVec.extractLsb' 0 6 (x0 ++ x1 : BitVec 12) = BitVec.extractLsb' 0 6 x1 := by
  ext i hi; simp [BitVec.getElem_append, BitVec.getLsbD_append]; grind
@[simp] theorem part_1_11_at_0_11 (x0 : BitVec 1) (x1 : BitVec 11) : BitVec.extractLsb' 0 11 (x0 ++ x1 : BitVec 12) = x1 := by
  ext i hi; simp [BitVec.getElem_append, BitVec.getLsbD_append]; grind
@[simp] theorem part_1_11_at_11_1 (x0 : BitVec 1) (x1 : BitVec 11) : BitVec.extractLsb' 11 1 (x0 ++ x1 : BitVec 12) = x0 := by
  ext i hi; simp [BitVec.getElem_append, BitVec.getLsbD_append]; grind
@[simp] theorem part_2_1_1_1_at_0_1 (x0 : BitVec 2) (x1 : BitVec 1) (x2 : BitVec 1) (x3 : BitVec 1) : BitVec.extractLsb' 0 1 (x0 ++ x1 ++ x2 ++ x3 : BitVec 5) = x3 := by
  ext i hi; simp [BitVec.getElem_append, BitVec.getLsbD_append]; grind
@[simp] theorem part_2_1_1_1_at_1_1 (x0 : BitVec 2) (x1 : BitVec 1) (x2 : BitVec 1) (x3 : BitVec 1) : BitVec.extractLsb' 1 1 (x0 ++ x1 ++ x2 ++ x3 : BitVec 5) = x2 := by
  ext i hi; simp [BitVec.getElem_append, BitVec.getLsbD_append]; grind
@[simp] theorem part_2_1_1_1_at_2_1 (x0 : BitVec 2) (x1 : BitVec 1) (x2 : BitVec 1) (x3 : BitVec 1) : BitVec.extractLsb' 2 1 (x0 ++ x1 ++ x2 ++ x3 : BitVec 5) = x1 := by
  ext i hi; simp [BitVec.getElem_append, BitVec.getLsbD_append]; grind
@[simp] theorem part_2_1_1_1_at_3_2 (x0 : BitVec 2) (x1 : BitVec 1) (x2 : BitVec 1) (x3 : BitVec 1) : BitVec.extractLsb' 3 2 (x0 ++ x1 ++ x2 ++ x3 : BitVec 5) = x0 := by
  ext i hi; simp [BitVec.getElem_append, BitVec.getLsbD_append]; grind
@[simp] theorem part_2_1_1_1_at_4_1 (x0 : BitVec 2) (x1 : BitVec 1) (x2 : BitVec 1) (x3 : BitVec 1) : BitVec.extractLsb' 4 1 (x0 ++ x1 ++ x2 ++ x3 : BitVec 5) = BitVec.extractLsb' 1 1 x0 := by
  ext i hi; simp [BitVec.getElem_append, BitVec.getLsbD_append]; grind
@[simp] theorem part_2_1_1_3_at_0_2 (x0 : BitVec 2) (x1 : BitVec 1) (x2 : BitVec 1) (x3 : BitVec 3) : BitVec.extractLsb' 0 2 (x0 ++ x1 ++ x2 ++ x3 : BitVec 7) = BitVec.extractLsb' 0 2 x3 := by
  ext i hi; simp [BitVec.getElem_append, BitVec.getLsbD_append]; grind
@[simp] theorem part_2_1_1_3_at_0_3 (x0 : BitVec 2) (x1 : BitVec 1) (x2 : BitVec 1) (x3 : BitVec 3) : BitVec.extractLsb' 0 3 (x0 ++ x1 ++ x2 ++ x3 : BitVec 7) = x3 := by
  ext i hi; simp [BitVec.getElem_append, BitVec.getLsbD_append]; grind
@[simp] theorem part_2_1_1_3_at_3_1 (x0 : BitVec 2) (x1 : BitVec 1) (x2 : BitVec 1) (x3 : BitVec 3) : BitVec.extractLsb' 3 1 (x0 ++ x1 ++ x2 ++ x3 : BitVec 7) = x2 := by
  ext i hi; simp [BitVec.getElem_append, BitVec.getLsbD_append]; grind
@[simp] theorem part_2_1_1_3_at_4_1 (x0 : BitVec 2) (x1 : BitVec 1) (x2 : BitVec 1) (x3 : BitVec 3) : BitVec.extractLsb' 4 1 (x0 ++ x1 ++ x2 ++ x3 : BitVec 7) = x1 := by
  ext i hi; simp [BitVec.getElem_append, BitVec.getLsbD_append]; grind
@[simp] theorem part_2_1_1_3_at_5_2 (x0 : BitVec 2) (x1 : BitVec 1) (x2 : BitVec 1) (x3 : BitVec 3) : BitVec.extractLsb' 5 2 (x0 ++ x1 ++ x2 ++ x3 : BitVec 7) = x0 := by
  ext i hi; simp [BitVec.getElem_append, BitVec.getLsbD_append]; grind
@[simp] theorem part_2_1_2_at_0_1 (x0 : BitVec 2) (x1 : BitVec 1) (x2 : BitVec 2) : BitVec.extractLsb' 0 1 (x0 ++ x1 ++ x2 : BitVec 5) = BitVec.extractLsb' 0 1 x2 := by
  ext i hi; simp [BitVec.getElem_append, BitVec.getLsbD_append]; grind
@[simp] theorem part_2_1_2_at_0_2 (x0 : BitVec 2) (x1 : BitVec 1) (x2 : BitVec 2) : BitVec.extractLsb' 0 2 (x0 ++ x1 ++ x2 : BitVec 5) = x2 := by
  ext i hi; simp [BitVec.getElem_append, BitVec.getLsbD_append]; grind
@[simp] theorem part_2_1_2_at_1_1 (x0 : BitVec 2) (x1 : BitVec 1) (x2 : BitVec 2) : BitVec.extractLsb' 1 1 (x0 ++ x1 ++ x2 : BitVec 5) = BitVec.extractLsb' 1 1 x2 := by
  ext i hi; simp [BitVec.getElem_append, BitVec.getLsbD_append]; grind
@[simp] theorem part_2_1_2_at_2_1 (x0 : BitVec 2) (x1 : BitVec 1) (x2 : BitVec 2) : BitVec.extractLsb' 2 1 (x0 ++ x1 ++ x2 : BitVec 5) = x1 := by
  ext i hi; simp [BitVec.getElem_append, BitVec.getLsbD_append]; grind
@[simp] theorem part_2_1_2_at_3_2 (x0 : BitVec 2) (x1 : BitVec 1) (x2 : BitVec 2) : BitVec.extractLsb' 3 2 (x0 ++ x1 ++ x2 : BitVec 5) = x0 := by
  ext i hi; simp [BitVec.getElem_append, BitVec.getLsbD_append]; grind
@[simp] theorem part_2_1_2_at_4_1 (x0 : BitVec 2) (x1 : BitVec 1) (x2 : BitVec 2) : BitVec.extractLsb' 4 1 (x0 ++ x1 ++ x2 : BitVec 5) = BitVec.extractLsb' 1 1 x0 := by
  ext i hi; simp [BitVec.getElem_append, BitVec.getLsbD_append]; grind
@[simp] theorem part_2_2_1_at_0_1 (x0 : BitVec 2) (x1 : BitVec 2) (x2 : BitVec 1) : BitVec.extractLsb' 0 1 (x0 ++ x1 ++ x2 : BitVec 5) = x2 := by
  ext i hi; simp [BitVec.getElem_append, BitVec.getLsbD_append]; grind
@[simp] theorem part_2_2_1_at_1_1 (x0 : BitVec 2) (x1 : BitVec 2) (x2 : BitVec 1) : BitVec.extractLsb' 1 1 (x0 ++ x1 ++ x2 : BitVec 5) = BitVec.extractLsb' 0 1 x1 := by
  ext i hi; simp [BitVec.getElem_append, BitVec.getLsbD_append]; grind
@[simp] theorem part_2_2_1_at_1_2 (x0 : BitVec 2) (x1 : BitVec 2) (x2 : BitVec 1) : BitVec.extractLsb' 1 2 (x0 ++ x1 ++ x2 : BitVec 5) = x1 := by
  ext i hi; simp [BitVec.getElem_append, BitVec.getLsbD_append]; grind
@[simp] theorem part_2_2_1_at_2_1 (x0 : BitVec 2) (x1 : BitVec 2) (x2 : BitVec 1) : BitVec.extractLsb' 2 1 (x0 ++ x1 ++ x2 : BitVec 5) = BitVec.extractLsb' 1 1 x1 := by
  ext i hi; simp [BitVec.getElem_append, BitVec.getLsbD_append]; grind
@[simp] theorem part_2_2_1_at_3_2 (x0 : BitVec 2) (x1 : BitVec 2) (x2 : BitVec 1) : BitVec.extractLsb' 3 2 (x0 ++ x1 ++ x2 : BitVec 5) = x0 := by
  ext i hi; simp [BitVec.getElem_append, BitVec.getLsbD_append]; grind
@[simp] theorem part_2_2_1_at_4_1 (x0 : BitVec 2) (x1 : BitVec 2) (x2 : BitVec 1) : BitVec.extractLsb' 4 1 (x0 ++ x1 ++ x2 : BitVec 5) = BitVec.extractLsb' 1 1 x0 := by
  ext i hi; simp [BitVec.getElem_append, BitVec.getLsbD_append]; grind
@[simp] theorem part_2_3_at_0_1 (x0 : BitVec 2) (x1 : BitVec 3) : BitVec.extractLsb' 0 1 (x0 ++ x1 : BitVec 5) = BitVec.extractLsb' 0 1 x1 := by
  ext i hi; simp [BitVec.getElem_append, BitVec.getLsbD_append]; grind
@[simp] theorem part_2_3_at_0_2 (x0 : BitVec 2) (x1 : BitVec 3) : BitVec.extractLsb' 0 2 (x0 ++ x1 : BitVec 5) = BitVec.extractLsb' 0 2 x1 := by
  ext i hi; simp [BitVec.getElem_append, BitVec.getLsbD_append]; grind
@[simp] theorem part_2_3_at_0_3 (x0 : BitVec 2) (x1 : BitVec 3) : BitVec.extractLsb' 0 3 (x0 ++ x1 : BitVec 5) = x1 := by
  ext i hi; simp [BitVec.getElem_append, BitVec.getLsbD_append]; grind
@[simp] theorem part_2_3_at_1_1 (x0 : BitVec 2) (x1 : BitVec 3) : BitVec.extractLsb' 1 1 (x0 ++ x1 : BitVec 5) = BitVec.extractLsb' 1 1 x1 := by
  ext i hi; simp [BitVec.getElem_append, BitVec.getLsbD_append]; grind
@[simp] theorem part_2_3_at_1_2 (x0 : BitVec 2) (x1 : BitVec 3) : BitVec.extractLsb' 1 2 (x0 ++ x1 : BitVec 5) = BitVec.extractLsb' 1 2 x1 := by
  ext i hi; simp [BitVec.getElem_append, BitVec.getLsbD_append]; grind
@[simp] theorem part_2_3_at_2_1 (x0 : BitVec 2) (x1 : BitVec 3) : BitVec.extractLsb' 2 1 (x0 ++ x1 : BitVec 5) = BitVec.extractLsb' 2 1 x1 := by
  ext i hi; simp [BitVec.getElem_append, BitVec.getLsbD_append]; grind
@[simp] theorem part_2_3_at_3_2 (x0 : BitVec 2) (x1 : BitVec 3) : BitVec.extractLsb' 3 2 (x0 ++ x1 : BitVec 5) = x0 := by
  ext i hi; simp [BitVec.getElem_append, BitVec.getLsbD_append]; grind
@[simp] theorem part_2_3_at_4_1 (x0 : BitVec 2) (x1 : BitVec 3) : BitVec.extractLsb' 4 1 (x0 ++ x1 : BitVec 5) = BitVec.extractLsb' 1 1 x0 := by
  ext i hi; simp [BitVec.getElem_append, BitVec.getLsbD_append]; grind
@[simp] theorem part_2_5_at_0_2 (x0 : BitVec 2) (x1 : BitVec 5) : BitVec.extractLsb' 0 2 (x0 ++ x1 : BitVec 7) = BitVec.extractLsb' 0 2 x1 := by
  ext i hi; simp [BitVec.getElem_append, BitVec.getLsbD_append]; grind
@[simp] theorem part_2_5_at_0_3 (x0 : BitVec 2) (x1 : BitVec 5) : BitVec.extractLsb' 0 3 (x0 ++ x1 : BitVec 7) = BitVec.extractLsb' 0 3 x1 := by
  ext i hi; simp [BitVec.getElem_append, BitVec.getLsbD_append]; grind
@[simp] theorem part_2_5_at_0_4 (x0 : BitVec 2) (x1 : BitVec 5) : BitVec.extractLsb' 0 4 (x0 ++ x1 : BitVec 7) = BitVec.extractLsb' 0 4 x1 := by
  ext i hi; simp [BitVec.getElem_append, BitVec.getLsbD_append]; grind
@[simp] theorem part_2_5_at_0_5 (x0 : BitVec 2) (x1 : BitVec 5) : BitVec.extractLsb' 0 5 (x0 ++ x1 : BitVec 7) = x1 := by
  ext i hi; simp [BitVec.getElem_append, BitVec.getLsbD_append]; grind
@[simp] theorem part_2_5_at_2_2 (x0 : BitVec 2) (x1 : BitVec 5) : BitVec.extractLsb' 2 2 (x0 ++ x1 : BitVec 7) = BitVec.extractLsb' 2 2 x1 := by
  ext i hi; simp [BitVec.getElem_append, BitVec.getLsbD_append]; grind
@[simp] theorem part_2_5_at_3_1 (x0 : BitVec 2) (x1 : BitVec 5) : BitVec.extractLsb' 3 1 (x0 ++ x1 : BitVec 7) = BitVec.extractLsb' 3 1 x1 := by
  ext i hi; simp [BitVec.getElem_append, BitVec.getLsbD_append]; grind
@[simp] theorem part_2_5_at_4_1 (x0 : BitVec 2) (x1 : BitVec 5) : BitVec.extractLsb' 4 1 (x0 ++ x1 : BitVec 7) = BitVec.extractLsb' 4 1 x1 := by
  ext i hi; simp [BitVec.getElem_append, BitVec.getLsbD_append]; grind
@[simp] theorem part_2_5_at_5_2 (x0 : BitVec 2) (x1 : BitVec 5) : BitVec.extractLsb' 5 2 (x0 ++ x1 : BitVec 7) = x0 := by
  ext i hi; simp [BitVec.getElem_append, BitVec.getLsbD_append]; grind
@[simp] theorem part_3_1_1_at_0_1 (x0 : BitVec 3) (x1 : BitVec 1) (x2 : BitVec 1) : BitVec.extractLsb' 0 1 (x0 ++ x1 ++ x2 : BitVec 5) = x2 := by
  ext i hi; simp [BitVec.getElem_append, BitVec.getLsbD_append]; grind
@[simp] theorem part_3_1_1_at_1_1 (x0 : BitVec 3) (x1 : BitVec 1) (x2 : BitVec 1) : BitVec.extractLsb' 1 1 (x0 ++ x1 ++ x2 : BitVec 5) = x1 := by
  ext i hi; simp [BitVec.getElem_append, BitVec.getLsbD_append]; grind
@[simp] theorem part_3_1_1_at_2_1 (x0 : BitVec 3) (x1 : BitVec 1) (x2 : BitVec 1) : BitVec.extractLsb' 2 1 (x0 ++ x1 ++ x2 : BitVec 5) = BitVec.extractLsb' 0 1 x0 := by
  ext i hi; simp [BitVec.getElem_append, BitVec.getLsbD_append]; grind
@[simp] theorem part_3_1_1_at_2_3 (x0 : BitVec 3) (x1 : BitVec 1) (x2 : BitVec 1) : BitVec.extractLsb' 2 3 (x0 ++ x1 ++ x2 : BitVec 5) = x0 := by
  ext i hi; simp [BitVec.getElem_append, BitVec.getLsbD_append]; grind
@[simp] theorem part_3_1_1_at_3_2 (x0 : BitVec 3) (x1 : BitVec 1) (x2 : BitVec 1) : BitVec.extractLsb' 3 2 (x0 ++ x1 ++ x2 : BitVec 5) = BitVec.extractLsb' 1 2 x0 := by
  ext i hi; simp [BitVec.getElem_append, BitVec.getLsbD_append]; grind
@[simp] theorem part_3_1_1_at_4_1 (x0 : BitVec 3) (x1 : BitVec 1) (x2 : BitVec 1) : BitVec.extractLsb' 4 1 (x0 ++ x1 ++ x2 : BitVec 5) = BitVec.extractLsb' 2 1 x0 := by
  ext i hi; simp [BitVec.getElem_append, BitVec.getLsbD_append]; grind
@[simp] theorem part_3_1_3_at_0_2 (x0 : BitVec 3) (x1 : BitVec 1) (x2 : BitVec 3) : BitVec.extractLsb' 0 2 (x0 ++ x1 ++ x2 : BitVec 7) = BitVec.extractLsb' 0 2 x2 := by
  ext i hi; simp [BitVec.getElem_append, BitVec.getLsbD_append]; grind
@[simp] theorem part_3_1_3_at_0_3 (x0 : BitVec 3) (x1 : BitVec 1) (x2 : BitVec 3) : BitVec.extractLsb' 0 3 (x0 ++ x1 ++ x2 : BitVec 7) = x2 := by
  ext i hi; simp [BitVec.getElem_append, BitVec.getLsbD_append]; grind
@[simp] theorem part_3_1_3_at_3_1 (x0 : BitVec 3) (x1 : BitVec 1) (x2 : BitVec 3) : BitVec.extractLsb' 3 1 (x0 ++ x1 ++ x2 : BitVec 7) = x1 := by
  ext i hi; simp [BitVec.getElem_append, BitVec.getLsbD_append]; grind
@[simp] theorem part_3_1_3_at_4_1 (x0 : BitVec 3) (x1 : BitVec 1) (x2 : BitVec 3) : BitVec.extractLsb' 4 1 (x0 ++ x1 ++ x2 : BitVec 7) = BitVec.extractLsb' 0 1 x0 := by
  ext i hi; simp [BitVec.getElem_append, BitVec.getLsbD_append]; grind
@[simp] theorem part_3_1_3_at_4_3 (x0 : BitVec 3) (x1 : BitVec 1) (x2 : BitVec 3) : BitVec.extractLsb' 4 3 (x0 ++ x1 ++ x2 : BitVec 7) = x0 := by
  ext i hi; simp [BitVec.getElem_append, BitVec.getLsbD_append]; grind
@[simp] theorem part_3_1_3_at_5_2 (x0 : BitVec 3) (x1 : BitVec 1) (x2 : BitVec 3) : BitVec.extractLsb' 5 2 (x0 ++ x1 ++ x2 : BitVec 7) = BitVec.extractLsb' 1 2 x0 := by
  ext i hi; simp [BitVec.getElem_append, BitVec.getLsbD_append]; grind
@[simp] theorem part_3_4_at_0_2 (x0 : BitVec 3) (x1 : BitVec 4) : BitVec.extractLsb' 0 2 (x0 ++ x1 : BitVec 7) = BitVec.extractLsb' 0 2 x1 := by
  ext i hi; simp [BitVec.getElem_append, BitVec.getLsbD_append]; grind
@[simp] theorem part_3_4_at_0_3 (x0 : BitVec 3) (x1 : BitVec 4) : BitVec.extractLsb' 0 3 (x0 ++ x1 : BitVec 7) = BitVec.extractLsb' 0 3 x1 := by
  ext i hi; simp [BitVec.getElem_append, BitVec.getLsbD_append]; grind
@[simp] theorem part_3_4_at_0_4 (x0 : BitVec 3) (x1 : BitVec 4) : BitVec.extractLsb' 0 4 (x0 ++ x1 : BitVec 7) = x1 := by
  ext i hi; simp [BitVec.getElem_append, BitVec.getLsbD_append]; grind
@[simp] theorem part_3_4_at_2_2 (x0 : BitVec 3) (x1 : BitVec 4) : BitVec.extractLsb' 2 2 (x0 ++ x1 : BitVec 7) = BitVec.extractLsb' 2 2 x1 := by
  ext i hi; simp [BitVec.getElem_append, BitVec.getLsbD_append]; grind
@[simp] theorem part_3_4_at_3_1 (x0 : BitVec 3) (x1 : BitVec 4) : BitVec.extractLsb' 3 1 (x0 ++ x1 : BitVec 7) = BitVec.extractLsb' 3 1 x1 := by
  ext i hi; simp [BitVec.getElem_append, BitVec.getLsbD_append]; grind
@[simp] theorem part_3_4_at_4_1 (x0 : BitVec 3) (x1 : BitVec 4) : BitVec.extractLsb' 4 1 (x0 ++ x1 : BitVec 7) = BitVec.extractLsb' 0 1 x0 := by
  ext i hi; simp [BitVec.getElem_append, BitVec.getLsbD_append]; grind
@[simp] theorem part_3_4_at_4_3 (x0 : BitVec 3) (x1 : BitVec 4) : BitVec.extractLsb' 4 3 (x0 ++ x1 : BitVec 7) = x0 := by
  ext i hi; simp [BitVec.getElem_append, BitVec.getLsbD_append]; grind
@[simp] theorem part_3_4_at_5_2 (x0 : BitVec 3) (x1 : BitVec 4) : BitVec.extractLsb' 5 2 (x0 ++ x1 : BitVec 7) = BitVec.extractLsb' 1 2 x0 := by
  ext i hi; simp [BitVec.getElem_append, BitVec.getLsbD_append]; grind
@[simp] theorem part_4_1_at_0_1 (x0 : BitVec 4) (x1 : BitVec 1) : BitVec.extractLsb' 0 1 (x0 ++ x1 : BitVec 5) = x1 := by
  ext i hi; simp [BitVec.getElem_append, BitVec.getLsbD_append]; grind
@[simp] theorem part_4_1_at_1_1 (x0 : BitVec 4) (x1 : BitVec 1) : BitVec.extractLsb' 1 1 (x0 ++ x1 : BitVec 5) = BitVec.extractLsb' 0 1 x0 := by
  ext i hi; simp [BitVec.getElem_append, BitVec.getLsbD_append]; grind
@[simp] theorem part_4_1_at_1_2 (x0 : BitVec 4) (x1 : BitVec 1) : BitVec.extractLsb' 1 2 (x0 ++ x1 : BitVec 5) = BitVec.extractLsb' 0 2 x0 := by
  ext i hi; simp [BitVec.getElem_append, BitVec.getLsbD_append]; grind
@[simp] theorem part_4_1_at_1_4 (x0 : BitVec 4) (x1 : BitVec 1) : BitVec.extractLsb' 1 4 (x0 ++ x1 : BitVec 5) = x0 := by
  ext i hi; simp [BitVec.getElem_append, BitVec.getLsbD_append]; grind
@[simp] theorem part_4_1_at_2_1 (x0 : BitVec 4) (x1 : BitVec 1) : BitVec.extractLsb' 2 1 (x0 ++ x1 : BitVec 5) = BitVec.extractLsb' 1 1 x0 := by
  ext i hi; simp [BitVec.getElem_append, BitVec.getLsbD_append]; grind
@[simp] theorem part_4_1_at_2_3 (x0 : BitVec 4) (x1 : BitVec 1) : BitVec.extractLsb' 2 3 (x0 ++ x1 : BitVec 5) = BitVec.extractLsb' 1 3 x0 := by
  ext i hi; simp [BitVec.getElem_append, BitVec.getLsbD_append]; grind
@[simp] theorem part_4_1_at_3_2 (x0 : BitVec 4) (x1 : BitVec 1) : BitVec.extractLsb' 3 2 (x0 ++ x1 : BitVec 5) = BitVec.extractLsb' 2 2 x0 := by
  ext i hi; simp [BitVec.getElem_append, BitVec.getLsbD_append]; grind
@[simp] theorem part_4_1_at_4_1 (x0 : BitVec 4) (x1 : BitVec 1) : BitVec.extractLsb' 4 1 (x0 ++ x1 : BitVec 5) = BitVec.extractLsb' 3 1 x0 := by
  ext i hi; simp [BitVec.getElem_append, BitVec.getLsbD_append]; grind
@[simp] theorem part_5_2_at_0_2 (x0 : BitVec 5) (x1 : BitVec 2) : BitVec.extractLsb' 0 2 (x0 ++ x1 : BitVec 7) = x1 := by
  ext i hi; simp [BitVec.getElem_append, BitVec.getLsbD_append]; grind
@[simp] theorem part_5_2_at_2_2 (x0 : BitVec 5) (x1 : BitVec 2) : BitVec.extractLsb' 2 2 (x0 ++ x1 : BitVec 7) = BitVec.extractLsb' 0 2 x0 := by
  ext i hi; simp [BitVec.getElem_append, BitVec.getLsbD_append]; grind
@[simp] theorem part_5_2_at_3_1 (x0 : BitVec 5) (x1 : BitVec 2) : BitVec.extractLsb' 3 1 (x0 ++ x1 : BitVec 7) = BitVec.extractLsb' 1 1 x0 := by
  ext i hi; simp [BitVec.getElem_append, BitVec.getLsbD_append]; grind
@[simp] theorem part_5_2_at_3_4 (x0 : BitVec 5) (x1 : BitVec 2) : BitVec.extractLsb' 3 4 (x0 ++ x1 : BitVec 7) = BitVec.extractLsb' 1 4 x0 := by
  ext i hi; simp [BitVec.getElem_append, BitVec.getLsbD_append]; grind
@[simp] theorem part_5_2_at_4_1 (x0 : BitVec 5) (x1 : BitVec 2) : BitVec.extractLsb' 4 1 (x0 ++ x1 : BitVec 7) = BitVec.extractLsb' 2 1 x0 := by
  ext i hi; simp [BitVec.getElem_append, BitVec.getLsbD_append]; grind
@[simp] theorem part_5_2_at_4_3 (x0 : BitVec 5) (x1 : BitVec 2) : BitVec.extractLsb' 4 3 (x0 ++ x1 : BitVec 7) = BitVec.extractLsb' 2 3 x0 := by
  ext i hi; simp [BitVec.getElem_append, BitVec.getLsbD_append]; grind
@[simp] theorem part_5_2_at_5_2 (x0 : BitVec 5) (x1 : BitVec 2) : BitVec.extractLsb' 5 2 (x0 ++ x1 : BitVec 7) = BitVec.extractLsb' 3 2 x0 := by
  ext i hi; simp [BitVec.getElem_append, BitVec.getLsbD_append]; grind
@[simp] theorem part_5_4_at_0_3 (x0 : BitVec 5) (x1 : BitVec 4) : BitVec.extractLsb' 0 3 (x0 ++ x1 : BitVec 9) = BitVec.extractLsb' 0 3 x1 := by
  ext i hi; simp [BitVec.getElem_append, BitVec.getLsbD_append]; grind
@[simp] theorem part_5_4_at_0_4 (x0 : BitVec 5) (x1 : BitVec 4) : BitVec.extractLsb' 0 4 (x0 ++ x1 : BitVec 9) = x1 := by
  ext i hi; simp [BitVec.getElem_append, BitVec.getLsbD_append]; grind
@[simp] theorem part_5_4_at_4_5 (x0 : BitVec 5) (x1 : BitVec 4) : BitVec.extractLsb' 4 5 (x0 ++ x1 : BitVec 9) = x0 := by
  ext i hi; simp [BitVec.getElem_append, BitVec.getLsbD_append]; grind
@[simp] theorem part_6_6_at_0_1 (x0 : BitVec 6) (x1 : BitVec 6) : BitVec.extractLsb' 0 1 (x0 ++ x1 : BitVec 12) = BitVec.extractLsb' 0 1 x1 := by
  ext i hi; simp [BitVec.getElem_append, BitVec.getLsbD_append]; grind
@[simp] theorem part_6_6_at_0_6 (x0 : BitVec 6) (x1 : BitVec 6) : BitVec.extractLsb' 0 6 (x0 ++ x1 : BitVec 12) = x1 := by
  ext i hi; simp [BitVec.getElem_append, BitVec.getLsbD_append]; grind
@[simp] theorem part_6_6_at_6_6 (x0 : BitVec 6) (x1 : BitVec 6) : BitVec.extractLsb' 6 6 (x0 ++ x1 : BitVec 12) = x0 := by
  ext i hi; simp [BitVec.getElem_append, BitVec.getLsbD_append]; grind
@[simp] theorem part_6_6_at_11_1 (x0 : BitVec 6) (x1 : BitVec 6) : BitVec.extractLsb' 11 1 (x0 ++ x1 : BitVec 12) = BitVec.extractLsb' 5 1 x0 := by
  ext i hi; simp [BitVec.getElem_append, BitVec.getLsbD_append]; grind
@[simp] theorem part_11_1_at_0_1 (x0 : BitVec 11) (x1 : BitVec 1) : BitVec.extractLsb' 0 1 (x0 ++ x1 : BitVec 12) = x1 := by
  ext i hi; simp [BitVec.getElem_append, BitVec.getLsbD_append]; grind
@[simp] theorem part_11_1_at_1_11 (x0 : BitVec 11) (x1 : BitVec 1) : BitVec.extractLsb' 1 11 (x0 ++ x1 : BitVec 12) = x0 := by
  ext i hi; simp [BitVec.getElem_append, BitVec.getLsbD_append]; grind
@[simp] theorem part_11_1_at_6_6 (x0 : BitVec 11) (x1 : BitVec 1) : BitVec.extractLsb' 6 6 (x0 ++ x1 : BitVec 12) = BitVec.extractLsb' 5 6 x0 := by
  ext i hi; simp [BitVec.getElem_append, BitVec.getLsbD_append]; grind
@[simp] theorem part_11_1_at_11_1 (x0 : BitVec 11) (x1 : BitVec 1) : BitVec.extractLsb' 11 1 (x0 ++ x1 : BitVec 12) = BitVec.extractLsb' 10 1 x0 := by
  ext i hi; simp [BitVec.getElem_append, BitVec.getLsbD_append]; grind
@[simp] theorem part_14_2_at_5_5 (x0 : BitVec 14) (x1 : BitVec 2) : BitVec.extractLsb' 5 5 (x0 ++ x1 : BitVec 16) = BitVec.extractLsb' 3 5 x0 := by
  ext i hi; simp [BitVec.getElem_append, BitVec.getLsbD_append]; grind
@[simp] theorem part_14_2_at_10_5 (x0 : BitVec 14) (x1 : BitVec 2) : BitVec.extractLsb' 10 5 (x0 ++ x1 : BitVec 16) = BitVec.extractLsb' 8 5 x0 := by
  ext i hi; simp [BitVec.getElem_append, BitVec.getLsbD_append]; grind
@[simp] theorem part_14_2_at_15_1 (x0 : BitVec 14) (x1 : BitVec 2) : BitVec.extractLsb' 15 1 (x0 ++ x1 : BitVec 16) = BitVec.extractLsb' 13 1 x0 := by
  ext i hi; simp [BitVec.getElem_append, BitVec.getLsbD_append]; grind
@[simp] theorem command_op (op : BitVec 6) (f : BitVec 4) (g : BitVec 2) (z : BitVec 1) (kind : BitVec 3) (h : BitVec 16) (imm : BitVec 32) : BitVec.extractLsb' 58 6 (packC op f g z kind h imm) = op := by
  ext i hi; simp [packC, BitVec.getElem_append, BitVec.getLsbD_append]; grind
@[simp] theorem command_f (op : BitVec 6) (f : BitVec 4) (g : BitVec 2) (z : BitVec 1) (kind : BitVec 3) (h : BitVec 16) (imm : BitVec 32) : BitVec.extractLsb' 54 4 (packC op f g z kind h imm) = f := by
  ext i hi; simp [packC, BitVec.getElem_append, BitVec.getLsbD_append]; grind
@[simp] theorem command_g (op : BitVec 6) (f : BitVec 4) (g : BitVec 2) (z : BitVec 1) (kind : BitVec 3) (h : BitVec 16) (imm : BitVec 32) : BitVec.extractLsb' 52 2 (packC op f g z kind h imm) = g := by
  ext i hi; simp [packC, BitVec.getElem_append, BitVec.getLsbD_append]; grind
@[simp] theorem command_z (op : BitVec 6) (f : BitVec 4) (g : BitVec 2) (z : BitVec 1) (kind : BitVec 3) (h : BitVec 16) (imm : BitVec 32) : BitVec.extractLsb' 51 1 (packC op f g z kind h imm) = z := by
  ext i hi; simp [packC, BitVec.getElem_append, BitVec.getLsbD_append]; grind
@[simp] theorem command_kind (op : BitVec 6) (f : BitVec 4) (g : BitVec 2) (z : BitVec 1) (kind : BitVec 3) (h : BitVec 16) (imm : BitVec 32) : BitVec.extractLsb' 48 3 (packC op f g z kind h imm) = kind := by
  ext i hi; simp [packC, BitVec.getElem_append, BitVec.getLsbD_append]; grind
@[simp] theorem command_h (op : BitVec 6) (f : BitVec 4) (g : BitVec 2) (z : BitVec 1) (kind : BitVec 3) (h : BitVec 16) (imm : BitVec 32) : BitVec.extractLsb' 32 16 (packC op f g z kind h imm) = h := by
  ext i hi; simp [packC, BitVec.getElem_append, BitVec.getLsbD_append]; grind
@[simp] theorem command_imm (op : BitVec 6) (f : BitVec 4) (g : BitVec 2) (z : BitVec 1) (kind : BitVec 3) (h : BitVec 16) (imm : BitVec 32) : BitVec.extractLsb' 0 32 (packC op f g z kind h imm) = imm := by
  ext i hi; simp [packC, BitVec.getElem_append, BitVec.getLsbD_append]; grind
@[simp] theorem command_n (op : BitVec 6) (f : BitVec 4) (g : BitVec 2) (z : BitVec 1) (kind : BitVec 3) (h : BitVec 16) (imm : BitVec 32) : BitVec.extractLsb' 0 20 (packC op f g z kind h imm) = BitVec.extractLsb' 0 20 imm := by
  ext i hi; simp [packC, BitVec.getElem_append, BitVec.getLsbD_append]; grind
@[simp] theorem command_pad (op : BitVec 6) (f : BitVec 4) (g : BitVec 2) (z : BitVec 1) (kind : BitVec 3) (h : BitVec 16) (imm : BitVec 32) : BitVec.extractLsb' 20 12 (packC op f g z kind h imm) = BitVec.extractLsb' 20 12 imm := by
  ext i hi; simp [packC, BitVec.getElem_append, BitVec.getLsbD_append]; grind
@[simp] theorem command_t (op : BitVec 6) (f : BitVec 4) (g : BitVec 2) (z : BitVec 1) (kind : BitVec 3) (h : BitVec 16) (imm : BitVec 32) : BitVec.extractLsb' 0 16 (packC op f g z kind h imm) = BitVec.extractLsb' 0 16 imm := by
  ext i hi; simp [packC, BitVec.getElem_append, BitVec.getLsbD_append]; grind
@[simp] theorem command_tpad (op : BitVec 6) (f : BitVec 4) (g : BitVec 2) (z : BitVec 1) (kind : BitVec 3) (h : BitVec 16) (imm : BitVec 32) : BitVec.extractLsb' 16 16 (packC op f g z kind h imm) = BitVec.extractLsb' 16 16 imm := by
  ext i hi; simp [packC, BitVec.getElem_append, BitVec.getLsbD_append]; grind
@[simp] theorem command_mode (op : BitVec 6) (f : BitVec 4) (g : BitVec 2) (z : BitVec 1) (kind : BitVec 3) (h : BitVec 16) (imm : BitVec 32) : BitVec.extractLsb' 32 2 (packC op f g z kind h imm) = BitVec.extractLsb' 0 2 h := by
  ext i hi; simp [packC, BitVec.getElem_append, BitVec.getLsbD_append]; grind
@[simp] theorem command_modepad (op : BitVec 6) (f : BitVec 4) (g : BitVec 2) (z : BitVec 1) (kind : BitVec 3) (h : BitVec 16) (imm : BitVec 32) : BitVec.extractLsb' 34 14 (packC op f g z kind h imm) = BitVec.extractLsb' 2 14 h := by
  ext i hi; simp [packC, BitVec.getElem_append, BitVec.getLsbD_append]; grind
@[simp] theorem part_12_20_at_0_20 (x0 : BitVec 12) (x1 : BitVec 20) : BitVec.extractLsb' 0 20 (x0 ++ x1 : BitVec 32) = x1 := by
  ext i hi; simp [BitVec.getElem_append, BitVec.getLsbD_append]; grind
@[simp] theorem part_12_20_at_20_12 (x0 : BitVec 12) (x1 : BitVec 20) : BitVec.extractLsb' 20 12 (x0 ++ x1 : BitVec 32) = x0 := by
  ext i hi; simp [BitVec.getElem_append, BitVec.getLsbD_append]; grind
@[simp] theorem part_16_16_at_0_16 (x0 : BitVec 16) (x1 : BitVec 16) : BitVec.extractLsb' 0 16 (x0 ++ x1 : BitVec 32) = x1 := by
  ext i hi; simp [BitVec.getElem_append, BitVec.getLsbD_append]; grind
@[simp] theorem part_16_16_at_16_16 (x0 : BitVec 16) (x1 : BitVec 16) : BitVec.extractLsb' 16 16 (x0 ++ x1 : BitVec 32) = x0 := by
  ext i hi; simp [BitVec.getElem_append, BitVec.getLsbD_append]; grind
@[simp] theorem part_14_2_at_0_2 (x0 : BitVec 14) (x1 : BitVec 2) : BitVec.extractLsb' 0 2 (x0 ++ x1 : BitVec 16) = x1 := by
  ext i hi; simp [BitVec.getElem_append, BitVec.getLsbD_append]; grind
@[simp] theorem part_14_2_at_2_14 (x0 : BitVec 14) (x1 : BitVec 2) : BitVec.extractLsb' 2 14 (x0 ++ x1 : BitVec 16) = x0 := by
  ext i hi; simp [BitVec.getElem_append, BitVec.getLsbD_append]; grind

end Sys2Proof.Laws.Encoding
end

