-- ==== Sys2Proof/Laws/Tab.lean ====
section
/-!
SUPPORT. Sparse tables: a key reads what was last written to it, every other key reads as before, and each operation keeps the
canonical form.
-/

namespace Sys2Proof.Laws

variable {α : Type}

theorem Tab.getD_above (d : α) {k n : Nat} (h : k < n) (t : Tab α) : Tab.getD d (Tab.above k t) n = Tab.getD d t n := by
  induction t with
  | nil => rfl
  | cons e r ih =>
    obtain ⟨j, x⟩ := e
    by_cases hj : j ≤ k
    · have h1 : ¬ n < j := by omega
      have h2 : n ≠ j := by omega
      simp [Tab.above, Tab.getD, hj, h1, h2, ih]
    · simp [Tab.above, hj]

theorem Tab.getD_above_low (d : α) {k n : Nat} (h : n ≤ k) (t : Tab α) : Tab.getD d (Tab.above k t) n = d := by
  induction t with
  | nil => rfl
  | cons e r ih =>
    obtain ⟨j, x⟩ := e
    by_cases hj : j ≤ k
    · simpa [Tab.above, hj] using ih
    · have : n < j := by omega
      simp [Tab.above, hj, Tab.getD, this]

theorem Tab.getD_setD_same [DecidableEq α] (d : α) (t : Tab α) (k : Nat) (v : α) : Tab.getD d (Tab.setD d t k v) k = v := by
  induction t with
  | nil => by_cases hv : v = d <;> simp [Tab.setD, Tab.getD, hv]
  | cons e r ih =>
    obtain ⟨j, x⟩ := e
    unfold Tab.setD
    by_cases hk : k < j
    · by_cases hv : v = d <;> simp [Tab.getD, hk, hv]
    · by_cases he : k = j
      · by_cases hv : v = d
        · simp [he, hv, Tab.getD_above_low d (Nat.le_refl j) r]
        · simp [he, hv, Tab.getD]
      · simp [hk, he, Tab.getD, ih]

theorem Tab.getD_setD_other [DecidableEq α] (d : α) (t : Tab α) {k n : Nat} (v : α) (h : n ≠ k) :
    Tab.getD d (Tab.setD d t k v) n = Tab.getD d t n := by
  induction t with
  | nil => by_cases hv : v = d <;> by_cases hn : n < k <;> simp [Tab.setD, Tab.getD, hv, hn, h]
  | cons e r ih =>
    obtain ⟨j, x⟩ := e
    unfold Tab.setD
    by_cases hk : k < j
    · by_cases hv : v = d
      · simp [hk, hv]
      · by_cases hn : n < k
        · have : n < j := by omega
          simp [hk, hv, Tab.getD, hn, this]
        · simp [hk, hv, Tab.getD, hn, h]
    · by_cases he : k = j
      · subst he
        by_cases hv : v = d
        · by_cases hn : n < k
          · simp [hv, Tab.getD, hn, Tab.getD_above_low d (Nat.le_of_lt hn) r]
          · have : k < n := by omega
            simp [hv, Tab.getD, hn, h, Tab.getD_above d this r]
        · simp [hv, Tab.getD, h]
      · simp [hk, he, Tab.getD, ih]

/-- Every key of a table lies above `k`. -/
def Tab.bounded (k : Nat) (t : Tab α) : Prop := ∀ e ∈ t, k < e.1

theorem Tab.canon_cons [DecidableEq α] (d : α) (j : Nat) (x : α) (t : Tab α) :
    Tab.canon d ((j, x) :: t) = true ↔ x ≠ d ∧ Tab.bounded j t ∧ Tab.canon d t = true := by
  induction t generalizing j x with
  | nil => simp [Tab.canon, Tab.bounded]
  | cons e r ih =>
    obtain ⟨k, y⟩ := e
    have h2 := ih k y
    constructor
    · intro h
      simp only [Tab.canon, Bool.and_eq_true, decide_eq_true_eq] at h
      obtain ⟨⟨hx, hjk⟩, hc⟩ := h
      refine ⟨hx, ?_, hc⟩
      intro e he
      rcases List.mem_cons.mp he with rfl | he
      · exact hjk
      · exact Nat.lt_trans hjk ((h2.mp hc).2.1 e he)
    · rintro ⟨hx, hb, hc⟩
      simp only [Tab.canon, Bool.and_eq_true, decide_eq_true_eq]
      exact ⟨⟨hx, hb (k, y) List.mem_cons_self⟩, hc⟩

theorem Tab.bounded_setD [DecidableEq α] (d : α) {t : Tab α} {j k : Nat} (v : α) (h : Tab.bounded j t) (hk : j < k) :
    Tab.bounded j (Tab.setD d t k v) := by
  induction t with
  | nil =>
    by_cases hv : v = d
    · simp [Tab.setD, hv, Tab.bounded]
    · simpa [Tab.setD, hv, Tab.bounded] using hk
  | cons e r ih =>
    obtain ⟨i, x⟩ := e
    have hr : Tab.bounded j r := fun e he => h e (List.mem_cons_of_mem _ he)
    have hi : j < i := h (i, x) List.mem_cons_self
    have ha : Tab.bounded j (Tab.above k r) := by
      clear ih hi h
      induction r with
      | nil => intro e he; simp [Tab.above] at he
      | cons e r ih =>
        obtain ⟨m, y⟩ := e
        by_cases hm : m ≤ k
        · simpa [Tab.above, hm] using ih (fun e he => hr e (List.mem_cons_of_mem _ he))
        · simpa [Tab.above, hm] using hr
    unfold Tab.setD
    split
    · split
      · exact h
      · intro e he
        rcases List.mem_cons.mp he with rfl | he
        · exact hk
        · exact h e he
    · split
      · split
        · exact ha
        · intro e he
          rcases List.mem_cons.mp he with rfl | he
          · exact hk
          · exact hr e he
      · intro e he
        rcases List.mem_cons.mp he with rfl | he
        · exact hi
        · exact ih hr e he

theorem Tab.above_of_bounded {k : Nat} {t : Tab α} (h : Tab.bounded k t) : Tab.above k t = t := by
  cases t with
  | nil => rfl
  | cons e r =>
    obtain ⟨j, x⟩ := e
    have : ¬ j ≤ k := by have := h (j, x) List.mem_cons_self; simpa using this
    simp [Tab.above, this]

theorem Tab.canon_setD [DecidableEq α] (d : α) {t : Tab α} (k : Nat) (v : α) (h : Tab.canon d t = true) :
    Tab.canon d (Tab.setD d t k v) = true := by
  induction t with
  | nil => by_cases hv : v = d <;> simp [Tab.setD, Tab.canon, hv]
  | cons e r ih =>
    obtain ⟨j, x⟩ := e
    obtain ⟨hx, hb, hr⟩ := (Tab.canon_cons d j x r).mp h
    unfold Tab.setD
    split
    · rename_i hk
      split
      · exact h
      · rename_i hv
        refine (Tab.canon_cons d k v _).mpr ⟨hv, ?_, h⟩
        intro e he
        rcases List.mem_cons.mp he with rfl | he
        · exact hk
        · exact Nat.lt_trans hk (hb e he)
    · split
      · rename_i he
        subst he
        split
        · rw [Tab.above_of_bounded hb]; exact hr
        · rename_i hv
          exact (Tab.canon_cons d k v r).mpr ⟨hv, hb, hr⟩
      · rename_i hk he
        exact (Tab.canon_cons d j x _).mpr ⟨hx, Tab.bounded_setD d v hb (by omega), ih hr⟩

theorem Tab.canon_filter [DecidableEq α] (d : α) (p : Nat × α → Bool) {t : Tab α} (h : Tab.canon d t = true) :
    Tab.canon d (t.filter p) = true := by
  induction t with
  | nil => rfl
  | cons e r ih =>
    obtain ⟨j, x⟩ := e
    obtain ⟨hx, hb, hr⟩ := (Tab.canon_cons d j x r).mp h
    by_cases hp : p (j, x)
    · simp only [List.filter_cons, hp, if_true]
      exact (Tab.canon_cons d j x _).mpr ⟨hx, fun e he => hb e (List.mem_filter.mp he).1, ih hr⟩
    · simpa [List.filter_cons, hp] using ih hr

@[simp] theorem Tab.get_set_same [Inhabited α] [DecidableEq α] (t : Tab α) (k : Nat) (v : α) : Tab.get (Tab.set t k v) k = v :=
  Tab.getD_setD_same _ t k v

theorem Tab.get_set_other [Inhabited α] [DecidableEq α] (t : Tab α) {k n : Nat} (v : α) (h : n ≠ k) :
    Tab.get (Tab.set t k v) n = Tab.get t n := Tab.getD_setD_other _ t v h

@[simp] theorem Tab.get_upd_same [Inhabited α] [DecidableEq α] (t : Tab α) (k : Nat) (f : α → α) :
    Tab.get (Tab.upd t k f) k = f (Tab.get t k) := Tab.get_set_same t k _

theorem Tab.get_upd_other [Inhabited α] [DecidableEq α] (t : Tab α) {k n : Nat} (f : α → α) (h : n ≠ k) :
    Tab.get (Tab.upd t k f) n = Tab.get t n := Tab.get_set_other t _ h

end Sys2Proof.Laws
end

