-- ==== Sys2Proof/Laws/Memory.lean ====
section
/-!
SUPPORT. Memory: a byte reads what was last written to it and every other byte reads as before; every operation on memory keeps its
canonical form; the memories of the module do not overlap.
-/

namespace Sys2Proof.Laws

open Sys2Proof.Machine

theorem Memory.get_put (m : List Host.Cell) (k n : Nat) (b : Byte) :
    Machine.Memory.get (Machine.Memory.put m k b) n = if n = k then b else Machine.Memory.get m n := by
  by_cases h : n = k
  · subst h; simp [Machine.Memory.get, Machine.Memory.put, Tab.getD_setD_same]
  · simp [Machine.Memory.get, Machine.Memory.put, h, Tab.getD_setD_other _ _ _ h]

theorem Memory.get_putAll (m : List Host.Cell) (k n : Nat) (bs : List Byte) :
    Machine.Memory.get (Machine.Memory.putAll m k bs) n =
      if k ≤ n ∧ n < k + bs.length then bs.getD (n - k) 0#8 else Machine.Memory.get m n := by
  induction bs generalizing m k with
  | nil => have : ¬ (k ≤ n ∧ n < k) := by omega
           simp [Machine.Memory.putAll, this]
  | cons b r ih =>
    rw [Machine.Memory.putAll, ih, Memory.get_put]
    by_cases h : n = k
    · subst h
      have h1 : ¬ (n + 1 ≤ n ∧ n < n + 1 + r.length) := by omega
      simp [h1]
    · by_cases h2 : k + 1 ≤ n ∧ n < k + 1 + r.length
      · have h3 : k ≤ n ∧ n < k + (b :: r).length := by simp; omega
        have h4 : n - k = (n - (k + 1)) + 1 := by omega
        rw [if_pos h2, if_pos h3, h4]; simp
      · have h3 : ¬ (k ≤ n ∧ n < k + (b :: r).length) := by simp; omega
        rw [if_neg h2, if_neg h3, if_neg h]

/-- The byte that a scattered store leaves at a key: the last one written there, or what stood there. -/
theorem Memory.get_foldl_put (key : Nat → Nat) (bs : List (Nat × Byte)) (m : List Host.Cell) (n : Nat)
    (h : ∀ b ∈ bs, key b.1 ≠ n) :
    Machine.Memory.get (bs.foldl (fun m b => Machine.Memory.put m (key b.1) b.2) m) n = Machine.Memory.get m n := by
  induction bs generalizing m with
  | nil => rfl
  | cons b r ih =>
    have h1 : n ≠ key b.1 := fun e => h b List.mem_cons_self e.symm
    rw [List.foldl_cons, ih _ (fun c hc => h c (List.mem_cons_of_mem _ hc)), Memory.get_put, if_neg h1]

theorem Memory.wf_put {m : List Host.Cell} (k : Nat) (b : Byte) (h : Machine.Memory.wf m = true) :
    Machine.Memory.wf (Machine.Memory.put m k b) = true := Tab.canon_setD _ k b h

theorem Memory.wf_putAll {m : List Host.Cell} (k : Nat) (bs : List Byte) (h : Machine.Memory.wf m = true) :
    Machine.Memory.wf (Machine.Memory.putAll m k bs) = true := by
  induction bs generalizing m k with
  | nil => exact h
  | cons b r ih => exact ih (k + 1) (Memory.wf_put k b h)

theorem Memory.wf_foldl_put (key : Nat → Nat) (bs : List (Nat × Byte)) {m : List Host.Cell} (h : Machine.Memory.wf m = true) :
    Machine.Memory.wf (bs.foldl (fun m b => Machine.Memory.put m (key b.1) b.2) m) = true := by
  induction bs generalizing m with
  | nil => exact h
  | cons b r ih => exact ih (Memory.wf_put _ _ h)

theorem Memory.wf_clear {m : List Host.Cell} (lo n : Nat) (h : Machine.Memory.wf m = true) :
    Machine.Memory.wf (Machine.Memory.clear m lo n) = true := Tab.canon_filter _ _ h

theorem Memory.wf_filter {m : List Host.Cell} (p : Host.Cell → Bool) (h : Machine.Memory.wf m = true) :
    Machine.Memory.wf (m.filter p) = true := Tab.canon_filter _ p h

/-- Two memories have no key in common: each has 2^64 keys of its own. -/
theorem Space.key_inj {x y : Space} {a b : Nat} (ha : a < 18446744073709551616) (hb : b < 18446744073709551616)
    (h : x.key a = y.key b) : x.num = y.num ∧ a = b := by
  unfold Machine.Space.key at h
  omega

@[simp] theorem bytes_length (s : State) (sp : Space) (a n : Nat) : (s.bytes sp a n).length = n := by simp [State.bytes]

theorem byte_poke (s : State) (sp sq : Space) (a b : Nat) (bs : List Byte) :
    (s.poke sp a bs).byte sq b =
      if sp.key a ≤ sq.key b ∧ sq.key b < sp.key a + bs.length then bs.getD (sq.key b - sp.key a) 0#8 else s.byte sq b :=
  Memory.get_putAll _ _ _ _

theorem byte_pokeAt (s : State) (sp sq : Space) (bs : List (Nat × Byte)) (b : Nat) (h : ∀ e ∈ bs, sp.key e.1 ≠ sq.key b) :
    (s.pokeAt sp bs).byte sq b = s.byte sq b := Memory.get_foldl_put _ _ _ _ h

end Sys2Proof.Laws
end

