-- ==== Sys2Proof/Laws/State.lean ====
section
/-!
SUPPORT. State: what each update leaves of each field, and what a unit reads as after an update of it or of another.
-/

namespace Sys2Proof.Laws

open Sys2Proof.Machine

@[simp] theorem updTile_cyc (s : State) (k : Nat) (f : Tile → Tile) : (s.updTile k f).cyc = s.cyc := rfl
@[simp] theorem updTile_cursor (s : State) (k : Nat) (f : Tile → Tile) : (s.updTile k f).cursor = s.cursor := rfl
@[simp] theorem updTile_curTile (s : State) (k : Nat) (f : Tile → Tile) : (s.updTile k f).curTile = s.curTile := rfl
@[simp] theorem updTile_curThread (s : State) (k : Nat) (f : Tile → Tile) : (s.updTile k f).curThread = s.curThread := rfl
@[simp] theorem updTile_curProg (s : State) (k : Nat) (f : Tile → Tile) : (s.updTile k f).curProg = s.curProg := rfl
@[simp] theorem updTile_powered (s : State) (k : Nat) (f : Tile → Tile) : (s.updTile k f).powered = s.powered := rfl
@[simp] theorem updTile_mem (s : State) (k : Nat) (f : Tile → Tile) : (s.updTile k f).mem = s.mem := rfl
@[simp] theorem updTile_groups (s : State) (k : Nat) (f : Tile → Tile) : (s.updTile k f).groups = s.groups := rfl
@[simp] theorem updTile_dies (s : State) (k : Nat) (f : Tile → Tile) : (s.updTile k f).dies = s.dies := rfl
@[simp] theorem updTile_pkgs (s : State) (k : Nat) (f : Tile → Tile) : (s.updTile k f).pkgs = s.pkgs := rfl
@[simp] theorem updTile_launches (s : State) (k : Nat) (f : Tile → Tile) : (s.updTile k f).launches = s.launches := rfl
@[simp] theorem updTile_nextLaunch (s : State) (k : Nat) (f : Tile → Tile) : (s.updTile k f).nextLaunch = s.nextLaunch := rfl
@[simp] theorem updTile_xfers (s : State) (k : Nat) (f : Tile → Tile) : (s.updTile k f).xfers = s.xfers := rfl
@[simp] theorem updTile_nextXfer (s : State) (k : Nat) (f : Tile → Tile) : (s.updTile k f).nextXfer = s.nextXfer := rfl
@[simp] theorem updTile_bells (s : State) (k : Nat) (f : Tile → Tile) : (s.updTile k f).bells = s.bells := rfl
@[simp] theorem updTile_progs (s : State) (k : Nat) (f : Tile → Tile) : (s.updTile k f).progs = s.progs := rfl
@[simp] theorem updTile_streamWrites (s : State) (k : Nat) (f : Tile → Tile) : (s.updTile k f).streamWrites = s.streamWrites := rfl
@[simp] theorem updTile_cohorts (s : State) (k : Nat) (f : Tile → Tile) : (s.updTile k f).cohorts = s.cohorts := rfl
@[simp] theorem updTile_plans (s : State) (k : Nat) (f : Tile → Tile) : (s.updTile k f).plans = s.plans := rfl
@[simp] theorem updTile_buckets (s : State) (k : Nat) (f : Tile → Tile) : (s.updTile k f).buckets = s.buckets := rfl
@[simp] theorem updTile_stale (s : State) (k : Nat) (f : Tile → Tile) : (s.updTile k f).stale = s.stale := rfl
@[simp] theorem updTile_firings (s : State) (k : Nat) (f : Tile → Tile) : (s.updTile k f).firings = s.firings := rfl
@[simp] theorem updTile_rin (s : State) (k : Nat) (f : Tile → Tile) : (s.updTile k f).rin = s.rin := rfl
@[simp] theorem updTile_podRin (s : State) (k : Nat) (f : Tile → Tile) : (s.updTile k f).podRin = s.podRin := rfl
@[simp] theorem updTile_poison (s : State) (k : Nat) (f : Tile → Tile) : (s.updTile k f).poison = s.poison := rfl
@[simp] theorem updTile_undo (s : State) (k : Nat) (f : Tile → Tile) : (s.updTile k f).undo = s.undo := rfl
@[simp] theorem updTile_logged (s : State) (k : Nat) (f : Tile → Tile) : (s.updTile k f).logged = s.logged := rfl
@[simp] theorem updTile_cut (s : State) (k : Nat) (f : Tile → Tile) : (s.updTile k f).cut = s.cut := rfl
@[simp] theorem updTile_saves (s : State) (k : Nat) (f : Tile → Tile) : (s.updTile k f).saves = s.saves := rfl
@[simp] theorem updTile_fabricLog (s : State) (k : Nat) (f : Tile → Tile) : (s.updTile k f).fabricLog = s.fabricLog := rfl
@[simp] theorem updTile_events (s : State) (k : Nat) (f : Tile → Tile) : (s.updTile k f).events = s.events := rfl
@[simp] theorem updTile_mgMod (s : State) (k : Nat) (f : Tile → Tile) : (s.updTile k f).mgMod = s.mgMod := rfl
@[simp] theorem updTile_rampFloor (s : State) (k : Nat) (f : Tile → Tile) : (s.updTile k f).rampFloor = s.rampFloor := rfl
@[simp] theorem updTile_rampHeld (s : State) (k : Nat) (f : Tile → Tile) : (s.updTile k f).rampHeld = s.rampHeld := rfl
@[simp] theorem updTile_podModule (s : State) (k : Nat) (f : Tile → Tile) : (s.updTile k f).podModule = s.podModule := rfl
@[simp] theorem updTile_inPod (s : State) (k : Nat) (f : Tile → Tile) : (s.updTile k f).inPod = s.inPod := rfl
@[simp] theorem updTile_podFirst (s : State) (k : Nat) (f : Tile → Tile) : (s.updTile k f).podFirst = s.podFirst := rfl
@[simp] theorem updTile_podCount (s : State) (k : Nat) (f : Tile → Tile) : (s.updTile k f).podCount = s.podCount := rfl
@[simp] theorem updTile_e2eNext (s : State) (k : Nat) (f : Tile → Tile) : (s.updTile k f).e2eNext = s.e2eNext := rfl
@[simp] theorem updTile_outbox (s : State) (k : Nat) (f : Tile → Tile) : (s.updTile k f).outbox = s.outbox := rfl
@[simp] theorem updTile_sealAsked (s : State) (k : Nat) (f : Tile → Tile) : (s.updTile k f).sealAsked = s.sealAsked := rfl
@[simp] theorem updTile_fullSince (s : State) (k : Nat) (f : Tile → Tile) : (s.updTile k f).fullSince = s.fullSince := rfl
@[simp] theorem updTile_sysText (s : State) (k : Nat) (f : Tile → Tile) : (s.updTile k f).sysText = s.sysText := rfl
@[simp] theorem updTile_nonce (s : State) (k : Nat) (f : Tile → Tile) : (s.updTile k f).nonce = s.nonce := rfl

@[simp] theorem updThread_cyc (s : State) (k t : Nat) (f : Thread → Thread) : (s.updThread k t f).cyc = s.cyc := rfl
@[simp] theorem updThread_cursor (s : State) (k t : Nat) (f : Thread → Thread) : (s.updThread k t f).cursor = s.cursor := rfl
@[simp] theorem updThread_curTile (s : State) (k t : Nat) (f : Thread → Thread) : (s.updThread k t f).curTile = s.curTile := rfl
@[simp] theorem updThread_curThread (s : State) (k t : Nat) (f : Thread → Thread) : (s.updThread k t f).curThread = s.curThread := rfl
@[simp] theorem updThread_curProg (s : State) (k t : Nat) (f : Thread → Thread) : (s.updThread k t f).curProg = s.curProg := rfl
@[simp] theorem updThread_powered (s : State) (k t : Nat) (f : Thread → Thread) : (s.updThread k t f).powered = s.powered := rfl
@[simp] theorem updThread_mem (s : State) (k t : Nat) (f : Thread → Thread) : (s.updThread k t f).mem = s.mem := rfl
@[simp] theorem updThread_groups (s : State) (k t : Nat) (f : Thread → Thread) : (s.updThread k t f).groups = s.groups := rfl
@[simp] theorem updThread_dies (s : State) (k t : Nat) (f : Thread → Thread) : (s.updThread k t f).dies = s.dies := rfl
@[simp] theorem updThread_pkgs (s : State) (k t : Nat) (f : Thread → Thread) : (s.updThread k t f).pkgs = s.pkgs := rfl
@[simp] theorem updThread_launches (s : State) (k t : Nat) (f : Thread → Thread) : (s.updThread k t f).launches = s.launches := rfl
@[simp] theorem updThread_nextLaunch (s : State) (k t : Nat) (f : Thread → Thread) : (s.updThread k t f).nextLaunch = s.nextLaunch := rfl
@[simp] theorem updThread_xfers (s : State) (k t : Nat) (f : Thread → Thread) : (s.updThread k t f).xfers = s.xfers := rfl
@[simp] theorem updThread_nextXfer (s : State) (k t : Nat) (f : Thread → Thread) : (s.updThread k t f).nextXfer = s.nextXfer := rfl
@[simp] theorem updThread_bells (s : State) (k t : Nat) (f : Thread → Thread) : (s.updThread k t f).bells = s.bells := rfl
@[simp] theorem updThread_progs (s : State) (k t : Nat) (f : Thread → Thread) : (s.updThread k t f).progs = s.progs := rfl
@[simp] theorem updThread_streamWrites (s : State) (k t : Nat) (f : Thread → Thread) : (s.updThread k t f).streamWrites = s.streamWrites := rfl
@[simp] theorem updThread_cohorts (s : State) (k t : Nat) (f : Thread → Thread) : (s.updThread k t f).cohorts = s.cohorts := rfl
@[simp] theorem updThread_plans (s : State) (k t : Nat) (f : Thread → Thread) : (s.updThread k t f).plans = s.plans := rfl
@[simp] theorem updThread_buckets (s : State) (k t : Nat) (f : Thread → Thread) : (s.updThread k t f).buckets = s.buckets := rfl
@[simp] theorem updThread_stale (s : State) (k t : Nat) (f : Thread → Thread) : (s.updThread k t f).stale = s.stale := rfl
@[simp] theorem updThread_firings (s : State) (k t : Nat) (f : Thread → Thread) : (s.updThread k t f).firings = s.firings := rfl
@[simp] theorem updThread_rin (s : State) (k t : Nat) (f : Thread → Thread) : (s.updThread k t f).rin = s.rin := rfl
@[simp] theorem updThread_podRin (s : State) (k t : Nat) (f : Thread → Thread) : (s.updThread k t f).podRin = s.podRin := rfl
@[simp] theorem updThread_poison (s : State) (k t : Nat) (f : Thread → Thread) : (s.updThread k t f).poison = s.poison := rfl
@[simp] theorem updThread_undo (s : State) (k t : Nat) (f : Thread → Thread) : (s.updThread k t f).undo = s.undo := rfl
@[simp] theorem updThread_logged (s : State) (k t : Nat) (f : Thread → Thread) : (s.updThread k t f).logged = s.logged := rfl
@[simp] theorem updThread_cut (s : State) (k t : Nat) (f : Thread → Thread) : (s.updThread k t f).cut = s.cut := rfl
@[simp] theorem updThread_saves (s : State) (k t : Nat) (f : Thread → Thread) : (s.updThread k t f).saves = s.saves := rfl
@[simp] theorem updThread_fabricLog (s : State) (k t : Nat) (f : Thread → Thread) : (s.updThread k t f).fabricLog = s.fabricLog := rfl
@[simp] theorem updThread_events (s : State) (k t : Nat) (f : Thread → Thread) : (s.updThread k t f).events = s.events := rfl
@[simp] theorem updThread_mgMod (s : State) (k t : Nat) (f : Thread → Thread) : (s.updThread k t f).mgMod = s.mgMod := rfl
@[simp] theorem updThread_rampFloor (s : State) (k t : Nat) (f : Thread → Thread) : (s.updThread k t f).rampFloor = s.rampFloor := rfl
@[simp] theorem updThread_rampHeld (s : State) (k t : Nat) (f : Thread → Thread) : (s.updThread k t f).rampHeld = s.rampHeld := rfl
@[simp] theorem updThread_podModule (s : State) (k t : Nat) (f : Thread → Thread) : (s.updThread k t f).podModule = s.podModule := rfl
@[simp] theorem updThread_inPod (s : State) (k t : Nat) (f : Thread → Thread) : (s.updThread k t f).inPod = s.inPod := rfl
@[simp] theorem updThread_podFirst (s : State) (k t : Nat) (f : Thread → Thread) : (s.updThread k t f).podFirst = s.podFirst := rfl
@[simp] theorem updThread_podCount (s : State) (k t : Nat) (f : Thread → Thread) : (s.updThread k t f).podCount = s.podCount := rfl
@[simp] theorem updThread_e2eNext (s : State) (k t : Nat) (f : Thread → Thread) : (s.updThread k t f).e2eNext = s.e2eNext := rfl
@[simp] theorem updThread_outbox (s : State) (k t : Nat) (f : Thread → Thread) : (s.updThread k t f).outbox = s.outbox := rfl
@[simp] theorem updThread_sealAsked (s : State) (k t : Nat) (f : Thread → Thread) : (s.updThread k t f).sealAsked = s.sealAsked := rfl
@[simp] theorem updThread_fullSince (s : State) (k t : Nat) (f : Thread → Thread) : (s.updThread k t f).fullSince = s.fullSince := rfl
@[simp] theorem updThread_sysText (s : State) (k t : Nat) (f : Thread → Thread) : (s.updThread k t f).sysText = s.sysText := rfl
@[simp] theorem updThread_nonce (s : State) (k t : Nat) (f : Thread → Thread) : (s.updThread k t f).nonce = s.nonce := rfl

@[simp] theorem updThr_cyc (s : State) (f : Thread → Thread) : (s.updThr f).cyc = s.cyc := rfl
@[simp] theorem updThr_cursor (s : State) (f : Thread → Thread) : (s.updThr f).cursor = s.cursor := rfl
@[simp] theorem updThr_curTile (s : State) (f : Thread → Thread) : (s.updThr f).curTile = s.curTile := rfl
@[simp] theorem updThr_curThread (s : State) (f : Thread → Thread) : (s.updThr f).curThread = s.curThread := rfl
@[simp] theorem updThr_curProg (s : State) (f : Thread → Thread) : (s.updThr f).curProg = s.curProg := rfl
@[simp] theorem updThr_powered (s : State) (f : Thread → Thread) : (s.updThr f).powered = s.powered := rfl
@[simp] theorem updThr_mem (s : State) (f : Thread → Thread) : (s.updThr f).mem = s.mem := rfl
@[simp] theorem updThr_groups (s : State) (f : Thread → Thread) : (s.updThr f).groups = s.groups := rfl
@[simp] theorem updThr_dies (s : State) (f : Thread → Thread) : (s.updThr f).dies = s.dies := rfl
@[simp] theorem updThr_pkgs (s : State) (f : Thread → Thread) : (s.updThr f).pkgs = s.pkgs := rfl
@[simp] theorem updThr_launches (s : State) (f : Thread → Thread) : (s.updThr f).launches = s.launches := rfl
@[simp] theorem updThr_nextLaunch (s : State) (f : Thread → Thread) : (s.updThr f).nextLaunch = s.nextLaunch := rfl
@[simp] theorem updThr_xfers (s : State) (f : Thread → Thread) : (s.updThr f).xfers = s.xfers := rfl
@[simp] theorem updThr_nextXfer (s : State) (f : Thread → Thread) : (s.updThr f).nextXfer = s.nextXfer := rfl
@[simp] theorem updThr_bells (s : State) (f : Thread → Thread) : (s.updThr f).bells = s.bells := rfl
@[simp] theorem updThr_progs (s : State) (f : Thread → Thread) : (s.updThr f).progs = s.progs := rfl
@[simp] theorem updThr_streamWrites (s : State) (f : Thread → Thread) : (s.updThr f).streamWrites = s.streamWrites := rfl
@[simp] theorem updThr_cohorts (s : State) (f : Thread → Thread) : (s.updThr f).cohorts = s.cohorts := rfl
@[simp] theorem updThr_plans (s : State) (f : Thread → Thread) : (s.updThr f).plans = s.plans := rfl
@[simp] theorem updThr_buckets (s : State) (f : Thread → Thread) : (s.updThr f).buckets = s.buckets := rfl
@[simp] theorem updThr_stale (s : State) (f : Thread → Thread) : (s.updThr f).stale = s.stale := rfl
@[simp] theorem updThr_firings (s : State) (f : Thread → Thread) : (s.updThr f).firings = s.firings := rfl
@[simp] theorem updThr_rin (s : State) (f : Thread → Thread) : (s.updThr f).rin = s.rin := rfl
@[simp] theorem updThr_podRin (s : State) (f : Thread → Thread) : (s.updThr f).podRin = s.podRin := rfl
@[simp] theorem updThr_poison (s : State) (f : Thread → Thread) : (s.updThr f).poison = s.poison := rfl
@[simp] theorem updThr_undo (s : State) (f : Thread → Thread) : (s.updThr f).undo = s.undo := rfl
@[simp] theorem updThr_logged (s : State) (f : Thread → Thread) : (s.updThr f).logged = s.logged := rfl
@[simp] theorem updThr_cut (s : State) (f : Thread → Thread) : (s.updThr f).cut = s.cut := rfl
@[simp] theorem updThr_saves (s : State) (f : Thread → Thread) : (s.updThr f).saves = s.saves := rfl
@[simp] theorem updThr_fabricLog (s : State) (f : Thread → Thread) : (s.updThr f).fabricLog = s.fabricLog := rfl
@[simp] theorem updThr_events (s : State) (f : Thread → Thread) : (s.updThr f).events = s.events := rfl
@[simp] theorem updThr_mgMod (s : State) (f : Thread → Thread) : (s.updThr f).mgMod = s.mgMod := rfl
@[simp] theorem updThr_rampFloor (s : State) (f : Thread → Thread) : (s.updThr f).rampFloor = s.rampFloor := rfl
@[simp] theorem updThr_rampHeld (s : State) (f : Thread → Thread) : (s.updThr f).rampHeld = s.rampHeld := rfl
@[simp] theorem updThr_podModule (s : State) (f : Thread → Thread) : (s.updThr f).podModule = s.podModule := rfl
@[simp] theorem updThr_inPod (s : State) (f : Thread → Thread) : (s.updThr f).inPod = s.inPod := rfl
@[simp] theorem updThr_podFirst (s : State) (f : Thread → Thread) : (s.updThr f).podFirst = s.podFirst := rfl
@[simp] theorem updThr_podCount (s : State) (f : Thread → Thread) : (s.updThr f).podCount = s.podCount := rfl
@[simp] theorem updThr_e2eNext (s : State) (f : Thread → Thread) : (s.updThr f).e2eNext = s.e2eNext := rfl
@[simp] theorem updThr_outbox (s : State) (f : Thread → Thread) : (s.updThr f).outbox = s.outbox := rfl
@[simp] theorem updThr_sealAsked (s : State) (f : Thread → Thread) : (s.updThr f).sealAsked = s.sealAsked := rfl
@[simp] theorem updThr_fullSince (s : State) (f : Thread → Thread) : (s.updThr f).fullSince = s.fullSince := rfl
@[simp] theorem updThr_sysText (s : State) (f : Thread → Thread) : (s.updThr f).sysText = s.sysText := rfl
@[simp] theorem updThr_nonce (s : State) (f : Thread → Thread) : (s.updThr f).nonce = s.nonce := rfl

@[simp] theorem updGroup_cyc (s : State) (k : Nat) (f : Group → Group) : (s.updGroup k f).cyc = s.cyc := rfl
@[simp] theorem updGroup_cursor (s : State) (k : Nat) (f : Group → Group) : (s.updGroup k f).cursor = s.cursor := rfl
@[simp] theorem updGroup_curTile (s : State) (k : Nat) (f : Group → Group) : (s.updGroup k f).curTile = s.curTile := rfl
@[simp] theorem updGroup_curThread (s : State) (k : Nat) (f : Group → Group) : (s.updGroup k f).curThread = s.curThread := rfl
@[simp] theorem updGroup_curProg (s : State) (k : Nat) (f : Group → Group) : (s.updGroup k f).curProg = s.curProg := rfl
@[simp] theorem updGroup_powered (s : State) (k : Nat) (f : Group → Group) : (s.updGroup k f).powered = s.powered := rfl
@[simp] theorem updGroup_mem (s : State) (k : Nat) (f : Group → Group) : (s.updGroup k f).mem = s.mem := rfl
@[simp] theorem updGroup_tiles (s : State) (k : Nat) (f : Group → Group) : (s.updGroup k f).tiles = s.tiles := rfl
@[simp] theorem updGroup_dies (s : State) (k : Nat) (f : Group → Group) : (s.updGroup k f).dies = s.dies := rfl
@[simp] theorem updGroup_pkgs (s : State) (k : Nat) (f : Group → Group) : (s.updGroup k f).pkgs = s.pkgs := rfl
@[simp] theorem updGroup_launches (s : State) (k : Nat) (f : Group → Group) : (s.updGroup k f).launches = s.launches := rfl
@[simp] theorem updGroup_nextLaunch (s : State) (k : Nat) (f : Group → Group) : (s.updGroup k f).nextLaunch = s.nextLaunch := rfl
@[simp] theorem updGroup_xfers (s : State) (k : Nat) (f : Group → Group) : (s.updGroup k f).xfers = s.xfers := rfl
@[simp] theorem updGroup_nextXfer (s : State) (k : Nat) (f : Group → Group) : (s.updGroup k f).nextXfer = s.nextXfer := rfl
@[simp] theorem updGroup_bells (s : State) (k : Nat) (f : Group → Group) : (s.updGroup k f).bells = s.bells := rfl
@[simp] theorem updGroup_progs (s : State) (k : Nat) (f : Group → Group) : (s.updGroup k f).progs = s.progs := rfl
@[simp] theorem updGroup_streamWrites (s : State) (k : Nat) (f : Group → Group) : (s.updGroup k f).streamWrites = s.streamWrites := rfl
@[simp] theorem updGroup_cohorts (s : State) (k : Nat) (f : Group → Group) : (s.updGroup k f).cohorts = s.cohorts := rfl
@[simp] theorem updGroup_plans (s : State) (k : Nat) (f : Group → Group) : (s.updGroup k f).plans = s.plans := rfl
@[simp] theorem updGroup_buckets (s : State) (k : Nat) (f : Group → Group) : (s.updGroup k f).buckets = s.buckets := rfl
@[simp] theorem updGroup_stale (s : State) (k : Nat) (f : Group → Group) : (s.updGroup k f).stale = s.stale := rfl
@[simp] theorem updGroup_firings (s : State) (k : Nat) (f : Group → Group) : (s.updGroup k f).firings = s.firings := rfl
@[simp] theorem updGroup_rin (s : State) (k : Nat) (f : Group → Group) : (s.updGroup k f).rin = s.rin := rfl
@[simp] theorem updGroup_podRin (s : State) (k : Nat) (f : Group → Group) : (s.updGroup k f).podRin = s.podRin := rfl
@[simp] theorem updGroup_poison (s : State) (k : Nat) (f : Group → Group) : (s.updGroup k f).poison = s.poison := rfl
@[simp] theorem updGroup_undo (s : State) (k : Nat) (f : Group → Group) : (s.updGroup k f).undo = s.undo := rfl
@[simp] theorem updGroup_logged (s : State) (k : Nat) (f : Group → Group) : (s.updGroup k f).logged = s.logged := rfl
@[simp] theorem updGroup_cut (s : State) (k : Nat) (f : Group → Group) : (s.updGroup k f).cut = s.cut := rfl
@[simp] theorem updGroup_saves (s : State) (k : Nat) (f : Group → Group) : (s.updGroup k f).saves = s.saves := rfl
@[simp] theorem updGroup_fabricLog (s : State) (k : Nat) (f : Group → Group) : (s.updGroup k f).fabricLog = s.fabricLog := rfl
@[simp] theorem updGroup_events (s : State) (k : Nat) (f : Group → Group) : (s.updGroup k f).events = s.events := rfl
@[simp] theorem updGroup_mgMod (s : State) (k : Nat) (f : Group → Group) : (s.updGroup k f).mgMod = s.mgMod := rfl
@[simp] theorem updGroup_rampFloor (s : State) (k : Nat) (f : Group → Group) : (s.updGroup k f).rampFloor = s.rampFloor := rfl
@[simp] theorem updGroup_rampHeld (s : State) (k : Nat) (f : Group → Group) : (s.updGroup k f).rampHeld = s.rampHeld := rfl
@[simp] theorem updGroup_podModule (s : State) (k : Nat) (f : Group → Group) : (s.updGroup k f).podModule = s.podModule := rfl
@[simp] theorem updGroup_inPod (s : State) (k : Nat) (f : Group → Group) : (s.updGroup k f).inPod = s.inPod := rfl
@[simp] theorem updGroup_podFirst (s : State) (k : Nat) (f : Group → Group) : (s.updGroup k f).podFirst = s.podFirst := rfl
@[simp] theorem updGroup_podCount (s : State) (k : Nat) (f : Group → Group) : (s.updGroup k f).podCount = s.podCount := rfl
@[simp] theorem updGroup_e2eNext (s : State) (k : Nat) (f : Group → Group) : (s.updGroup k f).e2eNext = s.e2eNext := rfl
@[simp] theorem updGroup_outbox (s : State) (k : Nat) (f : Group → Group) : (s.updGroup k f).outbox = s.outbox := rfl
@[simp] theorem updGroup_sealAsked (s : State) (k : Nat) (f : Group → Group) : (s.updGroup k f).sealAsked = s.sealAsked := rfl
@[simp] theorem updGroup_fullSince (s : State) (k : Nat) (f : Group → Group) : (s.updGroup k f).fullSince = s.fullSince := rfl
@[simp] theorem updGroup_sysText (s : State) (k : Nat) (f : Group → Group) : (s.updGroup k f).sysText = s.sysText := rfl
@[simp] theorem updGroup_nonce (s : State) (k : Nat) (f : Group → Group) : (s.updGroup k f).nonce = s.nonce := rfl

@[simp] theorem updDie_cyc (s : State) (k : Nat) (f : Die → Die) : (s.updDie k f).cyc = s.cyc := rfl
@[simp] theorem updDie_cursor (s : State) (k : Nat) (f : Die → Die) : (s.updDie k f).cursor = s.cursor := rfl
@[simp] theorem updDie_curTile (s : State) (k : Nat) (f : Die → Die) : (s.updDie k f).curTile = s.curTile := rfl
@[simp] theorem updDie_curThread (s : State) (k : Nat) (f : Die → Die) : (s.updDie k f).curThread = s.curThread := rfl
@[simp] theorem updDie_curProg (s : State) (k : Nat) (f : Die → Die) : (s.updDie k f).curProg = s.curProg := rfl
@[simp] theorem updDie_powered (s : State) (k : Nat) (f : Die → Die) : (s.updDie k f).powered = s.powered := rfl
@[simp] theorem updDie_mem (s : State) (k : Nat) (f : Die → Die) : (s.updDie k f).mem = s.mem := rfl
@[simp] theorem updDie_tiles (s : State) (k : Nat) (f : Die → Die) : (s.updDie k f).tiles = s.tiles := rfl
@[simp] theorem updDie_groups (s : State) (k : Nat) (f : Die → Die) : (s.updDie k f).groups = s.groups := rfl
@[simp] theorem updDie_pkgs (s : State) (k : Nat) (f : Die → Die) : (s.updDie k f).pkgs = s.pkgs := rfl
@[simp] theorem updDie_launches (s : State) (k : Nat) (f : Die → Die) : (s.updDie k f).launches = s.launches := rfl
@[simp] theorem updDie_nextLaunch (s : State) (k : Nat) (f : Die → Die) : (s.updDie k f).nextLaunch = s.nextLaunch := rfl
@[simp] theorem updDie_xfers (s : State) (k : Nat) (f : Die → Die) : (s.updDie k f).xfers = s.xfers := rfl
@[simp] theorem updDie_nextXfer (s : State) (k : Nat) (f : Die → Die) : (s.updDie k f).nextXfer = s.nextXfer := rfl
@[simp] theorem updDie_bells (s : State) (k : Nat) (f : Die → Die) : (s.updDie k f).bells = s.bells := rfl
@[simp] theorem updDie_progs (s : State) (k : Nat) (f : Die → Die) : (s.updDie k f).progs = s.progs := rfl
@[simp] theorem updDie_streamWrites (s : State) (k : Nat) (f : Die → Die) : (s.updDie k f).streamWrites = s.streamWrites := rfl
@[simp] theorem updDie_cohorts (s : State) (k : Nat) (f : Die → Die) : (s.updDie k f).cohorts = s.cohorts := rfl
@[simp] theorem updDie_plans (s : State) (k : Nat) (f : Die → Die) : (s.updDie k f).plans = s.plans := rfl
@[simp] theorem updDie_buckets (s : State) (k : Nat) (f : Die → Die) : (s.updDie k f).buckets = s.buckets := rfl
@[simp] theorem updDie_stale (s : State) (k : Nat) (f : Die → Die) : (s.updDie k f).stale = s.stale := rfl
@[simp] theorem updDie_firings (s : State) (k : Nat) (f : Die → Die) : (s.updDie k f).firings = s.firings := rfl
@[simp] theorem updDie_rin (s : State) (k : Nat) (f : Die → Die) : (s.updDie k f).rin = s.rin := rfl
@[simp] theorem updDie_podRin (s : State) (k : Nat) (f : Die → Die) : (s.updDie k f).podRin = s.podRin := rfl
@[simp] theorem updDie_poison (s : State) (k : Nat) (f : Die → Die) : (s.updDie k f).poison = s.poison := rfl
@[simp] theorem updDie_undo (s : State) (k : Nat) (f : Die → Die) : (s.updDie k f).undo = s.undo := rfl
@[simp] theorem updDie_logged (s : State) (k : Nat) (f : Die → Die) : (s.updDie k f).logged = s.logged := rfl
@[simp] theorem updDie_cut (s : State) (k : Nat) (f : Die → Die) : (s.updDie k f).cut = s.cut := rfl
@[simp] theorem updDie_saves (s : State) (k : Nat) (f : Die → Die) : (s.updDie k f).saves = s.saves := rfl
@[simp] theorem updDie_fabricLog (s : State) (k : Nat) (f : Die → Die) : (s.updDie k f).fabricLog = s.fabricLog := rfl
@[simp] theorem updDie_events (s : State) (k : Nat) (f : Die → Die) : (s.updDie k f).events = s.events := rfl
@[simp] theorem updDie_mgMod (s : State) (k : Nat) (f : Die → Die) : (s.updDie k f).mgMod = s.mgMod := rfl
@[simp] theorem updDie_rampFloor (s : State) (k : Nat) (f : Die → Die) : (s.updDie k f).rampFloor = s.rampFloor := rfl
@[simp] theorem updDie_rampHeld (s : State) (k : Nat) (f : Die → Die) : (s.updDie k f).rampHeld = s.rampHeld := rfl
@[simp] theorem updDie_podModule (s : State) (k : Nat) (f : Die → Die) : (s.updDie k f).podModule = s.podModule := rfl
@[simp] theorem updDie_inPod (s : State) (k : Nat) (f : Die → Die) : (s.updDie k f).inPod = s.inPod := rfl
@[simp] theorem updDie_podFirst (s : State) (k : Nat) (f : Die → Die) : (s.updDie k f).podFirst = s.podFirst := rfl
@[simp] theorem updDie_podCount (s : State) (k : Nat) (f : Die → Die) : (s.updDie k f).podCount = s.podCount := rfl
@[simp] theorem updDie_e2eNext (s : State) (k : Nat) (f : Die → Die) : (s.updDie k f).e2eNext = s.e2eNext := rfl
@[simp] theorem updDie_outbox (s : State) (k : Nat) (f : Die → Die) : (s.updDie k f).outbox = s.outbox := rfl
@[simp] theorem updDie_sealAsked (s : State) (k : Nat) (f : Die → Die) : (s.updDie k f).sealAsked = s.sealAsked := rfl
@[simp] theorem updDie_fullSince (s : State) (k : Nat) (f : Die → Die) : (s.updDie k f).fullSince = s.fullSince := rfl
@[simp] theorem updDie_sysText (s : State) (k : Nat) (f : Die → Die) : (s.updDie k f).sysText = s.sysText := rfl
@[simp] theorem updDie_nonce (s : State) (k : Nat) (f : Die → Die) : (s.updDie k f).nonce = s.nonce := rfl

@[simp] theorem updPkg_cyc (s : State) (k : Nat) (f : Pkg → Pkg) : (s.updPkg k f).cyc = s.cyc := rfl
@[simp] theorem updPkg_cursor (s : State) (k : Nat) (f : Pkg → Pkg) : (s.updPkg k f).cursor = s.cursor := rfl
@[simp] theorem updPkg_curTile (s : State) (k : Nat) (f : Pkg → Pkg) : (s.updPkg k f).curTile = s.curTile := rfl
@[simp] theorem updPkg_curThread (s : State) (k : Nat) (f : Pkg → Pkg) : (s.updPkg k f).curThread = s.curThread := rfl
@[simp] theorem updPkg_curProg (s : State) (k : Nat) (f : Pkg → Pkg) : (s.updPkg k f).curProg = s.curProg := rfl
@[simp] theorem updPkg_powered (s : State) (k : Nat) (f : Pkg → Pkg) : (s.updPkg k f).powered = s.powered := rfl
@[simp] theorem updPkg_mem (s : State) (k : Nat) (f : Pkg → Pkg) : (s.updPkg k f).mem = s.mem := rfl
@[simp] theorem updPkg_tiles (s : State) (k : Nat) (f : Pkg → Pkg) : (s.updPkg k f).tiles = s.tiles := rfl
@[simp] theorem updPkg_groups (s : State) (k : Nat) (f : Pkg → Pkg) : (s.updPkg k f).groups = s.groups := rfl
@[simp] theorem updPkg_dies (s : State) (k : Nat) (f : Pkg → Pkg) : (s.updPkg k f).dies = s.dies := rfl
@[simp] theorem updPkg_launches (s : State) (k : Nat) (f : Pkg → Pkg) : (s.updPkg k f).launches = s.launches := rfl
@[simp] theorem updPkg_nextLaunch (s : State) (k : Nat) (f : Pkg → Pkg) : (s.updPkg k f).nextLaunch = s.nextLaunch := rfl
@[simp] theorem updPkg_xfers (s : State) (k : Nat) (f : Pkg → Pkg) : (s.updPkg k f).xfers = s.xfers := rfl
@[simp] theorem updPkg_nextXfer (s : State) (k : Nat) (f : Pkg → Pkg) : (s.updPkg k f).nextXfer = s.nextXfer := rfl
@[simp] theorem updPkg_bells (s : State) (k : Nat) (f : Pkg → Pkg) : (s.updPkg k f).bells = s.bells := rfl
@[simp] theorem updPkg_progs (s : State) (k : Nat) (f : Pkg → Pkg) : (s.updPkg k f).progs = s.progs := rfl
@[simp] theorem updPkg_streamWrites (s : State) (k : Nat) (f : Pkg → Pkg) : (s.updPkg k f).streamWrites = s.streamWrites := rfl
@[simp] theorem updPkg_cohorts (s : State) (k : Nat) (f : Pkg → Pkg) : (s.updPkg k f).cohorts = s.cohorts := rfl
@[simp] theorem updPkg_plans (s : State) (k : Nat) (f : Pkg → Pkg) : (s.updPkg k f).plans = s.plans := rfl
@[simp] theorem updPkg_buckets (s : State) (k : Nat) (f : Pkg → Pkg) : (s.updPkg k f).buckets = s.buckets := rfl
@[simp] theorem updPkg_stale (s : State) (k : Nat) (f : Pkg → Pkg) : (s.updPkg k f).stale = s.stale := rfl
@[simp] theorem updPkg_firings (s : State) (k : Nat) (f : Pkg → Pkg) : (s.updPkg k f).firings = s.firings := rfl
@[simp] theorem updPkg_rin (s : State) (k : Nat) (f : Pkg → Pkg) : (s.updPkg k f).rin = s.rin := rfl
@[simp] theorem updPkg_podRin (s : State) (k : Nat) (f : Pkg → Pkg) : (s.updPkg k f).podRin = s.podRin := rfl
@[simp] theorem updPkg_poison (s : State) (k : Nat) (f : Pkg → Pkg) : (s.updPkg k f).poison = s.poison := rfl
@[simp] theorem updPkg_undo (s : State) (k : Nat) (f : Pkg → Pkg) : (s.updPkg k f).undo = s.undo := rfl
@[simp] theorem updPkg_logged (s : State) (k : Nat) (f : Pkg → Pkg) : (s.updPkg k f).logged = s.logged := rfl
@[simp] theorem updPkg_cut (s : State) (k : Nat) (f : Pkg → Pkg) : (s.updPkg k f).cut = s.cut := rfl
@[simp] theorem updPkg_saves (s : State) (k : Nat) (f : Pkg → Pkg) : (s.updPkg k f).saves = s.saves := rfl
@[simp] theorem updPkg_fabricLog (s : State) (k : Nat) (f : Pkg → Pkg) : (s.updPkg k f).fabricLog = s.fabricLog := rfl
@[simp] theorem updPkg_events (s : State) (k : Nat) (f : Pkg → Pkg) : (s.updPkg k f).events = s.events := rfl
@[simp] theorem updPkg_mgMod (s : State) (k : Nat) (f : Pkg → Pkg) : (s.updPkg k f).mgMod = s.mgMod := rfl
@[simp] theorem updPkg_rampFloor (s : State) (k : Nat) (f : Pkg → Pkg) : (s.updPkg k f).rampFloor = s.rampFloor := rfl
@[simp] theorem updPkg_rampHeld (s : State) (k : Nat) (f : Pkg → Pkg) : (s.updPkg k f).rampHeld = s.rampHeld := rfl
@[simp] theorem updPkg_podModule (s : State) (k : Nat) (f : Pkg → Pkg) : (s.updPkg k f).podModule = s.podModule := rfl
@[simp] theorem updPkg_inPod (s : State) (k : Nat) (f : Pkg → Pkg) : (s.updPkg k f).inPod = s.inPod := rfl
@[simp] theorem updPkg_podFirst (s : State) (k : Nat) (f : Pkg → Pkg) : (s.updPkg k f).podFirst = s.podFirst := rfl
@[simp] theorem updPkg_podCount (s : State) (k : Nat) (f : Pkg → Pkg) : (s.updPkg k f).podCount = s.podCount := rfl
@[simp] theorem updPkg_e2eNext (s : State) (k : Nat) (f : Pkg → Pkg) : (s.updPkg k f).e2eNext = s.e2eNext := rfl
@[simp] theorem updPkg_outbox (s : State) (k : Nat) (f : Pkg → Pkg) : (s.updPkg k f).outbox = s.outbox := rfl
@[simp] theorem updPkg_sealAsked (s : State) (k : Nat) (f : Pkg → Pkg) : (s.updPkg k f).sealAsked = s.sealAsked := rfl
@[simp] theorem updPkg_fullSince (s : State) (k : Nat) (f : Pkg → Pkg) : (s.updPkg k f).fullSince = s.fullSince := rfl
@[simp] theorem updPkg_sysText (s : State) (k : Nat) (f : Pkg → Pkg) : (s.updPkg k f).sysText = s.sysText := rfl
@[simp] theorem updPkg_nonce (s : State) (k : Nat) (f : Pkg → Pkg) : (s.updPkg k f).nonce = s.nonce := rfl

@[simp] theorem updLaunch_cyc (s : State) (k : Nat) (f : Launch → Launch) : (s.updLaunch k f).cyc = s.cyc := rfl
@[simp] theorem updLaunch_cursor (s : State) (k : Nat) (f : Launch → Launch) : (s.updLaunch k f).cursor = s.cursor := rfl
@[simp] theorem updLaunch_curTile (s : State) (k : Nat) (f : Launch → Launch) : (s.updLaunch k f).curTile = s.curTile := rfl
@[simp] theorem updLaunch_curThread (s : State) (k : Nat) (f : Launch → Launch) : (s.updLaunch k f).curThread = s.curThread := rfl
@[simp] theorem updLaunch_curProg (s : State) (k : Nat) (f : Launch → Launch) : (s.updLaunch k f).curProg = s.curProg := rfl
@[simp] theorem updLaunch_powered (s : State) (k : Nat) (f : Launch → Launch) : (s.updLaunch k f).powered = s.powered := rfl
@[simp] theorem updLaunch_mem (s : State) (k : Nat) (f : Launch → Launch) : (s.updLaunch k f).mem = s.mem := rfl
@[simp] theorem updLaunch_tiles (s : State) (k : Nat) (f : Launch → Launch) : (s.updLaunch k f).tiles = s.tiles := rfl
@[simp] theorem updLaunch_groups (s : State) (k : Nat) (f : Launch → Launch) : (s.updLaunch k f).groups = s.groups := rfl
@[simp] theorem updLaunch_dies (s : State) (k : Nat) (f : Launch → Launch) : (s.updLaunch k f).dies = s.dies := rfl
@[simp] theorem updLaunch_pkgs (s : State) (k : Nat) (f : Launch → Launch) : (s.updLaunch k f).pkgs = s.pkgs := rfl
@[simp] theorem updLaunch_nextLaunch (s : State) (k : Nat) (f : Launch → Launch) : (s.updLaunch k f).nextLaunch = s.nextLaunch := rfl
@[simp] theorem updLaunch_xfers (s : State) (k : Nat) (f : Launch → Launch) : (s.updLaunch k f).xfers = s.xfers := rfl
@[simp] theorem updLaunch_nextXfer (s : State) (k : Nat) (f : Launch → Launch) : (s.updLaunch k f).nextXfer = s.nextXfer := rfl
@[simp] theorem updLaunch_bells (s : State) (k : Nat) (f : Launch → Launch) : (s.updLaunch k f).bells = s.bells := rfl
@[simp] theorem updLaunch_progs (s : State) (k : Nat) (f : Launch → Launch) : (s.updLaunch k f).progs = s.progs := rfl
@[simp] theorem updLaunch_streamWrites (s : State) (k : Nat) (f : Launch → Launch) : (s.updLaunch k f).streamWrites = s.streamWrites := rfl
@[simp] theorem updLaunch_cohorts (s : State) (k : Nat) (f : Launch → Launch) : (s.updLaunch k f).cohorts = s.cohorts := rfl
@[simp] theorem updLaunch_plans (s : State) (k : Nat) (f : Launch → Launch) : (s.updLaunch k f).plans = s.plans := rfl
@[simp] theorem updLaunch_buckets (s : State) (k : Nat) (f : Launch → Launch) : (s.updLaunch k f).buckets = s.buckets := rfl
@[simp] theorem updLaunch_stale (s : State) (k : Nat) (f : Launch → Launch) : (s.updLaunch k f).stale = s.stale := rfl
@[simp] theorem updLaunch_firings (s : State) (k : Nat) (f : Launch → Launch) : (s.updLaunch k f).firings = s.firings := rfl
@[simp] theorem updLaunch_rin (s : State) (k : Nat) (f : Launch → Launch) : (s.updLaunch k f).rin = s.rin := rfl
@[simp] theorem updLaunch_podRin (s : State) (k : Nat) (f : Launch → Launch) : (s.updLaunch k f).podRin = s.podRin := rfl
@[simp] theorem updLaunch_poison (s : State) (k : Nat) (f : Launch → Launch) : (s.updLaunch k f).poison = s.poison := rfl
@[simp] theorem updLaunch_undo (s : State) (k : Nat) (f : Launch → Launch) : (s.updLaunch k f).undo = s.undo := rfl
@[simp] theorem updLaunch_logged (s : State) (k : Nat) (f : Launch → Launch) : (s.updLaunch k f).logged = s.logged := rfl
@[simp] theorem updLaunch_cut (s : State) (k : Nat) (f : Launch → Launch) : (s.updLaunch k f).cut = s.cut := rfl
@[simp] theorem updLaunch_saves (s : State) (k : Nat) (f : Launch → Launch) : (s.updLaunch k f).saves = s.saves := rfl
@[simp] theorem updLaunch_fabricLog (s : State) (k : Nat) (f : Launch → Launch) : (s.updLaunch k f).fabricLog = s.fabricLog := rfl
@[simp] theorem updLaunch_events (s : State) (k : Nat) (f : Launch → Launch) : (s.updLaunch k f).events = s.events := rfl
@[simp] theorem updLaunch_mgMod (s : State) (k : Nat) (f : Launch → Launch) : (s.updLaunch k f).mgMod = s.mgMod := rfl
@[simp] theorem updLaunch_rampFloor (s : State) (k : Nat) (f : Launch → Launch) : (s.updLaunch k f).rampFloor = s.rampFloor := rfl
@[simp] theorem updLaunch_rampHeld (s : State) (k : Nat) (f : Launch → Launch) : (s.updLaunch k f).rampHeld = s.rampHeld := rfl
@[simp] theorem updLaunch_podModule (s : State) (k : Nat) (f : Launch → Launch) : (s.updLaunch k f).podModule = s.podModule := rfl
@[simp] theorem updLaunch_inPod (s : State) (k : Nat) (f : Launch → Launch) : (s.updLaunch k f).inPod = s.inPod := rfl
@[simp] theorem updLaunch_podFirst (s : State) (k : Nat) (f : Launch → Launch) : (s.updLaunch k f).podFirst = s.podFirst := rfl
@[simp] theorem updLaunch_podCount (s : State) (k : Nat) (f : Launch → Launch) : (s.updLaunch k f).podCount = s.podCount := rfl
@[simp] theorem updLaunch_e2eNext (s : State) (k : Nat) (f : Launch → Launch) : (s.updLaunch k f).e2eNext = s.e2eNext := rfl
@[simp] theorem updLaunch_outbox (s : State) (k : Nat) (f : Launch → Launch) : (s.updLaunch k f).outbox = s.outbox := rfl
@[simp] theorem updLaunch_sealAsked (s : State) (k : Nat) (f : Launch → Launch) : (s.updLaunch k f).sealAsked = s.sealAsked := rfl
@[simp] theorem updLaunch_fullSince (s : State) (k : Nat) (f : Launch → Launch) : (s.updLaunch k f).fullSince = s.fullSince := rfl
@[simp] theorem updLaunch_sysText (s : State) (k : Nat) (f : Launch → Launch) : (s.updLaunch k f).sysText = s.sysText := rfl
@[simp] theorem updLaunch_nonce (s : State) (k : Nat) (f : Launch → Launch) : (s.updLaunch k f).nonce = s.nonce := rfl

@[simp] theorem updProg_cyc (s : State) (k : Nat) (f : Prog → Prog) : (s.updProg k f).cyc = s.cyc := rfl
@[simp] theorem updProg_cursor (s : State) (k : Nat) (f : Prog → Prog) : (s.updProg k f).cursor = s.cursor := rfl
@[simp] theorem updProg_curTile (s : State) (k : Nat) (f : Prog → Prog) : (s.updProg k f).curTile = s.curTile := rfl
@[simp] theorem updProg_curThread (s : State) (k : Nat) (f : Prog → Prog) : (s.updProg k f).curThread = s.curThread := rfl
@[simp] theorem updProg_curProg (s : State) (k : Nat) (f : Prog → Prog) : (s.updProg k f).curProg = s.curProg := rfl
@[simp] theorem updProg_powered (s : State) (k : Nat) (f : Prog → Prog) : (s.updProg k f).powered = s.powered := rfl
@[simp] theorem updProg_mem (s : State) (k : Nat) (f : Prog → Prog) : (s.updProg k f).mem = s.mem := rfl
@[simp] theorem updProg_tiles (s : State) (k : Nat) (f : Prog → Prog) : (s.updProg k f).tiles = s.tiles := rfl
@[simp] theorem updProg_groups (s : State) (k : Nat) (f : Prog → Prog) : (s.updProg k f).groups = s.groups := rfl
@[simp] theorem updProg_dies (s : State) (k : Nat) (f : Prog → Prog) : (s.updProg k f).dies = s.dies := rfl
@[simp] theorem updProg_pkgs (s : State) (k : Nat) (f : Prog → Prog) : (s.updProg k f).pkgs = s.pkgs := rfl
@[simp] theorem updProg_launches (s : State) (k : Nat) (f : Prog → Prog) : (s.updProg k f).launches = s.launches := rfl
@[simp] theorem updProg_nextLaunch (s : State) (k : Nat) (f : Prog → Prog) : (s.updProg k f).nextLaunch = s.nextLaunch := rfl
@[simp] theorem updProg_xfers (s : State) (k : Nat) (f : Prog → Prog) : (s.updProg k f).xfers = s.xfers := rfl
@[simp] theorem updProg_nextXfer (s : State) (k : Nat) (f : Prog → Prog) : (s.updProg k f).nextXfer = s.nextXfer := rfl
@[simp] theorem updProg_bells (s : State) (k : Nat) (f : Prog → Prog) : (s.updProg k f).bells = s.bells := rfl
@[simp] theorem updProg_streamWrites (s : State) (k : Nat) (f : Prog → Prog) : (s.updProg k f).streamWrites = s.streamWrites := rfl
@[simp] theorem updProg_cohorts (s : State) (k : Nat) (f : Prog → Prog) : (s.updProg k f).cohorts = s.cohorts := rfl
@[simp] theorem updProg_plans (s : State) (k : Nat) (f : Prog → Prog) : (s.updProg k f).plans = s.plans := rfl
@[simp] theorem updProg_buckets (s : State) (k : Nat) (f : Prog → Prog) : (s.updProg k f).buckets = s.buckets := rfl
@[simp] theorem updProg_stale (s : State) (k : Nat) (f : Prog → Prog) : (s.updProg k f).stale = s.stale := rfl
@[simp] theorem updProg_firings (s : State) (k : Nat) (f : Prog → Prog) : (s.updProg k f).firings = s.firings := rfl
@[simp] theorem updProg_rin (s : State) (k : Nat) (f : Prog → Prog) : (s.updProg k f).rin = s.rin := rfl
@[simp] theorem updProg_podRin (s : State) (k : Nat) (f : Prog → Prog) : (s.updProg k f).podRin = s.podRin := rfl
@[simp] theorem updProg_poison (s : State) (k : Nat) (f : Prog → Prog) : (s.updProg k f).poison = s.poison := rfl
@[simp] theorem updProg_undo (s : State) (k : Nat) (f : Prog → Prog) : (s.updProg k f).undo = s.undo := rfl
@[simp] theorem updProg_logged (s : State) (k : Nat) (f : Prog → Prog) : (s.updProg k f).logged = s.logged := rfl
@[simp] theorem updProg_cut (s : State) (k : Nat) (f : Prog → Prog) : (s.updProg k f).cut = s.cut := rfl
@[simp] theorem updProg_saves (s : State) (k : Nat) (f : Prog → Prog) : (s.updProg k f).saves = s.saves := rfl
@[simp] theorem updProg_fabricLog (s : State) (k : Nat) (f : Prog → Prog) : (s.updProg k f).fabricLog = s.fabricLog := rfl
@[simp] theorem updProg_events (s : State) (k : Nat) (f : Prog → Prog) : (s.updProg k f).events = s.events := rfl
@[simp] theorem updProg_mgMod (s : State) (k : Nat) (f : Prog → Prog) : (s.updProg k f).mgMod = s.mgMod := rfl
@[simp] theorem updProg_rampFloor (s : State) (k : Nat) (f : Prog → Prog) : (s.updProg k f).rampFloor = s.rampFloor := rfl
@[simp] theorem updProg_rampHeld (s : State) (k : Nat) (f : Prog → Prog) : (s.updProg k f).rampHeld = s.rampHeld := rfl
@[simp] theorem updProg_podModule (s : State) (k : Nat) (f : Prog → Prog) : (s.updProg k f).podModule = s.podModule := rfl
@[simp] theorem updProg_inPod (s : State) (k : Nat) (f : Prog → Prog) : (s.updProg k f).inPod = s.inPod := rfl
@[simp] theorem updProg_podFirst (s : State) (k : Nat) (f : Prog → Prog) : (s.updProg k f).podFirst = s.podFirst := rfl
@[simp] theorem updProg_podCount (s : State) (k : Nat) (f : Prog → Prog) : (s.updProg k f).podCount = s.podCount := rfl
@[simp] theorem updProg_e2eNext (s : State) (k : Nat) (f : Prog → Prog) : (s.updProg k f).e2eNext = s.e2eNext := rfl
@[simp] theorem updProg_outbox (s : State) (k : Nat) (f : Prog → Prog) : (s.updProg k f).outbox = s.outbox := rfl
@[simp] theorem updProg_sealAsked (s : State) (k : Nat) (f : Prog → Prog) : (s.updProg k f).sealAsked = s.sealAsked := rfl
@[simp] theorem updProg_fullSince (s : State) (k : Nat) (f : Prog → Prog) : (s.updProg k f).fullSince = s.fullSince := rfl
@[simp] theorem updProg_sysText (s : State) (k : Nat) (f : Prog → Prog) : (s.updProg k f).sysText = s.sysText := rfl
@[simp] theorem updProg_nonce (s : State) (k : Nat) (f : Prog → Prog) : (s.updProg k f).nonce = s.nonce := rfl

@[simp] theorem schedule_cyc (s : State) (c : Nat) (e : Instr) : (s.schedule c e).cyc = s.cyc := rfl
@[simp] theorem schedule_cursor (s : State) (c : Nat) (e : Instr) : (s.schedule c e).cursor = s.cursor := rfl
@[simp] theorem schedule_curTile (s : State) (c : Nat) (e : Instr) : (s.schedule c e).curTile = s.curTile := rfl
@[simp] theorem schedule_curThread (s : State) (c : Nat) (e : Instr) : (s.schedule c e).curThread = s.curThread := rfl
@[simp] theorem schedule_curProg (s : State) (c : Nat) (e : Instr) : (s.schedule c e).curProg = s.curProg := rfl
@[simp] theorem schedule_powered (s : State) (c : Nat) (e : Instr) : (s.schedule c e).powered = s.powered := rfl
@[simp] theorem schedule_mem (s : State) (c : Nat) (e : Instr) : (s.schedule c e).mem = s.mem := rfl
@[simp] theorem schedule_tiles (s : State) (c : Nat) (e : Instr) : (s.schedule c e).tiles = s.tiles := rfl
@[simp] theorem schedule_groups (s : State) (c : Nat) (e : Instr) : (s.schedule c e).groups = s.groups := rfl
@[simp] theorem schedule_dies (s : State) (c : Nat) (e : Instr) : (s.schedule c e).dies = s.dies := rfl
@[simp] theorem schedule_pkgs (s : State) (c : Nat) (e : Instr) : (s.schedule c e).pkgs = s.pkgs := rfl
@[simp] theorem schedule_launches (s : State) (c : Nat) (e : Instr) : (s.schedule c e).launches = s.launches := rfl
@[simp] theorem schedule_nextLaunch (s : State) (c : Nat) (e : Instr) : (s.schedule c e).nextLaunch = s.nextLaunch := rfl
@[simp] theorem schedule_xfers (s : State) (c : Nat) (e : Instr) : (s.schedule c e).xfers = s.xfers := rfl
@[simp] theorem schedule_nextXfer (s : State) (c : Nat) (e : Instr) : (s.schedule c e).nextXfer = s.nextXfer := rfl
@[simp] theorem schedule_bells (s : State) (c : Nat) (e : Instr) : (s.schedule c e).bells = s.bells := rfl
@[simp] theorem schedule_progs (s : State) (c : Nat) (e : Instr) : (s.schedule c e).progs = s.progs := rfl
@[simp] theorem schedule_streamWrites (s : State) (c : Nat) (e : Instr) : (s.schedule c e).streamWrites = s.streamWrites := rfl
@[simp] theorem schedule_cohorts (s : State) (c : Nat) (e : Instr) : (s.schedule c e).cohorts = s.cohorts := rfl
@[simp] theorem schedule_plans (s : State) (c : Nat) (e : Instr) : (s.schedule c e).plans = s.plans := rfl
@[simp] theorem schedule_buckets (s : State) (c : Nat) (e : Instr) : (s.schedule c e).buckets = s.buckets := rfl
@[simp] theorem schedule_stale (s : State) (c : Nat) (e : Instr) : (s.schedule c e).stale = s.stale := rfl
@[simp] theorem schedule_firings (s : State) (c : Nat) (e : Instr) : (s.schedule c e).firings = s.firings := rfl
@[simp] theorem schedule_rin (s : State) (c : Nat) (e : Instr) : (s.schedule c e).rin = s.rin := rfl
@[simp] theorem schedule_podRin (s : State) (c : Nat) (e : Instr) : (s.schedule c e).podRin = s.podRin := rfl
@[simp] theorem schedule_poison (s : State) (c : Nat) (e : Instr) : (s.schedule c e).poison = s.poison := rfl
@[simp] theorem schedule_undo (s : State) (c : Nat) (e : Instr) : (s.schedule c e).undo = s.undo := rfl
@[simp] theorem schedule_logged (s : State) (c : Nat) (e : Instr) : (s.schedule c e).logged = s.logged := rfl
@[simp] theorem schedule_cut (s : State) (c : Nat) (e : Instr) : (s.schedule c e).cut = s.cut := rfl
@[simp] theorem schedule_saves (s : State) (c : Nat) (e : Instr) : (s.schedule c e).saves = s.saves := rfl
@[simp] theorem schedule_fabricLog (s : State) (c : Nat) (e : Instr) : (s.schedule c e).fabricLog = s.fabricLog := rfl
@[simp] theorem schedule_mgMod (s : State) (c : Nat) (e : Instr) : (s.schedule c e).mgMod = s.mgMod := rfl
@[simp] theorem schedule_rampFloor (s : State) (c : Nat) (e : Instr) : (s.schedule c e).rampFloor = s.rampFloor := rfl
@[simp] theorem schedule_rampHeld (s : State) (c : Nat) (e : Instr) : (s.schedule c e).rampHeld = s.rampHeld := rfl
@[simp] theorem schedule_podModule (s : State) (c : Nat) (e : Instr) : (s.schedule c e).podModule = s.podModule := rfl
@[simp] theorem schedule_inPod (s : State) (c : Nat) (e : Instr) : (s.schedule c e).inPod = s.inPod := rfl
@[simp] theorem schedule_podFirst (s : State) (c : Nat) (e : Instr) : (s.schedule c e).podFirst = s.podFirst := rfl
@[simp] theorem schedule_podCount (s : State) (c : Nat) (e : Instr) : (s.schedule c e).podCount = s.podCount := rfl
@[simp] theorem schedule_e2eNext (s : State) (c : Nat) (e : Instr) : (s.schedule c e).e2eNext = s.e2eNext := rfl
@[simp] theorem schedule_outbox (s : State) (c : Nat) (e : Instr) : (s.schedule c e).outbox = s.outbox := rfl
@[simp] theorem schedule_sealAsked (s : State) (c : Nat) (e : Instr) : (s.schedule c e).sealAsked = s.sealAsked := rfl
@[simp] theorem schedule_fullSince (s : State) (c : Nat) (e : Instr) : (s.schedule c e).fullSince = s.fullSince := rfl
@[simp] theorem schedule_sysText (s : State) (c : Nat) (e : Instr) : (s.schedule c e).sysText = s.sysText := rfl
@[simp] theorem schedule_nonce (s : State) (c : Nat) (e : Instr) : (s.schedule c e).nonce = s.nonce := rfl

@[simp] theorem poke_cyc (s : State) (sp : Space) (a : Nat) (bs : List Byte) : (s.poke sp a bs).cyc = s.cyc := rfl
@[simp] theorem poke_cursor (s : State) (sp : Space) (a : Nat) (bs : List Byte) : (s.poke sp a bs).cursor = s.cursor := rfl
@[simp] theorem poke_curTile (s : State) (sp : Space) (a : Nat) (bs : List Byte) : (s.poke sp a bs).curTile = s.curTile := rfl
@[simp] theorem poke_curThread (s : State) (sp : Space) (a : Nat) (bs : List Byte) : (s.poke sp a bs).curThread = s.curThread := rfl
@[simp] theorem poke_curProg (s : State) (sp : Space) (a : Nat) (bs : List Byte) : (s.poke sp a bs).curProg = s.curProg := rfl
@[simp] theorem poke_powered (s : State) (sp : Space) (a : Nat) (bs : List Byte) : (s.poke sp a bs).powered = s.powered := rfl
@[simp] theorem poke_tiles (s : State) (sp : Space) (a : Nat) (bs : List Byte) : (s.poke sp a bs).tiles = s.tiles := rfl
@[simp] theorem poke_groups (s : State) (sp : Space) (a : Nat) (bs : List Byte) : (s.poke sp a bs).groups = s.groups := rfl
@[simp] theorem poke_dies (s : State) (sp : Space) (a : Nat) (bs : List Byte) : (s.poke sp a bs).dies = s.dies := rfl
@[simp] theorem poke_pkgs (s : State) (sp : Space) (a : Nat) (bs : List Byte) : (s.poke sp a bs).pkgs = s.pkgs := rfl
@[simp] theorem poke_launches (s : State) (sp : Space) (a : Nat) (bs : List Byte) : (s.poke sp a bs).launches = s.launches := rfl
@[simp] theorem poke_nextLaunch (s : State) (sp : Space) (a : Nat) (bs : List Byte) : (s.poke sp a bs).nextLaunch = s.nextLaunch := rfl
@[simp] theorem poke_xfers (s : State) (sp : Space) (a : Nat) (bs : List Byte) : (s.poke sp a bs).xfers = s.xfers := rfl
@[simp] theorem poke_nextXfer (s : State) (sp : Space) (a : Nat) (bs : List Byte) : (s.poke sp a bs).nextXfer = s.nextXfer := rfl
@[simp] theorem poke_bells (s : State) (sp : Space) (a : Nat) (bs : List Byte) : (s.poke sp a bs).bells = s.bells := rfl
@[simp] theorem poke_progs (s : State) (sp : Space) (a : Nat) (bs : List Byte) : (s.poke sp a bs).progs = s.progs := rfl
@[simp] theorem poke_streamWrites (s : State) (sp : Space) (a : Nat) (bs : List Byte) : (s.poke sp a bs).streamWrites = s.streamWrites := rfl
@[simp] theorem poke_cohorts (s : State) (sp : Space) (a : Nat) (bs : List Byte) : (s.poke sp a bs).cohorts = s.cohorts := rfl
@[simp] theorem poke_plans (s : State) (sp : Space) (a : Nat) (bs : List Byte) : (s.poke sp a bs).plans = s.plans := rfl
@[simp] theorem poke_buckets (s : State) (sp : Space) (a : Nat) (bs : List Byte) : (s.poke sp a bs).buckets = s.buckets := rfl
@[simp] theorem poke_stale (s : State) (sp : Space) (a : Nat) (bs : List Byte) : (s.poke sp a bs).stale = s.stale := rfl
@[simp] theorem poke_firings (s : State) (sp : Space) (a : Nat) (bs : List Byte) : (s.poke sp a bs).firings = s.firings := rfl
@[simp] theorem poke_rin (s : State) (sp : Space) (a : Nat) (bs : List Byte) : (s.poke sp a bs).rin = s.rin := rfl
@[simp] theorem poke_podRin (s : State) (sp : Space) (a : Nat) (bs : List Byte) : (s.poke sp a bs).podRin = s.podRin := rfl
@[simp] theorem poke_poison (s : State) (sp : Space) (a : Nat) (bs : List Byte) : (s.poke sp a bs).poison = s.poison := rfl
@[simp] theorem poke_undo (s : State) (sp : Space) (a : Nat) (bs : List Byte) : (s.poke sp a bs).undo = s.undo := rfl
@[simp] theorem poke_logged (s : State) (sp : Space) (a : Nat) (bs : List Byte) : (s.poke sp a bs).logged = s.logged := rfl
@[simp] theorem poke_cut (s : State) (sp : Space) (a : Nat) (bs : List Byte) : (s.poke sp a bs).cut = s.cut := rfl
@[simp] theorem poke_saves (s : State) (sp : Space) (a : Nat) (bs : List Byte) : (s.poke sp a bs).saves = s.saves := rfl
@[simp] theorem poke_fabricLog (s : State) (sp : Space) (a : Nat) (bs : List Byte) : (s.poke sp a bs).fabricLog = s.fabricLog := rfl
@[simp] theorem poke_events (s : State) (sp : Space) (a : Nat) (bs : List Byte) : (s.poke sp a bs).events = s.events := rfl
@[simp] theorem poke_mgMod (s : State) (sp : Space) (a : Nat) (bs : List Byte) : (s.poke sp a bs).mgMod = s.mgMod := rfl
@[simp] theorem poke_rampFloor (s : State) (sp : Space) (a : Nat) (bs : List Byte) : (s.poke sp a bs).rampFloor = s.rampFloor := rfl
@[simp] theorem poke_rampHeld (s : State) (sp : Space) (a : Nat) (bs : List Byte) : (s.poke sp a bs).rampHeld = s.rampHeld := rfl
@[simp] theorem poke_podModule (s : State) (sp : Space) (a : Nat) (bs : List Byte) : (s.poke sp a bs).podModule = s.podModule := rfl
@[simp] theorem poke_inPod (s : State) (sp : Space) (a : Nat) (bs : List Byte) : (s.poke sp a bs).inPod = s.inPod := rfl
@[simp] theorem poke_podFirst (s : State) (sp : Space) (a : Nat) (bs : List Byte) : (s.poke sp a bs).podFirst = s.podFirst := rfl
@[simp] theorem poke_podCount (s : State) (sp : Space) (a : Nat) (bs : List Byte) : (s.poke sp a bs).podCount = s.podCount := rfl
@[simp] theorem poke_e2eNext (s : State) (sp : Space) (a : Nat) (bs : List Byte) : (s.poke sp a bs).e2eNext = s.e2eNext := rfl
@[simp] theorem poke_outbox (s : State) (sp : Space) (a : Nat) (bs : List Byte) : (s.poke sp a bs).outbox = s.outbox := rfl
@[simp] theorem poke_sealAsked (s : State) (sp : Space) (a : Nat) (bs : List Byte) : (s.poke sp a bs).sealAsked = s.sealAsked := rfl
@[simp] theorem poke_fullSince (s : State) (sp : Space) (a : Nat) (bs : List Byte) : (s.poke sp a bs).fullSince = s.fullSince := rfl
@[simp] theorem poke_sysText (s : State) (sp : Space) (a : Nat) (bs : List Byte) : (s.poke sp a bs).sysText = s.sysText := rfl
@[simp] theorem poke_nonce (s : State) (sp : Space) (a : Nat) (bs : List Byte) : (s.poke sp a bs).nonce = s.nonce := rfl

@[simp] theorem pokeAt_cyc (s : State) (sp : Space) (bs : List (Nat × Byte)) : (s.pokeAt sp bs).cyc = s.cyc := rfl
@[simp] theorem pokeAt_cursor (s : State) (sp : Space) (bs : List (Nat × Byte)) : (s.pokeAt sp bs).cursor = s.cursor := rfl
@[simp] theorem pokeAt_curTile (s : State) (sp : Space) (bs : List (Nat × Byte)) : (s.pokeAt sp bs).curTile = s.curTile := rfl
@[simp] theorem pokeAt_curThread (s : State) (sp : Space) (bs : List (Nat × Byte)) : (s.pokeAt sp bs).curThread = s.curThread := rfl
@[simp] theorem pokeAt_curProg (s : State) (sp : Space) (bs : List (Nat × Byte)) : (s.pokeAt sp bs).curProg = s.curProg := rfl
@[simp] theorem pokeAt_powered (s : State) (sp : Space) (bs : List (Nat × Byte)) : (s.pokeAt sp bs).powered = s.powered := rfl
@[simp] theorem pokeAt_tiles (s : State) (sp : Space) (bs : List (Nat × Byte)) : (s.pokeAt sp bs).tiles = s.tiles := rfl
@[simp] theorem pokeAt_groups (s : State) (sp : Space) (bs : List (Nat × Byte)) : (s.pokeAt sp bs).groups = s.groups := rfl
@[simp] theorem pokeAt_dies (s : State) (sp : Space) (bs : List (Nat × Byte)) : (s.pokeAt sp bs).dies = s.dies := rfl
@[simp] theorem pokeAt_pkgs (s : State) (sp : Space) (bs : List (Nat × Byte)) : (s.pokeAt sp bs).pkgs = s.pkgs := rfl
@[simp] theorem pokeAt_launches (s : State) (sp : Space) (bs : List (Nat × Byte)) : (s.pokeAt sp bs).launches = s.launches := rfl
@[simp] theorem pokeAt_nextLaunch (s : State) (sp : Space) (bs : List (Nat × Byte)) : (s.pokeAt sp bs).nextLaunch = s.nextLaunch := rfl
@[simp] theorem pokeAt_xfers (s : State) (sp : Space) (bs : List (Nat × Byte)) : (s.pokeAt sp bs).xfers = s.xfers := rfl
@[simp] theorem pokeAt_nextXfer (s : State) (sp : Space) (bs : List (Nat × Byte)) : (s.pokeAt sp bs).nextXfer = s.nextXfer := rfl
@[simp] theorem pokeAt_bells (s : State) (sp : Space) (bs : List (Nat × Byte)) : (s.pokeAt sp bs).bells = s.bells := rfl
@[simp] theorem pokeAt_progs (s : State) (sp : Space) (bs : List (Nat × Byte)) : (s.pokeAt sp bs).progs = s.progs := rfl
@[simp] theorem pokeAt_streamWrites (s : State) (sp : Space) (bs : List (Nat × Byte)) : (s.pokeAt sp bs).streamWrites = s.streamWrites := rfl
@[simp] theorem pokeAt_cohorts (s : State) (sp : Space) (bs : List (Nat × Byte)) : (s.pokeAt sp bs).cohorts = s.cohorts := rfl
@[simp] theorem pokeAt_plans (s : State) (sp : Space) (bs : List (Nat × Byte)) : (s.pokeAt sp bs).plans = s.plans := rfl
@[simp] theorem pokeAt_buckets (s : State) (sp : Space) (bs : List (Nat × Byte)) : (s.pokeAt sp bs).buckets = s.buckets := rfl
@[simp] theorem pokeAt_stale (s : State) (sp : Space) (bs : List (Nat × Byte)) : (s.pokeAt sp bs).stale = s.stale := rfl
@[simp] theorem pokeAt_firings (s : State) (sp : Space) (bs : List (Nat × Byte)) : (s.pokeAt sp bs).firings = s.firings := rfl
@[simp] theorem pokeAt_rin (s : State) (sp : Space) (bs : List (Nat × Byte)) : (s.pokeAt sp bs).rin = s.rin := rfl
@[simp] theorem pokeAt_podRin (s : State) (sp : Space) (bs : List (Nat × Byte)) : (s.pokeAt sp bs).podRin = s.podRin := rfl
@[simp] theorem pokeAt_poison (s : State) (sp : Space) (bs : List (Nat × Byte)) : (s.pokeAt sp bs).poison = s.poison := rfl
@[simp] theorem pokeAt_undo (s : State) (sp : Space) (bs : List (Nat × Byte)) : (s.pokeAt sp bs).undo = s.undo := rfl
@[simp] theorem pokeAt_logged (s : State) (sp : Space) (bs : List (Nat × Byte)) : (s.pokeAt sp bs).logged = s.logged := rfl
@[simp] theorem pokeAt_cut (s : State) (sp : Space) (bs : List (Nat × Byte)) : (s.pokeAt sp bs).cut = s.cut := rfl
@[simp] theorem pokeAt_saves (s : State) (sp : Space) (bs : List (Nat × Byte)) : (s.pokeAt sp bs).saves = s.saves := rfl
@[simp] theorem pokeAt_fabricLog (s : State) (sp : Space) (bs : List (Nat × Byte)) : (s.pokeAt sp bs).fabricLog = s.fabricLog := rfl
@[simp] theorem pokeAt_events (s : State) (sp : Space) (bs : List (Nat × Byte)) : (s.pokeAt sp bs).events = s.events := rfl
@[simp] theorem pokeAt_mgMod (s : State) (sp : Space) (bs : List (Nat × Byte)) : (s.pokeAt sp bs).mgMod = s.mgMod := rfl
@[simp] theorem pokeAt_rampFloor (s : State) (sp : Space) (bs : List (Nat × Byte)) : (s.pokeAt sp bs).rampFloor = s.rampFloor := rfl
@[simp] theorem pokeAt_rampHeld (s : State) (sp : Space) (bs : List (Nat × Byte)) : (s.pokeAt sp bs).rampHeld = s.rampHeld := rfl
@[simp] theorem pokeAt_podModule (s : State) (sp : Space) (bs : List (Nat × Byte)) : (s.pokeAt sp bs).podModule = s.podModule := rfl
@[simp] theorem pokeAt_inPod (s : State) (sp : Space) (bs : List (Nat × Byte)) : (s.pokeAt sp bs).inPod = s.inPod := rfl
@[simp] theorem pokeAt_podFirst (s : State) (sp : Space) (bs : List (Nat × Byte)) : (s.pokeAt sp bs).podFirst = s.podFirst := rfl
@[simp] theorem pokeAt_podCount (s : State) (sp : Space) (bs : List (Nat × Byte)) : (s.pokeAt sp bs).podCount = s.podCount := rfl
@[simp] theorem pokeAt_e2eNext (s : State) (sp : Space) (bs : List (Nat × Byte)) : (s.pokeAt sp bs).e2eNext = s.e2eNext := rfl
@[simp] theorem pokeAt_outbox (s : State) (sp : Space) (bs : List (Nat × Byte)) : (s.pokeAt sp bs).outbox = s.outbox := rfl
@[simp] theorem pokeAt_sealAsked (s : State) (sp : Space) (bs : List (Nat × Byte)) : (s.pokeAt sp bs).sealAsked = s.sealAsked := rfl
@[simp] theorem pokeAt_fullSince (s : State) (sp : Space) (bs : List (Nat × Byte)) : (s.pokeAt sp bs).fullSince = s.fullSince := rfl
@[simp] theorem pokeAt_sysText (s : State) (sp : Space) (bs : List (Nat × Byte)) : (s.pokeAt sp bs).sysText = s.sysText := rfl
@[simp] theorem pokeAt_nonce (s : State) (sp : Space) (bs : List (Nat × Byte)) : (s.pokeAt sp bs).nonce = s.nonce := rfl

@[simp] theorem clearRange_cyc (s : State) (sp : Space) (a n : Nat) : (s.clearRange sp a n).cyc = s.cyc := rfl
@[simp] theorem clearRange_cursor (s : State) (sp : Space) (a n : Nat) : (s.clearRange sp a n).cursor = s.cursor := rfl
@[simp] theorem clearRange_curTile (s : State) (sp : Space) (a n : Nat) : (s.clearRange sp a n).curTile = s.curTile := rfl
@[simp] theorem clearRange_curThread (s : State) (sp : Space) (a n : Nat) : (s.clearRange sp a n).curThread = s.curThread := rfl
@[simp] theorem clearRange_curProg (s : State) (sp : Space) (a n : Nat) : (s.clearRange sp a n).curProg = s.curProg := rfl
@[simp] theorem clearRange_powered (s : State) (sp : Space) (a n : Nat) : (s.clearRange sp a n).powered = s.powered := rfl
@[simp] theorem clearRange_tiles (s : State) (sp : Space) (a n : Nat) : (s.clearRange sp a n).tiles = s.tiles := rfl
@[simp] theorem clearRange_groups (s : State) (sp : Space) (a n : Nat) : (s.clearRange sp a n).groups = s.groups := rfl
@[simp] theorem clearRange_dies (s : State) (sp : Space) (a n : Nat) : (s.clearRange sp a n).dies = s.dies := rfl
@[simp] theorem clearRange_pkgs (s : State) (sp : Space) (a n : Nat) : (s.clearRange sp a n).pkgs = s.pkgs := rfl
@[simp] theorem clearRange_launches (s : State) (sp : Space) (a n : Nat) : (s.clearRange sp a n).launches = s.launches := rfl
@[simp] theorem clearRange_nextLaunch (s : State) (sp : Space) (a n : Nat) : (s.clearRange sp a n).nextLaunch = s.nextLaunch := rfl
@[simp] theorem clearRange_xfers (s : State) (sp : Space) (a n : Nat) : (s.clearRange sp a n).xfers = s.xfers := rfl
@[simp] theorem clearRange_nextXfer (s : State) (sp : Space) (a n : Nat) : (s.clearRange sp a n).nextXfer = s.nextXfer := rfl
@[simp] theorem clearRange_bells (s : State) (sp : Space) (a n : Nat) : (s.clearRange sp a n).bells = s.bells := rfl
@[simp] theorem clearRange_progs (s : State) (sp : Space) (a n : Nat) : (s.clearRange sp a n).progs = s.progs := rfl
@[simp] theorem clearRange_streamWrites (s : State) (sp : Space) (a n : Nat) : (s.clearRange sp a n).streamWrites = s.streamWrites := rfl
@[simp] theorem clearRange_cohorts (s : State) (sp : Space) (a n : Nat) : (s.clearRange sp a n).cohorts = s.cohorts := rfl
@[simp] theorem clearRange_plans (s : State) (sp : Space) (a n : Nat) : (s.clearRange sp a n).plans = s.plans := rfl
@[simp] theorem clearRange_buckets (s : State) (sp : Space) (a n : Nat) : (s.clearRange sp a n).buckets = s.buckets := rfl
@[simp] theorem clearRange_stale (s : State) (sp : Space) (a n : Nat) : (s.clearRange sp a n).stale = s.stale := rfl
@[simp] theorem clearRange_firings (s : State) (sp : Space) (a n : Nat) : (s.clearRange sp a n).firings = s.firings := rfl
@[simp] theorem clearRange_rin (s : State) (sp : Space) (a n : Nat) : (s.clearRange sp a n).rin = s.rin := rfl
@[simp] theorem clearRange_podRin (s : State) (sp : Space) (a n : Nat) : (s.clearRange sp a n).podRin = s.podRin := rfl
@[simp] theorem clearRange_poison (s : State) (sp : Space) (a n : Nat) : (s.clearRange sp a n).poison = s.poison := rfl
@[simp] theorem clearRange_undo (s : State) (sp : Space) (a n : Nat) : (s.clearRange sp a n).undo = s.undo := rfl
@[simp] theorem clearRange_logged (s : State) (sp : Space) (a n : Nat) : (s.clearRange sp a n).logged = s.logged := rfl
@[simp] theorem clearRange_cut (s : State) (sp : Space) (a n : Nat) : (s.clearRange sp a n).cut = s.cut := rfl
@[simp] theorem clearRange_saves (s : State) (sp : Space) (a n : Nat) : (s.clearRange sp a n).saves = s.saves := rfl
@[simp] theorem clearRange_fabricLog (s : State) (sp : Space) (a n : Nat) : (s.clearRange sp a n).fabricLog = s.fabricLog := rfl
@[simp] theorem clearRange_events (s : State) (sp : Space) (a n : Nat) : (s.clearRange sp a n).events = s.events := rfl
@[simp] theorem clearRange_mgMod (s : State) (sp : Space) (a n : Nat) : (s.clearRange sp a n).mgMod = s.mgMod := rfl
@[simp] theorem clearRange_rampFloor (s : State) (sp : Space) (a n : Nat) : (s.clearRange sp a n).rampFloor = s.rampFloor := rfl
@[simp] theorem clearRange_rampHeld (s : State) (sp : Space) (a n : Nat) : (s.clearRange sp a n).rampHeld = s.rampHeld := rfl
@[simp] theorem clearRange_podModule (s : State) (sp : Space) (a n : Nat) : (s.clearRange sp a n).podModule = s.podModule := rfl
@[simp] theorem clearRange_inPod (s : State) (sp : Space) (a n : Nat) : (s.clearRange sp a n).inPod = s.inPod := rfl
@[simp] theorem clearRange_podFirst (s : State) (sp : Space) (a n : Nat) : (s.clearRange sp a n).podFirst = s.podFirst := rfl
@[simp] theorem clearRange_podCount (s : State) (sp : Space) (a n : Nat) : (s.clearRange sp a n).podCount = s.podCount := rfl
@[simp] theorem clearRange_e2eNext (s : State) (sp : Space) (a n : Nat) : (s.clearRange sp a n).e2eNext = s.e2eNext := rfl
@[simp] theorem clearRange_outbox (s : State) (sp : Space) (a n : Nat) : (s.clearRange sp a n).outbox = s.outbox := rfl
@[simp] theorem clearRange_sealAsked (s : State) (sp : Space) (a n : Nat) : (s.clearRange sp a n).sealAsked = s.sealAsked := rfl
@[simp] theorem clearRange_fullSince (s : State) (sp : Space) (a n : Nat) : (s.clearRange sp a n).fullSince = s.fullSince := rfl
@[simp] theorem clearRange_sysText (s : State) (sp : Space) (a n : Nat) : (s.clearRange sp a n).sysText = s.sysText := rfl
@[simp] theorem clearRange_nonce (s : State) (sp : Space) (a n : Nat) : (s.clearRange sp a n).nonce = s.nonce := rfl

@[simp] theorem group_updGroup (s : State) (k : Nat) (f : Group → Group) : (s.updGroup k f).group k = f (s.group k) := Tab.get_upd_same _ _ _
theorem group_updGroup_other (s : State) {k n : Nat} (f : Group → Group) (h : n ≠ k) : (s.updGroup k f).group n = s.group n := Tab.get_upd_other _ _ h
@[simp] theorem die_updDie (s : State) (k : Nat) (f : Die → Die) : (s.updDie k f).die k = f (s.die k) := Tab.get_upd_same _ _ _
theorem die_updDie_other (s : State) {k n : Nat} (f : Die → Die) (h : n ≠ k) : (s.updDie k f).die n = s.die n := Tab.get_upd_other _ _ h
@[simp] theorem pkg_updPkg (s : State) (k : Nat) (f : Pkg → Pkg) : (s.updPkg k f).pkg k = f (s.pkg k) := Tab.get_upd_same _ _ _
theorem pkg_updPkg_other (s : State) {k n : Nat} (f : Pkg → Pkg) (h : n ≠ k) : (s.updPkg k f).pkg n = s.pkg n := Tab.get_upd_other _ _ h
@[simp] theorem launch_updLaunch (s : State) (k : Nat) (f : Launch → Launch) : (s.updLaunch k f).launch k = f (s.launch k) := Tab.get_upd_same _ _ _
theorem launch_updLaunch_other (s : State) {k n : Nat} (f : Launch → Launch) (h : n ≠ k) : (s.updLaunch k f).launch n = s.launch n := Tab.get_upd_other _ _ h
@[simp] theorem prog_updProg (s : State) (k : Nat) (f : Prog → Prog) : (s.updProg k f).prog k = f (s.prog k) := Tab.get_upd_same _ _ _
theorem prog_updProg_other (s : State) {k n : Nat} (f : Prog → Prog) (h : n ≠ k) : (s.updProg k f).prog n = s.prog n := Tab.get_upd_other _ _ h
@[simp] theorem tile_updTile (s : State) (k : Nat) (f : Tile → Tile) : (s.updTile k f).tile k = f (s.tile k) := Tab.get_upd_same _ _ _
theorem tile_updTile_other (s : State) {k n : Nat} (f : Tile → Tile) (h : n ≠ k) : (s.updTile k f).tile n = s.tile n := Tab.get_upd_other _ _ h

@[simp] theorem thread_updThread (s : State) (k t : Nat) (f : Thread → Thread) : (s.updThread k t f).thread k t = f (s.thread k t) := by
  simp [State.thread, State.updThread]

theorem thread_updThread_other (s : State) {k t n i : Nat} (f : Thread → Thread) (h : n ≠ k ∨ i ≠ t) :
    (s.updThread k t f).thread n i = s.thread n i := by
  unfold State.thread State.updThread
  by_cases hn : n = k
  · subst hn
    rw [tile_updTile]
    exact Tab.get_upd_other _ _ (h.resolve_left (fun e => e rfl))
  · rw [tile_updTile_other _ _ hn]

@[simp] theorem thr_updThr (s : State) (f : Thread → Thread) : (s.updThr f).thr = f s.thr := thread_updThread _ _ _ _

/-- What an update of a thread leaves of its tile. -/
theorem tile_updThread (s : State) (k t n : Nat) (f : Thread → Thread) :
    (s.updThread k t f).tile n = { s.tile n with threads := ((s.updThread k t f).tile n).threads } := by
  unfold State.updThread
  by_cases hn : n = k
  · subst hn; simp
  · rw [tile_updTile_other _ _ hn]

/-- What reading one unit gives does not depend on an update of the tiles. -/
@[simp] theorem group_updTile (s : State) (k n : Nat) (f : Tile → Tile) : (s.updTile k f).group n = s.group n := rfl
@[simp] theorem die_updTile (s : State) (k n : Nat) (f : Tile → Tile) : (s.updTile k f).die n = s.die n := rfl
@[simp] theorem pkg_updTile (s : State) (k n : Nat) (f : Tile → Tile) : (s.updTile k f).pkg n = s.pkg n := rfl
@[simp] theorem launch_updTile (s : State) (k n : Nat) (f : Tile → Tile) : (s.updTile k f).launch n = s.launch n := rfl
@[simp] theorem byte_updTile (s : State) (k a : Nat) (sp : Space) (f : Tile → Tile) : (s.updTile k f).byte sp a = s.byte sp a := rfl
@[simp] theorem byte_updThr (s : State) (a : Nat) (sp : Space) (f : Thread → Thread) : (s.updThr f).byte sp a = s.byte sp a := rfl

end Sys2Proof.Laws
end

