-- ==== Sys2Proof/Laws/Ops.lean ====
section
/-!
SUPPORT. What each shared operation can do, once: the choice of a cause, pending results, register writes, the move of the queue, taking
and returning from a trap, and the text at an offset.
-/

namespace Sys2Proof.Laws

open Sys2Proof.Machine Sys2Proof.Observe

/-! ## The choice of a cause -/

@[simp] theorem lowest_nil : lowest [] = none := rfl
@[simp] theorem lowest_none_cons (r : List (Option TrapReq)) : lowest (none :: r) = lowest r := rfl

theorem lowest_eq_none {l : List (Option TrapReq)} : lowest l = none ↔ ∀ c ∈ l, c = none := by
  induction l with
  | nil => simp
  | cons c r ih =>
    cases c with
    | none => simp [ih]
    | some a =>
      simp only [lowest, List.mem_cons, forall_eq_or_imp, reduceCtorEq, false_and, iff_false]
      split
      · simp
      · split <;> simp

/-- The cause taken is among those that apply and no other has a lower code (R7). -/
theorem lowest_spec {l : List (Option TrapReq)} {q : TrapReq} (h : lowest l = some q) :
    some q ∈ l ∧ ∀ r, some r ∈ l → q.cause ≤ r.cause := by
  induction l generalizing q with
  | nil => simp at h
  | cons c l ih =>
    cases c with
    | none => obtain ⟨h1, h2⟩ := ih h; exact ⟨List.mem_cons_of_mem _ h1, by simpa using h2⟩
    | some a =>
      simp only [lowest] at h
      split at h
      · rename_i hn
        cases h
        exact ⟨List.mem_cons_self, fun r hr => by
          rcases List.mem_cons.mp hr with e | e
          · cases e; exact Nat.le_refl _
          · exact absurd (lowest_eq_none.mp hn _ e) (by simp)⟩
      · rename_i b hb
        obtain ⟨h1, h2⟩ := ih hb
        split at h
        · rename_i hlt
          cases h
          exact ⟨List.mem_cons_of_mem _ h1, fun r hr => by
            rcases List.mem_cons.mp hr with e | e
            · cases e; omega
            · exact h2 r e⟩
        · rename_i hge
          cases h
          exact ⟨List.mem_cons_self, fun r hr => by
            rcases List.mem_cons.mp hr with e | e
            · cases e; exact Nat.le_refl _
            · have := h2 r e; omega⟩

theorem guarded_of_clear {s : State} {l : List (Option TrapReq)} (body : State → Out) (h : lowest l = none) :
    s.guarded l body = body s := by simp [State.guarded, h]

theorem guarded_of_cause {s : State} {l : List (Option TrapReq)} (body : State → Out) {q : TrapReq} (h : lowest l = some q) :
    s.guarded l body = .next (s.takeTrap q) := by simp [State.guarded, h]

@[simp] theorem trapIf_false (c : Nat) (v : Word) : trapIf false c v = none := rfl
@[simp] theorem trapIf_true (c : Nat) (v : Word) : trapIf true c v = some ⟨c, v⟩ := rfl
theorem trapIf_eq_none {b : Bool} {c : Nat} {v : Word} : trapIf b c v = none ↔ b = false := by cases b <;> simp

theorem chkW_eq_none {s : State} {n : BitVec 5} : s.chkW n = none ↔ ReadableW s n := by
  simp [State.chkW, trapIf_eq_none, ReadableW]

theorem chkV_eq_none {s : State} {n : BitVec 5} : s.chkV n = none ↔ ReadableV s n := by
  simp [State.chkV, trapIf_eq_none, ReadableV]

theorem chkM_eq_none {s : State} {n : Nat} : s.chkM n = none ↔ ReadableM s n := by
  simp [State.chkM, trapIf_eq_none, ReadableM]

/-! ## Pending results -/

/-- A value as a register of a file holds it. -/
def held (cls : Nat) (v : Vec) : Vec := (v.setWidth (width cls)).setWidth 512

theorem held_zero (cls : Nat) : held cls 0#512 = 0#512 := by simp [held]

theorem held_file (a : Thread) {cls : Nat} (num : Nat) (hc : cls ≤ 2) : held cls (a.file cls num) = a.file cls num := by
  rcases cls with _ | _ | _ | n
  · simp [held, Thread.file, width]
  · simp [held, width]
  · simp [held, Thread.file, width]
  · omega

theorem file_setFile (a : Thread) {cls : Nat} (num n c : Nat) (v : Vec) (hc : c ≤ 2) :
    (a.setFile cls num v).file c n = if cls = c ∧ num = n then held c v else a.file c n := by
  have hT : ∀ {α : Type} [Inhabited α] [DecidableEq α] (t : Tab α) (v : α),
      Tab.get (Tab.set t num v) n = if num = n then v else Tab.get t n := by
    intro α _ _ t v
    by_cases h : num = n
    · subst h; simp
    · rw [if_neg h, Tab.get_set_other _ _ (fun e => h e.symm)]
  rcases c with _ | _ | _ | c
  · rcases cls with _ | _ | _ | k <;> simp [Thread.setFile, Thread.file, hT, held, width]
    split <;> rfl
  · rcases cls with _ | _ | _ | k <;> simp [Thread.setFile, Thread.file, hT, held, width]
  · rcases cls with _ | _ | _ | k <;> simp [Thread.setFile, Thread.file, hT, held, width]
    split <;> rfl
  · omega

@[simp] theorem pend_setFile (a : Thread) (cls num : Nat) (v : Vec) : (a.setFile cls num v).pend = a.pend := by
  rcases cls with _ | _ | _ | k <;> rfl

theorem file_pend (a : Thread) (l : List Pending) (cls num : Nat) : ({ a with pend := l } : Thread).file cls num = a.file cls num := by
  rcases cls with _ | _ | _ | k <;> rfl

/-- Reading as `reg` does, of a thread. -/
def Thread.seen (a : Thread) (c cls num : Nat) : Vec := held cls (a.readAt c cls num)

theorem find_filter_ne {α : Type} (l : List α) (p q : α → Bool) (h : ∀ x ∈ l, p x = true → q x = true) :
    (l.filter q).find? p = l.find? p := by
  induction l with
  | nil => rfl
  | cons x r ih =>
    have hr := ih (fun y hy => h y (List.mem_cons_of_mem _ hy))
    by_cases hp : p x
    · simp [h x List.mem_cons_self hp, hp]
    · by_cases hq : q x <;> simp [hq, hp, hr]

/-- One step of `land`. -/
def landStep (c : Nat) (p : Pending) (a : Thread) : Thread :=
  if p.due ≤ c then
    { (a.setFile p.cls p.num p.val) with pend := a.pend.filter (fun q => decide (¬ (q.cls = p.cls ∧ q.num = p.num))) }
  else { a with pend := p :: a.pend }

theorem land_eq (c : Nat) (a : Thread) : a.land c = a.pend.foldr (landStep c) { a with pend := [] } := rfl

theorem seen_landStep {c d : Nat} (hcd : c ≤ d) (p : Pending) (a : Thread) {cls : Nat} (num : Nat) (hc : cls ≤ 2) :
    Thread.seen (landStep c p a) d cls num =
      if p.cls = cls ∧ p.num = num ∧ p.due ≤ d then held cls p.val else Thread.seen a d cls num := by
  unfold Thread.seen landStep
  by_cases hd : p.due ≤ c
  · have hdd : p.due ≤ d := by omega
    simp only [hd, if_true, Thread.readAt, hdd, and_true]
    by_cases hp : p.cls = cls ∧ p.num = num
    · obtain ⟨rfl, rfl⟩ := hp
      have : (a.pend.filter (fun q => decide (¬ (q.cls = p.cls ∧ q.num = p.num)))).find?
          (fun q => decide (q.cls = p.cls ∧ q.num = p.num ∧ q.due ≤ d)) = none := by
        rw [List.find?_eq_none]
        intro x hx
        have := (List.mem_filter.mp hx).2
        simp at this ⊢
        grind
      simp only [this, and_self, if_true]
      have := file_setFile a (cls := p.cls) p.num p.num p.cls p.val hc
      simp only [and_self, if_true] at this
      show held p.cls ((a.setFile p.cls p.num p.val).file p.cls p.num) = _
      rw [this]; simp [held]
      rcases hcl : p.cls with _ | _ | _ | n <;> simp [width] at * 
    · have h1 := find_filter_ne a.pend (fun q => decide (q.cls = cls ∧ q.num = num ∧ q.due ≤ d))
          (fun q => decide (¬ (q.cls = p.cls ∧ q.num = p.num))) (by intro x _ hx; simp at hx ⊢; grind)
      rw [h1, if_neg hp]
      have := file_setFile a (cls := p.cls) p.num num cls p.val hc
      rw [if_neg hp] at this
      cases (a.pend.find? (fun q => decide (q.cls = cls ∧ q.num = num ∧ q.due ≤ d))) 
      · exact congrArg (held cls) ((file_pend _ _ _ _).trans this)
      · rfl
  · by_cases hp : p.cls = cls ∧ p.num = num ∧ p.due ≤ d
    · simp [hd, Thread.readAt, hp]
    · rw [if_neg hp]
      simp only [hd, if_false, Thread.readAt, List.find?_cons, decide_eq_false hp]
      rfl

/-- Landing changes no later read (R98, R100). -/
theorem seen_land {c d : Nat} (hcd : c ≤ d) (a : Thread) {cls : Nat} (num : Nat) (hc : cls ≤ 2) :
    Thread.seen (a.land c) d cls num = Thread.seen a d cls num := by
  have key : ∀ (l : List Pending) (b : Thread), b.pend = [] →
      Thread.seen (l.foldr (landStep c) b) d cls num = Thread.seen { b with pend := l } d cls num := by
    intro l b hb
    induction l with
    | nil => rw [show ({ b with pend := [] } : Thread) = b from by cases b; simp_all]; rfl
    | cons p r ih =>
      rw [List.foldr_cons, seen_landStep hcd p _ num hc, ih]
      unfold Thread.seen Thread.readAt
      by_cases hp : p.cls = cls ∧ p.num = num ∧ p.due ≤ d
      · simp [hp]
      · simp only [List.find?_cons, decide_eq_false hp, if_neg hp]; rfl
  rw [land_eq, key a.pend { a with pend := [] } rfl]

/-- A result pushed now is read from its due cycle on; before that, and elsewhere, reads are as they were. -/
theorem seen_push (a : Thread) {c d : Nat} (cls num due : Nat) (v : Vec) (hcd : c ≤ d) {k : Nat} (n : Nat) (hk : k ≤ 2) :
    Thread.seen (a.push c cls num due v) d k n = if cls = k ∧ num = n ∧ due ≤ d then held k v else Thread.seen a d k n := by
  unfold Thread.push Thread.seen Thread.readAt
  by_cases hp : cls = k ∧ num = n ∧ due ≤ d
  · simp [hp]
  · simp only [List.find?_cons, decide_eq_false hp, if_neg hp]
    exact seen_land hcd a n hk

/-! ## Register writes and the move of the queue -/

theorem reg_eq_seen (s : State) (cls num c : Nat) : reg s cls num c = Thread.seen s.thr c cls num := rfl

theorem onlyThread_updThr (s : State) (f : Thread → Thread) : OnlyThread s (s.updThr f) :=
  ⟨rfl, fun _ => tile_updThread _ _ _ _ _, fun _ _ h => thread_updThread_other _ _ h⟩

theorem onlyThread_refl (s : State) : OnlyThread s s := ⟨rfl, fun _ => rfl, fun _ _ _ => rfl⟩

theorem onlyThread_trans {s t : State} (h : OnlyThread s t) (f : Thread → Thread) : OnlyThread s (t.updThr f) := by
  obtain ⟨h1, h2, h3⟩ := h
  have hk : t.curTile = s.curTile := by rw [h1]
  have hi : t.curThread = s.curThread := by rw [h1]
  refine ⟨?_, ?_, ?_⟩
  · exact congrArg (fun x : State => { x with tiles := (t.updThr f).tiles }) h1
  · intro k
    have := tile_updThread t t.curTile t.curThread k f
    rw [show (t.updThr f).tile k = _ from this, h2 k]
  · intro k i h
    exact (thread_updThread_other t f (by rw [hk, hi]; exact h)).trans (h3 k i h)

theorem memoryKept_of_onlyThread {s t : State} (h : OnlyThread s t) : MemoryKept s t := by
  intro sp a
  rw [h.1]
  rfl

theorem seqOf_updThr (s : State) (f : Thread → Thread) (k i : Nat) (x : BitVec 18) : (s.updThr f).seqOf k i x = s.seqOf k i x := by
  have hl : (s.updThr f).lidOf k i = s.lidOf k i := by
    simp only [State.lidOf, State.updThr]
    rw [tile_updThread]
  unfold State.seqOf State.textHalf State.textByte State.textSpan State.launchOf
  rw [hl]
  rfl

/-- The state after a change `f` of the executing thread and the move of the queue: only the thread differs, by `f` and by the queue. -/
theorem retire_spec (s : State) (f : Thread → Thread) (hq : ∀ t, (f t).q1 = t.q1 ∧ (f t).q2 = t.q2 ∧ (f t).n1 = t.n1) :
    OnlyThread s (s.updThr f).retire ∧ QueueMoved s (s.updThr f).retire ∧
    (s.updThr f).retire.thr = (f s.thr).issued s.cyc (s.seqOf s.curTile s.curThread s.thr.q2) s.thr.n1 false := by
  have hthr : (s.updThr f).retire.thr = (f s.thr).issued s.cyc (s.seqOf s.curTile s.curThread s.thr.q2) s.thr.n1 false := by
    unfold State.retire
    rw [thr_updThr, thr_updThr, seqOf_updThr]
    simp only [updThr_curTile, updThr_curThread, updThr_cyc, (hq s.thr).2.1, (hq s.thr).2.2]
  refine ⟨onlyThread_trans (onlyThread_updThr s f) _, ?_, hthr⟩
  simp only [QueueMoved, hthr, Thread.issued, (hq s.thr).1, (hq s.thr).2.1, and_self]

theorem retire_alone (s : State) : OnlyThread s s.retire ∧ QueueMoved s s.retire ∧
    s.retire.thr = s.thr.issued s.cyc (s.seqOf s.curTile s.curThread s.thr.q2) s.thr.n1 false := by
  refine ⟨onlyThread_updThr s _, ?_, thr_updThr s _⟩
  simp [QueueMoved, State.retire, Thread.issued]

theorem seen_issued (a : Thread) (c : Nat) (x : BitVec 18) (m n : Bool) (d cls num : Nat) :
    Thread.seen (a.issued c x m n) d cls num = Thread.seen a d cls num := by
  unfold Thread.seen Thread.readAt Thread.issued
  rcases cls with _ | _ | _ | k <;> rfl

theorem same_setFile (a b : Thread) (cls num : Nat) (v : Vec) (h : SameButRegsAndQueue a b) : SameButRegsAndQueue a (b.setFile cls num v) := by
  unfold SameButRegsAndQueue at *
  rcases cls with _ | _ | _ | k
  all_goals (rw [h]; simp only [Thread.setFile])

theorem same_pend (a b : Thread) (l : List Pending) (h : SameButRegsAndQueue a b) : SameButRegsAndQueue a { b with pend := l } := by
  unfold SameButRegsAndQueue at *
  rw [h]

theorem same_land (a : Thread) (c : Nat) : SameButRegsAndQueue a (a.land c) := by
  have : ∀ (l : List Pending) (b : Thread), SameButRegsAndQueue a b → SameButRegsAndQueue a (l.foldr (landStep c) b) := by
    intro l b hb
    induction l with
    | nil => exact hb
    | cons p r ih =>
      rw [List.foldr_cons]
      generalize r.foldr (landStep c) b = x at ih ⊢
      unfold landStep
      split
      · exact same_pend a _ _ (same_setFile a _ _ _ _ ih)
      · exact same_pend a _ _ ih
  exact this a.pend _ (same_pend a a [] rfl)

theorem same_push (a : Thread) (c cls num due : Nat) (v : Vec) : SameButRegsAndQueue a (a.push c cls num due v) :=
  same_pend a _ _ (same_land a c)

theorem same_issued (a b : Thread) (c : Nat) (x : BitVec 18) (m n : Bool) (h : SameButRegsAndQueue a b) :
    SameButRegsAndQueue a (b.issued c x m n) := by
  unfold SameButRegsAndQueue at *
  rw [h]
  rfl

theorem queue_land (a : Thread) (c : Nat) : (a.land c).q1 = a.q1 ∧ (a.land c).q2 = a.q2 ∧ (a.land c).n1 = a.n1 := by
  have : ∀ (l : List Pending) (b : Thread), (l.foldr (landStep c) b).q1 = b.q1 ∧ (l.foldr (landStep c) b).q2 = b.q2 ∧
      (l.foldr (landStep c) b).n1 = b.n1 := by
    intro l b
    induction l with
    | nil => exact ⟨rfl, rfl, rfl⟩
    | cons p r ih =>
      rw [List.foldr_cons]
      generalize r.foldr (landStep c) b = x at ih ⊢
      unfold landStep
      split
      · rcases h : p.cls with _ | _ | _ | k <;> exact ih
      · exact ih
  exact this a.pend _

/-- A result pushed and the queue moved: what every register-writing instruction does. -/
theorem push_retire (s : State) {cls : Nat} (num lat : Nat) (v : Vec) (hc : cls ≤ 2) :
    let t := (s.updThr (fun t => t.push s.cyc cls num (s.cyc + lat) v)).retire
    OnlyThread s t ∧ SameButRegsAndQueue s.thr t.thr ∧ RegsKept s t [(cls, num)] ∧ MemoryKept s t ∧ QueueMoved s t ∧
      Reads s t cls num lat (held cls v) := by
  obtain ⟨h1, h2, h3⟩ := retire_spec s (fun t => t.push s.cyc cls num (s.cyc + lat) v) (fun t => queue_land t s.cyc)
  refine ⟨h1, ?_, ?_, memoryKept_of_onlyThread h1, h2, ?_, ?_⟩
  · rw [h3]; exact same_issued _ _ _ _ _ _ (same_push _ _ _ _ _ _)
  · intro k n hk hne c hcy
    rw [reg_eq_seen, reg_eq_seen, h3, seen_issued, seen_push _ _ _ _ _ hcy _ hk, if_neg]
    rintro ⟨rfl, rfl, -⟩
    exact hne (List.mem_singleton.mpr rfl)
  · intro c hcy
    rw [reg_eq_seen, h3, seen_issued, seen_push _ _ _ _ _ (by omega) _ hc]
    simp [hcy]
  · intro c hcy hlt
    rw [reg_eq_seen, reg_eq_seen, h3, seen_issued, seen_push _ _ _ _ _ hcy _ hc, if_neg]
    omega

theorem writesW_retire (s : State) (d : BitVec 5) (lat : Nat) (v : Word) : WritesW s ((s.writeW d lat v).retire) d lat v := by
  unfold WritesW State.writeW placeW
  by_cases hd : d = 0#5
  · obtain ⟨h1, h2, h3⟩ := retire_alone s
    simp only [hd, if_true]
    refine ⟨h1, ?_, ?_, memoryKept_of_onlyThread h1, h2, fun h => absurd rfl h⟩
    · rw [h3]; exact same_issued _ _ _ _ _ _ rfl
    · intro k n _ _ c _
      rw [reg_eq_seen, reg_eq_seen, h3, seen_issued]
  · obtain ⟨h1, h2, h3, h4, h5, h6⟩ := push_retire s (cls := 0) (s.thr.phys d.toNat) lat (v.setWidth 512) (by omega)
    simp only [if_neg hd]
    refine ⟨h1, h2, h3, h4, h5, fun _ => ?_⟩
    have : held 0 (v.setWidth 512) = v.setWidth 512 := by simp [held, width]
    rw [this] at h6
    exact h6

theorem writesV_retire (s : State) (d : BitVec 5) (lat : Nat) (v : Vec) : WritesV s ((s.writeV d lat v).retire) d lat v := by
  obtain ⟨h1, h2, h3, h4, h5, h6⟩ := push_retire s (cls := 1) d.toNat lat v (by omega)
  have : held 1 v = v := by simp [held, width]
  rw [this] at h6
  exact ⟨h1, h2, h3, h4, h5, h6⟩

theorem writesM_retire (s : State) (d lat : Nat) (v : Mask) : WritesM s ((s.writeM d lat v).retire) d lat v := by
  unfold WritesM State.writeM placeM
  by_cases hd : d = 0
  · obtain ⟨h1, h2, h3⟩ := retire_alone s
    simp only [hd, if_true]
    refine ⟨h1, ?_, ?_, memoryKept_of_onlyThread h1, h2, fun h => absurd rfl h⟩
    · rw [h3]; exact same_issued _ _ _ _ _ _ rfl
    · intro k n _ _ c _
      rw [reg_eq_seen, reg_eq_seen, h3, seen_issued]
  · obtain ⟨h1, h2, h3, h4, h5, h6⟩ := push_retire s (cls := 2) d lat (v.setWidth 512) (by omega)
    simp only [if_neg hd]
    refine ⟨h1, h2, h3, h4, h5, fun _ => ?_⟩
    have : held 2 (v.setWidth 512) = v.setWidth 512 := by simp [held, width]
    rw [this] at h6
    exact h6

end Sys2Proof.Laws
end

