-- ==== Sys2Proof/Laws/PerInstr.lean ====
section
/-!
SUPPORT. Encoding, instruction by instruction: the decoder reads back every word the encoder writes, with every operand at every value
that its field admits and every stall count (R78 to R88, R222, R223). A machine event has no word.
-/

namespace Sys2Proof.Laws

set_option Elab.async false
set_option linter.unusedSimpArgs false

/-- Each word of a well-formed instruction decodes to it; a 32-bit word gives its stall count as well. -/
def Encoding.Statement (i : Instr) : Prop :=
  i.wellFormed = true → ∀ (s : BitVec 3) (c : Code), encode i s = some c →
    decode c = .ok (i, match c with | .w32 _ => s | .w16 _ => 0#3 | .command _ => 0#3)

/-- A word of a known format decodes to its instruction, once the tables of its major opcode give it. -/
theorem Encoding.of_word (i : Instr) (w : BitVec 32) (s : BitVec 3) (hw : i.wellFormed = true) (h0 : w.extractLsb' 0 1 = 1#1)
    (hs : stallCount w = s) (hd : decodeOperands w = .ok i) : decode (.w32 w) = .ok (i, s) := by
  simp [decode, decode32, h0, hd, hs, hw]

theorem Encoding.mmaLatch (k : Nat) (o : Nat) (id : Nat) : Encoding.Statement (.mmaLatch k o id) := by intro _ s cw hc; cases hc

theorem Encoding.mmaPass (k : Nat) (o : Nat) (id : Nat) (p : Nat) : Encoding.Statement (.mmaPass k o id p) := by intro _ s cw hc; cases hc

theorem Encoding.mmaRowsFinal (k : Nat) (o : Nat) (id : Nat) (p : Nat) : Encoding.Statement (.mmaRowsFinal k o id p) := by intro _ s cw hc; cases hc

theorem Encoding.mzeroExecute (k : Nat) (o : Nat) (id : Nat) : Encoding.Statement (.mzeroExecute k o id) := by intro _ s cw hc; cases hc

theorem Encoding.mwrExecute (k : Nat) (o : Nat) (id : Nat) : Encoding.Statement (.mwrExecute k o id) := by intro _ s cw hc; cases hc

theorem Encoding.mstaExecute (k : Nat) (o : Nat) (id : Nat) : Encoding.Statement (.mstaExecute k o id) := by intro _ s cw hc; cases hc

theorem Encoding.mstaEnd (k : Nat) (o : Nat) (id : Nat) : Encoding.Statement (.mstaEnd k o id) := by intro _ s cw hc; cases hc

theorem Encoding.copyEnd (k : Nat) (t : Nat) : Encoding.Statement (.copyEnd k t) := by intro _ s cw hc; cases hc

theorem Encoding.translationWalkDone (d : Nat) (kind : Nat) (id : Nat) : Encoding.Statement (.translationWalkDone d kind id) := by intro _ s cw hc; cases hc

theorem Encoding.getLand (x : Nat) : Encoding.Statement (.getLand x) := by intro _ s cw hc; cases hc

theorem Encoding.streamProgramStart (key : Nat) : Encoding.Statement (.streamProgramStart key) := by intro _ s cw hc; cases hc

theorem Encoding.sepollSample (k : Nat) (t : Nat) (h : Nat) (rd : Nat) : Encoding.Statement (.sepollSample k t h rd) := by intro _ s cw hc; cases hc

theorem Encoding.streamMoveLand (key : Nat) (k : Nat) (w : Nat) (bytes : List (Nat × BitVec 8)) : Encoding.Statement (.streamMoveLand key k w bytes) := by intro _ s cw hc; cases hc

theorem Encoding.windowCounterIncrement (k : Nat) (w : Nat) (key : Nat) : Encoding.Statement (.windowCounterIncrement k w key) := by intro _ s cw hc; cases hc

theorem Encoding.streamListStart (lid : Nat) : Encoding.Statement (.streamListStart lid) := by intro _ s cw hc; cases hc

theorem Encoding.arrivalBellDone (lid : Nat) (lvl : Nat) (inst : Nat) : Encoding.Statement (.arrivalBellDone lid lvl inst) := by intro _ s cw hc; cases hc

theorem Encoding.writeHalf (lid : Nat) (lvl : Nat) (inst : Nat) : Encoding.Statement (.writeHalf lid lvl inst) := by intro _ s cw hc; cases hc

theorem Encoding.bellRelease (lid : Nat) (lvl : Nat) (inst : Nat) : Encoding.Statement (.bellRelease lid lvl inst) := by intro _ s cw hc; cases hc

theorem Encoding.barrierGenerationComplete (g : Nat) (id : Nat) : Encoding.Statement (.barrierGenerationComplete g id) := by intro _ s cw hc; cases hc

theorem Encoding.kmintDone (k : Nat) (t : Nat) (rd : Nat) (key : BitVec 64) : Encoding.Statement (.kmintDone k t rd key) := by intro _ s cw hc; cases hc

theorem Encoding.krevEffect (k : Nat) (t : Nat) (rd : Nat) (key : BitVec 32) : Encoding.Statement (.krevEffect k t rd key) := by intro _ s cw hc; cases hc

theorem Encoding.csetDone (k : Nat) (t : Nat) (rd : Nat) (v : BitVec 64) : Encoding.Statement (.csetDone k t rd v) := by intro _ s cw hc; cases hc

theorem Encoding.cfreeDone (k : Nat) (t : Nat) (rd : Nat) (c : Nat) : Encoding.Statement (.cfreeDone k t rd c) := by intro _ s cw hc; cases hc

theorem Encoding.bucketOpen (c : Nat) (seq : Nat) : Encoding.Statement (.bucketOpen c seq) := by intro _ s cw hc; cases hc

theorem Encoding.bucketComplete (c : Nat) (seq : Nat) : Encoding.Statement (.bucketComplete c seq) := by intro _ s cw hc; cases hc

theorem Encoding.bucketTimeout (c : Nat) (seq : Nat) : Encoding.Statement (.bucketTimeout c seq) := by intro _ s cw hc; cases hc

theorem Encoding.collectiveDelivery (c : Nat) (k : Nat) (w : Nat) (base : Nat) (seq : Nat) (bytes : List (BitVec 8)) : Encoding.Statement (.collectiveDelivery c k w base seq bytes) := by intro _ s cw hc; cases hc

theorem Encoding.planFiring (plan : Nat) (seq : Nat) : Encoding.Statement (.planFiring plan seq) := by intro _ s cw hc; cases hc

theorem Encoding.frameReceive (p : Nat) (l : Nat) (bytes : List (BitVec 8)) : Encoding.Statement (.frameReceive p l bytes) := by intro _ s cw hc; cases hc

theorem Encoding.ackTimeout (p : Nat) (l : Nat) (since : Nat) : Encoding.Statement (.ackTimeout p l since) := by intro _ s cw hc; cases hc

theorem Encoding.replayRequestTimeout (p : Nat) (l : Nat) (seq : Nat) : Encoding.Statement (.replayRequestTimeout p l seq) := by intro _ s cw hc; cases hc

theorem Encoding.laneFault (p : Nat) (l : Nat) (lane : Nat) : Encoding.Statement (.laneFault p l lane) := by intro _ s cw hc; cases hc

theorem Encoding.trainDone (p : Nat) (l : Nat) (lanes : Nat) (last : Nat) : Encoding.Statement (.trainDone p l lanes last) := by intro _ s cw hc; cases hc

theorem Encoding.trainTimeout (p : Nat) (l : Nat) (since : Nat) : Encoding.Statement (.trainTimeout p l since) := by intro _ s cw hc; cases hc

theorem Encoding.e2eStatus (x : Nat) (st : Nat) (bytes : List (BitVec 8)) : Encoding.Statement (.e2eStatus x st bytes) := by intro _ s cw hc; cases hc

theorem Encoding.e2eTimeout (x : Nat) : Encoding.Statement (.e2eTimeout x) := by intro _ s cw hc; cases hc

theorem Encoding.vcEscape (p : Nat) (l : Nat) (seq : Nat) : Encoding.Statement (.vcEscape p l seq) := by intro _ s cw hc; cases hc

theorem Encoding.bufferRepair (p : Nat) (port : Nat) (c : Nat) : Encoding.Statement (.bufferRepair p port c) := by intro _ s cw hc; cases hc

theorem Encoding.keyCheck (src : Nat) (op : Nat) (key : BitVec 32) (off : Nat) (n : Nat) (tag : Nat) (bytes : List (BitVec 8)) : Encoding.Statement (.keyCheck src op key off n tag bytes) := by intro _ s cw hc; cases hc

theorem Encoding.hbmWriteMatch (p : Nat) (a : Nat) : Encoding.Statement (.hbmWriteMatch p a) := by intro _ s cw hc; cases hc

theorem Encoding.selection (p : Nat) : Encoding.Statement (.selection p) := by intro _ s cw hc; cases hc

theorem Encoding.launchEntry (p : Nat) (q : Nat) : Encoding.Statement (.launchEntry p q) := by intro _ s cw hc; cases hc

theorem Encoding.planEntry (p : Nat) (q : Nat) : Encoding.Statement (.planEntry p q) := by intro _ s cw hc; cases hc

theorem Encoding.collEntry (p : Nat) (q : Nat) : Encoding.Statement (.collEntry p q) := by intro _ s cw hc; cases hc

theorem Encoding.sealEntry (p : Nat) (q : Nat) : Encoding.Statement (.sealEntry p q) := by intro _ s cw hc; cases hc

theorem Encoding.waitevEntry (p : Nat) (q : Nat) : Encoding.Statement (.waitevEntry p q) := by intro _ s cw hc; cases hc

theorem Encoding.sigevEntry (p : Nat) (q : Nat) : Encoding.Statement (.sigevEntry p q) := by intro _ s cw hc; cases hc

theorem Encoding.killEntry (p : Nat) (q : Nat) : Encoding.Statement (.killEntry p q) := by intro _ s cw hc; cases hc

theorem Encoding.killQuiesced (lid : Nat) : Encoding.Statement (.killQuiesced lid) := by intro _ s cw hc; cases hc

theorem Encoding.textLoad (lid : Nat) : Encoding.Statement (.textLoad lid) := by intro _ s cw hc; cases hc

theorem Encoding.startBroadcast (lid : Nat) : Encoding.Statement (.startBroadcast lid) := by intro _ s cw hc; cases hc

theorem Encoding.firstFetch (lid : Nat) : Encoding.Statement (.firstFetch lid) := by intro _ s cw hc; cases hc

theorem Encoding.watchdogExpiry (lid : Nat) (since : Nat) : Encoding.Statement (.watchdogExpiry lid since) := by intro _ s cw hc; cases hc

theorem Encoding.lineRefill (k : Nat) (t : Nat) (line : Nat) : Encoding.Statement (.lineRefill k t line) := by intro _ s cw hc; cases hc

theorem Encoding.fillerFetch (k : Nat) (line : Nat) : Encoding.Statement (.fillerFetch k line) := by intro _ s cw hc; cases hc

theorem Encoding.tickArrival (k : Nat) (mask : Nat) : Encoding.Statement (.tickArrival k mask) := by intro _ s cw hc; cases hc

theorem Encoding.tickTaken (k : Nat) (t : Nat) : Encoding.Statement (.tickTaken k t) := by intro _ s cw hc; cases hc

theorem Encoding.threadPark (k : Nat) (t : Nat) (since : Nat) : Encoding.Statement (.threadPark k t since) := by intro _ s cw hc; cases hc

theorem Encoding.swaitExpiry (k : Nat) (t : Nat) (upto : Nat) : Encoding.Statement (.swaitExpiry k t upto) := by intro _ s cw hc; cases hc

theorem Encoding.idleWake (k : Nat) (t : Nat) (since : Nat) : Encoding.Statement (.idleWake k t since) := by intro _ s cw hc; cases hc

theorem Encoding.mailboxArrival (d : Nat) (msg : Message) : Encoding.Statement (.mailboxArrival d msg) := by intro _ s cw hc; cases hc

theorem Encoding.tileResume (k : Nat) (fill : Nat) : Encoding.Statement (.tileResume k fill) := by intro _ s cw hc; cases hc

theorem Encoding.engineRetry (kind : Nat) (id : Nat) : Encoding.Statement (.engineRetry kind id) := by intro _ s cw hc; cases hc

theorem Encoding.gangStop (lid : Nat) (why : Nat) : Encoding.Statement (.gangStop lid why) := by intro _ s cw hc; cases hc

theorem Encoding.contextSave (lid : Nat) : Encoding.Statement (.contextSave lid) := by intro _ s cw hc; cases hc

theorem Encoding.contextRestore (lid : Nat) : Encoding.Statement (.contextRestore lid) := by intro _ s cw hc; cases hc

theorem Encoding.undoLogDrain (k : Nat) (share : Nat) : Encoding.Statement (.undoLogDrain k share) := by intro _ s cw hc; cases hc

theorem Encoding.groupUndoDrain (g : Nat) : Encoding.Statement (.groupUndoDrain g) := by intro _ s cw hc; cases hc

theorem Encoding.saveSeal (emergency : Nat) : Encoding.Statement (.saveSeal emergency) := by intro _ s cw hc; cases hc

theorem Encoding.emergencyTimeout (p : Nat) (since : Nat) : Encoding.Statement (.emergencyTimeout p since) := by intro _ s cw hc; cases hc

theorem Encoding.escrowAck (p : Nat) (x : Nat) : Encoding.Statement (.escrowAck p x) := by intro _ s cw hc; cases hc

theorem Encoding.uncorrectableFault (unit : Nat) (index : Nat) (place : Nat) : Encoding.Statement (.uncorrectableFault unit index place) := by intro _ s cw hc; cases hc

theorem Encoding.rollbackDone (code : BitVec 32) (origin : BitVec 32) : Encoding.Statement (.rollbackDone code origin) := by intro _ s cw hc; cases hc

theorem Encoding.tileRetire (k : Nat) : Encoding.Statement (.tileRetire k) := by intro _ s cw hc; cases hc

theorem Encoding.finalExchange (lid : Nat) (lvl : Nat) (inst : Nat) : Encoding.Statement (.finalExchange lid lvl inst) := by intro _ s cw hc; cases hc

theorem Encoding.completionReport (lid : Nat) (lvl : Nat) (inst : Nat) : Encoding.Statement (.completionReport lid lvl inst) := by intro _ s cw hc; cases hc

theorem Encoding.completionCommit (lid : Nat) : Encoding.Statement (.completionCommit lid) := by intro _ s cw hc; cases hc

theorem Encoding.launchComplete (lid : Nat) : Encoding.Statement (.launchComplete lid) := by intro _ s cw hc; cases hc

theorem Encoding.completionAdd (lid : Nat) : Encoding.Statement (.completionAdd lid) := by intro _ s cw hc; cases hc

theorem Encoding.completionAddDone (lid : Nat) : Encoding.Statement (.completionAddDone lid) := by intro _ s cw hc; cases hc

theorem Encoding.rampTick : Encoding.Statement .rampTick := by intro _ s cw hc; cases hc

theorem Encoding.telemetryTick : Encoding.Statement .telemetryTick := by intro _ s cw hc; cases hc

theorem Encoding.overtempWarning (p : Nat) : Encoding.Statement (.overtempWarning p) := by intro _ s cw hc; cases hc

theorem Encoding.thermalShutdown (p : Nat) : Encoding.Statement (.thermalShutdown p) := by intro _ s cw hc; cases hc

theorem Encoding.coldReset : Encoding.Statement .coldReset := by intro _ s cw hc; cases hc

theorem Encoding.warmReset : Encoding.Statement .warmReset := by intro _ s cw hc; cases hc

theorem Encoding.repairLearned (d : Nat) (col : Nat) : Encoding.Statement (.repairLearned d col) := by intro _ s cw hc; cases hc

theorem Encoding.repairCommit (d : Nat) (col : Nat) : Encoding.Statement (.repairCommit d col) := by intro _ s cw hc; cases hc

theorem Encoding.boot (p : Nat) (image : List (BitVec 8)) (text : List (BitVec 8)) (lc : Nat) (nthr : Nat) : Encoding.Statement (.boot p image text lc nthr) := by intro _ s cw hc; cases hc

theorem Encoding.spdmRequest (p : Nat) (req : List (BitVec 8)) : Encoding.Statement (.spdmRequest p req) := by intro _ s cw hc; cases hc

theorem Encoding.cxlMemAccess (p : Nat) (write : Bool) (a : Nat) (bytes : List (BitVec 8)) : Encoding.Statement (.cxlMemAccess p write a bytes) := by intro _ s cw hc; cases hc

theorem Encoding.managementWrite (p : Nat) (off : Nat) (v : BitVec 64) (trusted : Bool) : Encoding.Statement (.managementWrite p off v trusted) := by intro _ s cw hc; cases hc

theorem Encoding.mgLinkctl (p : Nat) (v : BitVec 64) (trusted : Bool) : Encoding.Statement (.mgLinkctl p v trusted) := by intro _ s cw hc; cases hc

theorem Encoding.mgBbctl (p : Nat) (v : BitVec 64) (trusted : Bool) : Encoding.Statement (.mgBbctl p v trusted) := by intro _ s cw hc; cases hc

theorem Encoding.mgPod (v : PkgWrite) (trusted : Bool) : Encoding.Statement (.mgPod v trusted) := by intro _ s cw hc; cases hc

theorem Encoding.unassignedWord (w : BitVec 32) : Encoding.Statement (.unassignedWord w) := by intro _ s cw hc; cases hc

theorem Encoding.trainingPatternArrival (p : Nat) (l : Pattern) : Encoding.Statement (.trainingPatternArrival p l) := by intro _ s cw hc; cases hc

theorem Encoding.switchFailure (lvl : Nat) (index : Nat) : Encoding.Statement (.switchFailure lvl index) := by intro _ s cw hc; cases hc

theorem Encoding.translationInvalidation (kind : Nat) (index : Nat) (ctx : Nat) (page : Nat) : Encoding.Statement (.translationInvalidation kind index ctx page) := by intro _ s cw hc; cases hc

theorem Encoding.scSeta (imm : BitVec 32) (h : BitVec 16) (z : BitVec 1) (g : BitVec 2) (f : BitVec 4) : Encoding.Statement (.scSeta imm h z g f) := by
  intro hw s cw hc
  obtain rfl : Code.command (packC 0x01#6 f g z 0#3 h imm) = cw := Option.some.inj hc
  simp [decode, decodeCommand, needCommand, hw]

theorem Encoding.scSetb (imm : BitVec 32) (h : BitVec 16) (kind : BitVec 3) (z : BitVec 1) (g : BitVec 2) (f : BitVec 4) : Encoding.Statement (.scSetb imm h kind z g f) := by
  intro hw s cw hc
  obtain rfl : Code.command (packC 0x02#6 f g z kind h imm) = cw := Option.some.inj hc
  simp [decode, decodeCommand, needCommand, hw]

theorem Encoding.scMove (n : BitVec 20) : Encoding.Statement (.scMove n) := by
  intro hw s cw hc
  obtain rfl : Code.command (packC 0x03#6 0#4 0#2 0#1 0#3 0#16 (0#12 ++ n)) = cw := Option.some.inj hc
  simp [decode, decodeCommand, needCommand, hw]

theorem Encoding.scMoveq (n : BitVec 20) (mode : BitVec 2) (f : BitVec 4) : Encoding.Statement (.scMoveq n mode f) := by
  intro hw s cw hc
  obtain rfl : Code.command (packC 0x04#6 f 0#2 0#1 0#3 (0#14 ++ mode) (0#12 ++ n)) = cw := Option.some.inj hc
  simp [decode, decodeCommand, needCommand, hw]

theorem Encoding.scLoop (imm : BitVec 32) (z : BitVec 1) (g : BitVec 2) (f : BitVec 4) : Encoding.Statement (.scLoop imm z g f) := by
  intro hw s cw hc
  obtain rfl : Code.command (packC 0x05#6 f g z 0#3 0#16 imm) = cw := Option.some.inj hc
  simp [decode, decodeCommand, needCommand, hw]

theorem Encoding.scNext (t : BitVec 16) (f : BitVec 4) : Encoding.Statement (.scNext t f) := by
  intro hw s cw hc
  obtain rfl : Code.command (packC 0x06#6 f 0#2 0#1 0#3 0#16 (0#16 ++ t)) = cw := Option.some.inj hc
  simp [decode, decodeCommand, needCommand, hw]

theorem Encoding.scWaitp : Encoding.Statement .scWaitp := by
  intro hw s cw hc
  obtain rfl : Code.command (packC 0x07#6 0#4 0#2 0#1 0#3 0#16 0#32) = cw := Option.some.inj hc
  rfl

theorem Encoding.scArrive : Encoding.Statement .scArrive := by
  intro hw s cw hc
  obtain rfl : Code.command (packC 0x08#6 0#4 0#2 0#1 0#3 0#16 0#32) = cw := Option.some.inj hc
  rfl

theorem Encoding.scBarr (imm : BitVec 32) (z : BitVec 1) (g : BitVec 2) (f : BitVec 4) : Encoding.Statement (.scBarr imm z g f) := by
  intro hw s cw hc
  obtain rfl : Code.command (packC 0x09#6 f g z 0#3 0#16 imm) = cw := Option.some.inj hc
  simp [decode, decodeCommand, needCommand, hw]

theorem Encoding.scJump (t : BitVec 16) : Encoding.Statement (.scJump t) := by
  intro hw s cw hc
  obtain rfl : Code.command (packC 0x0A#6 0#4 0#2 0#1 0#3 0#16 (0#16 ++ t)) = cw := Option.some.inj hc
  simp [decode, decodeCommand, needCommand, hw]

theorem Encoding.scEnd : Encoding.Statement .scEnd := by
  intro hw s cw hc
  obtain rfl : Code.command (packC 0x0B#6 0#4 0#2 0#1 0#3 0#16 0#32) = cw := Option.some.inj hc
  rfl

theorem Encoding.nop : Encoding.Statement .nop := by
  intro hw s cw hc
  obtain rfl : Code.w32 (packI 0x0#12 0x0#5 0x0#5 0x0#6 s) = cw := Option.some.inj hc
  exact Encoding.of_word _ _ _ hw (by simp) (by simp) (by simp [decodeOperands, decodeSys, need])

theorem Encoding.halt : Encoding.Statement .halt := by
  intro hw s cw hc
  obtain rfl : Code.w32 (packI 0x0#12 0x1#5 0x0#5 0x0#6 s) = cw := Option.some.inj hc
  exact Encoding.of_word _ _ _ hw (by simp) (by simp) (by simp [decodeOperands, decodeSys, need])

theorem Encoding.trap (c : BitVec 12) : Encoding.Statement (.trap c) := by
  intro hw s cw hc
  obtain rfl : Code.w32 (packI c 0x2#5 0x0#5 0x0#6 s) = cw := Option.some.inj hc
  exact Encoding.of_word _ _ _ hw (by simp) (by simp) (by simp [decodeOperands, decodeSys, need])

theorem Encoding.eret : Encoding.Statement .eret := by
  intro hw s cw hc
  obtain rfl : Code.w32 (packI 0x0#12 0x3#5 0x0#5 0x0#6 s) = cw := Option.some.inj hc
  exact Encoding.of_word _ _ _ hw (by simp) (by simp) (by simp [decodeOperands, decodeSys, need])

theorem Encoding.mfsr (d : BitVec 5) (n : BitVec 12) : Encoding.Statement (.mfsr d n) := by
  intro hw s cw hc
  obtain rfl : Code.w32 (packI n 0x4#5 d 0x0#6 s) = cw := Option.some.inj hc
  exact Encoding.of_word _ _ _ hw (by simp) (by simp) (by simp [decodeOperands, decodeSys, need])

theorem Encoding.mtsr (a : BitVec 5) (n : BitVec 12) : Encoding.Statement (.mtsr a n) := by
  intro hw s cw hc
  obtain rfl : Code.w32 (packI n 0x5#5 a 0x0#6 s) = cw := Option.some.inj hc
  exact Encoding.of_word _ _ _ hw (by simp) (by simp) (by simp [decodeOperands, decodeSys, need])

theorem Encoding.swait (a : BitVec 5) : Encoding.Statement (.swait a) := by
  intro hw s cw hc
  obtain rfl : Code.w32 (packI 0x0#12 0x6#5 a 0x0#6 s) = cw := Option.some.inj hc
  exact Encoding.of_word _ _ _ hw (by simp) (by simp) (by simp [decodeOperands, decodeSys, need])

theorem Encoding.wsave : Encoding.Statement .wsave := by
  intro hw s cw hc
  obtain rfl : Code.w32 (packI 0x0#12 0x7#5 0x0#5 0x0#6 s) = cw := Option.some.inj hc
  exact Encoding.of_word _ _ _ hw (by simp) (by simp) (by simp [decodeOperands, decodeSys, need])

theorem Encoding.wrest : Encoding.Statement .wrest := by
  intro hw s cw hc
  obtain rfl : Code.w32 (packI 0x0#12 0x8#5 0x0#5 0x0#6 s) = cw := Option.some.inj hc
  exact Encoding.of_word _ _ _ hw (by simp) (by simp) (by simp [decodeOperands, decodeSys, need])

theorem Encoding.mbxrd (d : BitVec 5) (w : BitVec 1) : Encoding.Statement (.mbxrd d w) := by
  intro hw s cw hc
  obtain rfl : Code.w32 (packI (0x0#11 ++ w) 0x10#5 d 0x0#6 s) = cw := Option.some.inj hc
  exact Encoding.of_word _ _ _ hw (by simp) (by simp) (by simp [decodeOperands, decodeSys, need])

theorem Encoding.mbxpost (a : BitVec 5) : Encoding.Statement (.mbxpost a) := by
  intro hw s cw hc
  obtain rfl : Code.w32 (packI 0x0#12 0x11#5 a 0x0#6 s) = cw := Option.some.inj hc
  exact Encoding.of_word _ _ _ hw (by simp) (by simp) (by simp [decodeOperands, decodeSys, need])

theorem Encoding.xresume (a : BitVec 5) : Encoding.Statement (.xresume a) := by
  intro hw s cw hc
  obtain rfl : Code.w32 (packI 0x0#12 0x12#5 a 0x0#6 s) = cw := Option.some.inj hc
  exact Encoding.of_word _ _ _ hw (by simp) (by simp) (by simp [decodeOperands, decodeSys, need])

theorem Encoding.gstop (a : BitVec 5) : Encoding.Statement (.gstop a) := by
  intro hw s cw hc
  obtain rfl : Code.w32 (packI 0x0#12 0x13#5 a 0x0#6 s) = cw := Option.some.inj hc
  exact Encoding.of_word _ _ _ hw (by simp) (by simp) (by simp [decodeOperands, decodeSys, need])

theorem Encoding.gstopRelease (a : BitVec 5) : Encoding.Statement (.gstopRelease a) := by
  intro hw s cw hc
  obtain rfl : Code.w32 (packI 0x1#12 0x13#5 a 0x0#6 s) = cw := Option.some.inj hc
  exact Encoding.of_word _ _ _ hw (by simp) (by simp) (by simp [decodeOperands, decodeSys, need])

theorem Encoding.unpark (a : BitVec 5) : Encoding.Statement (.unpark a) := by
  intro hw s cw hc
  obtain rfl : Code.w32 (packI 0x0#12 0x14#5 a 0x0#6 s) = cw := Option.some.inj hc
  exact Encoding.of_word _ _ _ hw (by simp) (by simp) (by simp [decodeOperands, decodeSys, need])

theorem Encoding.idle (a : BitVec 5) : Encoding.Statement (.idle a) := by
  intro hw s cw hc
  obtain rfl : Code.w32 (packI 0x0#12 0x15#5 a 0x0#6 s) = cw := Option.some.inj hc
  exact Encoding.of_word _ _ _ hw (by simp) (by simp) (by simp [decodeOperands, decodeSys, need])

theorem Encoding.add (d : BitVec 5) (a : BitVec 5) (b : BitVec 5) : Encoding.Statement (.add d a b) := by
  intro hw s cw hc
  obtain rfl : Code.w32 (packR 0x0#7 b a d 0x1#6 s) = cw := Option.some.inj hc
  exact Encoding.of_word _ _ _ hw (by simp) (by simp) (by simp [decodeOperands, decodeAlu, need])

theorem Encoding.sub (d : BitVec 5) (a : BitVec 5) (b : BitVec 5) : Encoding.Statement (.sub d a b) := by
  intro hw s cw hc
  obtain rfl : Code.w32 (packR 0x1#7 b a d 0x1#6 s) = cw := Option.some.inj hc
  exact Encoding.of_word _ _ _ hw (by simp) (by simp) (by simp [decodeOperands, decodeAlu, need])

theorem Encoding.addw (d : BitVec 5) (a : BitVec 5) (b : BitVec 5) : Encoding.Statement (.addw d a b) := by
  intro hw s cw hc
  obtain rfl : Code.w32 (packR 0x2#7 b a d 0x1#6 s) = cw := Option.some.inj hc
  exact Encoding.of_word _ _ _ hw (by simp) (by simp) (by simp [decodeOperands, decodeAlu, need])

theorem Encoding.subw (d : BitVec 5) (a : BitVec 5) (b : BitVec 5) : Encoding.Statement (.subw d a b) := by
  intro hw s cw hc
  obtain rfl : Code.w32 (packR 0x3#7 b a d 0x1#6 s) = cw := Option.some.inj hc
  exact Encoding.of_word _ _ _ hw (by simp) (by simp) (by simp [decodeOperands, decodeAlu, need])

theorem Encoding.and (d : BitVec 5) (a : BitVec 5) (b : BitVec 5) : Encoding.Statement (.and d a b) := by
  intro hw s cw hc
  obtain rfl : Code.w32 (packR 0x4#7 b a d 0x1#6 s) = cw := Option.some.inj hc
  exact Encoding.of_word _ _ _ hw (by simp) (by simp) (by simp [decodeOperands, decodeAlu, need])

theorem Encoding.or (d : BitVec 5) (a : BitVec 5) (b : BitVec 5) : Encoding.Statement (.or d a b) := by
  intro hw s cw hc
  obtain rfl : Code.w32 (packR 0x5#7 b a d 0x1#6 s) = cw := Option.some.inj hc
  exact Encoding.of_word _ _ _ hw (by simp) (by simp) (by simp [decodeOperands, decodeAlu, need])

theorem Encoding.xor (d : BitVec 5) (a : BitVec 5) (b : BitVec 5) : Encoding.Statement (.xor d a b) := by
  intro hw s cw hc
  obtain rfl : Code.w32 (packR 0x6#7 b a d 0x1#6 s) = cw := Option.some.inj hc
  exact Encoding.of_word _ _ _ hw (by simp) (by simp) (by simp [decodeOperands, decodeAlu, need])

theorem Encoding.andn (d : BitVec 5) (a : BitVec 5) (b : BitVec 5) : Encoding.Statement (.andn d a b) := by
  intro hw s cw hc
  obtain rfl : Code.w32 (packR 0x7#7 b a d 0x1#6 s) = cw := Option.some.inj hc
  exact Encoding.of_word _ _ _ hw (by simp) (by simp) (by simp [decodeOperands, decodeAlu, need])

theorem Encoding.sll (d : BitVec 5) (a : BitVec 5) (b : BitVec 5) : Encoding.Statement (.sll d a b) := by
  intro hw s cw hc
  obtain rfl : Code.w32 (packR 0x8#7 b a d 0x1#6 s) = cw := Option.some.inj hc
  exact Encoding.of_word _ _ _ hw (by simp) (by simp) (by simp [decodeOperands, decodeAlu, need])

theorem Encoding.srl (d : BitVec 5) (a : BitVec 5) (b : BitVec 5) : Encoding.Statement (.srl d a b) := by
  intro hw s cw hc
  obtain rfl : Code.w32 (packR 0x9#7 b a d 0x1#6 s) = cw := Option.some.inj hc
  exact Encoding.of_word _ _ _ hw (by simp) (by simp) (by simp [decodeOperands, decodeAlu, need])

theorem Encoding.sra (d : BitVec 5) (a : BitVec 5) (b : BitVec 5) : Encoding.Statement (.sra d a b) := by
  intro hw s cw hc
  obtain rfl : Code.w32 (packR 0xA#7 b a d 0x1#6 s) = cw := Option.some.inj hc
  exact Encoding.of_word _ _ _ hw (by simp) (by simp) (by simp [decodeOperands, decodeAlu, need])

theorem Encoding.mul (d : BitVec 5) (a : BitVec 5) (b : BitVec 5) : Encoding.Statement (.mul d a b) := by
  intro hw s cw hc
  obtain rfl : Code.w32 (packR 0xB#7 b a d 0x1#6 s) = cw := Option.some.inj hc
  exact Encoding.of_word _ _ _ hw (by simp) (by simp) (by simp [decodeOperands, decodeAlu, need])

theorem Encoding.mulw (d : BitVec 5) (a : BitVec 5) (b : BitVec 5) : Encoding.Statement (.mulw d a b) := by
  intro hw s cw hc
  obtain rfl : Code.w32 (packR 0xC#7 b a d 0x1#6 s) = cw := Option.some.inj hc
  exact Encoding.of_word _ _ _ hw (by simp) (by simp) (by simp [decodeOperands, decodeAlu, need])

theorem Encoding.mulh (d : BitVec 5) (a : BitVec 5) (b : BitVec 5) : Encoding.Statement (.mulh d a b) := by
  intro hw s cw hc
  obtain rfl : Code.w32 (packR 0xD#7 b a d 0x1#6 s) = cw := Option.some.inj hc
  exact Encoding.of_word _ _ _ hw (by simp) (by simp) (by simp [decodeOperands, decodeAlu, need])

theorem Encoding.mulhu (d : BitVec 5) (a : BitVec 5) (b : BitVec 5) : Encoding.Statement (.mulhu d a b) := by
  intro hw s cw hc
  obtain rfl : Code.w32 (packR 0xE#7 b a d 0x1#6 s) = cw := Option.some.inj hc
  exact Encoding.of_word _ _ _ hw (by simp) (by simp) (by simp [decodeOperands, decodeAlu, need])

theorem Encoding.div (d : BitVec 5) (a : BitVec 5) (b : BitVec 5) : Encoding.Statement (.div d a b) := by
  intro hw s cw hc
  obtain rfl : Code.w32 (packR 0xF#7 b a d 0x1#6 s) = cw := Option.some.inj hc
  exact Encoding.of_word _ _ _ hw (by simp) (by simp) (by simp [decodeOperands, decodeAlu, need])

theorem Encoding.divu (d : BitVec 5) (a : BitVec 5) (b : BitVec 5) : Encoding.Statement (.divu d a b) := by
  intro hw s cw hc
  obtain rfl : Code.w32 (packR 0x10#7 b a d 0x1#6 s) = cw := Option.some.inj hc
  exact Encoding.of_word _ _ _ hw (by simp) (by simp) (by simp [decodeOperands, decodeAlu, need])

theorem Encoding.rem (d : BitVec 5) (a : BitVec 5) (b : BitVec 5) : Encoding.Statement (.rem d a b) := by
  intro hw s cw hc
  obtain rfl : Code.w32 (packR 0x11#7 b a d 0x1#6 s) = cw := Option.some.inj hc
  exact Encoding.of_word _ _ _ hw (by simp) (by simp) (by simp [decodeOperands, decodeAlu, need])

theorem Encoding.remu (d : BitVec 5) (a : BitVec 5) (b : BitVec 5) : Encoding.Statement (.remu d a b) := by
  intro hw s cw hc
  obtain rfl : Code.w32 (packR 0x12#7 b a d 0x1#6 s) = cw := Option.some.inj hc
  exact Encoding.of_word _ _ _ hw (by simp) (by simp) (by simp [decodeOperands, decodeAlu, need])

theorem Encoding.min (d : BitVec 5) (a : BitVec 5) (b : BitVec 5) : Encoding.Statement (.min d a b) := by
  intro hw s cw hc
  obtain rfl : Code.w32 (packR 0x13#7 b a d 0x1#6 s) = cw := Option.some.inj hc
  exact Encoding.of_word _ _ _ hw (by simp) (by simp) (by simp [decodeOperands, decodeAlu, need])

theorem Encoding.max (d : BitVec 5) (a : BitVec 5) (b : BitVec 5) : Encoding.Statement (.max d a b) := by
  intro hw s cw hc
  obtain rfl : Code.w32 (packR 0x14#7 b a d 0x1#6 s) = cw := Option.some.inj hc
  exact Encoding.of_word _ _ _ hw (by simp) (by simp) (by simp [decodeOperands, decodeAlu, need])

theorem Encoding.minu (d : BitVec 5) (a : BitVec 5) (b : BitVec 5) : Encoding.Statement (.minu d a b) := by
  intro hw s cw hc
  obtain rfl : Code.w32 (packR 0x15#7 b a d 0x1#6 s) = cw := Option.some.inj hc
  exact Encoding.of_word _ _ _ hw (by simp) (by simp) (by simp [decodeOperands, decodeAlu, need])

theorem Encoding.maxu (d : BitVec 5) (a : BitVec 5) (b : BitVec 5) : Encoding.Statement (.maxu d a b) := by
  intro hw s cw hc
  obtain rfl : Code.w32 (packR 0x16#7 b a d 0x1#6 s) = cw := Option.some.inj hc
  exact Encoding.of_word _ _ _ hw (by simp) (by simp) (by simp [decodeOperands, decodeAlu, need])

theorem Encoding.seq (d : BitVec 5) (a : BitVec 5) (b : BitVec 5) : Encoding.Statement (.seq d a b) := by
  intro hw s cw hc
  obtain rfl : Code.w32 (packR 0x17#7 b a d 0x1#6 s) = cw := Option.some.inj hc
  exact Encoding.of_word _ _ _ hw (by simp) (by simp) (by simp [decodeOperands, decodeAlu, need])

theorem Encoding.slt (d : BitVec 5) (a : BitVec 5) (b : BitVec 5) : Encoding.Statement (.slt d a b) := by
  intro hw s cw hc
  obtain rfl : Code.w32 (packR 0x18#7 b a d 0x1#6 s) = cw := Option.some.inj hc
  exact Encoding.of_word _ _ _ hw (by simp) (by simp) (by simp [decodeOperands, decodeAlu, need])

theorem Encoding.sltu (d : BitVec 5) (a : BitVec 5) (b : BitVec 5) : Encoding.Statement (.sltu d a b) := by
  intro hw s cw hc
  obtain rfl : Code.w32 (packR 0x19#7 b a d 0x1#6 s) = cw := Option.some.inj hc
  exact Encoding.of_word _ _ _ hw (by simp) (by simp) (by simp [decodeOperands, decodeAlu, need])

theorem Encoding.clz (d : BitVec 5) (a : BitVec 5) : Encoding.Statement (.clz d a) := by
  intro hw s cw hc
  obtain rfl : Code.w32 (packR 0x1A#7 0x0#5 a d 0x1#6 s) = cw := Option.some.inj hc
  exact Encoding.of_word _ _ _ hw (by simp) (by simp) (by simp [decodeOperands, decodeAlu, need])

theorem Encoding.ctz (d : BitVec 5) (a : BitVec 5) : Encoding.Statement (.ctz d a) := by
  intro hw s cw hc
  obtain rfl : Code.w32 (packR 0x1B#7 0x0#5 a d 0x1#6 s) = cw := Option.some.inj hc
  exact Encoding.of_word _ _ _ hw (by simp) (by simp) (by simp [decodeOperands, decodeAlu, need])

theorem Encoding.popc (d : BitVec 5) (a : BitVec 5) : Encoding.Statement (.popc d a) := by
  intro hw s cw hc
  obtain rfl : Code.w32 (packR 0x1C#7 0x0#5 a d 0x1#6 s) = cw := Option.some.inj hc
  exact Encoding.of_word _ _ _ hw (by simp) (by simp) (by simp [decodeOperands, decodeAlu, need])

theorem Encoding.sextb (d : BitVec 5) (a : BitVec 5) : Encoding.Statement (.sextb d a) := by
  intro hw s cw hc
  obtain rfl : Code.w32 (packR 0x1D#7 0x0#5 a d 0x1#6 s) = cw := Option.some.inj hc
  exact Encoding.of_word _ _ _ hw (by simp) (by simp) (by simp [decodeOperands, decodeAlu, need])

theorem Encoding.sexth (d : BitVec 5) (a : BitVec 5) : Encoding.Statement (.sexth d a) := by
  intro hw s cw hc
  obtain rfl : Code.w32 (packR 0x1E#7 0x0#5 a d 0x1#6 s) = cw := Option.some.inj hc
  exact Encoding.of_word _ _ _ hw (by simp) (by simp) (by simp [decodeOperands, decodeAlu, need])

theorem Encoding.sextw (d : BitVec 5) (a : BitVec 5) : Encoding.Statement (.sextw d a) := by
  intro hw s cw hc
  obtain rfl : Code.w32 (packR 0x1F#7 0x0#5 a d 0x1#6 s) = cw := Option.some.inj hc
  exact Encoding.of_word _ _ _ hw (by simp) (by simp) (by simp [decodeOperands, decodeAlu, need])

theorem Encoding.zextb (d : BitVec 5) (a : BitVec 5) : Encoding.Statement (.zextb d a) := by
  intro hw s cw hc
  obtain rfl : Code.w32 (packR 0x20#7 0x0#5 a d 0x1#6 s) = cw := Option.some.inj hc
  exact Encoding.of_word _ _ _ hw (by simp) (by simp) (by simp [decodeOperands, decodeAlu, need])

theorem Encoding.zexth (d : BitVec 5) (a : BitVec 5) : Encoding.Statement (.zexth d a) := by
  intro hw s cw hc
  obtain rfl : Code.w32 (packR 0x21#7 0x0#5 a d 0x1#6 s) = cw := Option.some.inj hc
  exact Encoding.of_word _ _ _ hw (by simp) (by simp) (by simp [decodeOperands, decodeAlu, need])

theorem Encoding.zextw (d : BitVec 5) (a : BitVec 5) : Encoding.Statement (.zextw d a) := by
  intro hw s cw hc
  obtain rfl : Code.w32 (packR 0x22#7 0x0#5 a d 0x1#6 s) = cw := Option.some.inj hc
  exact Encoding.of_word _ _ _ hw (by simp) (by simp) (by simp [decodeOperands, decodeAlu, need])

theorem Encoding.addi (d : BitVec 5) (a : BitVec 5) (i : BitVec 12) : Encoding.Statement (.addi d a i) := by
  intro hw s cw hc
  obtain rfl : Code.w32 (packI i a d 0x2#6 s) = cw := Option.some.inj hc
  exact Encoding.of_word _ _ _ hw (by simp) (by simp) (by simp [decodeOperands, need])

theorem Encoding.andi (d : BitVec 5) (a : BitVec 5) (i : BitVec 12) : Encoding.Statement (.andi d a i) := by
  intro hw s cw hc
  obtain rfl : Code.w32 (packI i a d 0x3#6 s) = cw := Option.some.inj hc
  exact Encoding.of_word _ _ _ hw (by simp) (by simp) (by simp [decodeOperands, need])

theorem Encoding.ori (d : BitVec 5) (a : BitVec 5) (i : BitVec 12) : Encoding.Statement (.ori d a i) := by
  intro hw s cw hc
  obtain rfl : Code.w32 (packI i a d 0x4#6 s) = cw := Option.some.inj hc
  exact Encoding.of_word _ _ _ hw (by simp) (by simp) (by simp [decodeOperands, need])

theorem Encoding.xori (d : BitVec 5) (a : BitVec 5) (i : BitVec 12) : Encoding.Statement (.xori d a i) := by
  intro hw s cw hc
  obtain rfl : Code.w32 (packI i a d 0x5#6 s) = cw := Option.some.inj hc
  exact Encoding.of_word _ _ _ hw (by simp) (by simp) (by simp [decodeOperands, need])

theorem Encoding.slti (d : BitVec 5) (a : BitVec 5) (i : BitVec 11) : Encoding.Statement (.slti d a i) := by
  intro hw s cw hc
  obtain rfl : Code.w32 (packI (0x0#1 ++ i) a d 0x6#6 s) = cw := Option.some.inj hc
  exact Encoding.of_word _ _ _ hw (by simp) (by simp) (by simp [decodeOperands, decodeCompareImm, need])

theorem Encoding.sltiu (d : BitVec 5) (a : BitVec 5) (i : BitVec 11) : Encoding.Statement (.sltiu d a i) := by
  intro hw s cw hc
  obtain rfl : Code.w32 (packI (0x1#1 ++ i) a d 0x6#6 s) = cw := Option.some.inj hc
  exact Encoding.of_word _ _ _ hw (by simp) (by simp) (by simp [decodeOperands, decodeCompareImm, need])

theorem Encoding.slli (d : BitVec 5) (a : BitVec 5) (h : BitVec 6) : Encoding.Statement (.slli d a h) := by
  intro hw s cw hc
  obtain rfl : Code.w32 (packI (0x0#6 ++ h) a d 0x7#6 s) = cw := Option.some.inj hc
  exact Encoding.of_word _ _ _ hw (by simp) (by simp) (by simp [decodeOperands, decodeShiftImm, need])

theorem Encoding.srli (d : BitVec 5) (a : BitVec 5) (h : BitVec 6) : Encoding.Statement (.srli d a h) := by
  intro hw s cw hc
  obtain rfl : Code.w32 (packI (0x1#6 ++ h) a d 0x7#6 s) = cw := Option.some.inj hc
  exact Encoding.of_word _ _ _ hw (by simp) (by simp) (by simp [decodeOperands, decodeShiftImm, need])

theorem Encoding.srai (d : BitVec 5) (a : BitVec 5) (h : BitVec 6) : Encoding.Statement (.srai d a h) := by
  intro hw s cw hc
  obtain rfl : Code.w32 (packI (0x2#6 ++ h) a d 0x7#6 s) = cw := Option.some.inj hc
  exact Encoding.of_word _ _ _ hw (by simp) (by simp) (by simp [decodeOperands, decodeShiftImm, need])

theorem Encoding.ldi (d : BitVec 5) (i : BitVec 17) : Encoding.Statement (.ldi d i) := by
  intro hw s cw hc
  obtain rfl : Code.w32 (packU i d 0x8#6 s) = cw := Option.some.inj hc
  exact Encoding.of_word _ _ _ hw (by simp) (by simp) (by simp [decodeOperands, need])

theorem Encoding.ldih (d : BitVec 5) (i : BitVec 17) : Encoding.Statement (.ldih d i) := by
  intro hw s cw hc
  obtain rfl : Code.w32 (packU i d 0x9#6 s) = cw := Option.some.inj hc
  exact Encoding.of_word _ _ _ hw (by simp) (by simp) (by simp [decodeOperands, need])

theorem Encoding.bfx (d : BitVec 5) (a : BitVec 5) (b : BitVec 5) : Encoding.Statement (.bfx d a b) := by
  intro hw s cw hc
  obtain rfl : Code.w32 (packR 0x0#7 b a d 0xA#6 s) = cw := Option.some.inj hc
  exact Encoding.of_word _ _ _ hw (by simp) (by simp) (by simp [decodeOperands, decodeBitField, need])

theorem Encoding.bfxu (d : BitVec 5) (a : BitVec 5) (b : BitVec 5) : Encoding.Statement (.bfxu d a b) := by
  intro hw s cw hc
  obtain rfl : Code.w32 (packR 0x1#7 b a d 0xA#6 s) = cw := Option.some.inj hc
  exact Encoding.of_word _ _ _ hw (by simp) (by simp) (by simp [decodeOperands, decodeBitField, need])

theorem Encoding.bfi (d : BitVec 5) (a : BitVec 5) (b : BitVec 5) : Encoding.Statement (.bfi d a b) := by
  intro hw s cw hc
  obtain rfl : Code.w32 (packR 0x2#7 b a d 0xA#6 s) = cw := Option.some.inj hc
  exact Encoding.of_word _ _ _ hw (by simp) (by simp) (by simp [decodeOperands, decodeBitField, need])

theorem Encoding.csel (d : BitVec 5) (a : BitVec 5) (b : BitVec 5) (c : BitVec 5) : Encoding.Statement (.csel d a b c) := by
  intro hw s cw hc
  obtain rfl : Code.w32 (packR (0x0#2 ++ c) b a d 0xB#6 s) = cw := Option.some.inj hc
  exact Encoding.of_word _ _ _ hw (by simp) (by simp) (by simp [decodeOperands, decodeSelect, need])

theorem Encoding.cseln (d : BitVec 5) (a : BitVec 5) (b : BitVec 5) (c : BitVec 5) : Encoding.Statement (.cseln d a b c) := by
  intro hw s cw hc
  obtain rfl : Code.w32 (packR (0x1#2 ++ c) b a d 0xB#6 s) = cw := Option.some.inj hc
  exact Encoding.of_word _ _ _ hw (by simp) (by simp) (by simp [decodeOperands, decodeSelect, need])

theorem Encoding.beq (a : BitVec 5) (b : BitVec 5) (n : BitVec 1) (o : BitVec 11) : Encoding.Statement (.beq a b n o) := by
  intro hw s cw hc
  obtain rfl : Code.w32 (packB o n b a 0xC#6 s) = cw := Option.some.inj hc
  exact Encoding.of_word _ _ _ hw (by simp) (by simp) (by simp [decodeOperands, need])

theorem Encoding.bne (a : BitVec 5) (b : BitVec 5) (n : BitVec 1) (o : BitVec 11) : Encoding.Statement (.bne a b n o) := by
  intro hw s cw hc
  obtain rfl : Code.w32 (packB o n b a 0xD#6 s) = cw := Option.some.inj hc
  exact Encoding.of_word _ _ _ hw (by simp) (by simp) (by simp [decodeOperands, need])

theorem Encoding.blt (a : BitVec 5) (b : BitVec 5) (n : BitVec 1) (o : BitVec 11) : Encoding.Statement (.blt a b n o) := by
  intro hw s cw hc
  obtain rfl : Code.w32 (packB o n b a 0xE#6 s) = cw := Option.some.inj hc
  exact Encoding.of_word _ _ _ hw (by simp) (by simp) (by simp [decodeOperands, need])

theorem Encoding.bge (a : BitVec 5) (b : BitVec 5) (n : BitVec 1) (o : BitVec 11) : Encoding.Statement (.bge a b n o) := by
  intro hw s cw hc
  obtain rfl : Code.w32 (packB o n b a 0xF#6 s) = cw := Option.some.inj hc
  exact Encoding.of_word _ _ _ hw (by simp) (by simp) (by simp [decodeOperands, need])

theorem Encoding.bltu (a : BitVec 5) (b : BitVec 5) (n : BitVec 1) (o : BitVec 11) : Encoding.Statement (.bltu a b n o) := by
  intro hw s cw hc
  obtain rfl : Code.w32 (packB o n b a 0x10#6 s) = cw := Option.some.inj hc
  exact Encoding.of_word _ _ _ hw (by simp) (by simp) (by simp [decodeOperands, need])

theorem Encoding.bgeu (a : BitVec 5) (b : BitVec 5) (n : BitVec 1) (o : BitVec 11) : Encoding.Statement (.bgeu a b n o) := by
  intro hw s cw hc
  obtain rfl : Code.w32 (packB o n b a 0x11#6 s) = cw := Option.some.inj hc
  exact Encoding.of_word _ _ _ hw (by simp) (by simp) (by simp [decodeOperands, need])

theorem Encoding.jmp (j : BitVec 22) : Encoding.Statement (.jmp j) := by
  intro hw s cw hc
  obtain rfl : Code.w32 (packJ j 0x12#6 s) = cw := Option.some.inj hc
  exact Encoding.of_word _ _ _ hw (by simp) (by simp) (by simp [decodeOperands, need])

theorem Encoding.call (j : BitVec 22) : Encoding.Statement (.call j) := by
  intro hw s cw hc
  obtain rfl : Code.w32 (packJ j 0x13#6 s) = cw := Option.some.inj hc
  exact Encoding.of_word _ _ _ hw (by simp) (by simp) (by simp [decodeOperands, need])

theorem Encoding.jr (a : BitVec 5) : Encoding.Statement (.jr a) := by
  intro hw s cw hc
  obtain rfl : Code.w32 (packR 0x0#7 0x0#5 a 0x0#5 0x14#6 s) = cw := Option.some.inj hc
  exact Encoding.of_word _ _ _ hw (by simp) (by simp) (by simp [decodeOperands, decodeJumpReg, need])

theorem Encoding.callr (a : BitVec 5) : Encoding.Statement (.callr a) := by
  intro hw s cw hc
  obtain rfl : Code.w32 (packR 0x1#7 0x0#5 a 0x0#5 0x14#6 s) = cw := Option.some.inj hc
  exact Encoding.of_word _ _ _ hw (by simp) (by simp) (by simp [decodeOperands, decodeJumpReg, need])

theorem Encoding.ret : Encoding.Statement .ret := by
  intro hw s cw hc
  obtain rfl : Code.w32 (packR 0x2#7 0x0#5 0x0#5 0x0#5 0x14#6 s) = cw := Option.some.inj hc
  exact Encoding.of_word _ _ _ hw (by simp) (by simp) (by simp [decodeOperands, decodeJumpReg, need])

theorem Encoding.lnset (a : BitVec 5) (j : BitVec 2) : Encoding.Statement (.lnset a j) := by
  intro hw s cw hc
  obtain rfl : Code.w32 (packR (0x0#5 ++ j) 0x0#5 a 0x0#5 0x15#6 s) = cw := Option.some.inj hc
  exact Encoding.of_word _ _ _ hw (by simp) (by simp) (by simp [decodeOperands, decodeLoopNest, need])

theorem Encoding.lnco (k : BitVec 5) (a : BitVec 5) (j : BitVec 2) : Encoding.Statement (.lnco k a j) := by
  intro hw s cw hc
  obtain rfl : Code.w32 (packR (0x4#5 ++ j) 0x0#5 a k 0x15#6 s) = cw := Option.some.inj hc
  exact Encoding.of_word _ _ _ hw (by simp) (by simp) (by simp [decodeOperands, decodeLoopNest, need])

theorem Encoding.lnbase (k : BitVec 5) (a : BitVec 5) (j : BitVec 2) : Encoding.Statement (.lnbase k a j) := by
  intro hw s cw hc
  obtain rfl : Code.w32 (packR (0x8#5 ++ j) 0x0#5 a k 0x15#6 s) = cw := Option.some.inj hc
  exact Encoding.of_word _ _ _ hw (by simp) (by simp) (by simp [decodeOperands, decodeLoopNest, need])

theorem Encoding.lnidx (a : BitVec 5) (j : BitVec 2) : Encoding.Statement (.lnidx a j) := by
  intro hw s cw hc
  obtain rfl : Code.w32 (packR (0xC#5 ++ j) 0x0#5 a 0x0#5 0x15#6 s) = cw := Option.some.inj hc
  exact Encoding.of_word _ _ _ hw (by simp) (by simp) (by simp [decodeOperands, decodeLoopNest, need])

theorem Encoding.loop (o : BitVec 15) (j : BitVec 2) : Encoding.Statement (.loop o j) := by
  intro hw s cw hc
  obtain rfl : Code.w32 (packL (0x10#5 ++ j) o 0x15#6 s) = cw := Option.some.inj hc
  exact Encoding.of_word _ _ _ hw (by simp) (by simp) (by simp [decodeOperands, decodeLoopNest, need])

theorem Encoding.ldtB (d : BitVec 5) (a : BitVec 5) (i : BitVec 9) : Encoding.Statement (.ldtB d a i) := by
  intro hw s cw hc
  obtain rfl : Code.w32 (packT i 0x0#3 a d 0x16#6 s) = cw := Option.some.inj hc
  exact Encoding.of_word _ _ _ hw (by simp) (by simp) (by simp [decodeOperands, decodeTileLoad, need])

theorem Encoding.ldtBu (d : BitVec 5) (a : BitVec 5) (i : BitVec 9) : Encoding.Statement (.ldtBu d a i) := by
  intro hw s cw hc
  obtain rfl : Code.w32 (packT i 0x1#3 a d 0x16#6 s) = cw := Option.some.inj hc
  exact Encoding.of_word _ _ _ hw (by simp) (by simp) (by simp [decodeOperands, decodeTileLoad, need])

theorem Encoding.ldtH (d : BitVec 5) (a : BitVec 5) (i : BitVec 9) : Encoding.Statement (.ldtH d a i) := by
  intro hw s cw hc
  obtain rfl : Code.w32 (packT i 0x2#3 a d 0x16#6 s) = cw := Option.some.inj hc
  exact Encoding.of_word _ _ _ hw (by simp) (by simp) (by simp [decodeOperands, decodeTileLoad, need])

theorem Encoding.ldtHu (d : BitVec 5) (a : BitVec 5) (i : BitVec 9) : Encoding.Statement (.ldtHu d a i) := by
  intro hw s cw hc
  obtain rfl : Code.w32 (packT i 0x3#3 a d 0x16#6 s) = cw := Option.some.inj hc
  exact Encoding.of_word _ _ _ hw (by simp) (by simp) (by simp [decodeOperands, decodeTileLoad, need])

theorem Encoding.ldtW (d : BitVec 5) (a : BitVec 5) (i : BitVec 9) : Encoding.Statement (.ldtW d a i) := by
  intro hw s cw hc
  obtain rfl : Code.w32 (packT i 0x4#3 a d 0x16#6 s) = cw := Option.some.inj hc
  exact Encoding.of_word _ _ _ hw (by simp) (by simp) (by simp [decodeOperands, decodeTileLoad, need])

theorem Encoding.ldtWu (d : BitVec 5) (a : BitVec 5) (i : BitVec 9) : Encoding.Statement (.ldtWu d a i) := by
  intro hw s cw hc
  obtain rfl : Code.w32 (packT i 0x5#3 a d 0x16#6 s) = cw := Option.some.inj hc
  exact Encoding.of_word _ _ _ hw (by simp) (by simp) (by simp [decodeOperands, decodeTileLoad, need])

theorem Encoding.ldtD (d : BitVec 5) (a : BitVec 5) (i : BitVec 9) : Encoding.Statement (.ldtD d a i) := by
  intro hw s cw hc
  obtain rfl : Code.w32 (packT i 0x6#3 a d 0x16#6 s) = cw := Option.some.inj hc
  exact Encoding.of_word _ _ _ hw (by simp) (by simp) (by simp [decodeOperands, decodeTileLoad, need])

theorem Encoding.ldtBAreg (d : BitVec 5) (k : BitVec 4) : Encoding.Statement (.ldtBAreg d k) := by
  intro hw s cw hc
  obtain rfl : Code.w32 (packT 0x0#9 0x7#3 (0x0#1 ++ k) d 0x16#6 s) = cw := Option.some.inj hc
  exact Encoding.of_word _ _ _ hw (by simp) (by simp) (by simp [decodeOperands, decodeTileLoad, need])

theorem Encoding.ldtBuAreg (d : BitVec 5) (k : BitVec 4) : Encoding.Statement (.ldtBuAreg d k) := by
  intro hw s cw hc
  obtain rfl : Code.w32 (packT 0x1#9 0x7#3 (0x0#1 ++ k) d 0x16#6 s) = cw := Option.some.inj hc
  exact Encoding.of_word _ _ _ hw (by simp) (by simp) (by simp [decodeOperands, decodeTileLoad, need])

theorem Encoding.ldtHAreg (d : BitVec 5) (k : BitVec 4) : Encoding.Statement (.ldtHAreg d k) := by
  intro hw s cw hc
  obtain rfl : Code.w32 (packT 0x2#9 0x7#3 (0x0#1 ++ k) d 0x16#6 s) = cw := Option.some.inj hc
  exact Encoding.of_word _ _ _ hw (by simp) (by simp) (by simp [decodeOperands, decodeTileLoad, need])

theorem Encoding.ldtHuAreg (d : BitVec 5) (k : BitVec 4) : Encoding.Statement (.ldtHuAreg d k) := by
  intro hw s cw hc
  obtain rfl : Code.w32 (packT 0x3#9 0x7#3 (0x0#1 ++ k) d 0x16#6 s) = cw := Option.some.inj hc
  exact Encoding.of_word _ _ _ hw (by simp) (by simp) (by simp [decodeOperands, decodeTileLoad, need])

theorem Encoding.ldtWAreg (d : BitVec 5) (k : BitVec 4) : Encoding.Statement (.ldtWAreg d k) := by
  intro hw s cw hc
  obtain rfl : Code.w32 (packT 0x4#9 0x7#3 (0x0#1 ++ k) d 0x16#6 s) = cw := Option.some.inj hc
  exact Encoding.of_word _ _ _ hw (by simp) (by simp) (by simp [decodeOperands, decodeTileLoad, need])

theorem Encoding.ldtWuAreg (d : BitVec 5) (k : BitVec 4) : Encoding.Statement (.ldtWuAreg d k) := by
  intro hw s cw hc
  obtain rfl : Code.w32 (packT 0x5#9 0x7#3 (0x0#1 ++ k) d 0x16#6 s) = cw := Option.some.inj hc
  exact Encoding.of_word _ _ _ hw (by simp) (by simp) (by simp [decodeOperands, decodeTileLoad, need])

theorem Encoding.ldtDAreg (d : BitVec 5) (k : BitVec 4) : Encoding.Statement (.ldtDAreg d k) := by
  intro hw s cw hc
  obtain rfl : Code.w32 (packT 0x6#9 0x7#3 (0x0#1 ++ k) d 0x16#6 s) = cw := Option.some.inj hc
  exact Encoding.of_word _ _ _ hw (by simp) (by simp) (by simp [decodeOperands, decodeTileLoad, need])

theorem Encoding.sttB (d : BitVec 5) (a : BitVec 5) (i : BitVec 9) : Encoding.Statement (.sttB d a i) := by
  intro hw s cw hc
  obtain rfl : Code.w32 (packT i 0x0#3 a d 0x17#6 s) = cw := Option.some.inj hc
  exact Encoding.of_word _ _ _ hw (by simp) (by simp) (by simp [decodeOperands, decodeTileStore, need])

theorem Encoding.sttH (d : BitVec 5) (a : BitVec 5) (i : BitVec 9) : Encoding.Statement (.sttH d a i) := by
  intro hw s cw hc
  obtain rfl : Code.w32 (packT i 0x2#3 a d 0x17#6 s) = cw := Option.some.inj hc
  exact Encoding.of_word _ _ _ hw (by simp) (by simp) (by simp [decodeOperands, decodeTileStore, need])

theorem Encoding.sttW (d : BitVec 5) (a : BitVec 5) (i : BitVec 9) : Encoding.Statement (.sttW d a i) := by
  intro hw s cw hc
  obtain rfl : Code.w32 (packT i 0x4#3 a d 0x17#6 s) = cw := Option.some.inj hc
  exact Encoding.of_word _ _ _ hw (by simp) (by simp) (by simp [decodeOperands, decodeTileStore, need])

theorem Encoding.sttD (d : BitVec 5) (a : BitVec 5) (i : BitVec 9) : Encoding.Statement (.sttD d a i) := by
  intro hw s cw hc
  obtain rfl : Code.w32 (packT i 0x6#3 a d 0x17#6 s) = cw := Option.some.inj hc
  exact Encoding.of_word _ _ _ hw (by simp) (by simp) (by simp [decodeOperands, decodeTileStore, need])

theorem Encoding.sttBAreg (d : BitVec 5) (k : BitVec 4) : Encoding.Statement (.sttBAreg d k) := by
  intro hw s cw hc
  obtain rfl : Code.w32 (packT 0x0#9 0x7#3 (0x0#1 ++ k) d 0x17#6 s) = cw := Option.some.inj hc
  exact Encoding.of_word _ _ _ hw (by simp) (by simp) (by simp [decodeOperands, decodeTileStore, need])

theorem Encoding.sttHAreg (d : BitVec 5) (k : BitVec 4) : Encoding.Statement (.sttHAreg d k) := by
  intro hw s cw hc
  obtain rfl : Code.w32 (packT 0x2#9 0x7#3 (0x0#1 ++ k) d 0x17#6 s) = cw := Option.some.inj hc
  exact Encoding.of_word _ _ _ hw (by simp) (by simp) (by simp [decodeOperands, decodeTileStore, need])

theorem Encoding.sttWAreg (d : BitVec 5) (k : BitVec 4) : Encoding.Statement (.sttWAreg d k) := by
  intro hw s cw hc
  obtain rfl : Code.w32 (packT 0x4#9 0x7#3 (0x0#1 ++ k) d 0x17#6 s) = cw := Option.some.inj hc
  exact Encoding.of_word _ _ _ hw (by simp) (by simp) (by simp [decodeOperands, decodeTileStore, need])

theorem Encoding.sttDAreg (d : BitVec 5) (k : BitVec 4) : Encoding.Statement (.sttDAreg d k) := by
  intro hw s cw hc
  obtain rfl : Code.w32 (packT 0x6#9 0x7#3 (0x0#1 ++ k) d 0x17#6 s) = cw := Option.some.inj hc
  exact Encoding.of_word _ _ _ hw (by simp) (by simp) (by simp [decodeOperands, decodeTileStore, need])

theorem Encoding.amtAdd (d : BitVec 5) (a : BitVec 5) (b : BitVec 5) (w : BitVec 1) : Encoding.Statement (.amtAdd d a b w) := by
  intro hw s cw hc
  obtain rfl : Code.w32 (packR (0x0#3 ++ w ++ 0x0#3) b a d 0x18#6 s) = cw := Option.some.inj hc
  exact Encoding.of_word _ _ _ hw (by simp) (by simp) (by simp [decodeOperands, decodeTileAtomic, need])

theorem Encoding.amtSwap (d : BitVec 5) (a : BitVec 5) (b : BitVec 5) (w : BitVec 1) : Encoding.Statement (.amtSwap d a b w) := by
  intro hw s cw hc
  obtain rfl : Code.w32 (packR (0x0#3 ++ w ++ 0x1#3) b a d 0x18#6 s) = cw := Option.some.inj hc
  exact Encoding.of_word _ _ _ hw (by simp) (by simp) (by simp [decodeOperands, decodeTileAtomic, need])

theorem Encoding.amtCas (d : BitVec 5) (a : BitVec 5) (b : BitVec 5) (w : BitVec 1) : Encoding.Statement (.amtCas d a b w) := by
  intro hw s cw hc
  obtain rfl : Code.w32 (packR (0x0#3 ++ w ++ 0x2#3) b a d 0x18#6 s) = cw := Option.some.inj hc
  exact Encoding.of_word _ _ _ hw (by simp) (by simp) (by simp [decodeOperands, decodeTileAtomic, need])

theorem Encoding.amtMin (d : BitVec 5) (a : BitVec 5) (b : BitVec 5) (w : BitVec 1) : Encoding.Statement (.amtMin d a b w) := by
  intro hw s cw hc
  obtain rfl : Code.w32 (packR (0x0#3 ++ w ++ 0x3#3) b a d 0x18#6 s) = cw := Option.some.inj hc
  exact Encoding.of_word _ _ _ hw (by simp) (by simp) (by simp [decodeOperands, decodeTileAtomic, need])

theorem Encoding.amtMax (d : BitVec 5) (a : BitVec 5) (b : BitVec 5) (w : BitVec 1) : Encoding.Statement (.amtMax d a b w) := by
  intro hw s cw hc
  obtain rfl : Code.w32 (packR (0x0#3 ++ w ++ 0x4#3) b a d 0x18#6 s) = cw := Option.some.inj hc
  exact Encoding.of_word _ _ _ hw (by simp) (by simp) (by simp [decodeOperands, decodeTileAtomic, need])

theorem Encoding.amtAnd (d : BitVec 5) (a : BitVec 5) (b : BitVec 5) (w : BitVec 1) : Encoding.Statement (.amtAnd d a b w) := by
  intro hw s cw hc
  obtain rfl : Code.w32 (packR (0x0#3 ++ w ++ 0x5#3) b a d 0x18#6 s) = cw := Option.some.inj hc
  exact Encoding.of_word _ _ _ hw (by simp) (by simp) (by simp [decodeOperands, decodeTileAtomic, need])

theorem Encoding.amtOr (d : BitVec 5) (a : BitVec 5) (b : BitVec 5) (w : BitVec 1) : Encoding.Statement (.amtOr d a b w) := by
  intro hw s cw hc
  obtain rfl : Code.w32 (packR (0x0#3 ++ w ++ 0x6#3) b a d 0x18#6 s) = cw := Option.some.inj hc
  exact Encoding.of_word _ _ _ hw (by simp) (by simp) (by simp [decodeOperands, decodeTileAtomic, need])

theorem Encoding.amtXor (d : BitVec 5) (a : BitVec 5) (b : BitVec 5) (w : BitVec 1) : Encoding.Statement (.amtXor d a b w) := by
  intro hw s cw hc
  obtain rfl : Code.w32 (packR (0x0#3 ++ w ++ 0x7#3) b a d 0x18#6 s) = cw := Option.some.inj hc
  exact Encoding.of_word _ _ _ hw (by simp) (by simp) (by simp [decodeOperands, decodeTileAtomic, need])

theorem Encoding.vldt (d : BitVec 5) (a : BitVec 5) (o : BitVec 5) (m : BitVec 3) : Encoding.Statement (.vldt d a o m) := by
  intro hw s cw hc
  obtain rfl : Code.w32 (packV m 0x0#4 o a d 0x19#6 s) = cw := Option.some.inj hc
  exact Encoding.of_word _ _ _ hw (by simp) (by simp) (by simp [decodeOperands, decodeVecMem, need])

theorem Encoding.vstt (d : BitVec 5) (a : BitVec 5) (o : BitVec 5) (m : BitVec 3) : Encoding.Statement (.vstt d a o m) := by
  intro hw s cw hc
  obtain rfl : Code.w32 (packV m 0x1#4 o a d 0x19#6 s) = cw := Option.some.inj hc
  exact Encoding.of_word _ _ _ hw (by simp) (by simp) (by simp [decodeOperands, decodeVecMem, need])

theorem Encoding.vldts (d : BitVec 5) (a : BitVec 5) (b : BitVec 5) (m : BitVec 3) : Encoding.Statement (.vldts d a b m) := by
  intro hw s cw hc
  obtain rfl : Code.w32 (packV m 0x2#4 b a d 0x19#6 s) = cw := Option.some.inj hc
  exact Encoding.of_word _ _ _ hw (by simp) (by simp) (by simp [decodeOperands, decodeVecMem, need])

theorem Encoding.vstts (d : BitVec 5) (a : BitVec 5) (b : BitVec 5) (m : BitVec 3) : Encoding.Statement (.vstts d a b m) := by
  intro hw s cw hc
  obtain rfl : Code.w32 (packV m 0x3#4 b a d 0x19#6 s) = cw := Option.some.inj hc
  exact Encoding.of_word _ _ _ hw (by simp) (by simp) (by simp [decodeOperands, decodeVecMem, need])

theorem Encoding.vgath (d : BitVec 5) (a : BitVec 5) (b : BitVec 5) (m : BitVec 3) : Encoding.Statement (.vgath d a b m) := by
  intro hw s cw hc
  obtain rfl : Code.w32 (packV m 0x0#4 b a d 0x1A#6 s) = cw := Option.some.inj hc
  exact Encoding.of_word _ _ _ hw (by simp) (by simp) (by simp [decodeOperands, decodeGatherCopy, need])

theorem Encoding.vscat (d : BitVec 5) (a : BitVec 5) (b : BitVec 5) (m : BitVec 3) : Encoding.Statement (.vscat d a b m) := by
  intro hw s cw hc
  obtain rfl : Code.w32 (packV m 0x1#4 b a d 0x1A#6 s) = cw := Option.some.inj hc
  exact Encoding.of_word _ _ _ hw (by simp) (by simp) (by simp [decodeOperands, decodeGatherCopy, need])

theorem Encoding.copyb (d : BitVec 5) (a : BitVec 5) (c : BitVec 5) : Encoding.Statement (.copyb d a c) := by
  intro hw s cw hc
  obtain rfl : Code.w32 (packV 0x0#3 0x2#4 c a d 0x1A#6 s) = cw := Option.some.inj hc
  exact Encoding.of_word _ _ _ hw (by simp) (by simp) (by simp [decodeOperands, decodeGatherCopy, need])

theorem Encoding.fillb (d : BitVec 5) (a : BitVec 5) (c : BitVec 5) : Encoding.Statement (.fillb d a c) := by
  intro hw s cw hc
  obtain rfl : Code.w32 (packV 0x0#3 0x3#4 c a d 0x1A#6 s) = cw := Option.some.inj hc
  exact Encoding.of_word _ _ _ hw (by simp) (by simp) (by simp [decodeOperands, decodeGatherCopy, need])

theorem Encoding.vaddF (d : BitVec 5) (a : BitVec 5) (b : BitVec 5) (m : BitVec 3) : Encoding.Statement (.vaddF d a b m) := by
  intro hw s cw hc
  obtain rfl : Code.w32 (packV m 0x0#4 b a d 0x1B#6 s) = cw := Option.some.inj hc
  exact Encoding.of_word _ _ _ hw (by simp) (by simp) (by simp [decodeOperands, decodeVecFloat, need])

theorem Encoding.vsubF (d : BitVec 5) (a : BitVec 5) (b : BitVec 5) (m : BitVec 3) : Encoding.Statement (.vsubF d a b m) := by
  intro hw s cw hc
  obtain rfl : Code.w32 (packV m 0x1#4 b a d 0x1B#6 s) = cw := Option.some.inj hc
  exact Encoding.of_word _ _ _ hw (by simp) (by simp) (by simp [decodeOperands, decodeVecFloat, need])

theorem Encoding.vmulF (d : BitVec 5) (a : BitVec 5) (b : BitVec 5) (m : BitVec 3) : Encoding.Statement (.vmulF d a b m) := by
  intro hw s cw hc
  obtain rfl : Code.w32 (packV m 0x2#4 b a d 0x1B#6 s) = cw := Option.some.inj hc
  exact Encoding.of_word _ _ _ hw (by simp) (by simp) (by simp [decodeOperands, decodeVecFloat, need])

theorem Encoding.vfmaF (d : BitVec 5) (a : BitVec 5) (b : BitVec 5) (m : BitVec 3) : Encoding.Statement (.vfmaF d a b m) := by
  intro hw s cw hc
  obtain rfl : Code.w32 (packV m 0x3#4 b a d 0x1B#6 s) = cw := Option.some.inj hc
  exact Encoding.of_word _ _ _ hw (by simp) (by simp) (by simp [decodeOperands, decodeVecFloat, need])

theorem Encoding.vfmsF (d : BitVec 5) (a : BitVec 5) (b : BitVec 5) (m : BitVec 3) : Encoding.Statement (.vfmsF d a b m) := by
  intro hw s cw hc
  obtain rfl : Code.w32 (packV m 0x4#4 b a d 0x1B#6 s) = cw := Option.some.inj hc
  exact Encoding.of_word _ _ _ hw (by simp) (by simp) (by simp [decodeOperands, decodeVecFloat, need])

theorem Encoding.vfnmaF (d : BitVec 5) (a : BitVec 5) (b : BitVec 5) (m : BitVec 3) : Encoding.Statement (.vfnmaF d a b m) := by
  intro hw s cw hc
  obtain rfl : Code.w32 (packV m 0x5#4 b a d 0x1B#6 s) = cw := Option.some.inj hc
  exact Encoding.of_word _ _ _ hw (by simp) (by simp) (by simp [decodeOperands, decodeVecFloat, need])

theorem Encoding.vminF (d : BitVec 5) (a : BitVec 5) (b : BitVec 5) (m : BitVec 3) : Encoding.Statement (.vminF d a b m) := by
  intro hw s cw hc
  obtain rfl : Code.w32 (packV m 0x6#4 b a d 0x1B#6 s) = cw := Option.some.inj hc
  exact Encoding.of_word _ _ _ hw (by simp) (by simp) (by simp [decodeOperands, decodeVecFloat, need])

theorem Encoding.vmaxF (d : BitVec 5) (a : BitVec 5) (b : BitVec 5) (m : BitVec 3) : Encoding.Statement (.vmaxF d a b m) := by
  intro hw s cw hc
  obtain rfl : Code.w32 (packV m 0x7#4 b a d 0x1B#6 s) = cw := Option.some.inj hc
  exact Encoding.of_word _ _ _ hw (by simp) (by simp) (by simp [decodeOperands, decodeVecFloat, need])

theorem Encoding.vabsF (d : BitVec 5) (a : BitVec 5) (m : BitVec 3) : Encoding.Statement (.vabsF d a m) := by
  intro hw s cw hc
  obtain rfl : Code.w32 (packV m 0x8#4 0x0#5 a d 0x1B#6 s) = cw := Option.some.inj hc
  exact Encoding.of_word _ _ _ hw (by simp) (by simp) (by simp [decodeOperands, decodeVecFloat, need])

theorem Encoding.vnegF (d : BitVec 5) (a : BitVec 5) (m : BitVec 3) : Encoding.Statement (.vnegF d a m) := by
  intro hw s cw hc
  obtain rfl : Code.w32 (packV m 0x9#4 0x0#5 a d 0x1B#6 s) = cw := Option.some.inj hc
  exact Encoding.of_word _ _ _ hw (by simp) (by simp) (by simp [decodeOperands, decodeVecFloat, need])

theorem Encoding.vrcpF (d : BitVec 5) (a : BitVec 5) (m : BitVec 3) : Encoding.Statement (.vrcpF d a m) := by
  intro hw s cw hc
  obtain rfl : Code.w32 (packV m 0xA#4 0x0#5 a d 0x1B#6 s) = cw := Option.some.inj hc
  exact Encoding.of_word _ _ _ hw (by simp) (by simp) (by simp [decodeOperands, decodeVecFloat, need])

theorem Encoding.vrsqF (d : BitVec 5) (a : BitVec 5) (m : BitVec 3) : Encoding.Statement (.vrsqF d a m) := by
  intro hw s cw hc
  obtain rfl : Code.w32 (packV m 0xB#4 0x0#5 a d 0x1B#6 s) = cw := Option.some.inj hc
  exact Encoding.of_word _ _ _ hw (by simp) (by simp) (by simp [decodeOperands, decodeVecFloat, need])

theorem Encoding.vsqrtF (d : BitVec 5) (a : BitVec 5) (m : BitVec 3) : Encoding.Statement (.vsqrtF d a m) := by
  intro hw s cw hc
  obtain rfl : Code.w32 (packV m 0xC#4 0x0#5 a d 0x1B#6 s) = cw := Option.some.inj hc
  exact Encoding.of_word _ _ _ hw (by simp) (by simp) (by simp [decodeOperands, decodeVecFloat, need])

theorem Encoding.vdivF (d : BitVec 5) (a : BitVec 5) (b : BitVec 5) (m : BitVec 3) : Encoding.Statement (.vdivF d a b m) := by
  intro hw s cw hc
  obtain rfl : Code.w32 (packV m 0xD#4 b a d 0x1B#6 s) = cw := Option.some.inj hc
  exact Encoding.of_word _ _ _ hw (by simp) (by simp) (by simp [decodeOperands, decodeVecFloat, need])

theorem Encoding.vexp2F (d : BitVec 5) (a : BitVec 5) (m : BitVec 3) : Encoding.Statement (.vexp2F d a m) := by
  intro hw s cw hc
  obtain rfl : Code.w32 (packV m 0xE#4 0x0#5 a d 0x1B#6 s) = cw := Option.some.inj hc
  exact Encoding.of_word _ _ _ hw (by simp) (by simp) (by simp [decodeOperands, decodeVecFloat, need])

theorem Encoding.vlog2F (d : BitVec 5) (a : BitVec 5) (m : BitVec 3) : Encoding.Statement (.vlog2F d a m) := by
  intro hw s cw hc
  obtain rfl : Code.w32 (packV m 0xF#4 0x0#5 a d 0x1B#6 s) = cw := Option.some.inj hc
  exact Encoding.of_word _ _ _ hw (by simp) (by simp) (by simp [decodeOperands, decodeVecFloat, need])

theorem Encoding.vaddI (d : BitVec 5) (a : BitVec 5) (b : BitVec 5) (m : BitVec 3) : Encoding.Statement (.vaddI d a b m) := by
  intro hw s cw hc
  obtain rfl : Code.w32 (packV m 0x0#4 b a d 0x1C#6 s) = cw := Option.some.inj hc
  exact Encoding.of_word _ _ _ hw (by simp) (by simp) (by simp [decodeOperands, decodeVecInt, need])

theorem Encoding.vsubI (d : BitVec 5) (a : BitVec 5) (b : BitVec 5) (m : BitVec 3) : Encoding.Statement (.vsubI d a b m) := by
  intro hw s cw hc
  obtain rfl : Code.w32 (packV m 0x1#4 b a d 0x1C#6 s) = cw := Option.some.inj hc
  exact Encoding.of_word _ _ _ hw (by simp) (by simp) (by simp [decodeOperands, decodeVecInt, need])

theorem Encoding.vmulI (d : BitVec 5) (a : BitVec 5) (b : BitVec 5) (m : BitVec 3) : Encoding.Statement (.vmulI d a b m) := by
  intro hw s cw hc
  obtain rfl : Code.w32 (packV m 0x2#4 b a d 0x1C#6 s) = cw := Option.some.inj hc
  exact Encoding.of_word _ _ _ hw (by simp) (by simp) (by simp [decodeOperands, decodeVecInt, need])

theorem Encoding.vmulhI (d : BitVec 5) (a : BitVec 5) (b : BitVec 5) (m : BitVec 3) : Encoding.Statement (.vmulhI d a b m) := by
  intro hw s cw hc
  obtain rfl : Code.w32 (packV m 0x3#4 b a d 0x1C#6 s) = cw := Option.some.inj hc
  exact Encoding.of_word _ _ _ hw (by simp) (by simp) (by simp [decodeOperands, decodeVecInt, need])

theorem Encoding.vmulhuI (d : BitVec 5) (a : BitVec 5) (b : BitVec 5) (m : BitVec 3) : Encoding.Statement (.vmulhuI d a b m) := by
  intro hw s cw hc
  obtain rfl : Code.w32 (packV m 0x4#4 b a d 0x1C#6 s) = cw := Option.some.inj hc
  exact Encoding.of_word _ _ _ hw (by simp) (by simp) (by simp [decodeOperands, decodeVecInt, need])

theorem Encoding.vminI (d : BitVec 5) (a : BitVec 5) (b : BitVec 5) (m : BitVec 3) : Encoding.Statement (.vminI d a b m) := by
  intro hw s cw hc
  obtain rfl : Code.w32 (packV m 0x5#4 b a d 0x1C#6 s) = cw := Option.some.inj hc
  exact Encoding.of_word _ _ _ hw (by simp) (by simp) (by simp [decodeOperands, decodeVecInt, need])

theorem Encoding.vmaxI (d : BitVec 5) (a : BitVec 5) (b : BitVec 5) (m : BitVec 3) : Encoding.Statement (.vmaxI d a b m) := by
  intro hw s cw hc
  obtain rfl : Code.w32 (packV m 0x6#4 b a d 0x1C#6 s) = cw := Option.some.inj hc
  exact Encoding.of_word _ _ _ hw (by simp) (by simp) (by simp [decodeOperands, decodeVecInt, need])

theorem Encoding.vminuI (d : BitVec 5) (a : BitVec 5) (b : BitVec 5) (m : BitVec 3) : Encoding.Statement (.vminuI d a b m) := by
  intro hw s cw hc
  obtain rfl : Code.w32 (packV m 0x7#4 b a d 0x1C#6 s) = cw := Option.some.inj hc
  exact Encoding.of_word _ _ _ hw (by simp) (by simp) (by simp [decodeOperands, decodeVecInt, need])

theorem Encoding.vmaxuI (d : BitVec 5) (a : BitVec 5) (b : BitVec 5) (m : BitVec 3) : Encoding.Statement (.vmaxuI d a b m) := by
  intro hw s cw hc
  obtain rfl : Code.w32 (packV m 0x8#4 b a d 0x1C#6 s) = cw := Option.some.inj hc
  exact Encoding.of_word _ _ _ hw (by simp) (by simp) (by simp [decodeOperands, decodeVecInt, need])

theorem Encoding.vabsI (d : BitVec 5) (a : BitVec 5) (m : BitVec 3) : Encoding.Statement (.vabsI d a m) := by
  intro hw s cw hc
  obtain rfl : Code.w32 (packV m 0x9#4 0x0#5 a d 0x1C#6 s) = cw := Option.some.inj hc
  exact Encoding.of_word _ _ _ hw (by simp) (by simp) (by simp [decodeOperands, decodeVecInt, need])

theorem Encoding.vaddsI (d : BitVec 5) (a : BitVec 5) (b : BitVec 5) (m : BitVec 3) : Encoding.Statement (.vaddsI d a b m) := by
  intro hw s cw hc
  obtain rfl : Code.w32 (packV m 0xA#4 b a d 0x1C#6 s) = cw := Option.some.inj hc
  exact Encoding.of_word _ _ _ hw (by simp) (by simp) (by simp [decodeOperands, decodeVecInt, need])

theorem Encoding.vsubsI (d : BitVec 5) (a : BitVec 5) (b : BitVec 5) (m : BitVec 3) : Encoding.Statement (.vsubsI d a b m) := by
  intro hw s cw hc
  obtain rfl : Code.w32 (packV m 0xB#4 b a d 0x1C#6 s) = cw := Option.some.inj hc
  exact Encoding.of_word _ _ _ hw (by simp) (by simp) (by simp [decodeOperands, decodeVecInt, need])

theorem Encoding.vand (d : BitVec 5) (a : BitVec 5) (b : BitVec 5) (m : BitVec 3) : Encoding.Statement (.vand d a b m) := by
  intro hw s cw hc
  obtain rfl : Code.w32 (packV m 0x0#4 b a d 0x1D#6 s) = cw := Option.some.inj hc
  exact Encoding.of_word _ _ _ hw (by simp) (by simp) (by simp [decodeOperands, decodeVecLogic, need])

theorem Encoding.vor (d : BitVec 5) (a : BitVec 5) (b : BitVec 5) (m : BitVec 3) : Encoding.Statement (.vor d a b m) := by
  intro hw s cw hc
  obtain rfl : Code.w32 (packV m 0x1#4 b a d 0x1D#6 s) = cw := Option.some.inj hc
  exact Encoding.of_word _ _ _ hw (by simp) (by simp) (by simp [decodeOperands, decodeVecLogic, need])

theorem Encoding.vxor (d : BitVec 5) (a : BitVec 5) (b : BitVec 5) (m : BitVec 3) : Encoding.Statement (.vxor d a b m) := by
  intro hw s cw hc
  obtain rfl : Code.w32 (packV m 0x2#4 b a d 0x1D#6 s) = cw := Option.some.inj hc
  exact Encoding.of_word _ _ _ hw (by simp) (by simp) (by simp [decodeOperands, decodeVecLogic, need])

theorem Encoding.vandn (d : BitVec 5) (a : BitVec 5) (b : BitVec 5) (m : BitVec 3) : Encoding.Statement (.vandn d a b m) := by
  intro hw s cw hc
  obtain rfl : Code.w32 (packV m 0x3#4 b a d 0x1D#6 s) = cw := Option.some.inj hc
  exact Encoding.of_word _ _ _ hw (by simp) (by simp) (by simp [decodeOperands, decodeVecLogic, need])

theorem Encoding.vnot (d : BitVec 5) (a : BitVec 5) (m : BitVec 3) : Encoding.Statement (.vnot d a m) := by
  intro hw s cw hc
  obtain rfl : Code.w32 (packV m 0x4#4 0x0#5 a d 0x1D#6 s) = cw := Option.some.inj hc
  exact Encoding.of_word _ _ _ hw (by simp) (by simp) (by simp [decodeOperands, decodeVecLogic, need])

theorem Encoding.vshlV (d : BitVec 5) (a : BitVec 5) (b : BitVec 5) (m : BitVec 3) : Encoding.Statement (.vshlV d a b m) := by
  intro hw s cw hc
  obtain rfl : Code.w32 (packV m 0x5#4 b a d 0x1D#6 s) = cw := Option.some.inj hc
  exact Encoding.of_word _ _ _ hw (by simp) (by simp) (by simp [decodeOperands, decodeVecLogic, need])

theorem Encoding.vshrV (d : BitVec 5) (a : BitVec 5) (b : BitVec 5) (m : BitVec 3) : Encoding.Statement (.vshrV d a b m) := by
  intro hw s cw hc
  obtain rfl : Code.w32 (packV m 0x6#4 b a d 0x1D#6 s) = cw := Option.some.inj hc
  exact Encoding.of_word _ _ _ hw (by simp) (by simp) (by simp [decodeOperands, decodeVecLogic, need])

theorem Encoding.vsraV (d : BitVec 5) (a : BitVec 5) (b : BitVec 5) (m : BitVec 3) : Encoding.Statement (.vsraV d a b m) := by
  intro hw s cw hc
  obtain rfl : Code.w32 (packV m 0x7#4 b a d 0x1D#6 s) = cw := Option.some.inj hc
  exact Encoding.of_word _ _ _ hw (by simp) (by simp) (by simp [decodeOperands, decodeVecLogic, need])

theorem Encoding.vshli (d : BitVec 5) (a : BitVec 5) (n : BitVec 5) (m : BitVec 3) : Encoding.Statement (.vshli d a n m) := by
  intro hw s cw hc
  obtain rfl : Code.w32 (packV m 0x8#4 n a d 0x1D#6 s) = cw := Option.some.inj hc
  exact Encoding.of_word _ _ _ hw (by simp) (by simp) (by simp [decodeOperands, decodeVecLogic, need])

theorem Encoding.vshri (d : BitVec 5) (a : BitVec 5) (n : BitVec 5) (m : BitVec 3) : Encoding.Statement (.vshri d a n m) := by
  intro hw s cw hc
  obtain rfl : Code.w32 (packV m 0x9#4 n a d 0x1D#6 s) = cw := Option.some.inj hc
  exact Encoding.of_word _ _ _ hw (by simp) (by simp) (by simp [decodeOperands, decodeVecLogic, need])

theorem Encoding.vsrai (d : BitVec 5) (a : BitVec 5) (n : BitVec 5) (m : BitVec 3) : Encoding.Statement (.vsrai d a n m) := by
  intro hw s cw hc
  obtain rfl : Code.w32 (packV m 0xA#4 n a d 0x1D#6 s) = cw := Option.some.inj hc
  exact Encoding.of_word _ _ _ hw (by simp) (by simp) (by simp [decodeOperands, decodeVecLogic, need])

theorem Encoding.vpopc (d : BitVec 5) (a : BitVec 5) (m : BitVec 3) : Encoding.Statement (.vpopc d a m) := by
  intro hw s cw hc
  obtain rfl : Code.w32 (packV m 0xB#4 0x0#5 a d 0x1D#6 s) = cw := Option.some.inj hc
  exact Encoding.of_word _ _ _ hw (by simp) (by simp) (by simp [decodeOperands, decodeVecLogic, need])

theorem Encoding.vclz (d : BitVec 5) (a : BitVec 5) (m : BitVec 3) : Encoding.Statement (.vclz d a m) := by
  intro hw s cw hc
  obtain rfl : Code.w32 (packV m 0xC#4 0x0#5 a d 0x1D#6 s) = cw := Option.some.inj hc
  exact Encoding.of_word _ _ _ hw (by simp) (by simp) (by simp [decodeOperands, decodeVecLogic, need])

theorem Encoding.vcmpFEq (d : BitVec 5) (a : BitVec 5) (b : BitVec 5) (m : BitVec 3) : Encoding.Statement (.vcmpFEq d a b m) := by
  intro hw s cw hc
  obtain rfl : Code.w32 (packV m 0x0#4 b a d 0x1E#6 s) = cw := Option.some.inj hc
  exact Encoding.of_word _ _ _ hw (by simp) (by simp) (by simp [decodeOperands, decodeVecCompare, need])

theorem Encoding.vcmpFNe (d : BitVec 5) (a : BitVec 5) (b : BitVec 5) (m : BitVec 3) : Encoding.Statement (.vcmpFNe d a b m) := by
  intro hw s cw hc
  obtain rfl : Code.w32 (packV m 0x1#4 b a d 0x1E#6 s) = cw := Option.some.inj hc
  exact Encoding.of_word _ _ _ hw (by simp) (by simp) (by simp [decodeOperands, decodeVecCompare, need])

theorem Encoding.vcmpFLt (d : BitVec 5) (a : BitVec 5) (b : BitVec 5) (m : BitVec 3) : Encoding.Statement (.vcmpFLt d a b m) := by
  intro hw s cw hc
  obtain rfl : Code.w32 (packV m 0x2#4 b a d 0x1E#6 s) = cw := Option.some.inj hc
  exact Encoding.of_word _ _ _ hw (by simp) (by simp) (by simp [decodeOperands, decodeVecCompare, need])

theorem Encoding.vcmpFLe (d : BitVec 5) (a : BitVec 5) (b : BitVec 5) (m : BitVec 3) : Encoding.Statement (.vcmpFLe d a b m) := by
  intro hw s cw hc
  obtain rfl : Code.w32 (packV m 0x3#4 b a d 0x1E#6 s) = cw := Option.some.inj hc
  exact Encoding.of_word _ _ _ hw (by simp) (by simp) (by simp [decodeOperands, decodeVecCompare, need])

theorem Encoding.vcmpFUn (d : BitVec 5) (a : BitVec 5) (b : BitVec 5) (m : BitVec 3) : Encoding.Statement (.vcmpFUn d a b m) := by
  intro hw s cw hc
  obtain rfl : Code.w32 (packV m 0x4#4 b a d 0x1E#6 s) = cw := Option.some.inj hc
  exact Encoding.of_word _ _ _ hw (by simp) (by simp) (by simp [decodeOperands, decodeVecCompare, need])

theorem Encoding.vcmpIEq (d : BitVec 5) (a : BitVec 5) (b : BitVec 5) (m : BitVec 3) : Encoding.Statement (.vcmpIEq d a b m) := by
  intro hw s cw hc
  obtain rfl : Code.w32 (packV m 0x5#4 b a d 0x1E#6 s) = cw := Option.some.inj hc
  exact Encoding.of_word _ _ _ hw (by simp) (by simp) (by simp [decodeOperands, decodeVecCompare, need])

theorem Encoding.vcmpINe (d : BitVec 5) (a : BitVec 5) (b : BitVec 5) (m : BitVec 3) : Encoding.Statement (.vcmpINe d a b m) := by
  intro hw s cw hc
  obtain rfl : Code.w32 (packV m 0x6#4 b a d 0x1E#6 s) = cw := Option.some.inj hc
  exact Encoding.of_word _ _ _ hw (by simp) (by simp) (by simp [decodeOperands, decodeVecCompare, need])

theorem Encoding.vcmpILt (d : BitVec 5) (a : BitVec 5) (b : BitVec 5) (m : BitVec 3) : Encoding.Statement (.vcmpILt d a b m) := by
  intro hw s cw hc
  obtain rfl : Code.w32 (packV m 0x7#4 b a d 0x1E#6 s) = cw := Option.some.inj hc
  exact Encoding.of_word _ _ _ hw (by simp) (by simp) (by simp [decodeOperands, decodeVecCompare, need])

theorem Encoding.vcmpILe (d : BitVec 5) (a : BitVec 5) (b : BitVec 5) (m : BitVec 3) : Encoding.Statement (.vcmpILe d a b m) := by
  intro hw s cw hc
  obtain rfl : Code.w32 (packV m 0x8#4 b a d 0x1E#6 s) = cw := Option.some.inj hc
  exact Encoding.of_word _ _ _ hw (by simp) (by simp) (by simp [decodeOperands, decodeVecCompare, need])

theorem Encoding.vcmpILtu (d : BitVec 5) (a : BitVec 5) (b : BitVec 5) (m : BitVec 3) : Encoding.Statement (.vcmpILtu d a b m) := by
  intro hw s cw hc
  obtain rfl : Code.w32 (packV m 0x9#4 b a d 0x1E#6 s) = cw := Option.some.inj hc
  exact Encoding.of_word _ _ _ hw (by simp) (by simp) (by simp [decodeOperands, decodeVecCompare, need])

theorem Encoding.vcmpILeu (d : BitVec 5) (a : BitVec 5) (b : BitVec 5) (m : BitVec 3) : Encoding.Statement (.vcmpILeu d a b m) := by
  intro hw s cw hc
  obtain rfl : Code.w32 (packV m 0xA#4 b a d 0x1E#6 s) = cw := Option.some.inj hc
  exact Encoding.of_word _ _ _ hw (by simp) (by simp) (by simp [decodeOperands, decodeVecCompare, need])

theorem Encoding.vsel (d : BitVec 5) (a : BitVec 5) (b : BitVec 5) (m : BitVec 3) : Encoding.Statement (.vsel d a b m) := by
  intro hw s cw hc
  obtain rfl : Code.w32 (packV m 0xB#4 b a d 0x1E#6 s) = cw := Option.some.inj hc
  exact Encoding.of_word _ _ _ hw (by simp) (by simp) (by simp [decodeOperands, decodeVecCompare, need])

theorem Encoding.vclass (d : BitVec 5) (a : BitVec 5) (m : BitVec 3) : Encoding.Statement (.vclass d a m) := by
  intro hw s cw hc
  obtain rfl : Code.w32 (packV m 0xC#4 0x0#5 a d 0x1E#6 s) = cw := Option.some.inj hc
  exact Encoding.of_word _ _ _ hw (by simp) (by simp) (by simp [decodeOperands, decodeVecCompare, need])

theorem Encoding.vcvtFI (d : BitVec 5) (a : BitVec 5) (u : BitVec 1) (r : BitVec 2) (m : BitVec 3) : Encoding.Statement (.vcvtFI d a u r m) := by
  intro hw s cw hc
  obtain rfl : Code.w32 (packV m 0x0#4 (0x0#2 ++ r ++ u) a d 0x1F#6 s) = cw := Option.some.inj hc
  exact Encoding.of_word _ _ _ hw (by simp) (by simp) (by simp [decodeOperands, decodeVecConvert, need])

theorem Encoding.vcvtIF (d : BitVec 5) (a : BitVec 5) (u : BitVec 1) (r : BitVec 2) (m : BitVec 3) : Encoding.Statement (.vcvtIF d a u r m) := by
  intro hw s cw hc
  obtain rfl : Code.w32 (packV m 0x1#4 (0x0#2 ++ r ++ u) a d 0x1F#6 s) = cw := Option.some.inj hc
  exact Encoding.of_word _ _ _ hw (by simp) (by simp) (by simp [decodeOperands, decodeVecConvert, need])

theorem Encoding.vcvtBfF (d : BitVec 5) (a : BitVec 5) (h : BitVec 1) (r : BitVec 2) (m : BitVec 3) : Encoding.Statement (.vcvtBfF d a h r m) := by
  intro hw s cw hc
  obtain rfl : Code.w32 (packV m 0x2#4 (0x0#2 ++ r ++ h) a d 0x1F#6 s) = cw := Option.some.inj hc
  exact Encoding.of_word _ _ _ hw (by simp) (by simp) (by simp [decodeOperands, decodeVecConvert, need])

theorem Encoding.vcvtFBf (d : BitVec 5) (a : BitVec 5) (h : BitVec 1) (m : BitVec 3) : Encoding.Statement (.vcvtFBf d a h m) := by
  intro hw s cw hc
  obtain rfl : Code.w32 (packV m 0x3#4 (0x0#4 ++ h) a d 0x1F#6 s) = cw := Option.some.inj hc
  exact Encoding.of_word _ _ _ hw (by simp) (by simp) (by simp [decodeOperands, decodeVecConvert, need])

theorem Encoding.vcvtHF (d : BitVec 5) (a : BitVec 5) (h : BitVec 1) (r : BitVec 2) (m : BitVec 3) : Encoding.Statement (.vcvtHF d a h r m) := by
  intro hw s cw hc
  obtain rfl : Code.w32 (packV m 0x4#4 (0x0#2 ++ r ++ h) a d 0x1F#6 s) = cw := Option.some.inj hc
  exact Encoding.of_word _ _ _ hw (by simp) (by simp) (by simp [decodeOperands, decodeVecConvert, need])

theorem Encoding.vcvtFH (d : BitVec 5) (a : BitVec 5) (h : BitVec 1) (m : BitVec 3) : Encoding.Statement (.vcvtFH d a h m) := by
  intro hw s cw hc
  obtain rfl : Code.w32 (packV m 0x5#4 (0x0#4 ++ h) a d 0x1F#6 s) = cw := Option.some.inj hc
  exact Encoding.of_word _ _ _ hw (by simp) (by simp) (by simp [decodeOperands, decodeVecConvert, need])

theorem Encoding.vquant (d : BitVec 5) (a : BitVec 5) (b : BitVec 5) (m : BitVec 3) : Encoding.Statement (.vquant d a b m) := by
  intro hw s cw hc
  obtain rfl : Code.w32 (packV m 0x6#4 b a d 0x1F#6 s) = cw := Option.some.inj hc
  exact Encoding.of_word _ _ _ hw (by simp) (by simp) (by simp [decodeOperands, decodeVecConvert, need])

theorem Encoding.vdeq (d : BitVec 5) (a : BitVec 5) (h : BitVec 1) (w : BitVec 1) (m : BitVec 3) : Encoding.Statement (.vdeq d a h w m) := by
  intro hw s cw hc
  obtain rfl : Code.w32 (packV m 0x7#4 (0x0#3 ++ w ++ h) a d 0x1F#6 s) = cw := Option.some.inj hc
  exact Encoding.of_word _ _ _ hw (by simp) (by simp) (by simp [decodeOperands, decodeVecConvert, need])

theorem Encoding.vpackI8 (d : BitVec 5) (a : BitVec 5) (q : BitVec 2) (u : BitVec 1) (m : BitVec 3) : Encoding.Statement (.vpackI8 d a q u m) := by
  intro hw s cw hc
  obtain rfl : Code.w32 (packV m 0x8#4 (0x0#2 ++ u ++ q) a d 0x1F#6 s) = cw := Option.some.inj hc
  exact Encoding.of_word _ _ _ hw (by simp) (by simp) (by simp [decodeOperands, decodeVecConvert, need])

theorem Encoding.vunpkI8 (d : BitVec 5) (a : BitVec 5) (q : BitVec 2) (u : BitVec 1) (m : BitVec 3) : Encoding.Statement (.vunpkI8 d a q u m) := by
  intro hw s cw hc
  obtain rfl : Code.w32 (packV m 0x9#4 (0x0#2 ++ u ++ q) a d 0x1F#6 s) = cw := Option.some.inj hc
  exact Encoding.of_word _ _ _ hw (by simp) (by simp) (by simp [decodeOperands, decodeVecConvert, need])

theorem Encoding.vredaddF (d : BitVec 5) (a : BitVec 5) (m : BitVec 3) : Encoding.Statement (.vredaddF d a m) := by
  intro hw s cw hc
  obtain rfl : Code.w32 (packV m 0x0#4 0x0#5 a d 0x20#6 s) = cw := Option.some.inj hc
  exact Encoding.of_word _ _ _ hw (by simp) (by simp) (by simp [decodeOperands, decodeVecReduce, need])

theorem Encoding.vredaddI (d : BitVec 5) (a : BitVec 5) (m : BitVec 3) : Encoding.Statement (.vredaddI d a m) := by
  intro hw s cw hc
  obtain rfl : Code.w32 (packV m 0x1#4 0x0#5 a d 0x20#6 s) = cw := Option.some.inj hc
  exact Encoding.of_word _ _ _ hw (by simp) (by simp) (by simp [decodeOperands, decodeVecReduce, need])

theorem Encoding.vredmaxF (d : BitVec 5) (a : BitVec 5) (m : BitVec 3) : Encoding.Statement (.vredmaxF d a m) := by
  intro hw s cw hc
  obtain rfl : Code.w32 (packV m 0x2#4 0x0#5 a d 0x20#6 s) = cw := Option.some.inj hc
  exact Encoding.of_word _ _ _ hw (by simp) (by simp) (by simp [decodeOperands, decodeVecReduce, need])

theorem Encoding.vredminF (d : BitVec 5) (a : BitVec 5) (m : BitVec 3) : Encoding.Statement (.vredminF d a m) := by
  intro hw s cw hc
  obtain rfl : Code.w32 (packV m 0x3#4 0x0#5 a d 0x20#6 s) = cw := Option.some.inj hc
  exact Encoding.of_word _ _ _ hw (by simp) (by simp) (by simp [decodeOperands, decodeVecReduce, need])

theorem Encoding.vredmaxI (d : BitVec 5) (a : BitVec 5) (m : BitVec 3) : Encoding.Statement (.vredmaxI d a m) := by
  intro hw s cw hc
  obtain rfl : Code.w32 (packV m 0x4#4 0x0#5 a d 0x20#6 s) = cw := Option.some.inj hc
  exact Encoding.of_word _ _ _ hw (by simp) (by simp) (by simp [decodeOperands, decodeVecReduce, need])

theorem Encoding.vamax (d : BitVec 5) (a : BitVec 5) (m : BitVec 3) : Encoding.Statement (.vamax d a m) := by
  intro hw s cw hc
  obtain rfl : Code.w32 (packV m 0x5#4 0x0#5 a d 0x20#6 s) = cw := Option.some.inj hc
  exact Encoding.of_word _ _ _ hw (by simp) (by simp) (by simp [decodeOperands, decodeVecReduce, need])

theorem Encoding.vscanI (d : BitVec 5) (a : BitVec 5) (m : BitVec 3) : Encoding.Statement (.vscanI d a m) := by
  intro hw s cw hc
  obtain rfl : Code.w32 (packV m 0x6#4 0x0#5 a d 0x20#6 s) = cw := Option.some.inj hc
  exact Encoding.of_word _ _ _ hw (by simp) (by simp) (by simp [decodeOperands, decodeVecReduce, need])

theorem Encoding.vscanF (d : BitVec 5) (a : BitVec 5) (m : BitVec 3) : Encoding.Statement (.vscanF d a m) := by
  intro hw s cw hc
  obtain rfl : Code.w32 (packV m 0x7#4 0x0#5 a d 0x20#6 s) = cw := Option.some.inj hc
  exact Encoding.of_word _ _ _ hw (by simp) (by simp) (by simp [decodeOperands, decodeVecReduce, need])

theorem Encoding.vperm (d : BitVec 5) (a : BitVec 5) (b : BitVec 5) (m : BitVec 3) : Encoding.Statement (.vperm d a b m) := by
  intro hw s cw hc
  obtain rfl : Code.w32 (packV m 0x0#4 b a d 0x21#6 s) = cw := Option.some.inj hc
  exact Encoding.of_word _ _ _ hw (by simp) (by simp) (by simp [decodeOperands, decodeVecPermute, need])

theorem Encoding.vbcast (d : BitVec 5) (a : BitVec 5) (m : BitVec 3) : Encoding.Statement (.vbcast d a m) := by
  intro hw s cw hc
  obtain rfl : Code.w32 (packV m 0x1#4 0x0#5 a d 0x21#6 s) = cw := Option.some.inj hc
  exact Encoding.of_word _ _ _ hw (by simp) (by simp) (by simp [decodeOperands, decodeVecPermute, need])

theorem Encoding.vextr (d : BitVec 5) (a : BitVec 5) (n : BitVec 4) : Encoding.Statement (.vextr d a n) := by
  intro hw s cw hc
  obtain rfl : Code.w32 (packV 0x0#3 0x2#4 (0x0#1 ++ n) a d 0x21#6 s) = cw := Option.some.inj hc
  exact Encoding.of_word _ _ _ hw (by simp) (by simp) (by simp [decodeOperands, decodeVecPermute, need])

theorem Encoding.vins (d : BitVec 5) (a : BitVec 5) (n : BitVec 4) (m : BitVec 3) : Encoding.Statement (.vins d a n m) := by
  intro hw s cw hc
  obtain rfl : Code.w32 (packV m 0x3#4 (0x0#1 ++ n) a d 0x21#6 s) = cw := Option.some.inj hc
  exact Encoding.of_word _ _ _ hw (by simp) (by simp) (by simp [decodeOperands, decodeVecPermute, need])

theorem Encoding.vcompr (d : BitVec 5) (a : BitVec 5) (m : BitVec 3) : Encoding.Statement (.vcompr d a m) := by
  intro hw s cw hc
  obtain rfl : Code.w32 (packV m 0x4#4 0x0#5 a d 0x21#6 s) = cw := Option.some.inj hc
  exact Encoding.of_word _ _ _ hw (by simp) (by simp) (by simp [decodeOperands, decodeVecPermute, need])

theorem Encoding.vexpnd (d : BitVec 5) (a : BitVec 5) (m : BitVec 3) : Encoding.Statement (.vexpnd d a m) := by
  intro hw s cw hc
  obtain rfl : Code.w32 (packV m 0x5#4 0x0#5 a d 0x21#6 s) = cw := Option.some.inj hc
  exact Encoding.of_word _ _ _ hw (by simp) (by simp) (by simp [decodeOperands, decodeVecPermute, need])

theorem Encoding.vrot (d : BitVec 5) (a : BitVec 5) (n : BitVec 4) (m : BitVec 3) : Encoding.Statement (.vrot d a n m) := by
  intro hw s cw hc
  obtain rfl : Code.w32 (packV m 0x6#4 (0x0#1 ++ n) a d 0x21#6 s) = cw := Option.some.inj hc
  exact Encoding.of_word _ _ _ hw (by simp) (by simp) (by simp [decodeOperands, decodeVecPermute, need])

theorem Encoding.viota (d : BitVec 5) (m : BitVec 3) : Encoding.Statement (.viota d m) := by
  intro hw s cw hc
  obtain rfl : Code.w32 (packV m 0x7#4 0x0#5 0x0#5 d 0x21#6 s) = cw := Option.some.inj hc
  exact Encoding.of_word _ _ _ hw (by simp) (by simp) (by simp [decodeOperands, decodeVecPermute, need])

theorem Encoding.mand (d : BitVec 5) (a : BitVec 5) (b : BitVec 5) : Encoding.Statement (.mand d a b) := by
  intro hw s cw hc
  obtain rfl : Code.w32 (packV 0x0#3 0x0#4 b a d 0x22#6 s) = cw := Option.some.inj hc
  exact Encoding.of_word _ _ _ hw (by simp) (by simp) (by simp [decodeOperands, decodeMask, need])

theorem Encoding.mor (d : BitVec 5) (a : BitVec 5) (b : BitVec 5) : Encoding.Statement (.mor d a b) := by
  intro hw s cw hc
  obtain rfl : Code.w32 (packV 0x0#3 0x1#4 b a d 0x22#6 s) = cw := Option.some.inj hc
  exact Encoding.of_word _ _ _ hw (by simp) (by simp) (by simp [decodeOperands, decodeMask, need])

theorem Encoding.mxor (d : BitVec 5) (a : BitVec 5) (b : BitVec 5) : Encoding.Statement (.mxor d a b) := by
  intro hw s cw hc
  obtain rfl : Code.w32 (packV 0x0#3 0x2#4 b a d 0x22#6 s) = cw := Option.some.inj hc
  exact Encoding.of_word _ _ _ hw (by simp) (by simp) (by simp [decodeOperands, decodeMask, need])

theorem Encoding.mnot (d : BitVec 5) (a : BitVec 5) : Encoding.Statement (.mnot d a) := by
  intro hw s cw hc
  obtain rfl : Code.w32 (packV 0x0#3 0x3#4 0x0#5 a d 0x22#6 s) = cw := Option.some.inj hc
  exact Encoding.of_word _ _ _ hw (by simp) (by simp) (by simp [decodeOperands, decodeMask, need])

theorem Encoding.mpop (d : BitVec 5) (a : BitVec 5) : Encoding.Statement (.mpop d a) := by
  intro hw s cw hc
  obtain rfl : Code.w32 (packV 0x0#3 0x4#4 0x0#5 a d 0x22#6 s) = cw := Option.some.inj hc
  exact Encoding.of_word _ _ _ hw (by simp) (by simp) (by simp [decodeOperands, decodeMask, need])

theorem Encoding.mfirst (d : BitVec 5) (a : BitVec 5) : Encoding.Statement (.mfirst d a) := by
  intro hw s cw hc
  obtain rfl : Code.w32 (packV 0x0#3 0x5#4 0x0#5 a d 0x22#6 s) = cw := Option.some.inj hc
  exact Encoding.of_word _ _ _ hw (by simp) (by simp) (by simp [decodeOperands, decodeMask, need])

theorem Encoding.mset (d : BitVec 5) (n : BitVec 5) : Encoding.Statement (.mset d n) := by
  intro hw s cw hc
  obtain rfl : Code.w32 (packV 0x0#3 0x6#4 0x0#5 n d 0x22#6 s) = cw := Option.some.inj hc
  exact Encoding.of_word _ _ _ hw (by simp) (by simp) (by simp [decodeOperands, decodeMask, need])

theorem Encoding.mget (d : BitVec 5) (a : BitVec 5) (n : BitVec 4) : Encoding.Statement (.mget d a n) := by
  intro hw s cw hc
  obtain rfl : Code.w32 (packV 0x0#3 0x7#4 (0x0#1 ++ n) a d 0x22#6 s) = cw := Option.some.inj hc
  exact Encoding.of_word _ _ _ hw (by simp) (by simp) (by simp [decodeOperands, decodeMask, need])

theorem Encoding.mmaBf (b : BitVec 1) (t : BitVec 1) (x : BitVec 1) (k : BitVec 9) (n : BitVec 5) (c : BitVec 3) : Encoding.Statement (.mmaBf b t x k n c) := by
  intro hw s cw hc
  obtain rfl : Code.w32 (packM c n k (0x0#2 ++ x ++ t ++ b) 0x23#6 s) = cw := Option.some.inj hc
  exact Encoding.of_word _ _ _ hw (by simp) (by simp) (by simp [decodeOperands, decodeMma, need])

theorem Encoding.mmaH (b : BitVec 1) (t : BitVec 1) (x : BitVec 1) (k : BitVec 9) (n : BitVec 5) (c : BitVec 3) : Encoding.Statement (.mmaH b t x k n c) := by
  intro hw s cw hc
  obtain rfl : Code.w32 (packM c n k (0x1#2 ++ x ++ t ++ b) 0x23#6 s) = cw := Option.some.inj hc
  exact Encoding.of_word _ _ _ hw (by simp) (by simp) (by simp [decodeOperands, decodeMma, need])

theorem Encoding.mmaD8 (b : BitVec 1) (t : BitVec 1) (x : BitVec 1) (k : BitVec 9) (n : BitVec 5) (c : BitVec 3) : Encoding.Statement (.mmaD8 b t x k n c) := by
  intro hw s cw hc
  obtain rfl : Code.w32 (packM c n k (0x2#2 ++ x ++ t ++ b) 0x23#6 s) = cw := Option.some.inj hc
  exact Encoding.of_word _ _ _ hw (by simp) (by simp) (by simp [decodeOperands, decodeMma, need])

theorem Encoding.mmaI8 (b : BitVec 1) (t : BitVec 1) (x : BitVec 1) (k : BitVec 9) (n : BitVec 5) (c : BitVec 3) : Encoding.Statement (.mmaI8 b t x k n c) := by
  intro hw s cw hc
  obtain rfl : Code.w32 (packM c n k (0x3#2 ++ x ++ t ++ b) 0x23#6 s) = cw := Option.some.inj hc
  exact Encoding.of_word _ _ _ hw (by simp) (by simp) (by simp [decodeOperands, decodeMma, need])

theorem Encoding.mzero (c : BitVec 3) : Encoding.Statement (.mzero c) := by
  intro hw s cw hc
  obtain rfl : Code.w32 (packM c 0x0#5 0x0#9 0x0#5 0x24#6 s) = cw := Option.some.inj hc
  exact Encoding.of_word _ _ _ hw (by simp) (by simp) (by simp [decodeOperands, decodeAccumulator, need])

theorem Encoding.mrd (r : BitVec 4) (d : BitVec 5) (c : BitVec 3) : Encoding.Statement (.mrd r d c) := by
  intro hw s cw hc
  obtain rfl : Code.w32 (packM c d (0x0#5 ++ r) 0x4#5 0x24#6 s) = cw := Option.some.inj hc
  exact Encoding.of_word _ _ _ hw (by simp) (by simp) (by simp [decodeOperands, decodeAccumulator, need])

theorem Encoding.mwr (r : BitVec 4) (v : BitVec 5) (c : BitVec 3) : Encoding.Statement (.mwr r v c) := by
  intro hw s cw hc
  obtain rfl : Code.w32 (packM c v (0x0#5 ++ r) 0x8#5 0x24#6 s) = cw := Option.some.inj hc
  exact Encoding.of_word _ _ _ hw (by simp) (by simp) (by simp [decodeOperands, decodeAccumulator, need])

theorem Encoding.mwm (d : BitVec 5) (c : BitVec 3) : Encoding.Statement (.mwm d c) := by
  intro hw s cw hc
  obtain rfl : Code.w32 (packM c d 0x0#9 0xC#5 0x24#6 s) = cw := Option.some.inj hc
  exact Encoding.of_word _ _ _ hw (by simp) (by simp) (by simp [decodeOperands, decodeAccumulator, need])

theorem Encoding.msta (i : BitVec 1) (k : BitVec 9) (n : BitVec 5) (c : BitVec 3) : Encoding.Statement (.msta i k n c) := by
  intro hw s cw hc
  obtain rfl : Code.w32 (packM c n k (0x8#4 ++ i) 0x24#6 s) = cw := Option.some.inj hc
  exact Encoding.of_word _ _ _ hw (by simp) (by simp) (by simp [decodeOperands, decodeAccumulator, need])

theorem Encoding.mwait (q : BitVec 1) (c : BitVec 3) : Encoding.Statement (.mwait q c) := by
  intro hw s cw hc
  obtain rfl : Code.w32 (packM c 0x0#5 0x0#9 (0xA#4 ++ q) 0x24#6 s) = cw := Option.some.inj hc
  exact Encoding.of_word _ _ _ hw (by simp) (by simp) (by simp [decodeOperands, decodeAccumulator, need])

theorem Encoding.mscale (m : BitVec 4) (a : BitVec 5) : Encoding.Statement (.mscale m a) := by
  intro hw s cw hc
  obtain rfl : Code.w32 (packM 0x0#3 a (0x0#5 ++ m) 0x0#5 0x25#6 s) = cw := Option.some.inj hc
  exact Encoding.of_word _ _ _ hw (by simp) (by simp) (by simp [decodeOperands, decodeMatrixConfig, need])

theorem Encoding.mmask (a : BitVec 5) : Encoding.Statement (.mmask a) := by
  intro hw s cw hc
  obtain rfl : Code.w32 (packM 0x0#3 a 0x0#9 0x1#5 0x25#6 s) = cw := Option.some.inj hc
  exact Encoding.of_word _ _ _ hw (by simp) (by simp) (by simp [decodeOperands, decodeMatrixConfig, need])

theorem Encoding.getg (t : BitVec 5) (a : BitVec 5) (l : BitVec 5) (v : BitVec 1) : Encoding.Statement (.getg t a l v) := by
  intro hw s cw hc
  obtain rfl : Code.w32 (packR (0x0#3 ++ v ++ 0x0#3) l a t 0x27#6 s) = cw := Option.some.inj hc
  exact Encoding.of_word _ _ _ hw (by simp) (by simp) (by simp [decodeOperands, decodeGet, need])

theorem Encoding.gets (t : BitVec 5) (a : BitVec 5) (l : BitVec 5) (v : BitVec 1) : Encoding.Statement (.gets t a l v) := by
  intro hw s cw hc
  obtain rfl : Code.w32 (packR (0x0#3 ++ v ++ 0x1#3) l a t 0x27#6 s) = cw := Option.some.inj hc
  exact Encoding.of_word _ _ _ hw (by simp) (by simp) (by simp [decodeOperands, decodeGet, need])

theorem Encoding.getm (t : BitVec 5) (a : BitVec 5) (l : BitVec 5) (v : BitVec 1) : Encoding.Statement (.getm t a l v) := by
  intro hw s cw hc
  obtain rfl : Code.w32 (packR (0x0#3 ++ v ++ 0x2#3) l a t 0x27#6 s) = cw := Option.some.inj hc
  exact Encoding.of_word _ _ _ hw (by simp) (by simp) (by simp [decodeOperands, decodeGet, need])

theorem Encoding.geth (t : BitVec 5) (a : BitVec 5) (l : BitVec 5) (v : BitVec 1) : Encoding.Statement (.geth t a l v) := by
  intro hw s cw hc
  obtain rfl : Code.w32 (packR (0x0#3 ++ v ++ 0x3#3) l a t 0x27#6 s) = cw := Option.some.inj hc
  exact Encoding.of_word _ _ _ hw (by simp) (by simp) (by simp [decodeOperands, decodeGet, need])

theorem Encoding.getr (t : BitVec 5) (a : BitVec 5) (l : BitVec 5) (v : BitVec 1) : Encoding.Statement (.getr t a l v) := by
  intro hw s cw hc
  obtain rfl : Code.w32 (packR (0x0#3 ++ v ++ 0x4#3) l a t 0x27#6 s) = cw := Option.some.inj hc
  exact Encoding.of_word _ _ _ hw (by simp) (by simp) (by simp [decodeOperands, decodeGet, need])

theorem Encoding.gett (t : BitVec 5) (a : BitVec 5) (l : BitVec 5) : Encoding.Statement (.gett t a l) := by
  intro hw s cw hc
  obtain rfl : Code.w32 (packR 0x5#7 l a t 0x27#6 s) = cw := Option.some.inj hc
  exact Encoding.of_word _ _ _ hw (by simp) (by simp) (by simp [decodeOperands, decodeGet, need])

theorem Encoding.depg (t : BitVec 5) (a : BitVec 5) (l : BitVec 5) : Encoding.Statement (.depg t a l) := by
  intro hw s cw hc
  obtain rfl : Code.w32 (packR 0x0#7 l a t 0x28#6 s) = cw := Option.some.inj hc
  exact Encoding.of_word _ _ _ hw (by simp) (by simp) (by simp [decodeOperands, decodeDeposit, need])

theorem Encoding.deps (t : BitVec 5) (a : BitVec 5) (l : BitVec 5) : Encoding.Statement (.deps t a l) := by
  intro hw s cw hc
  obtain rfl : Code.w32 (packR 0x1#7 l a t 0x28#6 s) = cw := Option.some.inj hc
  exact Encoding.of_word _ _ _ hw (by simp) (by simp) (by simp [decodeOperands, decodeDeposit, need])

theorem Encoding.depm (t : BitVec 5) (a : BitVec 5) (l : BitVec 5) : Encoding.Statement (.depm t a l) := by
  intro hw s cw hc
  obtain rfl : Code.w32 (packR 0x2#7 l a t 0x28#6 s) = cw := Option.some.inj hc
  exact Encoding.of_word _ _ _ hw (by simp) (by simp) (by simp [decodeOperands, decodeDeposit, need])

theorem Encoding.deph (t : BitVec 5) (a : BitVec 5) (l : BitVec 5) : Encoding.Statement (.deph t a l) := by
  intro hw s cw hc
  obtain rfl : Code.w32 (packR 0x3#7 l a t 0x28#6 s) = cw := Option.some.inj hc
  exact Encoding.of_word _ _ _ hw (by simp) (by simp) (by simp [decodeOperands, decodeDeposit, need])

theorem Encoding.depr (t : BitVec 5) (a : BitVec 5) (l : BitVec 5) : Encoding.Statement (.depr t a l) := by
  intro hw s cw hc
  obtain rfl : Code.w32 (packR 0x4#7 l a t 0x28#6 s) = cw := Option.some.inj hc
  exact Encoding.of_word _ _ _ hw (by simp) (by simp) (by simp [decodeOperands, decodeDeposit, need])

theorem Encoding.dept (t : BitVec 5) (a : BitVec 5) (l : BitVec 5) : Encoding.Statement (.dept t a l) := by
  intro hw s cw hc
  obtain rfl : Code.w32 (packR 0x5#7 l a t 0x28#6 s) = cw := Option.some.inj hc
  exact Encoding.of_word _ _ _ hw (by simp) (by simp) (by simp [decodeOperands, decodeDeposit, need])

theorem Encoding.depa (t : BitVec 5) (a : BitVec 5) (l : BitVec 5) : Encoding.Statement (.depa t a l) := by
  intro hw s cw hc
  obtain rfl : Code.w32 (packR 0x6#7 l a t 0x28#6 s) = cw := Option.some.inj hc
  exact Encoding.of_word _ _ _ hw (by simp) (by simp) (by simp [decodeOperands, decodeDeposit, need])

theorem Encoding.depbG (t : BitVec 5) (a : BitVec 5) (l : BitVec 5) : Encoding.Statement (.depbG t a l) := by
  intro hw s cw hc
  obtain rfl : Code.w32 (packR 0x0#7 l a t 0x29#6 s) = cw := Option.some.inj hc
  exact Encoding.of_word _ _ _ hw (by simp) (by simp) (by simp [decodeOperands, decodeBlockDeposit, need])

theorem Encoding.depbS (t : BitVec 5) (a : BitVec 5) (l : BitVec 5) : Encoding.Statement (.depbS t a l) := by
  intro hw s cw hc
  obtain rfl : Code.w32 (packR 0x1#7 l a t 0x29#6 s) = cw := Option.some.inj hc
  exact Encoding.of_word _ _ _ hw (by simp) (by simp) (by simp [decodeOperands, decodeBlockDeposit, need])

theorem Encoding.depbM (t : BitVec 5) (a : BitVec 5) (l : BitVec 5) : Encoding.Statement (.depbM t a l) := by
  intro hw s cw hc
  obtain rfl : Code.w32 (packR 0x2#7 l a t 0x29#6 s) = cw := Option.some.inj hc
  exact Encoding.of_word _ _ _ hw (by simp) (by simp) (by simp [decodeOperands, decodeBlockDeposit, need])

theorem Encoding.depbH (t : BitVec 5) (a : BitVec 5) (l : BitVec 5) : Encoding.Statement (.depbH t a l) := by
  intro hw s cw hc
  obtain rfl : Code.w32 (packR 0x3#7 l a t 0x29#6 s) = cw := Option.some.inj hc
  exact Encoding.of_word _ _ _ hw (by simp) (by simp) (by simp [decodeOperands, decodeBlockDeposit, need])

theorem Encoding.depbR (t : BitVec 5) (a : BitVec 5) (l : BitVec 5) : Encoding.Statement (.depbR t a l) := by
  intro hw s cw hc
  obtain rfl : Code.w32 (packR 0x4#7 l a t 0x29#6 s) = cw := Option.some.inj hc
  exact Encoding.of_word _ _ _ hw (by simp) (by simp) (by simp [decodeOperands, decodeBlockDeposit, need])

theorem Encoding.depbT (t : BitVec 5) (a : BitVec 5) (l : BitVec 5) : Encoding.Statement (.depbT t a l) := by
  intro hw s cw hc
  obtain rfl : Code.w32 (packR 0x5#7 l a t 0x29#6 s) = cw := Option.some.inj hc
  exact Encoding.of_word _ _ _ hw (by simp) (by simp) (by simp [decodeOperands, decodeBlockDeposit, need])

theorem Encoding.amogAdd (t : BitVec 5) (a : BitVec 5) (v : BitVec 5) : Encoding.Statement (.amogAdd t a v) := by
  intro hw s cw hc
  obtain rfl : Code.w32 (packR 0x0#7 v a t 0x2A#6 s) = cw := Option.some.inj hc
  exact Encoding.of_word _ _ _ hw (by simp) (by simp) (by simp [decodeOperands, decodeLevelAtomic, need])

theorem Encoding.amomAdd (t : BitVec 5) (a : BitVec 5) (v : BitVec 5) : Encoding.Statement (.amomAdd t a v) := by
  intro hw s cw hc
  obtain rfl : Code.w32 (packR 0x1#7 v a t 0x2A#6 s) = cw := Option.some.inj hc
  exact Encoding.of_word _ _ _ hw (by simp) (by simp) (by simp [decodeOperands, decodeLevelAtomic, need])

theorem Encoding.amorAdd (t : BitVec 5) (a : BitVec 5) (v : BitVec 5) : Encoding.Statement (.amorAdd t a v) := by
  intro hw s cw hc
  obtain rfl : Code.w32 (packR 0x2#7 v a t 0x2A#6 s) = cw := Option.some.inj hc
  exact Encoding.of_word _ _ _ hw (by simp) (by simp) (by simp [decodeOperands, decodeLevelAtomic, need])

theorem Encoding.amogMin (t : BitVec 5) (a : BitVec 5) (v : BitVec 5) : Encoding.Statement (.amogMin t a v) := by
  intro hw s cw hc
  obtain rfl : Code.w32 (packR 0x4#7 v a t 0x2A#6 s) = cw := Option.some.inj hc
  exact Encoding.of_word _ _ _ hw (by simp) (by simp) (by simp [decodeOperands, decodeLevelAtomic, need])

theorem Encoding.amomMin (t : BitVec 5) (a : BitVec 5) (v : BitVec 5) : Encoding.Statement (.amomMin t a v) := by
  intro hw s cw hc
  obtain rfl : Code.w32 (packR 0x5#7 v a t 0x2A#6 s) = cw := Option.some.inj hc
  exact Encoding.of_word _ _ _ hw (by simp) (by simp) (by simp [decodeOperands, decodeLevelAtomic, need])

theorem Encoding.amorMin (t : BitVec 5) (a : BitVec 5) (v : BitVec 5) : Encoding.Statement (.amorMin t a v) := by
  intro hw s cw hc
  obtain rfl : Code.w32 (packR 0x6#7 v a t 0x2A#6 s) = cw := Option.some.inj hc
  exact Encoding.of_word _ _ _ hw (by simp) (by simp) (by simp [decodeOperands, decodeLevelAtomic, need])

theorem Encoding.amogMax (t : BitVec 5) (a : BitVec 5) (v : BitVec 5) : Encoding.Statement (.amogMax t a v) := by
  intro hw s cw hc
  obtain rfl : Code.w32 (packR 0x8#7 v a t 0x2A#6 s) = cw := Option.some.inj hc
  exact Encoding.of_word _ _ _ hw (by simp) (by simp) (by simp [decodeOperands, decodeLevelAtomic, need])

theorem Encoding.amomMax (t : BitVec 5) (a : BitVec 5) (v : BitVec 5) : Encoding.Statement (.amomMax t a v) := by
  intro hw s cw hc
  obtain rfl : Code.w32 (packR 0x9#7 v a t 0x2A#6 s) = cw := Option.some.inj hc
  exact Encoding.of_word _ _ _ hw (by simp) (by simp) (by simp [decodeOperands, decodeLevelAtomic, need])

theorem Encoding.amorMax (t : BitVec 5) (a : BitVec 5) (v : BitVec 5) : Encoding.Statement (.amorMax t a v) := by
  intro hw s cw hc
  obtain rfl : Code.w32 (packR 0xA#7 v a t 0x2A#6 s) = cw := Option.some.inj hc
  exact Encoding.of_word _ _ _ hw (by simp) (by simp) (by simp [decodeOperands, decodeLevelAtomic, need])

theorem Encoding.amogSwap (t : BitVec 5) (a : BitVec 5) (v : BitVec 5) : Encoding.Statement (.amogSwap t a v) := by
  intro hw s cw hc
  obtain rfl : Code.w32 (packR 0xC#7 v a t 0x2A#6 s) = cw := Option.some.inj hc
  exact Encoding.of_word _ _ _ hw (by simp) (by simp) (by simp [decodeOperands, decodeLevelAtomic, need])

theorem Encoding.amomSwap (t : BitVec 5) (a : BitVec 5) (v : BitVec 5) : Encoding.Statement (.amomSwap t a v) := by
  intro hw s cw hc
  obtain rfl : Code.w32 (packR 0xD#7 v a t 0x2A#6 s) = cw := Option.some.inj hc
  exact Encoding.of_word _ _ _ hw (by simp) (by simp) (by simp [decodeOperands, decodeLevelAtomic, need])

theorem Encoding.amorSwap (t : BitVec 5) (a : BitVec 5) (v : BitVec 5) : Encoding.Statement (.amorSwap t a v) := by
  intro hw s cw hc
  obtain rfl : Code.w32 (packR 0xE#7 v a t 0x2A#6 s) = cw := Option.some.inj hc
  exact Encoding.of_word _ _ _ hw (by simp) (by simp) (by simp [decodeOperands, decodeLevelAtomic, need])

theorem Encoding.amogCas (t : BitVec 5) (a : BitVec 5) (v : BitVec 5) : Encoding.Statement (.amogCas t a v) := by
  intro hw s cw hc
  obtain rfl : Code.w32 (packR 0x10#7 v a t 0x2A#6 s) = cw := Option.some.inj hc
  exact Encoding.of_word _ _ _ hw (by simp) (by simp) (by simp [decodeOperands, decodeLevelAtomic, need])

theorem Encoding.amomCas (t : BitVec 5) (a : BitVec 5) (v : BitVec 5) : Encoding.Statement (.amomCas t a v) := by
  intro hw s cw hc
  obtain rfl : Code.w32 (packR 0x11#7 v a t 0x2A#6 s) = cw := Option.some.inj hc
  exact Encoding.of_word _ _ _ hw (by simp) (by simp) (by simp [decodeOperands, decodeLevelAtomic, need])

theorem Encoding.amorCas (t : BitVec 5) (a : BitVec 5) (v : BitVec 5) : Encoding.Statement (.amorCas t a v) := by
  intro hw s cw hc
  obtain rfl : Code.w32 (packR 0x12#7 v a t 0x2A#6 s) = cw := Option.some.inj hc
  exact Encoding.of_word _ _ _ hw (by simp) (by simp) (by simp [decodeOperands, decodeLevelAtomic, need])

theorem Encoding.bseal : Encoding.Statement .bseal := by
  intro hw s cw hc
  obtain rfl : Code.w32 (packR 0x0#7 0x0#5 0x0#5 0x0#5 0x2B#6 s) = cw := Option.some.inj hc
  exact Encoding.of_word _ _ _ hw (by simp) (by simp) (by simp [decodeOperands, decodeBatch, need])

theorem Encoding.bwait (d : BitVec 5) (a : BitVec 5) : Encoding.Statement (.bwait d a) := by
  intro hw s cw hc
  obtain rfl : Code.w32 (packR 0x1#7 0x0#5 a d 0x2B#6 s) = cw := Option.some.inj hc
  exact Encoding.of_word _ _ _ hw (by simp) (by simp) (by simp [decodeOperands, decodeBatch, need])

theorem Encoding.xfence (a : BitVec 5) (b : BitVec 5) : Encoding.Statement (.xfence a b) := by
  intro hw s cw hc
  obtain rfl : Code.w32 (packR 0x2#7 b a 0x0#5 0x2B#6 s) = cw := Option.some.inj hc
  exact Encoding.of_word _ _ _ hw (by simp) (by simp) (by simp [decodeOperands, decodeBatch, need])

theorem Encoding.sestart (a : BitVec 5) (b : BitVec 5) : Encoding.Statement (.sestart a b) := by
  intro hw s cw hc
  obtain rfl : Code.w32 (packR 0x0#7 b a 0x0#5 0x2C#6 s) = cw := Option.some.inj hc
  exact Encoding.of_word _ _ _ hw (by simp) (by simp) (by simp [decodeOperands, decodeStream, need])

theorem Encoding.sestop (a : BitVec 5) : Encoding.Statement (.sestop a) := by
  intro hw s cw hc
  obtain rfl : Code.w32 (packR 0x1#7 0x0#5 a 0x0#5 0x2C#6 s) = cw := Option.some.inj hc
  exact Encoding.of_word _ _ _ hw (by simp) (by simp) (by simp [decodeOperands, decodeStream, need])

theorem Encoding.sepoll (d : BitVec 5) (a : BitVec 5) : Encoding.Statement (.sepoll d a) := by
  intro hw s cw hc
  obtain rfl : Code.w32 (packR 0x2#7 0x0#5 a d 0x2C#6 s) = cw := Option.some.inj hc
  exact Encoding.of_word _ _ _ hw (by simp) (by simp) (by simp [decodeOperands, decodeStream, need])

theorem Encoding.wdef (a : BitVec 5) (b : BitVec 5) : Encoding.Statement (.wdef a b) := by
  intro hw s cw hc
  obtain rfl : Code.w32 (packR 0x3#7 b a 0x0#5 0x2C#6 s) = cw := Option.some.inj hc
  exact Encoding.of_word _ _ _ hw (by simp) (by simp) (by simp [decodeOperands, decodeStream, need])

theorem Encoding.waita (d : BitVec 5) (a : BitVec 5) (w : BitVec 4) : Encoding.Statement (.waita d a w) := by
  intro hw s cw hc
  obtain rfl : Code.w32 (packR 0x4#7 (0x0#1 ++ w) a d 0x2C#6 s) = cw := Option.some.inj hc
  exact Encoding.of_word _ _ _ hw (by simp) (by simp) (by simp [decodeOperands, decodeStream, need])

theorem Encoding.rela (a : BitVec 5) (w : BitVec 4) : Encoding.Statement (.rela a w) := by
  intro hw s cw hc
  obtain rfl : Code.w32 (packR 0x5#7 (0x0#1 ++ w) a 0x0#5 0x2C#6 s) = cw := Option.some.inj hc
  exact Encoding.of_word _ _ _ hw (by simp) (by simp) (by simp [decodeOperands, decodeStream, need])

theorem Encoding.sync (d : BitVec 5) (a : BitVec 5) (p : BitVec 4) (l : BitVec 3) : Encoding.Statement (.sync d a p l) := by
  intro hw s cw hc
  obtain rfl : Code.w32 (packR (l ++ p) 0x0#5 a d 0x2D#6 s) = cw := Option.some.inj hc
  refine Encoding.of_word _ _ _ hw (by simp) (by simp) ?_
  have hl : ∀ l : BitVec 3, l.toNat ≤ 4 → l = 0#3 ∨ l = 1#3 ∨ l = 2#3 ∨ l = 3#3 ∨ l = 4#3 := by decide
  obtain rfl | rfl | rfl | rfl | rfl := hl l (by have h := hw; simp [Instr.wellFormed] at h; omega) <;> simp [decodeOperands, decodeSync, need]

theorem Encoding.abort (a : BitVec 5) : Encoding.Statement (.abort a) := by
  intro hw s cw hc
  obtain rfl : Code.w32 (packR 0x50#7 0x0#5 a 0x0#5 0x2D#6 s) = cw := Option.some.inj hc
  exact Encoding.of_word _ _ _ hw (by simp) (by simp) (by simp [decodeOperands, decodeSync, need])

theorem Encoding.aclr : Encoding.Statement .aclr := by
  intro hw s cw hc
  obtain rfl : Code.w32 (packR 0x51#7 0x0#5 0x0#5 0x0#5 0x2D#6 s) = cw := Option.some.inj hc
  exact Encoding.of_word _ _ _ hw (by simp) (by simp) (by simp [decodeOperands, decodeSync, need])

theorem Encoding.seal (d : BitVec 5) : Encoding.Statement (.seal d) := by
  intro hw s cw hc
  obtain rfl : Code.w32 (packR 0x52#7 0x0#5 0x0#5 d 0x2D#6 s) = cw := Option.some.inj hc
  exact Encoding.of_word _ _ _ hw (by simp) (by simp) (by simp [decodeOperands, decodeSync, need])

theorem Encoding.bara (a : BitVec 5) (i : BitVec 3) : Encoding.Statement (.bara a i) := by
  intro hw s cw hc
  obtain rfl : Code.w32 (packR 0x53#7 (0x0#2 ++ i) a 0x0#5 0x2D#6 s) = cw := Option.some.inj hc
  exact Encoding.of_word _ _ _ hw (by simp) (by simp) (by simp [decodeOperands, decodeSync, need])

theorem Encoding.barw (i : BitVec 3) : Encoding.Statement (.barw i) := by
  intro hw s cw hc
  obtain rfl : Code.w32 (packR 0x54#7 (0x0#2 ++ i) 0x0#5 0x0#5 0x2D#6 s) = cw := Option.some.inj hc
  exact Encoding.of_word _ _ _ hw (by simp) (by simp) (by simp [decodeOperands, decodeSync, need])

theorem Encoding.tsync : Encoding.Statement .tsync := by
  intro hw s cw hc
  obtain rfl : Code.w32 (packR 0x55#7 0x0#5 0x0#5 0x0#5 0x2D#6 s) = cw := Option.some.inj hc
  exact Encoding.of_word _ _ _ hw (by simp) (by simp) (by simp [decodeOperands, decodeSync, need])

theorem Encoding.kmint (d : BitVec 5) (a : BitVec 5) (b : BitVec 5) : Encoding.Statement (.kmint d a b) := by
  intro hw s cw hc
  obtain rfl : Code.w32 (packR 0x0#7 b a d 0x2E#6 s) = cw := Option.some.inj hc
  exact Encoding.of_word _ _ _ hw (by simp) (by simp) (by simp [decodeOperands, decodeFabric, need])

theorem Encoding.krev (d : BitVec 5) (a : BitVec 5) : Encoding.Statement (.krev d a) := by
  intro hw s cw hc
  obtain rfl : Code.w32 (packR 0x1#7 0x0#5 a d 0x2E#6 s) = cw := Option.some.inj hc
  exact Encoding.of_word _ _ _ hw (by simp) (by simp) (by simp [decodeOperands, decodeFabric, need])

theorem Encoding.cset (d : BitVec 5) (a : BitVec 5) (b : BitVec 5) : Encoding.Statement (.cset d a b) := by
  intro hw s cw hc
  obtain rfl : Code.w32 (packR 0x2#7 b a d 0x2E#6 s) = cw := Option.some.inj hc
  exact Encoding.of_word _ _ _ hw (by simp) (by simp) (by simp [decodeOperands, decodeFabric, need])

theorem Encoding.cfree (d : BitVec 5) (a : BitVec 5) : Encoding.Statement (.cfree d a) := by
  intro hw s cw hc
  obtain rfl : Code.w32 (packR 0x3#7 0x0#5 a d 0x2E#6 s) = cw := Option.some.inj hc
  exact Encoding.of_word _ _ _ hw (by simp) (by simp) (by simp [decodeOperands, decodeFabric, need])

theorem Encoding.cfire (a : BitVec 5) : Encoding.Statement (.cfire a) := by
  intro hw s cw hc
  obtain rfl : Code.w32 (packR 0x4#7 0x0#5 a 0x0#5 0x2E#6 s) = cw := Option.some.inj hc
  exact Encoding.of_word _ _ _ hw (by simp) (by simp) (by simp [decodeOperands, decodeFabric, need])

theorem Encoding.mlred (k : BitVec 5) (a : BitVec 5) (b : BitVec 5) (w : BitVec 1) (x : BitVec 1) : Encoding.Statement (.mlred k a b w x) := by
  intro hw s cw hc
  obtain rfl : Code.w32 (packR (0x0#2 ++ x ++ w ++ 0x5#3) b a k 0x2E#6 s) = cw := Option.some.inj hc
  exact Encoding.of_word _ _ _ hw (by simp) (by simp) (by simp [decodeOperands, decodeFabric, need])

theorem Encoding.mcast (a : BitVec 5) (b : BitVec 5) : Encoding.Statement (.mcast a b) := by
  intro hw s cw hc
  obtain rfl : Code.w32 (packR 0x6#7 b a 0x0#5 0x2E#6 s) = cw := Option.some.inj hc
  exact Encoding.of_word _ _ _ hw (by simp) (by simp) (by simp [decodeOperands, decodeFabric, need])

theorem Encoding.vmov16 (d : BitVec 5) (v : BitVec 5) (m : BitVec 1) : Encoding.Statement (.vmov16 d v m) := by
  intro _ s cw hc
  obtain rfl : Code.w16 (m ++ v ++ d ++ 0x0#4 ++ 0#1) = cw := Option.some.inj hc
  simp [decode, decode16]

theorem Encoding.vaddF16 (d : BitVec 5) (v : BitVec 5) (m : BitVec 1) : Encoding.Statement (.vaddF16 d v m) := by
  intro _ s cw hc
  obtain rfl : Code.w16 (m ++ v ++ d ++ 0x1#4 ++ 0#1) = cw := Option.some.inj hc
  simp [decode, decode16]

theorem Encoding.vsubF16 (d : BitVec 5) (v : BitVec 5) (m : BitVec 1) : Encoding.Statement (.vsubF16 d v m) := by
  intro _ s cw hc
  obtain rfl : Code.w16 (m ++ v ++ d ++ 0x2#4 ++ 0#1) = cw := Option.some.inj hc
  simp [decode, decode16]

theorem Encoding.vmulF16 (d : BitVec 5) (v : BitVec 5) (m : BitVec 1) : Encoding.Statement (.vmulF16 d v m) := by
  intro _ s cw hc
  obtain rfl : Code.w16 (m ++ v ++ d ++ 0x3#4 ++ 0#1) = cw := Option.some.inj hc
  simp [decode, decode16]

theorem Encoding.vfmac16 (d : BitVec 5) (v : BitVec 5) (m : BitVec 1) : Encoding.Statement (.vfmac16 d v m) := by
  intro _ s cw hc
  obtain rfl : Code.w16 (m ++ v ++ d ++ 0x4#4 ++ 0#1) = cw := Option.some.inj hc
  simp [decode, decode16]

theorem Encoding.vmaxF16 (d : BitVec 5) (v : BitVec 5) (m : BitVec 1) : Encoding.Statement (.vmaxF16 d v m) := by
  intro _ s cw hc
  obtain rfl : Code.w16 (m ++ v ++ d ++ 0x5#4 ++ 0#1) = cw := Option.some.inj hc
  simp [decode, decode16]

theorem Encoding.vminF16 (d : BitVec 5) (v : BitVec 5) (m : BitVec 1) : Encoding.Statement (.vminF16 d v m) := by
  intro _ s cw hc
  obtain rfl : Code.w16 (m ++ v ++ d ++ 0x6#4 ++ 0#1) = cw := Option.some.inj hc
  simp [decode, decode16]

theorem Encoding.vaddI16 (d : BitVec 5) (v : BitVec 5) (m : BitVec 1) : Encoding.Statement (.vaddI16 d v m) := by
  intro _ s cw hc
  obtain rfl : Code.w16 (m ++ v ++ d ++ 0x7#4 ++ 0#1) = cw := Option.some.inj hc
  simp [decode, decode16]

theorem Encoding.vsubI16 (d : BitVec 5) (v : BitVec 5) (m : BitVec 1) : Encoding.Statement (.vsubI16 d v m) := by
  intro _ s cw hc
  obtain rfl : Code.w16 (m ++ v ++ d ++ 0x8#4 ++ 0#1) = cw := Option.some.inj hc
  simp [decode, decode16]

theorem Encoding.vmulI16 (d : BitVec 5) (v : BitVec 5) (m : BitVec 1) : Encoding.Statement (.vmulI16 d v m) := by
  intro _ s cw hc
  obtain rfl : Code.w16 (m ++ v ++ d ++ 0x9#4 ++ 0#1) = cw := Option.some.inj hc
  simp [decode, decode16]

theorem Encoding.vand16 (d : BitVec 5) (v : BitVec 5) (m : BitVec 1) : Encoding.Statement (.vand16 d v m) := by
  intro _ s cw hc
  obtain rfl : Code.w16 (m ++ v ++ d ++ 0xA#4 ++ 0#1) = cw := Option.some.inj hc
  simp [decode, decode16]

theorem Encoding.vor16 (d : BitVec 5) (v : BitVec 5) (m : BitVec 1) : Encoding.Statement (.vor16 d v m) := by
  intro _ s cw hc
  obtain rfl : Code.w16 (m ++ v ++ d ++ 0xB#4 ++ 0#1) = cw := Option.some.inj hc
  simp [decode, decode16]

theorem Encoding.vxor16 (d : BitVec 5) (v : BitVec 5) (m : BitVec 1) : Encoding.Statement (.vxor16 d v m) := by
  intro _ s cw hc
  obtain rfl : Code.w16 (m ++ v ++ d ++ 0xC#4 ++ 0#1) = cw := Option.some.inj hc
  simp [decode, decode16]

theorem Encoding.vshlV16 (d : BitVec 5) (v : BitVec 5) (m : BitVec 1) : Encoding.Statement (.vshlV16 d v m) := by
  intro _ s cw hc
  obtain rfl : Code.w16 (m ++ v ++ d ++ 0xD#4 ++ 0#1) = cw := Option.some.inj hc
  simp [decode, decode16]

theorem Encoding.vshrV16 (d : BitVec 5) (v : BitVec 5) (m : BitVec 1) : Encoding.Statement (.vshrV16 d v m) := by
  intro _ s cw hc
  obtain rfl : Code.w16 (m ++ v ++ d ++ 0xE#4 ++ 0#1) = cw := Option.some.inj hc
  simp [decode, decode16]

theorem Encoding.vsraV16 (d : BitVec 5) (v : BitVec 5) (m : BitVec 1) : Encoding.Statement (.vsraV16 d v m) := by
  intro _ s cw hc
  obtain rfl : Code.w16 (m ++ v ++ d ++ 0xF#4 ++ 0#1) = cw := Option.some.inj hc
  simp [decode, decode16]

end Sys2Proof.Laws
end

