-- ==== Sys2Proof/Tests/Slice0.lean ====
section
/-!
SUPPORT. Tests: words written out from the spec's encodings, ill-formed terms, single steps with results worked out by hand from the
spec, and for each statement states and operands that meet its hypotheses.
-/

namespace Sys2Proof.Tests

set_option Elab.async false

open Sys2Proof.Machine Sys2Proof.Observe Sys2Proof.Claims

/-! ## Small states -/

/-- A running launch of one group, one thread a tile, recovery off. -/
def aLaunch : Launch := { (default : Launch) with
  state := .running, ctx := 1, place := { (default : Placement) with w := 1, h := 1 }, gw := 4, gh := 4, nthr := 1, textSize := 64 }

/-- A live thread of it. -/
def aThread : Thread := { (default : Thread) with live := true, mrow := 0xFFFF#16, mcol := 0xFFFF#16, q1 := 2#18, q2 := 4#18 }

/-- The module with that launch on tile 0 and thread 0 of the tile executing. -/
def st (f : Thread → Thread) : State :=
  { State.reset with tiles := [(0, { (default : Tile) with prim := some 1, threads := [(0, f aThread)] })], launches := [(1, aLaunch)] }

/-- The same with registers given by number. -/
def regs (r : List (Nat × Word)) : State := st (fun t => { t with regs := r })

/-- Thread 0 of proctor 0 of die 0, in system mode. -/
def sys (r : List (Nat × Word)) : State :=
  { State.reset with tiles := [(262144, { (default : Tile) with threads := [(0, { aThread with sys := true, regs := r })] })], curTile := 262144 }

/-- The state after an instruction, or the state before where it does not answer one. -/
def after (i : Instr) (s : State) : State := match exec i s with
  | .next t => t
  | _ => s

/-- Without checking every register is readable (R99). -/
theorem readable_w {s : State} (h : s.thr.chk = false) (n : BitVec 5) : ReadableW s n := fun g => by rw [h] at g; cases g
theorem readable_v {s : State} (h : s.thr.chk = false) (n : BitVec 5) : ReadableV s n := fun g => by rw [h] at g; cases g
theorem readable_m {s : State} (h : s.thr.chk = false) (n : Nat) : ReadableM s n := fun g => by rw [h] at g; cases g

/-- What register n of file c of the executing thread reads in cycle k. -/
def wreg (s : State) (n c : Nat) : Word := (reg s 0 n c).setWidth 64

/-! ## Words written out from the spec's encodings (chapters 5 to 10) -/

theorem test_decode_ldi : decodeTableWord 32 0xFFCE2481 = some (.ldi 9#5 0x1FF9C#17) := by decide +kernel
theorem test_decode_mfsr : decodeTableWord 32 0x00821401 = some (.mfsr 5#5 0x008#12) := by decide +kernel
theorem test_decode_eret : decodeTableWord 32 0x00018001 = some (.eret) := by decide +kernel
theorem test_decode_csel : decodeTableWord 32 0x0C520CB1 = some (.csel 3#5 4#5 5#5 6#5) := by decide +kernel
theorem test_decode_call : decodeTableWord 32 0x00020131 = some (.call 0x80#22) := by decide +kernel
theorem test_decode_loop : decodeTableWord 32 0x87FFE951 = some (.loop 0x7FFA#15 3#2) := by decide +kernel
theorem test_decode_bseal : decodeTableWord 32 0x000002B1 = some (.bseal) := by decide +kernel
theorem test_decode_bwait : decodeTableWord 32 0x02019EB1 = some (.bwait 7#5 3#5) := by decide +kernel
theorem test_decode_ldtD_areg : decodeTableWord 32 0x03719D61 = some (.ldtDAreg 7#5 3#4) := by decide +kernel
theorem test_decode_sttH : decodeTableWord 32 0xFEA11171 = some (.sttH 4#5 2#5 0x1FD#9) := by decide +kernel
theorem test_decode_amtAdd : decodeTableWord 32 0x10731581 = some (.amtAdd 5#5 6#5 7#5 1#1) := by decide +kernel
theorem test_decode_vldt : decodeTableWord 32 0x00248D91 = some (.vldt 3#5 9#5 2#5 0#3) := by decide +kernel
theorem test_decode_vgath : decodeTableWord 32 0x006209A1 = some (.vgath 2#5 4#5 6#5 0#3) := by decide +kernel
theorem test_decode_copyb : decodeTableWord 32 0x04C5A9A1 = some (.copyb 10#5 11#5 12#5) := by decide +kernel
theorem test_decode_vfmaF : decodeTableWord 32 0x662091B1 = some (.vfmaF 4#5 1#5 2#5 3#3) := by decide +kernel
theorem test_decode_vredaddF : decodeTableWord 32 0x40029A01 = some (.vredaddF 6#5 5#5 2#3) := by decide +kernel
theorem test_decode_vshri : decodeTableWord 32 0x12539DD3 = some (.vshri 7#5 7#5 5#5 0#3) := by decide +kernel
theorem test_decode_vcmpFLt : decodeTableWord 32 0x043105E1 = some (.vcmpFLt 1#5 2#5 3#5 0#3) := by decide +kernel
theorem test_decode_vcvtBfF : decodeTableWord 32 0x0434A1F1 = some (.vcvtBfF 8#5 9#5 1#1 1#2 0#3) := by decide +kernel
theorem test_decode_mand : decodeTableWord 32 0x00418A21 = some (.mand 2#5 3#5 4#5) := by decide +kernel
theorem test_decode_vfmac16 : decodeTableWord 16 0x8488 = some (.vfmac16 4#5 1#5 1#1) := by decide +kernel
theorem test_decode_mmaBf : decodeTableWord 32 0x09060231 = some (.mmaBf 0#1 0#1 0#1 12#9 9#5 0#3) := by decide +kernel
theorem test_decode_mmaD8 : decodeTableWord 32 0x4C144A37 = some (.mmaD8 0#1 1#1 0#1 40#9 12#5 2#3) := by decide +kernel
theorem test_decode_mrd : decodeTableWord 32 0x25049241 = some (.mrd 9#4 5#5 1#3) := by decide +kernel
theorem test_decode_msta : decodeTableWord 32 0x14644241 = some (.msta 0#1 200#9 20#5 0#3) := by decide +kernel
theorem test_decode_mscale : decodeTableWord 32 0x07018251 = some (.mscale 3#4 7#5) := by decide +kernel
theorem test_decode_mbxrd : decodeTableWord 32 0x00081401 = some (.mbxrd 5#5 0#1) := by decide +kernel
theorem test_decode_idle : decodeTableWord 32 0x000A9401 = some (.idle 5#5) := by decide +kernel

/-- R88: a word that no table assigns is rejected by name. -/
theorem test_decode_unassigned : decodeTableWord 32 0xFFFFFFFF = none := by decide +kernel

/-! ## Ill-formed terms (R82) -/

theorem test_ill_formed_lnco : (Instr.lnco 16#5 1#5 0#2).wellFormed = false := rfl
theorem test_ill_formed_lnbase : (Instr.lnbase 16#5 1#5 0#2).wellFormed = false := rfl
theorem test_ill_formed_compares : [Instr.vcmpFEq 8#5 1#5 2#5 0#3, .vcmpFNe 8#5 1#5 2#5 0#3, .vcmpFLt 8#5 1#5 2#5 0#3, .vcmpFLe 8#5 1#5 2#5 0#3,
    .vcmpFUn 8#5 1#5 2#5 0#3, .vcmpIEq 8#5 1#5 2#5 0#3, .vcmpINe 8#5 1#5 2#5 0#3, .vcmpILt 8#5 1#5 2#5 0#3, .vcmpILe 8#5 1#5 2#5 0#3,
    .vcmpILtu 8#5 1#5 2#5 0#3, .vcmpILeu 8#5 1#5 2#5 0#3].all (fun i => !i.wellFormed) = true := rfl
theorem test_ill_formed_masks : [Instr.mand 1#5 8#5 2#5, .mor 1#5 2#5 8#5, .mxor 8#5 1#5 2#5, .mnot 1#5 8#5, .mpop 8#5 1#5, .mfirst 1#5 8#5,
    .mset 1#5 17#5, .mset 8#5 1#5, .mget 8#5 1#5 0#4].all (fun i => !i.wellFormed) = true := rfl
theorem test_ill_formed_mma : [Instr.mmaBf 1#1 1#1 0#1 0#9 9#5 0#3, .mmaH 1#1 0#1 0#1 0#9 31#5 0#3, .mmaD8 0#1 0#1 1#1 1#9 9#5 0#3,
    .mmaI8 1#1 1#1 0#1 0#9 9#5 0#3].all (fun i => !i.wellFormed) = true := rfl
theorem test_ill_formed_mwait : (Instr.mwait 0#1 1#3).wellFormed = false := rfl
theorem test_ill_formed_amor : [Instr.amorAdd 1#5 2#5 30#5, .amorMin 1#5 2#5 30#5, .amorMax 1#5 2#5 30#5, .amorSwap 1#5 2#5 30#5, .amorCas 1#5 2#5 30#5,
    .amogCas 1#5 2#5 31#5, .amomCas 1#5 2#5 31#5].all (fun i => !i.wellFormed) = true := rfl
theorem test_ill_formed_xfence : (Instr.xfence 5#5 0#5).wellFormed = false := rfl
theorem test_ill_formed_sestart : (Instr.sestart 1#5 29#5).wellFormed = false := rfl
theorem test_ill_formed_sync : [Instr.sync 1#5 0#5 0#4 5#3, .sync 1#5 2#5 12#4 0#3, .sync 1#5 2#5 0#4 0#3].all (fun i => !i.wellFormed) = true := rfl
theorem test_ill_formed_stream : [Instr.scSeta 0#32 1#16 0#1 0#2 1#4, .scSeta 0#32 0#16 0#1 0#2 5#4, .scSetb 0#32 1#16 2#3 0#1 0#2 0#4,
    .scMove 0#20, .scMoveq 0#20 0#2 0#4, .scLoop 0#32 0#1 0#2 4#4, .scNext 0#16 4#4, .scBarr 0#32 0#1 0#2 0#4].all (fun i => !i.wellFormed) = true := rfl

/-! ## States that meet the hypotheses of the scalar and system statements -/

/-- With checking on, w5 has a result on its way that is not readable yet. -/
def short5 : State := st (fun t => { t with chk := true, pend := [⟨0, 5, 40, 7#512⟩], regs := [(1, 6#64), (2, 7#64)] })

theorem witness_scalar : ReadableW (regs [(1, 7#64), (2, 0#64)]) 1#5 ∧ ReadableW (regs [(1, 7#64), (2, 0#64)]) 2#5 ∧
    (regs [(1, 7#64), (2, 0#64)]).readW 2#5 = 0#64 ∧ (3#5 : BitVec 5) ≠ 0#5 := ⟨readable_w rfl _, readable_w rfl _, by decide +kernel, by decide⟩

/-- R110, R134: the corner −2^63 by −1, with checking on and both sources readable. -/
theorem witness_division : ∃ s : State, s.thr.chk = true ∧ ReadableW s 1#5 ∧ ReadableW s 2#5 ∧ s.readW 1#5 = 0x8000000000000000#64 ∧
    s.readW 2#5 = 0xFFFFFFFFFFFFFFFF#64 :=
  ⟨st (fun t => { t with chk := true, regs := [(1, 0x8000000000000000#64), (2, 0xFFFFFFFFFFFFFFFF#64)] }), by unfold ReadableW; decide +kernel⟩

theorem witness_stallshort : short5.thr.chk = true ∧ ReadableW short5 1#5 ∧ ¬ ReadableW short5 5#5 := by unfold ReadableW; decide +kernel

/-- R119 to R121: an even target, room for a frame at its limit of 12 octets, and an octet window that RET may lower. -/
theorem witness_transfers : ∃ s : State, ReadableW s 15#5 ∧ (s.readW 15#5).getLsbD 0 = false ∧ 5 ≤ s.thr.resident ∧ s.thr.resident + 2 ≤ 12 :=
  ⟨st (fun t => { t with base := 2, regs := [(31, 0x40#64)] }), by unfold ReadableW; decide +kernel⟩
theorem witness_spill : ∃ s : State, 12 < s.thr.resident + 2 := ⟨st (fun t => { t with base := 8 }), by decide +kernel⟩
theorem witness_fill : ∃ s : State, ReadableW s 15#5 ∧ s.thr.resident < 5 := ⟨st id, by unfold ReadableW; decide +kernel⟩
theorem witness_odd_target : ∃ s : State, ReadableW s 15#5 ∧ 5 ≤ s.thr.resident ∧ (s.readW 15#5).getLsbD 0 = true :=
  ⟨st (fun t => { t with base := 2, regs := [(31, 0x41#64)] }), by unfold ReadableW; decide +kernel⟩

theorem witness_nest : ∃ s : State, LevelFree s 3#2 ∧ ¬ LevelFree s 0#2 ∧ ReadableW s 1#5 :=
  ⟨st (fun t => { t with chk := true, nest := { t.nest with act := [(0, true)] } }), by unfold LevelFree ReadableW; decide +kernel⟩
/-- R131: a level that goes on and one that is at its count. -/
theorem witness_loop : ∃ s : State, s.thr.nest.act.get 0 = true ∧ s.thr.nest.act.get 1 = true ∧ s.thr.nest.act.get 2 = false ∧
    (s.thr.nest.idx.get 0 + 1#32).toNat < (s.thr.nest.cnt.get 0).toNat ∧ (s.thr.nest.cnt.get 1).toNat ≤ (s.thr.nest.idx.get 1 + 1#32).toNat :=
  ⟨st (fun t => { t with nest := { t.nest with act := [(0, true), (1, true)], cnt := [(0, 2#32), (1, 1#32)] } }), by decide +kernel⟩

/-- R297: a handler stands; R303, R304: a trap inside one; R368: none stands. -/
theorem witness_trap : ∃ s : State, s.thr.inTrap = false ∧ s.thr.tvec ≠ 0#64 := ⟨st (fun t => { t with tvec := 0x40#64 }), by decide +kernel⟩
theorem witness_double : ∃ s : State, s.thr.inTrap = true := ⟨st (fun t => { t with inTrap := true }), by decide +kernel⟩
theorem witness_nohandler : ∃ s : State, s.thr.inTrap = false ∧ s.thr.tvec = 0#64 := ⟨st id, by decide +kernel⟩
theorem test_decode_gett_inv : decodeTableWord 32 0x1A000271 = none ∧ (0x1A000271#32).extractLsb' 25 7 = 0x0D#7 ∧ (0x1A000271#32).extractLsb' 4 6 = 0x27#6 := by
  decide +kernel
theorem witness_unassigned : (0xFFFFFFFF#32).extractLsb' 25 7 ≠ 0x0D#7 ∨ (0xFFFFFFFF#32).extractLsb' 4 6 ≠ 0x27#6 := by decide

theorem witness_special_unlisted : unlistedSpecial 0x006 ∧ unlistedSpecial 0x280 ∧ ¬ unlistedSpecial 0x27F := by unfold unlistedSpecial; decide +kernel
theorem witness_special_write : ∃ s : State, ReadableW s 1#5 ∧ NoEntryDue s 0x004 ∧ FormatOk s 5 (s.readW 1#5) ∧ ¬ FormatOk s 5 (s.readW 2#5) ∧ NoEntryDue s 0x105 :=
  ⟨regs [(1, 0x80#64), (2, 0x81#64)], by unfold ReadableW NoEntryDue FormatOk; decide +kernel⟩
/-- R314: an entry is due, and the primary share has room for its last. -/
theorem witness_special_logged : ∃ s : State, ¬ NoEntryDue s 0x100 ∧ (s.tile s.curTile).undoPrim = 447 ∧ s.fullSince = none ∧ FormatOk s 0 (s.readW 1#5) :=
  ⟨{ State.reset with
      tiles := [(0, { (default : Tile) with prim := some 1, undoPrim := 447, threads := [(0, { aThread with recov := true, regs := [(1, 0x80#64)] })] })]
      launches := [(1, { aLaunch with recover := true, hadSeal := true })] }, by unfold NoEntryDue FormatOk; decide +kernel⟩

theorem witness_wsave : ∃ s : State, s.thr.depth = 15 ∧ 5 ≤ s.thr.resident ∧ s.thr.chk = false ∧ s.recovering s.curTile = false :=
  ⟨st (fun t => { t with base := 2, depth := 15 }), by decide +kernel⟩
theorem witness_wrest : ∃ s : State, s.thr.depth ≠ 0 ∧ s.thr.resident = 9 := ⟨st (fun t => { t with base := 6, depth := 1 }), by decide +kernel⟩
theorem witness_wsave_illegal : ∃ s : State, s.thr.depth = 16 ∧ s.thr.resident < 5 := ⟨st (fun t => { t with depth := 16 }), by decide +kernel⟩
theorem witness_wrest_illegal : ∃ s : State, s.thr.depth = 0 ∧ 9 < s.thr.resident := ⟨st (fun t => { t with base := 8 }), by decide +kernel⟩

/-- R126: a time that has come, in its very cycle, and one a cycle away. -/
theorem witness_swait : ∃ s : State, ReadableW s 1#5 ∧ ReadableW s 2#5 ∧ (s.readW 1#5).toNat = s.cyc ∧ (s.readW 2#5).toNat = s.cyc + 1 :=
  ⟨{ regs [(1, 100#64), (2, 101#64)] with cyc := 100 }, by unfold ReadableW; decide +kernel⟩
theorem witness_swait_expiry : ((st (fun t => { t with wait := .swait 90 0, waitFrom := 20 })).thread 0 0).wait = .swait 90 0 := by decide +kernel

/-- R306: descriptors in tile SRAM, the last one that fits, and a mailbox that is empty or holds a message. -/
def mailDie (n : Nat) : State := { sys [(1, 0x5BFE0#64), (2, 0#64)] with dies := [(0, { (default : Die) with mailbox := List.replicate n default, nextTicket := 1 })] }
theorem witness_mbxrd : SystemReads (mailDie 1) 1#5 ∧ DescAddress (mailDie 1) ((mailDie 1).readW 1#5) ∧ ((mailDie 1).die (dieOf (mailDie 1).curTile)).mailbox = [default] := by
  unfold SystemReads ReadableW DescAddress; decide +kernel
theorem witness_mbxrd_empty : SystemReads (mailDie 0) 1#5 ∧ DescAddress (mailDie 0) ((mailDie 0).readW 1#5) ∧ ((mailDie 0).die 0).mailbox = [] := by
  unfold SystemReads ReadableW DescAddress; decide +kernel
/-- A descriptor at 0 of the proctor's SRAM. -/
def descAt (bytes : List Byte) : State := (sys [(1, 0#64)]).poke (.tile 262144) 0 bytes
theorem witness_tick_post : ∃ s : State, SystemReads s 1#5 ∧ DescAddress s (s.readW 1#5) ∧ s.num (.tile s.curTile) 0 1 = 1 ∧ s.num (.tile s.curTile) 2 2 = 4095 ∧
    s.num (.tile s.curTile) 4 4 = 0 ∧ ∀ i, i < 24 → s.num (.tile s.curTile) (0 + (8 + i)) 1 = 0 :=
  ⟨descAt [1, 0xFF, 0xFF, 0x0F], by unfold SystemReads ReadableW DescAddress; decide +kernel⟩
theorem witness_peer_post : ∃ s : State, SystemReads s 1#5 ∧ DescAddress s (s.readW 1#5) ∧ s.num (.tile s.curTile) 0 1 = 2 ∧ s.num (.tile s.curTile) 1 1 = 0 ∧
    s.num (.tile s.curTile) 2 2 = 63 ∧ s.num (.tile s.curTile) 4 4 = 0 :=
  ⟨descAt [2, 0, 63], by unfold SystemReads ReadableW DescAddress; decide +kernel⟩

/-- Table 16.6: tile 5 is parked under ticket 7; a reply that names both is accepted by UNPARK, and by XRESUME where the ticket holds a transfer. -/
def parkedAt (h : HeldItem) : State :=
  let s := { State.reset with
    tiles := [(5, { (default : Tile) with prim := some 1, parked := true, ticket := 7 }), (262144, { (default : Tile) with threads := [(0, { aThread with sys := true, regs := [(1, 0#64)] })] })]
    curTile := 262144, launches := [(1, aLaunch)], dies := [(0, { (default : Die) with held := [(7, h)], nextTicket := 8 })]
    xfers := [(1, some { (default : Xfer) with kind := .get, ticket := 7, lid := 1 })], nextXfer := 2 }
  s.poke (.tile 262144) 0 [0, 0, 0, 0, 7]
/-- The reply's address and fields as the statements read them. -/
theorem witness_unpark : ∃ s : State, SystemReads s 1#5 ∧ DescAddress s (s.readW 1#5) ∧ s.unparkOk 0 (s.reply 0) = true ∧ (s.reply 0).ticket = 7 ∧
    (s.die 0).held.get 7 = .tile 1 5 0 3 1 0 false false ∧ (s.launch 1).state = .running ∧ ∀ e ∈ (s.die 0).held.del 7, False :=
  ⟨parkedAt (.tile 1 5 0 3 1 0 false false), by unfold SystemReads ReadableW DescAddress; decide +kernel⟩
theorem witness_unpark_code : ∃ s : State, SystemReads s 1#5 ∧ s.unparkOk 0 (s.reply 0) = true ∧ (s.reply 0).ticket = 0 ∧ (s.thread 5 1).live = true ∧
    (s.thread 5 1).halted = false ∧ (s.thread 5 1).abort.code.toNat < (s.reply 0).code :=
  ⟨{ ((sys [(1, 0#64)]).poke (.tile 262144) 0 [2, 0, 1, 0, 0, 0, 0, 0, 0, 0, 0, 0, 0, 0, 0, 0, 5]) with
      tiles := [(5, { (default : Tile) with prim := some 1, threads := [(1, aThread)] }), (262144, { (default : Tile) with threads := [(0, { aThread with sys := true, regs := [(1, 0#64)] })] })] },
    by unfold SystemReads ReadableW; decide +kernel⟩
theorem witness_unpark_bad : ∃ s : State, SystemReads s 1#5 ∧ DescAddress s (s.readW 1#5) ∧ s.unparkOk 0 (s.reply 0) = false ∧ s.xresumeOk 0 (s.reply 0) = false :=
  ⟨descAt [3], by unfold SystemReads ReadableW DescAddress; decide +kernel⟩
theorem witness_xresume : ∃ s : State, SystemReads s 1#5 ∧ DescAddress s (s.readW 1#5) ∧ s.xresumeOk 0 (s.reply 0) = true ∧ (s.reply 0).action = 0 ∧
    (s.die 0).held.get 7 = .xfer 1 6 0 true false := ⟨parkedAt (.xfer 1 6 0 true false), by unfold SystemReads ReadableW DescAddress; decide +kernel⟩
theorem witness_xresume_program : ∃ s : State, SystemReads s 1#5 ∧ DescAddress s (s.readW 1#5) ∧ s.xresumeOk 0 (s.reply 0) = true ∧
    (s.die 0).held.get 7 = .prog 1 3 2 0 false false := ⟨parkedAt (.prog 1 3 2 0 false false), by unfold SystemReads ReadableW DescAddress; decide +kernel⟩

/-- R306: GSTOP of the last tile that can be named, held by a launch that runs, and its release where this proctor holds it; of a tile that no launch holds; of no tile. -/
def stopped (st : LState) (by_ : Option Nat) (v : Word) : State :=
  { State.reset with
    tiles := [(4095, { (default : Tile) with prim := some 1 }), (262144, { (default : Tile) with threads := [(0, { aThread with sys := true, regs := [(1, v)] })] })]
    curTile := 262144, launches := [(1, { aLaunch with state := st, stopper := by_ })] }
theorem witness_gstop : ∃ s : State, SystemReads s 1#5 ∧ (s.readW 1#5).toNat = 4095 ∧ (s.tile 4095).prim = some 1 ∧ (s.launch 1).state = .heldStop ∧
    (s.launch 1).stopper = some s.curTile := ⟨stopped .heldStop (some 262144) 4095#64, by unfold SystemReads ReadableW; decide +kernel⟩
theorem witness_gstop_free : ∃ s : State, SystemReads s 1#5 ∧ (s.readW 1#5).toNat < 4096 ∧ (s.tile (s.readW 1#5).toNat).prim = none :=
  ⟨stopped .running none 0#64, by unfold SystemReads ReadableW; decide +kernel⟩
theorem witness_gstop_release_other : ∃ s : State, SystemReads s 1#5 ∧ (s.readW 1#5).toNat = 4095 ∧
    ∀ lid, (s.tile 4095).prim = some lid → ¬ ((s.launch lid).state = .heldStop ∧ (s.launch lid).stopper = some s.curTile) :=
  ⟨stopped .running none 4095#64, by unfold SystemReads ReadableW; decide +kernel, by decide +kernel, fun lid h => by
    have e : ((stopped .running none 4095#64).tile 4095).prim = some 1 := by decide +kernel
    rw [e] at h; cases h; decide +kernel⟩
theorem witness_gstop_none : ∃ s : State, SystemReads s 1#5 ∧ (s.readW 1#5).toNat = 4096 := ⟨stopped .running none 4096#64, by unfold SystemReads ReadableW; decide +kernel⟩
theorem witness_idle : ∃ s : State, SystemReads s 1#5 ∧ (s.readW 1#5).toNat = s.cyc ∧ s.readW 1#5 ≠ 0#64 :=
  ⟨{ sys [(1, 9#64)] with cyc := 9 }, by unfold SystemReads ReadableW; decide +kernel⟩
theorem witness_idle_waits : ∃ s : State, SystemReads s 1#5 ∧ (s.die (dieOf s.curTile)).mailbox = [] ∧ (s.readW 1#5).toNat = s.cyc + 1 :=
  ⟨sys [(1, 1#64)], by unfold SystemReads ReadableW; decide +kernel⟩

/-- R88, R306: no system mode; an address off by one, one past the end and one in a reserved bank. -/
theorem witness_priv : ∃ s : State, s.thr.sys = false ∧ (s.readW 1#5).toNat = 4095 ∧ ¬ DescAddress s (s.readW 1#5) := ⟨regs [(1, 4095#64)], by unfold DescAddress; decide +kernel⟩
theorem witness_desc_align : ∃ s : State, SystemReads s 1#5 ∧ (s.readW 1#5).toNat % 32 ≠ 0 := ⟨sys [(1, 31#64)], by unfold SystemReads ReadableW; decide +kernel⟩
theorem witness_desc_taddr : ∃ s : State, SystemReads s 1#5 ∧ (s.readW 1#5).toNat % 32 = 0 ∧ 393216 < (s.readW 1#5).toNat + 32 :=
  ⟨sys [(1, 393216#64)], by unfold SystemReads ReadableW; decide +kernel⟩
theorem witness_desc_reserved : ∃ s : State, SystemReads s 1#5 ∧ (s.readW 1#5).toNat % 32 = 0 ∧ (s.readW 1#5).toNat + 32 = 393216 ∧
    s.firstReserved s.curTile (s.readW 1#5).toNat 32 ≠ none := ⟨sys [(1, 0x5FFE0#64)], by unfold SystemReads ReadableW; decide +kernel⟩

/-! ## States that meet the hypotheses of the tile memory, vector and matrix statements -/

/-- A launch with recovery, sealed once, whose tile 0 has the log occupancy given. -/
def recovering (n : Nat) (f : Thread → Thread) : State :=
  { State.reset with
    tiles := [(0, { (default : Tile) with prim := some 1, undoPrim := n, threads := [(0, f { aThread with recov := true })] })]
    launches := [(1, { aLaunch with recover := true, hadSeal := true })] }

/-- The last doubleword of the banks that are not reserved, through a T-format address and an address register; without a log, and with room for one line. -/
theorem witness_access : ∃ s : State, ReadableW s 1#5 ∧ ReadableW s 2#5 ∧ ElementOk s (offsetAddress s 1#5 0xFF#9 8) 8 ∧ ElementOk s (addressRegister s 3) 8 ∧ NoLog s :=
  ⟨st (fun t => { t with regs := [(1, 0x5B800#64)], nest := { t.nest with base := [(3, 0x5BFF8#64)] } }), by unfold ReadableW ElementOk offsetAddress addressRegister NoLog; decide +kernel⟩
theorem witness_access_logged : ∃ s : State, ReadableW s 1#5 ∧ ElementOk s (offsetAddress s 1#5 0#9 8) 8 ∧ ElementOk s (addressRegister s 0) 8 ∧ LogRoom s 1 :=
  ⟨recovering 447 (fun t => { t with regs := [(1, 64#64)] }), by unfold ReadableW ElementOk offsetAddress addressRegister LogRoom; decide +kernel⟩
/-- R182: off by one; past the end; in a reserved bank; each for a word and, where the size allows, a byte. -/
theorem witness_access_traps : ∃ s : State, ReadableW s 1#5 ∧ (s.readW 1#5).toNat % 4 ≠ 0 ∧ (s.readW 2#5).toNat % 4 = 0 ∧ 393216 < (s.readW 2#5).toNat + 1 ∧
    (s.readW 3#5).toNat + 4 = 393216 ∧ s.bankReserved s.curTile ((s.readW 3#5).toNat / 1024) = true :=
  ⟨regs [(1, 1#64), (2, 393216#64), (3, 393212#64)], by unfold ReadableW; decide +kernel⟩
/-- R184: a CAS that meets its value and one that does not. -/
theorem witness_cas : ∃ s : State, ReadableW s 1#5 ∧ ReadableW s 2#5 ∧ ElementOk s (s.readW 1#5) 4 ∧ NoLog s ∧
    BitVec.ofNat 32 (held s (s.readW 1#5) 4) = BitVec.setWidth 32 (s.readW 0#5) ∧ BitVec.ofNat 32 (held s (s.readW 1#5) 4) ≠ BitVec.setWidth 32 (s.readW 2#5) :=
  ⟨regs [(1, 16#64), (2, 9#64)], by unfold ReadableW ElementOk NoLog; decide +kernel⟩

/-- R185, R186: sixteen lanes that pass, two of them at one address; and a log with room for sixteen lines. -/
theorem witness_lanes : ∃ s : State, ReadableW s 1#5 ∧ ReadableOld s 4#5 0#3 ∧ ReadableV s 2#5 ∧
    (∀ i, i < 16 → ElementOk s (s.readW 1#5 + BitVec.ofNat 64 i * (BitVec.setWidth 32 (s.readW 2#5)).signExtend 64) 4) ∧
    (∀ i, i < 16 → ElementOk s (s.readW 1#5 + ((s.readV 2#5).extractLsb' (32 * i) 32).setWidth 64) 4) ∧ LogRoom s 16 :=
  ⟨recovering 432 (fun t => { t with regs := [(1, 64#64), (2, 0xFFFFFFFC#64)], vregs := [(2, 8#512)] }), by
    unfold ReadableW ReadableV ReadableOld ReadableM ReadableV ElementOk LogRoom; decide +kernel⟩

/-- R187 to R191: the longest copy, of a whole bank, and the shortest, at the end of one. -/
def rawBanks : State := { State.reset with
  tiles := [(0, { (default : Tile) with prim := some 1, bfmt := [(1, 0x80#64), (2, 0x80#64)], threads := [(0, { aThread with regs := [(1, 1#64), (2, 2#64), (3, 1024#64), (4, 1#64 ||| (1023#64 <<< 11) ||| (1023#64 <<< 21))] })] })]
  launches := [(1, aLaunch)] }
theorem witness_copy : ReadableW rawBanks 1#5 ∧ NoLog rawBanks ∧ CopyDescriptor (rawBanks.readW 3#5) 1024 0 0 ∧ CopyDescriptor (rawBanks.readW 4#5) 1 1023 1023 ∧
    RawBank rawBanks (rawBanks.readW 1#5) ∧ RawBank rawBanks (rawBanks.readW 2#5) :=
  ⟨readable_w rfl _, by unfold NoLog; decide +kernel, ⟨⟨0, by decide +kernel⟩, by decide +kernel⟩, ⟨⟨0, by decide +kernel⟩, by decide +kernel⟩, by unfold RawBank; decide +kernel,
   by unfold RawBank; decide +kernel⟩
theorem witness_copy_end : ∃ s : State, (s.tile 0).copies.get 0 = [(0, 1#8), (393215, 2#8)] ∧ (∀ e ∈ (s.tile 0).copies.get 0, e.1 < 393216) ∧
    (((s.tile 0).copies.get 0).map Prod.fst).Nodup :=
  ⟨{ State.reset with tiles := [(0, { (default : Tile) with copies := [(0, [(0, 1#8), (393215, 2#8)])] })] }, by decide +kernel⟩

theorem witness_vector : ∃ s : State, s.thr.chk = true ∧ ReadableV s 1#5 ∧ ReadableV s 2#5 ∧ ReadableOld s 3#5 1#3 ∧ ReadableOld s 3#5 0#3 ∧ ReadableM s 1 ∧
    ReadableW s 1#5 ∧ s.thr.subst = [] := ⟨st (fun t => { t with chk := true, mregs := [(1, 5#16)] }), by unfold ReadableV ReadableOld ReadableM ReadableW ReadableV; decide +kernel⟩
/-- R146: every active element is finite; one is infinite. R148: no reserved code in an active lane; one. -/
def quant (v : Vec) : State := st (fun t => { t with vregs := [(1, v)] })
theorem witness_vquant : ∀ j, j < 32 → (if ((quant 0x3F800000#512).readM 0).getLsbD (j % 16) then fval (if j < 16 then lane ((quant 0x3F800000#512).readV 1#5) j
    else lane ((quant 0x3F800000#512).readV 2#5) (j - 16)) else .fin false 0 0).special = false := by decide +kernel
theorem witness_vquant_parks : ((quant 0x7F800000#512).readM 0).getLsbD 0 = true ∧ (fval (lane ((quant 0x7F800000#512).readV 1#5) 0)).special = true := by decide +kernel
theorem witness_vdeq : ∃ s : State, (s.readV 1#5).extractLsb' 256 8 = 127#8 ∧ ∀ i, i < 16 → (s.readV 1#5).extractLsb' (8 * i) 8 ≠ 0x80#8 :=
  ⟨quant (127#512 <<< 256), by decide +kernel⟩
theorem witness_vdeq_parks : ∃ s : State, (s.readV 1#5).extractLsb' 256 8 = 255#8 ∧ (s.readM 0).getLsbD 15 = true := ⟨quant (255#512 <<< 256), by decide +kernel⟩

/-- R159 to R163: operands of banks 1 and 2 in a format, one row, k = 1. -/
def mmaState (fm : Word) (q : List MCmd) : State := { State.reset with
  tiles := [(0, { (default : Tile) with prim := some 1, bfmt := [(1, fm), (2, fm)], mq := q, threads := [(0, { aThread with regs := [(9, (2048#64 <<< 20) ||| (1#64 <<< 49))] })] })]
  launches := [(1, aLaunch)] }
theorem runOk_one {s : State} {ty a n b : Nat} (g : Suits s ty b) (h : a + n ≤ 393216) (lo : a / 1024 = b) (hi : (a + n - 1) / 1024 = b) : RunOk s ty a n :=
  ⟨h, fun c hb hc => by rw [lo] at hb; rw [hi] at hc; rwa [Nat.le_antisymm hc hb]⟩
theorem mma_suits (fm : Word) (ty b : Nat) (h : (ty, fm) ∈ [(0, 8#64), (1, 7#64), (2, 9#64), (3, 0#64)]) (hb : b = 1 ∨ b = 2) : Suits (mmaState fm []) ty b := by
  simp only [List.mem_cons, Prod.mk.injEq, List.not_mem_nil, or_false] at h
  rcases h with ⟨rfl, rfl⟩ | ⟨rfl, rfl⟩ | ⟨rfl, rfl⟩ | ⟨rfl, rfl⟩ <;> rcases hb with rfl | rfl <;>
    refine ⟨by decide +kernel, by decide +kernel, ?_⟩ <;> first | (left; decide +kernel) | (simp only []; decide +kernel)
/-- Each type of MMA with operands that suit it. -/
theorem witness_mma (fm : Word) (ty : Nat) (h : (ty, fm) ∈ [(0, 8#64), (1, 7#64), (2, 9#64), (3, 0#64)]) : MmaReady (mmaState fm []) ty 0#1 0#1 0#1 1#9 9#5 0#3 := by
  have g1 := mma_suits fm ty 1 h (.inl rfl)
  have g2 := mma_suits fm ty 2 h (.inr rfl)
  simp only [List.mem_cons, Prod.mk.injEq, List.not_mem_nil, or_false] at h
  rcases h with ⟨rfl, rfl⟩ | ⟨rfl, rfl⟩ | ⟨rfl, rfl⟩ | ⟨rfl, rfl⟩ <;>
    refine ⟨readable_w rfl _, fun _ => readable_v rfl _, fun _ => readable_w rfl _, (by unfold AccOk; decide +kernel), by decide +kernel, by decide +kernel, by decide +kernel,
      by decide +kernel, by decide +kernel, ?_, fun _ g => absurd g (by decide), ?_⟩ <;>
    first
    | exact fun r hr _ => runOk_one g1 (by revert r; decide +kernel) (by revert r; decide +kernel) (by revert r; decide +kernel)
    | exact fun _ _ i hi => runOk_one g2 (by revert i; decide +kernel) (by revert i; decide +kernel) (by revert i; decide +kernel)
theorem witness_mma_queue : (ownQueue (mmaState 8#64 (List.replicate 7 default))).length < 8 ∧ 8 ≤ (ownQueue (mmaState 8#64 (List.replicate 8 default))).length := by decide +kernel
theorem witness_msta : MstaReady (mmaState 8#64 []) 1#9 0#5 3#3 2 ∧ AccOk (mmaState 8#64 []) 3#3 ∧ ¬ AccOk (mmaState 8#64 []) 4#3 := by
  unfold MstaReady AccOk ReadableW; decide +kernel
/-- R163 to R169: a queue that holds one command of each kind for accumulator 1. -/
def oneCmd (c : MCmd) : State := { State.reset with tiles := [(0, { (default : Tile) with prim := some 1, mq := [{ c with id := 3, acc := 1 }], threads := [(0, aThread)] })], launches := [(1, aLaunch)] }
def anMma (ty : Nat) (stage : Nat) : MCmd := { (default : MCmd) with
  kind := .mma { (default : MmaOp) with ty := ty, k := 1, mrow := 1#16, mcol := 1#16, fmts := [(0, 8#64)] }, stage := stage }
theorem witness_rows : AccOk (oneCmd (anMma 0 4)) 1#3 ∧ rowsReadable (oneCmd (anMma 0 4)) 1 = 8 ∧ rowsReadable (oneCmd (anMma 0 3)) 1 = 0 ∧
    rowsReadable (oneCmd (anMma 0 4)) 0 = 16 ∧ awaited (oneCmd (anMma 0 4)) 1#1 1#3 = [3] ∧ awaited (oneCmd (anMma 0 4)) 1#1 0#3 = [] := by
  unfold AccOk; decide +kernel
theorem witness_rows_woken : ∃ s : State, AccOk s 0#3 ∧ 15 < rowsReadable s 0 ∧ s.thr.heldFrom.getD s.cyc + 64 ≤ s.cyc :=
  ⟨{ st (fun t => { t with heldFrom := some 0 }) with cyc := 64 }, by unfold AccOk; decide +kernel⟩
theorem witness_mma_runs : ∃ s op, command s 0 0 3 = some { anMma 0 2 with id := 3, acc := 1 } ∧ (anMma 0 2).kind = .mma op ∧ op.ty ≤ 1 ∧ op.bs = false ∧
    ∀ e ∈ op.fmts, e.2.extractLsb' 0 4 ≠ 9#4 ∧ e.2.extractLsb' 0 4 ≠ 10#4 := ⟨oneCmd (anMma 0 2), _, by decide +kernel, rfl, by decide +kernel⟩
theorem witness_mzero_runs : (command (oneCmd { (default : MCmd) with kind := .mzero }) 0 0 3).map MCmd.kind = some .mzero := by decide +kernel
theorem witness_mwr_runs : (command (oneCmd { (default : MCmd) with kind := .mwr 15 7#512 }) 0 0 3).map MCmd.kind = some (.mwr 15 7#512) := by decide +kernel
/-- R168: one row of bytes, all zero, in format INT8. -/
def aStore : MstaOp := { bank := 0, off := 0, stride := 0, rmask := 1#16, mode := 0, isInt := true, bfmt := 0#64 }
theorem witness_msta_runs : ∃ s bs, (command s 0 0 3).map MCmd.kind = some (.msta aStore) ∧ s.mstaBytes 0 1 aStore [] = .ok bs ∧ s.recovering 0 = false ∧
    (∀ e ∈ bs, e.1 < 393216) ∧ (bs.map Prod.fst).Nodup :=
  ⟨oneCmd { (default : MCmd) with kind := .msta aStore }, _, by decide +kernel, rfl, by decide +kernel, by decide +kernel, by decide +kernel⟩

/-! ## States that meet the hypotheses of the machine and transfer statements -/

/-- NOP stands where a step fetches its next instruction; a word that no table assigns. -/
def nopNext : State := State.withFetchWord State.reset 32 0x00000001
def badNext : State := State.withFetchWord State.reset 32 0xFFFFFFFF
theorem witness_step : NoEvent nopNext ∧ nopNext.dueProg = none ∧ nopNext.nextAct = some (0, .issue 0 1#32) ∧ decode (codeOf 1#32) = .ok (.nop, 0#3) :=
  ⟨by unfold NoEvent; decide +kernel, by decide +kernel, by decide +kernel, rfl⟩
theorem witness_step_unassigned : NoEvent badNext ∧ badNext.dueProg = none ∧ badNext.nextAct = some (0, .issue 0 0xFFFFFFFF#32) ∧
    ∃ e, decode (codeOf 0xFFFFFFFF#32) = .error e := ⟨by unfold NoEvent; decide +kernel, by decide +kernel, by decide +kernel, _, rfl⟩
/-- R7: an event that is due; a due command; a TICK taken; the end of a cycle; no power. -/
theorem witness_event : ∃ (s : State) (c : Nat) (e : Instr) (r : List (Nat × Instr)), s.powered = true ∧ s.events = (c, e) :: r ∧ c ≤ s.cyc := ⟨{ State.reset with events := [(0, .rampTick)] }, _, _, _, rfl, rfl, by decide⟩
def oneProgram (w : Word) (p : Prog) : State := { State.reset with
  tiles := [(0, { (default : Tile) with prim := some 1, threads := [(0, aThread)] })], launches := [(1, { aLaunch with progs := [[w]] })]
  progs := [(0, { p with lid := 1, st := 1 })] }
theorem witness_command : ∃ s : State, NoEvent s ∧ s.dueProg = some 0 ∧ ∃ w i, s.command 0 = some w ∧ decodeCommand w = .ok i :=
  ⟨oneProgram 0x2C00000000000000#64 default, by unfold NoEvent; decide +kernel, by decide +kernel, _, _, rfl, rfl⟩
theorem witness_tick : ∃ s : State, NoEvent s ∧ s.dueProg = none ∧ s.nextAct = some (0, .tick 0) :=
  ⟨nopNext.updThread 0 0 (fun x => { x with ticks := 1, tie := true, tvec := 64#64 }), by unfold NoEvent; decide +kernel, by decide +kernel, by decide +kernel⟩
theorem witness_cycle_end : NoEvent State.reset ∧ State.reset.dueProg = none ∧ State.reset.nextAct = none := by unfold NoEvent; decide +kernel
theorem witness_annul : ∃ s : State, NoEvent s ∧ s.dueProg = none ∧ s.nextAct = some (0, .annul 0) ∧ (s.thread 0 0).n0 = true ∧ (s.thread 0 0).live = true ∧
    s.textPresent 0 0 = true ∧ (s.thread 0 0).notBefore ≤ s.cyc ∧ (s.thread 0 0).ticks = 0 ∧ (s.tile 0).parked = false ∧ (s.thread 0 0).wait = .none :=
  ⟨nopNext.updThread 0 0 (fun x => { x with n0 := true }), by unfold NoEvent; decide +kernel, by decide +kernel⟩
theorem witness_encode : (Instr.vfmac16 31#5 31#5 1#1).wellFormed = true ∧ ∃ c, encode (.vfmac16 31#5 31#5 1#1) 7#3 = some c := ⟨rfl, _, rfl⟩
theorem witness_canonical : Memory.wf State.reset.mem = true ∧ ∃ t, step State.reset = .next t := ⟨rfl, _, rfl⟩
/-- R3: a write at the end of a space. -/
theorem witness_write : (393208 : Nat) + (List.replicate 8 (1#8 : Byte)).length ≤ (Space.tile 0).size := by decide

/-! Transfers (R194 to R218): a running launch of context 1 in package 0; w1 the level-side address, w2 the tile-side one, w3 the length. -/

/-- One thread with three operands; the launch's keys and the tile's other state can be set. -/
def xf (ad loc len : Word) : State := st (fun t => { t with regs := [(1, ad), (2, loc), (3, len)], ident := { t.ident with ntile := 16#64 } })
theorem xfer_reads {s : State} (h : s.thr.chk = false) (w : s.thr.wait = .none) (t a l : BitVec 5) : XferReads s t a l :=
  ⟨w, readable_w h _, readable_w h _, readable_w h _⟩
set_option synthInstance.maxSize 1000 in
set_option synthInstance.maxHeartbeats 200000 in
def passesDec (s : State) (r : XReq) : Decidable (Passes s r) := by
  unfold Passes Admitted
  dsimp only
  infer_instance
theorem passes_of {s : State} {r : XReq} (h : @decide _ (passesDec s r) = true) : Passes s r := @of_decide_eq_true _ (passesDec s r) h
/-- Operands read from w1 to w3 that pass every check. -/
abbrev passing (ad loc len : Word) (space : Nat) (get depa : Bool) (limit : Nat) : Prop :=
  XferReads (xf ad loc len) 2#5 1#5 3#5 ∧ Passes (xf ad loc len) (operands (xf ad loc len) space get depa limit false 2#5 1#5 3#5)
/-! Transfers that pass their checks at the greatest addresses of their space. -/
theorem witness_get_g : passing 0x1BFF00#64 0x5BF00#64 256#64 0 true false 393216 := ⟨xfer_reads rfl rfl _ _ _, passes_of (by decide +kernel)⟩
theorem witness_get_s : passing 0#64 0#64 0xFFFF00000001#64 1 true false 393216 := ⟨xfer_reads rfl rfl _ _ _, passes_of (by decide +kernel)⟩
theorem witness_get_m : passing 0xFFFFFFFFFF00#64 0#64 256#64 2 true false 393216 := ⟨xfer_reads rfl rfl _ _ _, passes_of (by decide +kernel)⟩
theorem witness_get_h : passing 0xFFFFFFFFFFFFFF00#64 0#64 256#64 3 true false 393216 := ⟨xfer_reads rfl rfl _ _ _, passes_of (by decide +kernel)⟩
theorem witness_get_r : passing 0xFFFFFFFFFFFF#64 0#64 1#64 4 true false 393216 := ⟨xfer_reads rfl rfl _ _ _, passes_of (by decide +kernel)⟩
theorem witness_get_t : passing 0xF0005BF00#64 0#64 256#64 5 true false 393216 := ⟨xfer_reads rfl rfl _ _ _, passes_of (by decide +kernel)⟩
theorem witness_dep_g : passing 0x1BFF00#64 0x5BF00#64 256#64 0 false false 256 := ⟨xfer_reads rfl rfl _ _ _, passes_of (by decide +kernel)⟩
theorem witness_dep_s : passing 0#64 0#64 1#64 1 false false 256 := ⟨xfer_reads rfl rfl _ _ _, passes_of (by decide +kernel)⟩
theorem witness_dep_m : passing 0xFFFFFFFFFF00#64 0#64 256#64 2 false false 256 := ⟨xfer_reads rfl rfl _ _ _, passes_of (by decide +kernel)⟩
theorem witness_dep_h : passing 0xFFFFFFFFFFFFFF00#64 0#64 256#64 3 false false 256 := ⟨xfer_reads rfl rfl _ _ _, passes_of (by decide +kernel)⟩
theorem witness_dep_r : passing 0xFFFFFFFFFFFF#64 0#64 1#64 4 false false 256 := ⟨xfer_reads rfl rfl _ _ _, passes_of (by decide +kernel)⟩
theorem witness_dep_t : passing 0xF0005BF00#64 0#64 256#64 5 false false 256 := ⟨xfer_reads rfl rfl _ _ _, passes_of (by decide +kernel)⟩
theorem witness_depa : passing 0xF00000008#64 0#64 256#64 5 false true 256 := ⟨xfer_reads rfl rfl _ _ _, passes_of (by decide +kernel)⟩
theorem witness_depb_g : passing 0x1B0000#64 0#64 0xFFFF#64 0 false false 393216 := ⟨xfer_reads rfl rfl _ _ _, passes_of (by decide +kernel)⟩
/-- R202: a tensor of four bytes in the directory of die 0; handle 1 names none. -/
def tensors : State := ((xf 0#64 0#64 1#64).poke (.directory 0) 0 [1, 0, 1, 0, 4, 0, 0, 0])
theorem witness_get_s_lands : (tensors.tensorDir 0 0).accepts 0 false (coordsOf 0) 1 1 = true ∧ (tensors.tensorRun 0 (tensors.tensorDir 0 0) (coordsOf 0) 1).isSome = true ∧
    (tensors.tensorDir 0 1).accepts 1 false (coordsOf 0) 1 1 = false := by decide +kernel
/-- R199, R200: a page in the cache that may be read, one that may not, and one that no table has. -/
def pages (e : Word) : State := { xf 0#64 0#64 256#64 with groups := [(0, { (default : Group) with tlb := [⟨1, 0, 12, e⟩] })] }
theorem witness_get_m_lands : ∃ s1 res, (pages 7#64).mapRun (cacheOf 0) 1 refuseRead 2 0 256 = (s1, 0, .ok res) := ⟨_, _, rfl⟩
theorem witness_get_m_held : ∃ s1 g, (pages 3#64).mapRun (cacheOf 0) 1 refuseRead 2 0 256 = (s1, 0, .error g) := ⟨_, _, rfl⟩
theorem witness_get_m_walks : 0 < ((pages 7#64).mapRun (cacheOf 0) 2 refuseRead 2 0 256).2.1 := by decide +kernel
theorem witness_get_h_window : ∃ s : State, s.inWindow 0 0 256 = true ∧ s.inWindow 0 1 256 = false := ⟨State.reset.updPkg 0 (fun p => { p with mg := [(0x40, 256#64)] }), by decide +kernel⟩
theorem witness_no_peer : NoPeer (xf 0#64 0#64 1#64) (operands (xf 0#64 0#64 1#64) 4 true false 393216 false 2#5 1#5 3#5) := by unfold NoPeer; decide +kernel
theorem witness_peer : ∃ s : State, ¬ NoPeer s (operands s 4 true false 393216 false 2#5 1#5 3#5) :=
  ⟨{ xf 0#64 0#64 0x500000001#64 with launches := [(1, { aLaunch with keys := [(5, 2)] })] }, by unfold NoPeer; decide +kernel⟩
/-- R210: an irrevocable write of 256 bytes that just fits the escrow, and one that does not. -/
def escrow (n : Nat) : State := (recovering 0 (fun t => { t with regs := [(1, 0#64), (2, 0#64), (3, 256#64)] })).updPkg 0 (fun p => { p with escrowUsed := n })
theorem witness_escrow : (let r := operands (escrow 67108608) 3 false false 256 false 2#5 1#5 3#5; escrowBytes (escrow 67108608) r = some 256 ∧
    ((escrow 67108608).pkg 0).escrowUsed + 256 ≤ 67108864 ∧ (escrow 67108608).cyc < (escrow 67108608).thr.heldFrom.getD (escrow 67108608).cyc + 64) := by decide +kernel
theorem witness_escrow_full : escrowBytes (escrow 67108609) (operands (escrow 67108609) 3 false false 256 false 2#5 1#5 3#5) = some 256 ∧
    67108864 < ((escrow 67108609).pkg 0).escrowUsed + 256 := by decide +kernel
/-- R212: operands of a CAS in the last registers that admit it, at the end of each space. -/
theorem witness_atomic_g : ∃ s : State, AtomicPasses s 0 4 2#5 1#5 30#5 :=
  ⟨xf 0x1BFFF8#64 0x5BFF8#64 0#64, ⟨xfer_reads rfl rfl _ _ _, by decide, fun _ => readable_w rfl _, fun _ => readable_w rfl _, by decide +kernel, by decide +kernel, by decide +kernel,
    by decide +kernel, by decide +kernel⟩, by decide +kernel⟩
theorem witness_atomic_m : ∃ s : State, AtomicPasses s 2 0 2#5 1#5 31#5 :=
  ⟨xf 0xFFFFFFFFFFF8#64 0#64 0#64, ⟨xfer_reads rfl rfl _ _ _, by decide, fun _ => readable_w rfl _, fun _ => readable_w rfl _, by decide +kernel, by decide +kernel, by decide +kernel,
    by decide +kernel, by decide +kernel⟩, by decide +kernel⟩
theorem witness_atomic_r : ∃ s : State, AtomicPasses s 4 3 2#5 1#5 29#5 ∧ s.peerOf 1 0 = some 2 :=
  ⟨{ xf 8#64 8#64 0#64 with launches := [(1, { aLaunch with keys := [(0, 2)] })] }, ⟨⟨xfer_reads rfl rfl _ _ _, by decide, fun _ => readable_w rfl _, fun _ => readable_w rfl _, by decide +kernel,
    by decide +kernel, by decide +kernel, by decide +kernel, by decide +kernel⟩, by decide +kernel⟩, by decide +kernel⟩
theorem witness_atomic_irrevocable : ∃ s : State, s.peerOf 1 0 = some 2 ∧ (s.launch 1).recover = true ∧ s.inDomain 1 2 = false :=
  ⟨{ xf 8#64 8#64 0#64 with launches := [(1, { aLaunch with keys := [(0, 2)], recover := true })] }, by decide +kernel⟩
/-- R215: n sealed batches of one deposit each are unfinished. -/
def batches (n : Nat) : State := { st (fun t => { t with nextBatch := n, regs := [(1, 1#64)] }) with
  xfers := (List.range n).map (fun i => (i, some { (default : Xfer) with kind := .dep, batch := i, lid := 1 })) }
theorem witness_batches : openBatches (batches 15) = 15 ∧ openBatches (batches 16) = 16 ∧ openBatches (batches 1) ≤ ((batches 1).readW 1#5).toNat ∧
    ((batches 2).readW 1#5).toNat < openBatches (batches 2) := by decide +kernel
theorem witness_xfence : (4#5 : BitVec 5).toNat ≤ 4 ∧ ¬ ((5#5 : BitVec 5).toNat ≤ 4 ∧ (4#5 : BitVec 5).toNat ≤ 4) := by decide

/-! What moves transfers on. -/

def oneXfer (x : Xfer) : State := { st id with xfers := [(1, some { x with lid := 1 })], nextXfer := 2 }
/-- A get of 256 bytes that lands at the end of tile SRAM. -/
theorem witness_get_lands : ∃ (s : State) (x : Xfer), s.xfers.get 1 = some x ∧ x.final = false ∧ x.ticket = 0 ∧ x.cv = false ∧ s.recovering x.tile = false ∧
    x.land = s.cyc ∧ x.local_done = false ∧ x.data.length = 256 ∧ x.local_ + 256 = 393216 ∧ x.skip ≠ [] ∧
    (∀ g ∈ x.segs, g.len = 256 ∧ ∀ i, i < 256 → s.poison.get ((g.key + i) / 64) = false) :=
  ⟨oneXfer { (default : Xfer) with local_ := 392960, data := List.replicate 256 7#8, skip := [392961], segs := [⟨(Space.group 0).key 0, 256, 0#64⟩] }, _, rfl, by decide +kernel⟩
/-- R181, R203: a get that waits for its landing; one under recovery with the last room of the exchange share. -/
theorem witness_get_early : ∃ (s : State) (x : Xfer), s.xfers.get 1 = some x ∧ x.final = false ∧ s.cyc < x.land := ⟨oneXfer { (default : Xfer) with land := 1 }, _, rfl, by decide⟩
theorem witness_get_room : ∃ (s : State) (x : Xfer), s.xfers.get 1 = some x ∧ x.thread ≠ 8 ∧ s.recovering x.tile = true ∧ s.fullSince = none ∧ (s.tile x.tile).undoExch = 63 ∧
    s.freshOf x.tile (spread x.local_ x.data) = 1 :=
  ⟨{ State.reset with
      tiles := [(0, { (default : Tile) with prim := some 1, undoExch := 63, threads := [(0, { aThread with recov := true })] })]
      launches := [(1, { aLaunch with recover := true, hadSeal := true })]
      xfers := [(1, some { (default : Xfer) with lid := 1, local_ := 64, data := [1#8] })] }, _, rfl, by decide +kernel⟩
theorem witness_get_held : ∃ (s : State) (x : Xfer), s.xfers.get 1 = some x ∧ x.final = false ∧ x.ticket ≠ 0 := ⟨oneXfer { (default : Xfer) with ticket := 1 }, _, rfl, by decide⟩
theorem witness_walk_error : ∃ (s1 : State) (n : Nat) (e : Nat × Nat), (oneXfer default).mapRun (cacheOf 0) 1 (Xfer.refuse default) 2 0 1 = (s1, n, .error e) := ⟨_, _, _, rfl⟩
theorem witness_walk_ok : ∃ s1 l s2 l2, (pages 7#64).mapRun (cacheOf 0) 1 (Xfer.refuse default) 2 0 256 = (s1, 0, .ok l) ∧
    s1.mapRun (cacheOf 0) 1 (Xfer.refuse default) 2 0 256 = (s2, 0, .ok l2) := ⟨_, _, _, _, rfl, rfl⟩
theorem witness_status : ∃ (s : State) (x : Xfer), s.xfers.get 1 = some x ∧ x.final = false ∧ x.sent = true ∧ x.kind = .amo 0 1#64 0#64 ∧ x.local_ + 8 = 393216 ∧
    (s.thread x.tile x.thread).wait = .none := ⟨oneXfer { (default : Xfer) with kind := .amo 0 1#64 0#64, sent := true, local_ := 393208 }, _, rfl, by decide +kernel⟩
theorem witness_status_dep : ∃ (s : State) (x : Xfer), s.xfers.get 1 = some x ∧ x.final = false ∧ x.sent = true ∧ x.kind = .dep :=
  ⟨oneXfer { (default : Xfer) with kind := .dep, sent := true }, _, rfl, by decide⟩
theorem witness_timeout_rolls : ∃ (s : State) (x : Xfer), s.xfers.get 1 = some x ∧ x.final = false ∧ (s.launch x.lid).recover = true ∧ x.thread ≠ 8 ∧ s.members ≠ [] :=
  ⟨{ recovering 0 id with xfers := [(1, some { (default : Xfer) with lid := 1 })] }, _, rfl, by decide +kernel⟩
theorem witness_timeout : ∃ (s : State) (x : Xfer), s.xfers.get 1 = some x ∧ x.final = false ∧ (s.launch x.lid).recover = false := ⟨oneXfer default, _, rfl, by decide +kernel⟩
theorem witness_escrow_ack : ∃ (s : State) (w : EscrowWrite), (s.pkg 0).escrow.find? (fun v => v.id == 4) = some w :=
  ⟨State.reset.updPkg 0 (fun p => { p with escrow := [{ (default : EscrowWrite) with id := 4 }] }), _, rfl⟩

/-! ## States that meet the hypotheses of the stream, superstep and fabric statements -/

theorem witness_sestart : ∃ s : State, (28#5 : BitVec 5).toNat ≤ 28 ∧ (s.readW 1#5).extractLsb' 16 48 = 0#48 ∧ (s.readW 1#5).extractLsb' 6 2 = 0#2 ∧
    ((s.readW 1#5).extractLsb' 0 6).toNat < (s.launchOf s.curTile s.curThread).progs.length ∧ (s.prog (handleKey 0 (s.readW 1#5).toNat)).busy = false ∧
    s.cyc < s.thr.heldFrom.getD s.cyc + 64 := ⟨{ regs [(1, 0#64)] with launches := [(1, { aLaunch with progs := [[0#64]] })] }, by decide +kernel⟩
theorem witness_sestart_busy : ∃ s : State, ((s.readW 1#5).extractLsb' 0 6).toNat < (s.launchOf s.curTile s.curThread).progs.length ∧ (s.prog 0).busy = true ∧ (s.prog 0).lid = 1 ∧
    handleKey 0 (s.readW 1#5).toNat = 0 := ⟨{ oneProgram 0#64 default with curThread := 0 }, by decide +kernel⟩
/-- R225: the last window of a primary thread, and the last that a filler may name. -/
theorem witness_window : ∃ s : State, MayName s 15 ∧ windowNumber s 15 = 15 ∧ Covers (s.window 0 15) 0#32 ∧ ¬ Covers (s.window 0 15) 1#32 :=
  ⟨st id, by unfold MayName Covers; decide +kernel⟩
theorem witness_window_filler : ∃ s : State, MayName s 3 ∧ ¬ MayName s 4 ∧ windowNumber s 3 = 19 := ⟨{ State.reset with curThread := 8 }, by unfold MayName; decide +kernel⟩
/-- R225: the largest window that fits below the reserved banks, of 256 slots. -/
theorem witness_wdef : ∃ s : State, (s.readW 1#5).extractLsb' 4 12 = 0#12 ∧ (s.readW 1#5).extractLsb' 25 39 = 0#39 ∧ ((s.readW 2#5).extractLsb' 0 32).toNat = 1472 ∧
    ((s.readW 2#5).extractLsb' 32 32).toNat = 256 ∧ MayName s ((s.readW 1#5).extractLsb' 0 4).toNat ∧ 1472 % 64 = 0 ∧ 1472 * 256 ≤ 393216 ∧
    s.firstReserved s.curTile 0 (1472 * 256) = none := ⟨regs [(1, 15#64), (2, 0x100000005C0#64)], by unfold MayName; decide +kernel⟩
theorem witness_sepoll : ((st (fun t => { t with wait := .poll })).thread 0 0).wait = .poll := by decide +kernel

/-- A program of an engine whose move has a slot to fill: tile 0, window 2 of two slots of 64 bytes, the first taken in the second state. -/
def mover (c : BitVec 32) : State := { oneProgram 0#64 { (default : Prog) with bKind := 1, bTag := 2#16, tile := 0 } with
  tiles := [(0, { (default : Tile) with prim := some 1, threads := [(0, aThread)], windows := [(2, { bank := 0, size := 64, count := 2, c := c, rel := 0, status := 0, landed := [] })] })] }
theorem witness_permit : (mover 1).bWindow 0 = some (0, 2) ∧ (program (mover 1)).bKind = 1 ∧ Permits ((mover 1).window 0 2) ∧ ¬ Permits ((mover 2).window 0 2) ∧
    (program (mover 1)).moves = [] := by unfold Permits; decide +kernel
/-- R226, R227: a move of one byte from S space, where the directory accepts it, and from a window that has a permit. -/
theorem witness_move : ∃ s1 l fd, ((mover 1).poke (.directory 0) 0 [1, 0, 1, 0, 4, 0, 0, 0]).moveSide 0 false 0 0 1 = (s1, 0, .ok (l, 1, fd)) ∧
    ((mover 1).poke (.directory 0) 0 [1, 0, 1, 0, 4, 0, 0, 0]).badRead (some 0) l = false := ⟨_, _, _, rfl, rfl⟩
theorem witness_moveq : ∃ s1 l fd bs, ((mover 1).poke (.directory 0) 0 [1, 0, 1, 0, 4, 0, 0, 0]).moveSide 0 false 0 0 1 = (s1, 0, .ok (l, 1, fd)) ∧
    ((mover 1).poke (.directory 0) 0 [1, 0, 1, 0, 4, 0, 0, 0]).moveBytes 0 64 (some (RMode.ofCode 0)) fd 1 0 1 [7#8] = .ok bs := ⟨_, _, _, _, rfl, rfl⟩
theorem witness_level_move : ∃ s1 s2 l m fd fm, ((mover 1).poke (.directory 0) 0 [3, 0, 1, 0, 4, 0, 0, 0]).moveSide 0 false 0 0 1 = (s1, 0, .ok (l, 1, fd)) ∧
    s1.moveSide 0 true 1 0 1 = (s2, 0, .ok (m, 1, fm)) := ⟨_, _, _, _, _, _, rfl, rfl⟩
theorem witness_barr : ∃ s : State, s.levelCounter 1 0 1 = 0 ∧ (0#32).toNat ≤ s.levelCounter 1 0 1 ∧ s.levelCounter 1 0 1 < (1#32 : BitVec 32).toNat := ⟨mover 1, by decide +kernel⟩
theorem witness_next : ∃ s : State, ((program s).idx.get 3 + 1#32).toNat < ((program s).cnt.get 3).toNat ∧ ((program s).cnt.get 0).toNat ≤ ((program s).idx.get 0 + 1#32).toNat :=
  ⟨oneProgram 0#64 { (default : Prog) with cnt := [(0, 1#32), (3, 2#32)] }, by decide +kernel⟩
theorem witness_program_start : ∃ s : State, (s.prog 0).st = 2 ∧ (s.prog 0).pc = 0 ∧ (s.prog 0).due = s.cyc := ⟨{ State.reset with progs := [(0, { (default : Prog) with st := 2 })] }, by decide⟩
def listed : State := { State.reset with launches := [(1, { aLaunch with state := .starting, streams := [(3, 0, [5#64])] })] }
theorem witness_stream_list : (listed.launch 1).state = .starting ∧ (∀ e ∈ (listed.launch 1).streams, (listed.prog e.1).busy = false) ∧
    ((listed.launch 1).streams.map Prod.fst).Nodup := by decide
theorem witness_stream_list_busy : ∃ s : State, (s.launch 1).state = .starting ∧ ∃ e ∈ (s.launch 1).streams, (s.prog e.1).busy = true :=
  ⟨{ listed with progs := [(3, { (default : Prog) with st := 1 })] }, by decide⟩
theorem witness_move_land : ∃ s : State, s.pslotOf 9 = some 0 ∧ 2 ∈ (s.prog 0).moves ∧ Tab.canon default s.progs = true ∧ s.recovering 0 = false ∧ s.pslotOf 8 = none :=
  ⟨oneProgram 0#64 { (default : Prog) with moves := [2], run := 9 }, by decide +kernel⟩
theorem witness_counter : ∃ s : State, s.pslotOf 9 = some 0 ∧ (s.prog 0).st = 2 := ⟨{ State.reset with progs := [(0, { (default : Prog) with run := 9, st := 2 })] }, by decide +kernel⟩
theorem witness_move_land_logged : ∃ s : State, s.recovering 0 = true ∧ (s.tile 0).undoExch = 0 ∧ s.fullSince = none := ⟨recovering 448 id, by decide +kernel⟩

/-! Supersteps. -/

theorem witness_arrive : MayArrive (st id) ∧ isProctor (st id).curTile = false ∧ ReadableW (st id) 1#5 ∧ (st id).thr.recov = false ∧
    (st id).gathered (launchOf (st id)) 0 0 false = false := by unfold MayArrive ReadableW; decide +kernel
/-- The launch's tile 0, with its other fifteen tiles at its bell. -/
theorem witness_last : ∃ s : State, MayArrive s ∧ isProctor s.curTile = false ∧ s.bellAt 1 0 0 = none ∧ s.sealAsked = false := ⟨st id, by unfold MayArrive; decide +kernel⟩
theorem witness_sync_proctor : isProctor (sys []).curTile = true := by decide +kernel
theorem witness_unsettled : ∃ s : State, s.matrixSettled s.curTile s.curThread = false ∧ isProctor s.curTile = false := ⟨oneCmd (anMma 0 1), by decide +kernel⟩
theorem witness_deps : ∃ s : State, s.matrixSettled s.curTile s.curThread = true ∧ s.depsReady s.curTile s.curThread = false :=
  ⟨oneXfer { (default : Xfer) with kind := .dep, space := 2 }, by decide +kernel⟩
theorem witness_seal : ∃ s : State, s.curThread ≠ 8 ∧ isProctor s.curTile = false ∧ s.thr.recov = true ∧ (∀ j, j < 4 → s.thr.nest.act.get j = false) ∧
    s.thr.depth + (s.thr.resident - 3) / 2 = 16 ∧ s.thr.resident < 5 ∧ MayArrive s ∧ (s.tile s.curTile).mq = [] :=
  ⟨recovering 0 (fun t => { t with depth := 16 }), by unfold MayArrive; decide +kernel⟩
theorem witness_seal_nest : ∃ s : State, s.thr.recov = true ∧ ∃ j, j < 4 ∧ s.thr.nest.act.get j = true :=
  ⟨recovering 0 (fun t => { t with nest := { t.nest with act := [(3, true)] } }), by decide +kernel, 3, by decide +kernel⟩
theorem witness_seal_deep : ∃ s : State, s.thr.recov = true ∧ 16 < s.thr.depth + (s.thr.resident - 3) / 2 := ⟨recovering 0 (fun t => { t with depth := 16, base := 2 }), by decide +kernel⟩

/-- R256: barrier 7 with the tile's last arrival at the generation that stands, one ahead and two ahead. -/
def barrier (n d : Nat) : State := { State.reset with
  tiles := [(0, { (default : Tile) with prim := some 1, barCount := [(7, n)], threads := [(0, aThread), (1, { aThread with wait := .tsync })] })], launches := [(1, aLaunch)]
  groups := [(0, { (default : Group) with barriers := [(7, { (default : Barrier) with done := d, due := true })] })] }
theorem witness_bara : ((barrier 2 1).tile 0).barCount.get 7 < (((barrier 2 1).group 0).barriers.get 7).done + 2 ∧ (barrier 2 1).cyc < (barrier 2 1).thr.heldFrom.getD (barrier 2 1).cyc + 64 ∧
    (((barrier 3 1).group 0).barriers.get 7).done + 2 ≤ ((barrier 3 1).tile 0).barCount.get 7 ∧ (((barrier 1 1).group 0).barriers.get 7).done = ((barrier 1 1).tile 0).barCount.get 7 := by
  decide +kernel
theorem witness_barrier_complete : (((barrier 2 1).group 0).barriers.get 7).due = true ∧ (((barrier 2 1).group 0).barriers.get 6).due = false := by decide +kernel
theorem witness_tsync_last : (barrier 0 0).thr.live = true ∧ (barrier 0 0).thr.halted = false ∧ ∀ j, j < 8 → j ≠ (barrier 0 0).curThread → ((barrier 0 0).thread 0 j).live = true →
    ((barrier 0 0).thread 0 j).halted = false → ((barrier 0 0).thread 0 j).wait = .tsync := by decide +kernel
theorem witness_tsync_waits : ∃ s : State, (s.thread 0 1).live = true ∧ (s.thread 0 1).halted = false ∧ (s.thread 0 1).wait ≠ .tsync :=
  ⟨(barrier 0 0).updThread 0 1 (fun t => { t with wait := .none }), by decide +kernel⟩

/-- R209 to R212: one application in each space. -/
theorem witness_apply_g : ∃ (s : State) (x : Xfer), s.xfers.get 1 = some x ∧ x.final = false ∧ (s.launch x.lid).recover = false ∧ x.space = 0 ∧ x.kind = .dep ∧
    x.segs = [⟨(Space.group 3).key x.addr, x.data.length, 0#64⟩] ∧ x.addr + x.data.length = 2097152 :=
  ⟨oneXfer { (default : Xfer) with kind := .dep, addr := 2097144, data := List.replicate 8 1#8, segs := [⟨(Space.group 3).key 2097144, 8, 0#64⟩] }, _, rfl, by decide +kernel⟩
theorem witness_apply_h : ∃ (s : State) (x : Xfer), s.xfers.get 1 = some x ∧ x.final = false ∧ (s.launch x.lid).recover = false ∧ x.space = 3 ∧ x.kind = .depb ∧
    x.addr + x.data.length = 18446744073709551616 :=
  ⟨oneXfer { (default : Xfer) with kind := .depb, space := 3, addr := 18446744073709551615, data := [1#8] }, _, rfl, by decide +kernel⟩
theorem witness_apply_t : ∃ (s : State) (x : Xfer), s.xfers.get 1 = some x ∧ x.final = false ∧ (s.launch x.lid).recover = false ∧ x.space = 5 ∧ x.kind = .dep ∧
    s.tileOfId x.lid (x.addr / 4294967296) = some 5 ∧ s.recovering 5 = false ∧ x.addr % 524288 + x.data.length = 393216 :=
  ⟨oneXfer { (default : Xfer) with kind := .dep, space := 5, addr := 5 * 4294967296 + 393208, data := List.replicate 8 1#8 }, _, rfl, by decide +kernel⟩
theorem witness_apply_amo : ∃ (s : State) (x : Xfer), s.xfers.get 1 = some x ∧ x.final = false ∧ (s.launch x.lid).recover = false ∧ x.space = 0 ∧ x.kind = .amo 4 1#64 0#64 ∧
    x.segs = [⟨(Space.group 3).key x.addr, 8, 0#64⟩] ∧ x.addr + 8 = 2097152 ∧ x.local_ + 8 = 393216 ∧ s.recovering x.tile = false :=
  ⟨oneXfer { (default : Xfer) with kind := .amo 4 1#64 0#64, addr := 2097144, local_ := 393208, segs := [⟨(Space.group 3).key 2097144, 8, 0#64⟩] }, _, rfl, by decide +kernel⟩

/-- A bell of level 0 of the launch in a phase. -/
def bellIn (phase : Nat) (isSeal : Bool) : State :=
  let s := recovering 0 (fun t => { t with arr := some { (default : Arrival) with op := 1, val := 5#64, rd := 3 }, wait := .bell })
  { s with bells := [{ (default : Bell) with lid := 1, phase := phase, isSeal := isSeal }] }
theorem witness_bell (n : Nat) (b : Bool) : ∃ x, (bellIn n b).bellAt 1 0 0 = some x ∧ x.phase = n ∧ x.isSeal = b ∧ x.isFinal = false ∧ x.upto ≤ (bellIn n b).cyc ∧ x.abort = none :=
  ⟨_, rfl, rfl, rfl, rfl, Nat.zero_le _, rfl⟩
theorem witness_exchange : ((bellIn 0 false).launch 1).state.frozen = false ∧ (bellIn 0 false).selectAbort 1 0 0 = none ∧ (bellIn 1 false).inExchange 1 0 0 (fun x => x.readBy 0) = [] ∧
    (bellIn 1 false).programsBehind 1 0 0 = false ∧ (bellIn 1 false).fullSince = none := by decide +kernel
theorem witness_release : (bellIn 3 false).peersDone { (default : Bell) with lid := 1, phase := 3 } = true ∧ (0, 0) ∈ (bellIn 3 false).awake 1 0 0 ∧
    OneOperator (bellIn 3 false) { (default : Bell) with lid := 1, phase := 3 } 1 := ⟨by decide +kernel, by decide +kernel, fun m h a e => by
      have l : (bellIn 3 false).awake 1 0 0 = [(0, 0)] := by decide +kernel
      have h' : m ∈ (bellIn 3 false).awake 1 0 0 := h
      rw [l] at h'
      obtain rfl : m = (0, 0) := by simpa using h'
      have g : ((bellIn 3 false).thread 0 0).arr = some { (default : Arrival) with op := 1, val := 5#64, rd := 3 } := by decide +kernel
      rw [g] at e; cases e; rfl⟩
/-- R246, R318: an exchange whose halves go through, and one whose first application finds its domain's log full. -/
def wroteOut (full : Option Nat) : State := { bellIn 1 false with
  fullSince := full, nextXfer := 2
  xfers := [(1, some { (default : Xfer) with kind := .dep, lid := 1, ready := true, data := [1#8], segs := [⟨(Space.group 0).key 64, 1, 0#64⟩] })] }
theorem witness_halves : ((wroteOut none).writeHalves { (default : Bell) with lid := 1, phase := 1 }).stuck = none ∧ (wroteOut none).inExchange 1 0 0 (fun x => x.readBy 0) = [] ∧
    (wroteOut none).programsBehind 1 0 0 = false ∧ ((wroteOut (some 0)).writeHalves { (default : Bell) with lid := 1, phase := 1 }).stuck = some 0 := by decide +kernel
theorem witness_aborted : ∃ (s : State) (x : Xfer), s.xfers.get 1 = some x ∧ x.lid = 1 ∧ instOf 0 x.tile = 0 ∧ x.final = false ∧ x.kind.isDep = true ∧ x.scope ≤ 0 ∧ x.sent = false ∧ x.ticket = 0 :=
  ⟨wroteOut none, _, rfl, by decide +kernel⟩
theorem witness_seal_commit : ∀ x ∈ (bellIn 2 true).bells, x.isSeal = true → x.lid = 1 := by decide
/-- Class 0xF at the seal level of a launch with recovery. -/
theorem witness_abort_rolls : ∃ s : State, (∃ b, s.bellAt 1 3 0 = some b ∧ b.phase = 0) ∧ (s.launch 1).recover = true ∧ (s.launch 1).isFiller = false ∧ 3 = (s.launch 1).sealLevel ∧
    s.selectAbort 1 3 0 = some (0xF001#16, 0#32) ∧ s.members ≠ [] :=
  ⟨let s := recovering 0 (fun t => { t with arr := some { (default : Arrival) with lvl := 3, held := ⟨0xF001#16, 0#32, 0⟩ }, wait := .bell })
   { s with bells := [{ (default : Bell) with lid := 1, lvl := 3 }] }, ⟨_, rfl, rfl⟩, by decide +kernel⟩

/-! ## Keys, cohorts, collectives, links -/

/-- A table that lists one value for every key of a range. -/
theorem range_get {α : Type} (d v : α) : ∀ n a k, a ≤ k → k < a + n → Tab.getD d ((List.range' a n).map (fun i => (i, v))) k = v
  | 0, _, _, _, _ => by omega
  | n + 1, a, k, h, g => by
    simp only [List.range'_succ, List.map_cons, Tab.getD]
    split
    · omega
    · split
      · rfl
      · exact range_get d v n (a + 1) k (by omega) (by omega)
def aRegion : Region := { (default : Region) with v := true, r := true, w := true, gen := 3, ctx := 1, check := 0x55#16, base := 4096, len := 64, ext := true }
/-- R280: a region at the end of the addresses, with entries free and with none free. -/
def mint (r : Tab Region) : State := (regs [(1, 0xFFFFFFFFFFC0#64), (2, 0x2000000000000040#64)]).updPkg 0 (fun p => { p with regions := r })
theorem witness_kmint : bitsOf ((mint []).readW 2#5) 59 48 = 0 ∧ bitsOf ((mint []).readW 2#5) 47 0 = 64 ∧ bitsOf ((mint []).readW 1#5) 63 48 = 0 ∧ bitsOf ((mint []).readW 2#5) 63 61 ≠ 0 ∧
    ((mint []).readW 1#5).toNat % 64 = 0 ∧ bitsOf ((mint []).readW 1#5) 47 0 + 64 = 281474976710656 ∧ (∀ ev ∈ (mint []).events, ev.1 ≠ (mint []).cyc + 24) ∧
    (((mint []).pkg 0).regions.get 1).v = false := by decide +kernel
theorem witness_kmint_last : ∃ s : State, ((s.pkg 0).regions.get 511).v = false ∧ ∀ m, 1 ≤ m → m < 511 → ((s.pkg 0).regions.get m).v = true :=
  ⟨mint ((List.range' 1 510).map (fun i => (i, aRegion))), by decide +kernel, fun m h g => by
    have e : (((mint ((List.range' 1 510).map (fun i => (i, aRegion)))).pkg 0).regions) = (List.range' 1 510).map (fun i => (i, aRegion)) := rfl
    rw [e, Tab.get, range_get _ aRegion 510 1 m h (by omega)]; rfl⟩
theorem witness_kmint_none : ∃ s : State, ∀ m, 1 ≤ m → m < 512 → ((s.pkg 0).regions.get m).v = true :=
  ⟨mint ((List.range' 1 511).map (fun i => (i, aRegion))), fun m h g => by
    have e : (((mint ((List.range' 1 511).map (fun i => (i, aRegion)))).pkg 0).regions) = (List.range' 1 511).map (fun i => (i, aRegion)) := rfl
    rw [e, Tab.get, range_get _ aRegion 511 1 m h (by omega)]; rfl⟩
/-- R281: the key of entry 511 of package 0 with its check value; one of the next package; one that is held. -/
def revoke (f : Thread → Thread) (rec_ : Bool) : State :=
  { (st f) with launches := [(1, { aLaunch with recover := rec_ })] }.updPkg 0 (fun p => { p with regions := [(511, aRegion)] })
theorem witness_krev : ∃ s : State, ((s.readW 1#5).setWidth 32 : BitVec 32) = 0x31FF0055#32 ∧ s.krevHeld s.curTile s.curThread 0x31FF0055#32 = false ∧
    ((0x31FF0055#32 : BitVec 32).extractLsb' 25 3).toNat = pkgOf s.curTile ∧ ((0x33FF0055#32 : BitVec 32).extractLsb' 25 3).toNat ≠ pkgOf s.curTile :=
  ⟨revoke (fun t => { t with regs := [(1, 0x31FF0055#64)] }) false, by decide +kernel⟩
theorem witness_krev_held : ∃ s : State, s.krevHeld s.curTile s.curThread 0x31FF0055#32 = true ∧ (s.pkg (pkgOf s.curTile)).escrowUsed + 8 ≤ 67108864 :=
  ⟨revoke id true, by decide +kernel⟩
theorem witness_krev_effect : ∃ s : State, (s.thread 0 0).wait = .fabric ∧ (s.thread 0 0).spare = 0 ∧ ((s.pkg 0).regions.get 511) = aRegion ∧ aRegion.v = true ∧
    aRegion.gen = ((0x31FF0055#32 : BitVec 32).extractLsb' 28 4).toNat ∧ aRegion.check = (0x31FF0055#32 : BitVec 32).setWidth 16 ∧
    aRegion.check ≠ (0x31FF0056#32 : BitVec 32).setWidth 16 ∧ aRegion.gen ≠ ((0x41FF0055#32 : BitVec 32).extractLsb' 28 4).toNat ∧
    aRegion.ctx = (s.launch ((s.lidOf 0 0).getD 0)).ctx ∧ aRegion.revoking = false ∧ s.krevHeld 0 0 0x31FF0055#32 = false :=
  ⟨revoke (fun t => { t with wait := .fabric }) false, by decide +kernel⟩
/-- R283, R284: a list of two tiles, of one tile twice, and no index left. -/
def list2 (w2 : List Byte) (c : Tab Cohort) : State :=
  { ((regs [(1, 0#64), (2, 2#64)]).poke (.tile 0) 8 w2) with cohorts := c }
theorem witness_cset : ∃ s : State, bitsOf (s.readW 2#5) 15 14 = 0 ∧ bitsOf (s.readW 2#5) 63 32 = 0 ∧ bitsOf (s.readW 2#5) 12 0 = 2 ∧ (s.readW 1#5).toNat % 8 = 0 ∧
    s.firstReserved s.curTile 0 16 = none ∧ (let ms := (List.range 2).map (fun i => s.memberOf (BitVec.ofNat 64 (s.num (.tile s.curTile) (0 + 8 * i) 8)))
      ms = [some ⟨0, 0, 0⟩, some ⟨1, 0, 0⟩]) ∧ (s.cohorts.get 1).live = false := ⟨list2 [0, 0, 0, 64] [], by decide +kernel⟩
theorem witness_cset_vc_free : (list2 [0, 0, 0, 64] []).freeVc [0, 1] = some 2 := by decide +kernel
theorem witness_cset_switch : (list2 [0, 0, 0, 64] []).switchFull [0, 1] = false := by decide +kernel
theorem witness_cset_twice : ∃ s : State, let ms := (List.range 2).map (fun i => s.memberOf (BitVec.ofNat 64 (s.num (.tile s.curTile) (0 + 8 * i) 8)))
    ¬ (none ∉ ms ∧ ((ms.filterMap id).map Member.tile).Nodup) := ⟨list2 [] [], by decide +kernel⟩
theorem witness_cset_none : ∃ s : State, ∀ m, 1 ≤ m → m < 4096 → (s.cohorts.get m).live = true :=
  ⟨list2 [] ((List.range' 1 4095).map (fun i => (i, { (default : Cohort) with live := true }))), fun m h g => by
    have e : (list2 [] ((List.range' 1 4095).map (fun i => (i, { (default : Cohort) with live := true })))).cohorts =
      (List.range' 1 4095).map (fun i => (i, { (default : Cohort) with live := true })) := rfl
    rw [e, Tab.get, range_get _ _ 4095 1 m h (by omega)]⟩
/-- R284: every reduction VC of the tree is held by a cohort. -/
theorem witness_cset_vc : ∃ s : State, s.freeVc [0, 1] = none :=
  ⟨list2 [] ((List.range' 1 8).map (fun i => (i, { (default : Cohort) with live := true, vc := i + 1, members := [⟨0, 0, 0⟩, ⟨1, 0, 0⟩] }))), by decide +kernel⟩
/-- A live cohort 1 of tiles 0 and 1, of context 1, whose launch's threads run. -/
def cohort1 (w : Wait) : State := { State.reset with
  tiles := [(0, { (default : Tile) with prim := some 1, threads := [(0, { aThread with wait := w, regs := [(1, 0x1001#64)] })]
                                        windows := [(2, { bank := 0, size := 64, count := 2, c := 0, rel := 0, status := 0, landed := [] })] }),
            (1, { (default : Tile) with prim := some 1, threads := [(0, aThread)], windows := [(2, { bank := 0, size := 64, count := 2, c := 0, rel := 0, status := 0, landed := [] })] })]
  launches := [(1, aLaunch)], cyc := 9
  cohorts := [(1, { (default : Cohort) with live := true, gen := 1, ctx := 1, lid := 1, members := [⟨0, 2, 0⟩, ⟨1, 2, 0⟩], timeout := 1024, vc := 2 })] }
theorem witness_cfree : ∃ s : State, bitsOf (s.readW 1#5) 11 0 ≠ 0 ∧ (s.cohorts.get 1).live = true ∧ (s.cohorts.get 1).gen = bitsOf (s.readW 1#5) 15 12 ∧ (s.cohorts.get 1).ctx = contextOf s :=
  ⟨cohort1 .none, by decide +kernel⟩
theorem witness_cfree_done : ((cohort1 .fabric).thread 0 0).wait = .fabric ∧ (cohort1 .fabric).cohortBusy 1 = false := by decide +kernel
def aContribution : Contribution := { (default : Contribution) with xid := 1, tile := 0, gen := 1, n := 1, data := [1#8, 0#8, 0#8, 0#8], w32 := true }
def bucket1 (b : Bucket) : State := { cohort1 .none with buckets := [b], xfers := [(1, some { (default : Xfer) with lid := 1, kind := .mlred })] }
theorem witness_cfree_busy : (bucket1 { (default : Bucket) with cohort := 1, opened := true }).cohortBusy 1 = true := by decide +kernel

/-- R286: the longest reduction of words and the longest multicast; a firing of plan 1. -/
theorem witness_mlred : ∃ s : State, (let wb := s.readW 2#5; bitsOf wb 31 21 = 0 ∧ bitsOf wb 63 45 = 0 ∧ bitsOf wb 44 32 = 4096 ∧ ¬ (wb.getLsbD 19 = true ∧ (1#1 : BitVec 1) = 1#1)) ∧
    bitsOf (s.readW 3#5) 63 54 = 0 ∧ bitsOf (s.readW 3#5) 47 0 % 2 ^ bitsOf (s.readW 3#5) 53 48 = 0 ∧ SourceOk s 0 16384 ∧ s.thr.wait = .none :=
  ⟨regs [(2, 0x100000000000#64)], by unfold SourceOk; decide +kernel⟩
theorem witness_mcast : ∃ s : State, (let wb := s.readW 2#5; bitsOf wb 31 19 = 0 ∧ bitsOf wb 63 47 = 0 ∧ bitsOf wb 46 32 = 16384 ∧ bitsOf wb 18 0 = 0) ∧ SourceOk s 0 16384 :=
  ⟨regs [(2, 0x400000000000#64)], by unfold SourceOk; decide +kernel⟩
theorem witness_cfire : ∃ s : State, isProctor s.curTile = false ∧ (let wa := s.readW 1#5; let p := s.plans.get (bitsOf wa 27 16)
    bitsOf wa 27 16 ≠ 0 ∧ p.live = true ∧ p.gen = bitsOf wa 31 28 ∧ p.kind = bitsOf wa 15 12 ∧ p.scope = bitsOf wa 11 8 ∧ bitsOf wa 7 0 = 0 ∧ s.curTile ∈ p.leaders ∧ p.ctx = contextOf s) :=
  ⟨{ regs [(1, 0x30012100#64)] with plans := [(1, { (default : Plan) with live := true, gen := 3, kind := 2, scope := 1, ctx := 1, leaders := [0] })] }, by decide +kernel⟩

/-- R275, R286: a cohort of this module, and one of the next. -/
theorem witness_cohort_home : bitsOf ((regs [(1, 0x1000000000000#64)]).readW 2#5) 63 48 = (regs []).podModule ∧
    bitsOf ((regs [(1, 0x1000000000000#64)]).readW 1#5) 63 48 ≠ (regs []).podModule := by decide +kernel
/-- R287: the first contribution of a member; of a stranger; a complete bucket; an incomplete one. -/
def flyingBucket (k : Nat) : Bucket := { (default : Bucket) with cohort := 1, seq := 5, flying := [{ aContribution with tile := k }] }
theorem witness_bucket_open : OnlyBucket (bucket1 (flyingBucket 0)) 1 5 (flyingBucket 0) ∧ (let h := (bucket1 (flyingBucket 0)).cohorts.get 1
    h.live = true ∧ h.gen = 1 ∧ h.ctx = ((bucket1 (flyingBucket 0)).launch ((bucket1 (flyingBucket 0)).xfer 1).lid).ctx ∧ h.freeing = false ∧
    (bucket1 (flyingBucket 0)).vcClosed (h.members.map Member.tile) h.vc = false ∧ ∀ k ∈ h.members.map Member.tile, (bucket1 (flyingBucket 0)).present k h.ctx = true) := by
  unfold OnlyBucket; decide +kernel
theorem witness_bucket_stranger : OnlyBucket (bucket1 (flyingBucket 7)) 1 5 (flyingBucket 7) ∧ 7 ∉ ((bucket1 (flyingBucket 7)).cohorts.get 1).members.map Member.tile := by
  unfold OnlyBucket; decide +kernel
def fullBucket (n : Nat) : Bucket := { (default : Bucket) with cohort := 1, seq := 5, opened := true, contribs := ([aContribution, { aContribution with tile := 1, xid := 2 }]).take n }
theorem witness_bucket_complete : OnlyBucket (bucket1 (fullBucket 2)) 1 5 (fullBucket 2) ∧ (fullBucket 2).contribs.length = ((bucket1 (fullBucket 2)).cohorts.get 1).members.length ∧
    ∀ m ∈ ((bucket1 (fullBucket 2)).cohorts.get 1).members, m.base + 64 ≤ ((bucket1 (fullBucket 2)).window m.tile m.window).size := by unfold OnlyBucket; decide +kernel
theorem witness_bucket_timeout : OnlyBucket (bucket1 (fullBucket 1)) 1 5 (fullBucket 1) ∧ (fullBucket 1).contribs.length < ((bucket1 (fullBucket 1)).cohorts.get 1).members.length := by
  unfold OnlyBucket; decide +kernel
theorem witness_bucket_home : ((bucket1 (flyingBucket 0)).cohorts.get 1).others = [] ∧ (flyingBucket 0).flying = [aContribution] ∧ aContribution.due ≤ (bucket1 (flyingBucket 0)).cyc ∧
    ((bucket1 (flyingBucket 0)).buckets.filter (fun x => x.cohort == 1 && x.opened && !x.sent && x.failed == 0)).length < 16 ∧
    ((bucket1 (flyingBucket 7)).xfers.get 1).map Xfer.final = some false := by decide +kernel
/-- R287: a member whose tile holds no launch of the cohort's context; a result that a member's slot does not hold. -/
theorem witness_bucket_absent : ∃ s : State, ∃ k ∈ (s.cohorts.get 1).members.map Member.tile, s.present k (s.cohorts.get 1).ctx = false :=
  ⟨(bucket1 (flyingBucket 0)).updTile 1 (fun t => { t with prim := none }), by decide +kernel⟩
theorem witness_bucket_unfit : ∃ s : State, ∃ m ∈ (s.cohorts.get 1).members, (s.window m.tile m.window).size < m.base + 4 :=
  ⟨(bucket1 (fullBucket 2)).updTile 1 (fun t => { t with windows := [] }), by decide +kernel⟩
/-- R289: a delivery with a permit and one without. -/
theorem witness_delivery : ((cohort1 .none).tile 1).prim = some 1 ∧ ((cohort1 .none).launch 1).ctx = ((cohort1 .none).cohorts.get 1).ctx ∧ ((cohort1 .none).launch 1).state = .running ∧
    (BitVec.ofNat 32 1 - ((cohort1 .none).window 1 2).rel).toNat < ((cohort1 .none).window 1 2).count ∧
    ¬ (BitVec.ofNat 32 2 - ((cohort1 .none).window 1 2).rel).toNat < ((cohort1 .none).window 1 2).count ∧ (cohort1 .none).recovering 1 = false ∧
    ((cohort1 .none).window 1 2).landed = [] ∧ ((cohort1 .none).tile 9).prim = none ∧ (cohort1 .none).saves = [] := by decide +kernel
theorem witness_firing : ∃ (s : State) (f : Firing), s.firings.find? (fun g => g.plan == 1 && g.seq == 6 && !g.ran) = some f ∧ (s.plans.get 1).vcs.any (s.vcClosed (s.plans.get 1).leaders) = false :=
  ⟨{ State.reset with firings := [{ (default : Firing) with plan := 1, seq := 6 }], plans := [(1, { (default : Plan) with live := true, leaders := [0] })] }, _, rfl, by decide +kernel⟩
/-- R291, R293: a firing whose sources read and whose result fits its leader's slot; one over a VC that repair has closed. -/
def firing (closed : List (Nat × Nat)) : State := { State.reset with
  firings := [{ (default : Firing) with plan := 1, seq := 6 }], plans := [(1, { (default : Plan) with live := true, leaders := [0], vcs := [1] })]
  pkgs := [(0, { (default : Pkg) with closed := closed })] }
theorem witness_firing_closed : ((firing []).plans.get 1).vcs.any ((firing []).vcClosed ((firing []).plans.get 1).leaders) = false ∧ (firing []).sourcesGood ((firing []).plans.get 1) = true ∧
    ((firing []).plans.get 1).others = [] ∧ (∀ e ∈ ((firing []).plans.get 1).leaders.zip ((firing []).planRuns ((firing []).plans.get 1)),
      ((firing []).plans.get 1).dst + e.2.length ≤ ((firing []).window e.1 ((firing []).plans.get 1).window).size) := by decide +kernel
/-- R282: a stale generation, a wrong check value, a run past the end, and a read that passes. -/
def remote : State := (st id).updPkg 0 (fun p => { p with regions := [(511, aRegion)] })
theorem witness_remote : (remote.pkg 0).txns.find? (fun y => y.src == remote.podModule && y.tag == 9) = none ∧ ((remote.pkg 0).regions.get 511).v = true ∧
    ((remote.pkg 0).regions.get 511).gen = ((0x31FF0055#32 : BitVec 32).extractLsb' 28 4).toNat ∧ aRegion.len < 1 + 64  := by decide +kernel
/-- A page table of one gigabyte page for context 1: root at 4096, its table at 8192, identity with read and write. The context table stands at 0. -/
def mapped (s : State) : State :=
  (((s.updPkg 0 (fun p => { p with mg := [] })).physPut (64 + 8) [0x00#8, 0x10#8]).physPut 4096 [0x01#8, 0x20#8]).physPut 8192 [0x0F#8, 0#8, 0#8, 0#8, 0#8, 0#8, 0#8, 0xA0#8]
theorem ok_of {σ ε α : Type} {x : σ × Nat × Except ε α} (h : x.2.2.isOk = true) : ∃ a v l, x = (a, v, .ok l) := by
  obtain ⟨a, v, e⟩ := x
  cases e with
  | error _ => cases h
  | ok l => exact ⟨a, v, l, rfl⟩
def verdict (op : Nat) : State × Nat × Except Nat (List Seg) := (mapped remote).keyVerdict 0 op 0x31FF0055#32 0 64
theorem witness_remote_read : ∃ a v l, verdict 2 = (a, v, .ok l) := ok_of (by decide +kernel)
/-- The piece that a write of the whole region reaches, once its translation is cached. -/
theorem witness_remote_write : (verdict 1).2.2.isOk = true ∧
    (let m := (verdict 1).1.mapRun (.pkg 0) aRegion.ctx refuseWrite 2 (aRegion.base + 0) 64
     m.2.1 = 0 ∧ m.2.2.toOption.map (fun l => l.map (fun g => (g.key, g.len, pteCb g.entry))) = some [((Space.hbm 0).key 4096, 64, false)]) := by decide +kernel
/-- R358: a bucket whose root is group switch 0 loses it. -/
theorem witness_switch : rootLevel ((((bucket1 (fullBucket 1)).cohorts.get 1).members.map Member.tile)) = 0 ∧ switchOf 0 0 = 0 := by decide +kernel

/-! Links. -/

def aFrame : Frame := { (default : Frame) with seq := 5, kind := 1, op := 1, bytes := [7#8], last := true, e2e := 1 }
theorem witness_frame : FrameFits { aFrame with seq := 4095, bytes := List.replicate 256 0#8, offset := 281474976710655, key := 4294967295, e2e := 4294967295, ack := some 4095 } := by
  unfold FrameFits aFrame; exact ⟨by decide, by decide, fun a h => by cases h; decide, by decide, by decide, by decide, by decide, by decide, by decide, by decide,
    (fun h => by have g := congrArg List.length h; rw [List.length_replicate] at g; cases g), by simp only [List.length_replicate, Nat.le_refl], by decide⟩
def linkIn (f : Link → Link) : State := State.reset.updLink 0 3 f
theorem witness_link_next : ((linkIn (fun x => { x with rxNext := 5, unacked := 15 })).link 0 3).state.up = true ∧ aFrame.seq = ((linkIn (fun x => { x with rxNext := 5, unacked := 15 })).link 0 3).rxNext ∧
    ((linkIn (fun x => { x with rxNext := 5, unacked := 15 })).pkg 0).e2eSeen.contains (aFrame.src, aFrame.e2e) = false := by decide +kernel
set_option maxRecDepth 20000 in
theorem witness_frame_decodes : ∃ f, frameOf aFrame.wire = some f ∧ f.seq = 5 ∧ f.kind = 1 ∧ f.ack = none := by
  have h : (frameOf aFrame.wire).map (fun f => (f.seq, f.kind, f.ack)) = some (5, 1, none) := by decide +kernel
  cases g : frameOf aFrame.wire with
  | none => rw [g] at h; cases h
  | some f => rw [g] at h; simp only [Option.map_some, Option.some.injEq, Prod.mk.injEq] at h; exact ⟨f, rfl, h.1, h.2.1, h.2.2⟩
set_option maxRecDepth 20000 in
theorem witness_frame_bad : frameOf (List.replicate 288 1#8) = none ∧ ((linkIn id).link 0 3).crcFails.length < 7 := by decide +kernel
theorem witness_link_down : ((linkIn (fun x => { x with state := .train 0xFFFF#16 })).link 0 3).state.up = false := by decide +kernel
theorem witness_link_ack : ∃ s : State, (s.link 0 3).retry = [{ aFrame with seq := 4 }] ++ aFrame :: [] ∧ (∀ h ∈ [{ aFrame with seq := 4 }], h.seq ≠ 5) ∧ (s.link 0 3).retry.length ≤ 1024 :=
  ⟨linkIn (fun x => { x with retry := [{ aFrame with seq := 4 }, aFrame] }), by decide +kernel⟩
theorem witness_link_timers : ∃ s : State, (s.link 0 3).state.up = true ∧ (s.link 0 3).unacked ≠ 0 ∧ (s.link 0 3).oldest = 7 ∧ (s.link 0 3).asked = some 5 ∧ (s.link 0 3).rxNext = 5 :=
  ⟨linkIn (fun x => { x with unacked := 1, oldest := 7, asked := some 5, rxNext := 5 }), by decide +kernel⟩
/-- R273: the first frame since an acknowledgement, and the sixteenth. -/
theorem witness_link_first : ((linkIn id).link 0 3).unacked = 0 ∧ ((linkIn (fun x => { x with unacked := 15 })).link 0 3).unacked = 15 := by decide +kernel
/-- R274: lanes that the training of all, of a half and of a quarter gives. -/
theorem witness_trained : ((linkIn (fun x => { x with state := .train 0xFFFF#16 })).link 0 3).state = .train 0xFFFF#16 ∧ BitVec.ofNat 16 0x00FF = 0x00FF#16 ∧
    BitVec.ofNat 16 0xFFFF &&& 0x00FF#16 = 0x00FF#16 ∧ BitVec.ofNat 16 0xFFFF &&& 0xF000#16 = 0xF000#16 ∧ BitVec.ofNat 16 1 &&& 0x00FF#16 ≠ 0x00FF#16 := by decide +kernel
theorem witness_recorded : ((linkIn id).die 0).frozen = false ∧ ((linkIn id).die 0).blackBox.length < 4096 := by decide +kernel
/-- Table 15.2: lanes left above and below four; states of 16, 8 and 4 lanes; a lane in training. -/
theorem witness_lane : ((linkIn id).link 0 3).state = .a16 ∧ 4 ≤ 16 - popcount (((linkIn id).link 0 3).faulted ||| (1#16 <<< 15)) ∧ laneChoice (1#16 <<< 15) = some 0x00FF#16 := by decide +kernel
theorem witness_lane_retires : ∃ s : State, (s.link 0 3).state ≠ .retired ∧ 16 - popcount ((s.link 0 3).faulted ||| (1#16 <<< 12)) < 4 :=
  ⟨linkIn (fun x => { x with faulted := 0x0FFF#16 }), by decide +kernel⟩
theorem witness_lane_none : ∃ s : State, (s.link 0 3).state = .a16 ∧ 4 ≤ 16 - popcount ((s.link 0 3).faulted ||| (1#16 <<< 12)) ∧ laneChoice ((s.link 0 3).faulted ||| (1#16 <<< 12)) = none :=
  ⟨linkIn (fun x => { x with faulted := 0x0111#16 }), by decide +kernel⟩
theorem witness_lane_half : ∃ s : State, (s.link 0 3).state = .a8 0x00FF#16 ∧ (0x00FF#16 : BitVec 16).getLsbD 0 = true ∧ 4 ≤ 16 - popcount ((s.link 0 3).faulted ||| (1#16 <<< 0)) :=
  ⟨linkIn (fun x => { x with state := .a8 0x00FF#16, faulted := 0x8000#16 }), by decide +kernel⟩
theorem witness_lane_quarter : ∃ s : State, (s.link 0 3).state = .a4 0xF000#16 ∧ (0xF000#16 : BitVec 16).getLsbD 15 = true ∧ 4 ≤ 16 - popcount ((s.link 0 3).faulted ||| (1#16 <<< 15)) :=
  ⟨linkIn (fun x => { x with state := .a4 0xF000#16, faulted := 0x0111#16 }), by decide +kernel⟩
theorem witness_lane_train : ∃ s : State, (s.link 0 3).state = .train 0x00FF#16 ∧ (0x00FF#16 : BitVec 16).getLsbD 7 = true ∧ (s.link 0 3).trainStart = 12 :=
  ⟨linkIn (fun x => { x with state := .train 0x00FF#16, trainStart := 12 }), by decide +kernel⟩

/-! ## States that meet the hypotheses of the registrar, proctor, preemption and management statements -/

/-! Context 1 of package 0: its entry at 64, with one queue; page tables at 4096 and 8192 that map virtual to physical addresses; the queue's descriptor at 0x50000 and its
entries at 0x60000, one of them enqueued. The keys are those of package 0's HBM. -/

/-- The running selection has chosen that entry (R59). -/
def choosing (kind : Nat) : Tab Pkg := [(0, { (default : Pkg) with selecting := 2, chosen := some (64, .entry 0x60000 kind) })]
/-- With an entry of kind 2. -/
def planQueue : State := { State.reset with pkgs := choosing 2, mem := [(92233720368547758144, 1#8), (92233720368547758145, 1#8), (92233720368547758153, 16#8), (92233720368547758162, 5#8), (92233720368547762176, 1#8), (92233720368547762177, 32#8),
    (92233720368547766272, 15#8), (92233720368547766279, 160#8), (92233720368548085762, 6#8), (92233720368548085768, 4#8), (92233720368548085774, 1#8), (92233720368548085776, 1#8),
    (92233720368548085788, 1#8), (92233720368548151296, 2#8)] }
/-- With an entry of kind 3. -/
def collQueue : State := { State.reset with pkgs := choosing 3, mem := [(92233720368547758144, 1#8), (92233720368547758145, 1#8), (92233720368547758153, 16#8), (92233720368547758162, 5#8), (92233720368547762176, 1#8), (92233720368547762177, 32#8),
    (92233720368547766272, 15#8), (92233720368547766279, 160#8), (92233720368548085762, 6#8), (92233720368548085768, 4#8), (92233720368548085774, 1#8), (92233720368548085776, 1#8),
    (92233720368548085788, 1#8), (92233720368548151296, 3#8)] }
/-- With an entry of kind 4. -/
def sealQueue : State := { State.reset with pkgs := choosing 4, mem := [(92233720368547758144, 1#8), (92233720368547758145, 1#8), (92233720368547758153, 16#8), (92233720368547758162, 5#8), (92233720368547762176, 1#8), (92233720368547762177, 32#8),
    (92233720368547766272, 15#8), (92233720368547766279, 160#8), (92233720368548085762, 6#8), (92233720368548085768, 4#8), (92233720368548085774, 1#8), (92233720368548085776, 1#8),
    (92233720368548085788, 1#8), (92233720368548151296, 4#8)] }
/-- With an entry of kind 7. -/
def killQueue : State := { State.reset with pkgs := choosing 7, mem := [(92233720368547758144, 1#8), (92233720368547758145, 1#8), (92233720368547758153, 16#8), (92233720368547758162, 5#8), (92233720368547762176, 1#8), (92233720368547762177, 32#8),
    (92233720368547766272, 15#8), (92233720368547766279, 160#8), (92233720368548085762, 6#8), (92233720368548085768, 4#8), (92233720368548085774, 1#8), (92233720368548085776, 1#8),
    (92233720368548085788, 1#8), (92233720368548151296, 7#8)] }
/-- With an entry of kind 5 for the counter at 0x70000 and the value 0. -/
def waitMet : State := { State.reset with pkgs := choosing 5, mem := [(92233720368547758144, 1#8), (92233720368547758145, 1#8), (92233720368547758153, 16#8), (92233720368547758162, 5#8), (92233720368547762176, 1#8), (92233720368547762177, 32#8),
    (92233720368547766272, 15#8), (92233720368547766279, 160#8), (92233720368548085762, 6#8), (92233720368548085768, 4#8), (92233720368548085774, 1#8), (92233720368548085776, 1#8),
    (92233720368548085788, 1#8), (92233720368548151296, 5#8), (92233720368548151314, 7#8)] }
/-- With an entry of kind 5 for the counter at 0x70000 and the value 1. -/
def waitOpen : State := { State.reset with pkgs := choosing 5, mem := [(92233720368547758144, 1#8), (92233720368547758145, 1#8), (92233720368547758153, 16#8), (92233720368547758162, 5#8), (92233720368547762176, 1#8), (92233720368547762177, 32#8),
    (92233720368547766272, 15#8), (92233720368547766279, 160#8), (92233720368548085762, 6#8), (92233720368548085768, 4#8), (92233720368548085774, 1#8), (92233720368548085776, 1#8),
    (92233720368548085788, 1#8), (92233720368548151296, 5#8), (92233720368548151314, 7#8), (92233720368548151320, 1#8)] }
/-- With an entry of kind 5 for the counter at 0x70004 and the value 1. -/
def waitBad : State := { State.reset with pkgs := choosing 5, mem := [(92233720368547758144, 1#8), (92233720368547758145, 1#8), (92233720368547758153, 16#8), (92233720368547758162, 5#8), (92233720368547762176, 1#8), (92233720368547762177, 32#8),
    (92233720368547766272, 15#8), (92233720368547766279, 160#8), (92233720368548085762, 6#8), (92233720368548085768, 4#8), (92233720368548085774, 1#8), (92233720368548085776, 1#8),
    (92233720368548085788, 1#8), (92233720368548151296, 5#8), (92233720368548151312, 4#8), (92233720368548151314, 7#8), (92233720368548151320, 1#8)] }
/-- With an entry of kind 6 for the counter at 0x70000 and the value 1. -/
def sigGood : State := { State.reset with pkgs := choosing 6, mem := [(92233720368547758144, 1#8), (92233720368547758145, 1#8), (92233720368547758153, 16#8), (92233720368547758162, 5#8), (92233720368547762176, 1#8), (92233720368547762177, 32#8),
    (92233720368547766272, 15#8), (92233720368547766279, 160#8), (92233720368548085762, 6#8), (92233720368548085768, 4#8), (92233720368548085774, 1#8), (92233720368548085776, 1#8),
    (92233720368548085788, 1#8), (92233720368548151296, 6#8), (92233720368548151314, 7#8), (92233720368548151320, 1#8)] }
/-- With an entry of kind 6 for the counter at 0x70004 and the value 1. -/
def sigBad : State := { State.reset with pkgs := choosing 6, mem := [(92233720368547758144, 1#8), (92233720368547758145, 1#8), (92233720368547758153, 16#8), (92233720368547758162, 5#8), (92233720368547762176, 1#8), (92233720368547762177, 32#8),
    (92233720368547766272, 15#8), (92233720368547766279, 160#8), (92233720368548085762, 6#8), (92233720368548085768, 4#8), (92233720368548085774, 1#8), (92233720368548085776, 1#8),
    (92233720368548085788, 1#8), (92233720368548151296, 6#8), (92233720368548151312, 4#8), (92233720368548151314, 7#8), (92233720368548151320, 1#8)] }
/-- With a PLAN entry that frees plan 1. -/
def freeQueue : State := { State.reset with pkgs := choosing 2, mem := [(92233720368547758144, 1#8), (92233720368547758145, 1#8), (92233720368547758153, 16#8), (92233720368547758162, 5#8), (92233720368547762176, 1#8), (92233720368547762177, 32#8),
    (92233720368547766272, 15#8), (92233720368547766279, 160#8), (92233720368548085762, 6#8), (92233720368548085768, 4#8), (92233720368548085774, 1#8), (92233720368548085776, 1#8),
    (92233720368548085788, 1#8), (92233720368548151296, 2#8), (92233720368548151344, 128#8), (92233720368548151373, 33#8), (92233720368548151374, 1#8), (92233720368548151375, 48#8)] }
/-- With a LAUNCH of the record at 0x80000, whose image stands at 0x90000 and whose banks from 368 up are raw. -/
def launchQueue : State := { State.reset with pkgs := choosing 1, mem := [(92233720368547758144, 1#8), (92233720368547758145, 1#8), (92233720368547758153, 16#8), (92233720368547758162, 5#8), (92233720368547762176, 1#8), (92233720368547762177, 32#8),
    (92233720368547766272, 15#8), (92233720368547766279, 160#8), (92233720368547771840, 128#8), (92233720368547771844, 128#8), (92233720368547771848, 128#8), (92233720368547771852, 128#8),
    (92233720368547771856, 128#8), (92233720368547771860, 128#8), (92233720368547771864, 128#8), (92233720368547771868, 128#8), (92233720368547771872, 128#8), (92233720368547771876, 128#8),
    (92233720368547771880, 128#8), (92233720368547771884, 128#8), (92233720368547771888, 128#8), (92233720368547771892, 128#8), (92233720368547771896, 128#8), (92233720368547771900, 128#8),
    (92233720368548085762, 6#8), (92233720368548085768, 4#8), (92233720368548085774, 1#8), (92233720368548085776, 1#8), (92233720368548085788, 1#8), (92233720368548151296, 1#8),
    (92233720368548151314, 8#8), (92233720368548282370, 9#8), (92233720368548282381, 2#8), (92233720368548282390, 1#8), (92233720368548282391, 1#8), (92233720368548282417, 48#8),
    (92233720368548347904, 75#8), (92233720368548347905, 68#8), (92233720368548347906, 73#8), (92233720368548347907, 77#8), (92233720368548347908, 1#8), (92233720368548347913, 16#8),
    (92233720368548347921, 1#8), (92233720368548347928, 64#8)] }
/-- The same as `sealQueue`, its entry DONE. -/
def sealDone : State := { State.reset with pkgs := choosing 4, mem := [(92233720368547758144, 1#8), (92233720368547758145, 1#8), (92233720368547758153, 16#8), (92233720368547758162, 5#8), (92233720368547762176, 1#8), (92233720368547762177, 32#8),
    (92233720368547766272, 15#8), (92233720368547766279, 160#8), (92233720368548085762, 6#8), (92233720368548085768, 4#8), (92233720368548085774, 1#8), (92233720368548085776, 1#8),
    (92233720368548085788, 1#8), (92233720368548151296, 4#8), (92233720368548151299, 3#8)] }

theorem witness_ready_plan : EntryReady planQueue 0 64 0x60000 2 ∧ planQueue.freeingHead 0 64 = none := ⟨⟨rfl, 1, by decide +kernel⟩, by decide +kernel⟩
theorem witness_ready_coll : EntryReady collQueue 0 64 0x60000 3 := ⟨rfl, 1, by decide +kernel⟩
theorem witness_ready_seal : EntryReady sealQueue 0 64 0x60000 4 := ⟨rfl, 1, by decide +kernel⟩
theorem witness_ready_kill : EntryReady killQueue 0 64 0x60000 7 := ⟨rfl, 1, by decide +kernel⟩
theorem witness_ready_waits : EntryReady waitMet 0 64 0x60000 5 ∧ EntryReady sigGood 0 64 0x60000 6 ∧ waitBad.chosenOf 0 64 = some (.entry 0x60000 5) ∧
    waitOpen.chosenOf 0 64 = some (.entry 0x60000 5) ∧ sigBad.chosenOf 0 64 = some (.entry 0x60000 6) :=
  ⟨⟨rfl, 1, by decide +kernel⟩, ⟨rfl, 1, by decide +kernel⟩, rfl, rfl, rfl⟩
/-- R62: a value that is reached, one that is not, and an address that is not aligned. -/
theorem witness_waitev : waitMet.headOf 0 64 = some (.entry 0x60000 5) ∧ waitMet.judge 0 64 (.entry 0x60000 5) = .ready 1 ∧
    waitOpen.judge 0 64 (.entry 0x60000 5) = .blocked [0x70000 / 64] ∧ waitBad.judge 0 64 (.entry 0x60000 5) = .reject 0x0B ∧
    waitOpen.entryReserved 0 64 0x60000 5 = false ∧ waitOpen.badCounter 0 1 0x70000 false = false := by decide +kernel
theorem witness_sigev : sigGood.headOf 0 64 = some (.entry 0x60000 6) ∧ sigGood.judge 0 64 (.entry 0x60000 6) = .ready 1 ∧
    sigBad.judge 0 64 (.entry 0x60000 6) = .reject 0x0B ∧ sigGood.ctxPa 0 1 0x70000 = some 0x70000 := by decide +kernel
/-- R61: the status of the entry at the head lies at its own address. -/
theorem seal_done : sealQueue.putStatus 0 64 0x60000 3 0 = sealQueue.hbmPut 0x60002 [0#8, 3#8] := by
  have p : sealQueue.ctxPa 0 (64 / 64) (0x60000 + 2) = some 0x60002 := by decide +kernel
  unfold State.putStatus
  rw [p]
/-- R61: the head goes up once the status stands. -/
theorem witness_retire : sealQueue.ctxPa 0 1 (0x60000 + 2) = some 0x60002 ∧ sealQueue.descAddr 0 64 = 0x50000 ∧
    (sealQueue.putStatus 0 64 0x60000 3 0).desc 0 64 = sealQueue.desc 0 64 ∧ (sealQueue.putStatus 0 64 0x60000 3 0).descAddr 0 64 = 0x50000 ∧
    ((sealQueue.pkg 0).queues.get 64).removed = [] := by
  have m : (sealQueue.hbmPut 0x60002 [0#8, 3#8]).mem = sealDone.mem := by decide +kernel
  have g : (sealQueue.hbmPut 0x60002 [0#8, 3#8]).mg 0 0x10 = 0#64 := by decide +kernel
  have z : sealDone.mg 0 0x10 = 0#64 := by decide +kernel
  have d : sealDone.descAddr 0 64 = 0x50000 := by decide +kernel
  have c : sealQueue.descAddr 0 64 = 0x50000 := by decide +kernel
  have x : ∀ e ∈ [(0, 8), (8, 4), (0xC, 1), (0xE, 2), (0x10, 4), (0x18, 4), (0x1C, 4), (0xD, 1), (0x14, 4), (0x20, 32)],
      sealDone.physNum (0x50000 + e.1) e.2 = sealQueue.physNum (0x50000 + e.1) e.2 := by decide +kernel
  have e : (sealQueue.hbmPut 0x60002 [0#8, 3#8]).descAddr 0 64 = 0x50000 := by
    rw [← d]; simp only [State.descAddr, State.ctxQueueTable, State.ctxEntry, State.physNum, m, g, z]
  rw [seal_done]
  refine ⟨by decide +kernel, c, ?_, e, by decide +kernel⟩
  have f : ∀ a n, (sealQueue.hbmPut 0x60002 [0#8, 3#8]).physNum a n = sealDone.physNum a n := fun a n => by simp only [State.physNum, m]
  simp only [State.desc, e, c, f]
  have y (o n : Nat) (h : (o, n) ∈ [(0, 8), (8, 4), (0xC, 1), (0xE, 2), (0x10, 4), (0x18, 4), (0x1C, 4), (0xD, 1), (0x14, 4), (0x20, 32)]) := x (o, n) h
  have y0 : sealDone.physNum 0x50000 8 = sealQueue.physNum 0x50000 8 := y 0 8 (by decide)
  simp only [y0, y 8 4 (by decide), y 0xC 1 (by decide), y 0xE 2 (by decide), y 0x10 4 (by decide), y 0x18 4 (by decide), y 0x1C 4 (by decide),
    y 0xD 1 (by decide), y 0x14 4 (by decide), y 0x20 32 (by decide)]
/-- R291: an entry that frees a live plan; R294: a COLL entry for it; no plan of the handle. -/
def aPlan : Plan := { (default : Plan) with live := true, gen := 3, kind := 2, scope := 1, ctx := 1, leaders := [0] }
theorem witness_plan_at : State.planAt { collQueue with plans := [(1, aPlan)] } 0x30012100#32 = some (1, aPlan) ∧ collQueue.planAt 0x30012100#32 = none := by decide +kernel
theorem witness_plan_frees : (freeQueue.entryNum 0 64 0x60000 0x30 1).testBit 7 = true ∧ BitVec.ofNat 32 (freeQueue.entryNum 0 64 0x60000 0x4C 4) = 0x30012100#32 ∧
    freeQueue.freeWaits 0 64 0x60000 = false ∧ freeQueue.firings.any (fun f => f.plan == 1) = false := by decide +kernel
theorem witness_plan_none : (planQueue.planOf 0 64 0x60000).isOk = false := by decide +kernel
theorem witness_kill : (killTarget { killQueue with launches := [(1, { aLaunch with records := [(0, 0)] })] } 0 1 0).map Prod.fst = some 1 ∧
    killQueue.entryNum 0 64 0x60000 0x10 8 = 0 := by decide +kernel
/-- R291: a PLAN entry that waits for its plan's firings. -/
theorem witness_plan_drains : ∃ s : State, s.freeingHead 0 64 = some (0x60000, 1) ∧ s.firings.any (fun f => f.plan == 1) = false :=
  ⟨{ freeQueue with plans := [(1, { aPlan with freeing := some (0, 64, 0x60000) })] }, by decide +kernel⟩
theorem witness_kill_none : killTarget killQueue 0 1 0 = none ∧ killQueue.queuedLaunches 0 1 (fun va => va == 0) = [] := by decide +kernel
theorem witness_kill_quiesced : ∃ s : State, (s.launch 1).state = .stopping 3 ∧ s.fillersOf 1 = [] := ⟨{ State.reset with launches := [(1, { aLaunch with state := .stopping 3 })] }, by decide +kernel⟩
theorem walk_leaf {s : State} {va tb n : Nat} {lvl : Nat} {rest : List Nat} {e : Word} (i : va / 2 ^ (39 - 9 * lvl) % 512 = 0) (h : word (s.physNum tb 8) = e)
    (v : (!pteV e || pteBad e) = false) (l : pteLeaf e = true) (z : leafLevel (pteSize e) = lvl) : s.walk va (lvl :: rest) tb n = (some e, n + 1) := by
  simp only [State.walk, i, Nat.mul_zero, Nat.add_zero, h, v, l, z, if_true, Bool.false_eq_true, if_false]
theorem walk_table {s : State} {va tb n : Nat} {lvl : Nat} {rest : List Nat} {e : Word} (i : va / 2 ^ (39 - 9 * lvl) % 512 = 0) (h : word (s.physNum tb 8) = e)
    (v : (!pteV e || pteBad e) = false) (l : pteLeaf e = false) : s.walk va (lvl :: rest) tb n = s.walk va rest (ptePa e) (n + 1) := by
  simp only [State.walk, i, Nat.mul_zero, Nat.add_zero, h, v, l, Bool.false_eq_true, if_false]
/-- Under a root at 4096 whose only table maps its first gigabyte in place, an address below it is its own physical address. -/
theorem identity_key {s : State} (r : s.ctxRoot 0 1 = 4096) (h1 : word (s.physNum 4096 8) = 0x2001#64) (h2 : word (s.physNum 8192 8) = 0xA00000000000000F#64)
    {va : Nat} (h : va < 1073741824) : s.ctxKey 0 1 va = some (physKey va) := by
  have p1 : ptePa 0x2001#64 = 8192 := by decide +kernel
  have w : s.walk va [0, 1, 2, 3] (s.ctxRoot 0 1) 0 = (some 0xA00000000000000F#64, 2) := by
    rw [r, walk_table (e := 0x2001#64) (by omega) h1 (by decide +kernel) (by decide +kernel), p1,
      walk_leaf (e := 0xA00000000000000F#64) (by omega) h2 (by decide +kernel) (by decide +kernel) (by decide +kernel)]
  have p : ptePa 0xA00000000000000F#64 = 0 := by decide +kernel
  have q : 2 ^ pageLog (pteSize 0xA00000000000000F#64) = 1073741824 := by decide +kernel
  have c : pteCb 0xA00000000000000F#64 = false := by decide +kernel
  simp only [State.ctxKey, State.ctxKeyBy, show refuseRead 0xA00000000000000F#64 = none by decide +kernel, Option.isNone_none, if_true, State.walkCtx, w, pteKey, p, q, c, Bool.false_eq_true, if_false, Nat.mod_eq_of_lt h, Nat.zero_add]
/-- R45: the table at 0x3000: raw from bank 368 up. -/
theorem launch_banks (b : Nat) (h : b < 384) : launchQueue.ctxNum 0 1 (0x3000 + 4 * b) 4 = if b < 368 then 0 else 0x80 := by
  have m : ∀ b, b < 384 → natOfBytes ((List.range 4).map (fun i => Memory.get launchQueue.mem (physKey (0x3000 + 4 * b + i)))) = if b < 368 then 0 else 0x80 := by decide +kernel
  rw [← m b h]
  refine congrArg natOfBytes (List.map_congr_left fun i hi => ?_)
  rw [List.mem_range] at hi
  rw [State.ctxByte, identity_key (by decide +kernel) (by decide +kernel) (by decide +kernel) (by omega)]

/-- The record at 0x80000. -/
def launchRecord : LaunchRecord := launchQueue.recordAt 0 1 0x80000
theorem launch_formats : (List.range 384).map (launchQueue.bankEntry 0 1 launchRecord.bfmtAt (launchQueue.section_ 0 1 launchRecord.image 2)) = (List.range 384).map (fun b => if b < 368 then 0#64 else 0x80#64) := by
  have r : launchRecord.bfmtAt = 0x3000 := by decide +kernel
  refine List.map_congr_left fun b hb => ?_
  rw [List.mem_range] at hb
  simp only [State.bankEntry, r, launch_banks b hb, ne_eq, show ¬(0x3000 = 0) by decide, not_false_eq_true, if_true]
  split <;> rfl
theorem launch_checked : launchQueue.checkRecord 0 1 launchRecord = 0 := by
  unfold State.checkRecord
  rw [launch_formats]
  decide +kernel

theorem witness_launch_entry : EntryReady launchQueue 0 64 0x60000 1 := by
  refine ⟨rfl, 1, ?_⟩
  have a : launchQueue.entryNum 0 64 0x60000 0x10 8 = 0x80000 := by decide +kernel
  have k : launchQueue.judgeLaunch 0 64 0x60000 = .ready 1 := by
    have c : launchQueue.checkRecord 0 1 (launchQueue.recordAt 0 1 0x80000) = 0 := launch_checked
    simp only [State.judgeLaunch, a, Nat.reduceDiv, c]
    decide +kernel
  have e : ((1 : Nat) = 0 ∨ 7 < 1 ∨ launchQueue.entryReserved 0 64 0x60000 1 = true) = False := by decide +kernel
  simp only [State.judge, e, if_false, k]

/-- R70: the record is for one package, the queue's context is no filler's, and no launch holds a tile. -/
theorem witness_launch_free : launchRecord.tag = 0 ∧ launchRecord.place.packages = [0] ∧ launchQueue.ctxFiller 0 1 = false ∧ launchQueue.launches = [] := by decide +kernel

/-! The registrar selects: the context table of package 0 at 64, where MG.CTXBASE points. -/

def aPkg (n : Nat) : Pkg := { (default : Pkg) with mg := [(0x10, 64#64)], selecting := n }
/-- With no context, or with the one queue of context 1 holding a SEAL entry. -/
def idleRegistrar : State := { State.reset with pkgs := [(0, aPkg 1)] }
def oneQueue (n : Nat) (again : Bool) : State := { State.reset with pkgs := [(0, { aPkg n with again := again })], mem := [(92233720368547758208, 1#8), (92233720368547758209, 1#8), (92233720368547758217, 16#8), (92233720368547758218, 16#8), (92233720368547758226, 21#8), (92233720368548810752, 1#8),
    (92233720368548810753, 32#8), (92233720368548810754, 16#8), (92233720368548814848, 15#8), (92233720368548814855, 160#8), (92233720368549134338, 22#8), (92233720368549134344, 4#8),
    (92233720368549134350, 1#8), (92233720368549134352, 1#8), (92233720368549134364, 1#8), (92233720368549199872, 4#8)] }
theorem witness_no_queue : idleRegistrar.allQueues 0 = [] ∧ (idleRegistrar.pkg 0).selecting = 1 ∧ idleRegistrar.mg 0 0x10 ≠ 0#64 := by decide +kernel
theorem witness_queue : (oneQueue 2 false).allQueues 0 = [64] := by decide +kernel
/-- R68: the queue's head is ready within its deficit. -/
theorem witness_served : (oneQueue 2 false).headOf 0 64 = some (.entry 0x160000 4) ∧ (oneQueue 2 false).judge 0 64 (.entry 0x160000 4) = .ready 1 ∧ 1 ≤ ((oneQueue 2 false).desc 0 64).deficit ∧
    ((oneQueue 2 false).desc 0 64).stops = false ∧ (((oneQueue 2 false).pkg 0).queues.get 64).stopped = false := by decide +kernel
/-- R58, R59: a write to no descriptor's line, and one to a line whose descriptor no longer stands. -/
theorem witness_write_elsewhere : (oneQueue 0 false).mg 0 0x10 ≠ 0#64 ∧ ∀ q ∈ (oneQueue 0 false).allQueues 0, (oneQueue 0 false).descAddr 0 q / 64 ≠ 0 / 64 := by decide +kernel
def badQueue : State := (oneQueue 0 false).physPut (0x150000 + 8) [0#8]
theorem witness_write_stops : (badQueue.allQueues 0).filter (fun x => badQueue.descAddr 0 x / 64 == badQueue.descAddr 0 64 / 64) = [64] ∧ (badQueue.desc 0 64).stops = true := by decide +kernel
theorem witness_none_ready : ∀ q ∈ (badQueue.allQueues 0), ∀ h n, badQueue.headOf 0 q = some h → badQueue.judge 0 q h ≠ .ready n := by
  have a : badQueue.allQueues 0 = [64] := by decide +kernel
  have b : badQueue.headOf 0 64 = none := by decide +kernel
  intro q hq h n e
  rw [a] at hq; obtain rfl : q = 64 := by simpa using hq
  rw [b] at e; cases e
/-- R68: two queues of one priority with ready heads, the first without a deficit. -/
def twoQueues : State := { State.reset with pkgs := [(0, aPkg 1)], mem := [(92233720368547758208, 1#8), (92233720368547758209, 2#8), (92233720368547758217, 16#8), (92233720368547758218, 16#8), (92233720368547758226, 21#8), (92233720368548810752, 1#8),
    (92233720368548810753, 32#8), (92233720368548810754, 16#8), (92233720368548814848, 15#8), (92233720368548814855, 160#8), (92233720368549134338, 22#8), (92233720368549134344, 4#8),
    (92233720368549134350, 1#8), (92233720368549134352, 1#8), (92233720368549134402, 23#8), (92233720368549134408, 4#8), (92233720368549134414, 1#8), (92233720368549134416, 1#8),
    (92233720368549134428, 5#8), (92233720368549199872, 4#8), (92233720368549265408, 4#8)] }
def twoSelecting : State := twoQueues.updPkg 0 (fun x => { x with selecting := 2, again := false })
theorem witness_compete : (twoQueues.pkg 0).selecting = 1 ∧ twoQueues.allQueues 0 = [64, 65] ∧ twoSelecting.allQueues 0 = [64, 65] ∧
    (∀ q ∈ [64, 65], (twoQueues.desc 0 q).stops = false ∧ ((twoQueues.pkg 0).queues.get q).stopped = false) ∧
    (∀ q ∈ [64, 65], readyCost twoSelecting 0 q = some 1 ∧ (twoSelecting.desc 0 q).prio = 0) ∧
    (∀ x ∈ [64, 65], twoQueues.descAddr 0 x + 0x1C + 4 ≤ 4398046511104 ∧
      ∀ y ∈ [64, 65], y ≠ x → twoQueues.descAddr 0 x + 0x1C + 4 ≤ twoQueues.descAddr 0 y + 0x1C ∨ twoQueues.descAddr 0 y + 0x1C + 4 ≤ twoQueues.descAddr 0 x + 0x1C) := by decide +kernel
/-- R77: a LAUNCH entry of the record at 0x80000 that is queued behind the head, and no launch made from it. -/
theorem witness_kill_queued : ∃ s : State, s.queuedLaunches 0 1 (fun va => va == 0x80000) = [(64, 1)] ∧ killTarget s 0 1 0x80000 = none ∧ (s.recordAt 0 1 0x80000).tag = 0 ∧
    1 ≠ (s.desc 0 64).head ∧ s.ctxPa 0 1 ((s.desc 0 64).base + 128 * (1 % 2 ^ (s.desc 0 64).n) + 2) = some 0x160082 :=
  ⟨((oneQueue 2 false).physPut 0x150010 [2#8]).physPut 0x160080 ([1#8] ++ List.replicate 17 0#8 ++ [8#8]), by decide +kernel⟩
theorem witness_again : ((oneQueue 2 true).pkg 0).selecting = 2 ∧ ((oneQueue 2 true).pkg 0).again = true ∧ ((oneQueue 0 false).pkg 0).selecting = 0 := by decide +kernel

/-! Launches that start, stop, are saved and retire. -/

def launchIs (f : Launch → Launch) : State := { st id with launches := [(1, f aLaunch)] }
theorem witness_text : ((launchIs (fun l => { l with state := .starting })).launch 1).textBase + ((launchIs (fun l => { l with state := .starting })).launch 1).textSize ≤ 262144 := by decide +kernel
theorem witness_broadcast : ((launchIs (fun l => { l with state := .starting })).launch 1).state = .starting ∧
    (((launchIs (fun l => { l with state := .starting })).launch 1).place.tiles (launchIs id).podModule).length = 16 ∧
    ((((launchIs (fun l => { l with state := .starting })).launch 1).place.tiles (launchIs id).podModule).map Prod.fst).Nodup := by decide +kernel
theorem witness_held_start : ((launchIs (fun l => { l with state := .heldStop })).launch 1).state = .heldStop ∧ ((launchIs (fun l => { l with state := .heldStop })).launch 1).reports = [] := by decide +kernel
/-- R76: the context's watchdog interval, 1,024 cy, stands in its entry at 64. -/
def watchedState (w : Bool) : State := { launchIs (fun l => { l with progress := 5, watched := w }) with mem := [(92233720368547758148, 1#8)] }
theorem witness_watchdog : (watchedState true).ctxWatchdog ((watchedState true).launch 1).pkg ((watchedState true).launch 1).ctx = 1024 ∧ ((watchedState true).launch 1).progress = 5 ∧
    ((watchedState true).launch 1).watched = true ∧ ((watchedState false).launch 1).watched = false ∧ ((watchedState false).launch 1).state = .running := by decide +kernel
theorem witness_gang_stop : ((launchIs id).launch 1).completed = false ∧ ((launchIs id).launch 1).topDone = false ∧ (launchIs id).fillersOf 1 = [] ∧ (0, 0) ∈ (launchIs id).membersOf 1 ∧
    Running ((launchIs id).thread 0 0) ∧ ((launchIs id).thread 0 0).nested = none ∧ ((launchIs id).thread 0 0).wait = .none := by unfold Running; decide +kernel
theorem witness_kill_waits : ∃ s : State, 1 ∈ s.members ∧ s.replaying (s.launch 1).podSeal = true ∧ State.reset.replaying false = false :=
  ⟨(launchIs (fun l => { l with recover := true })).schedule 9 (.rollbackDone 0x20000#32 0#32), by decide +kernel⟩
theorem witness_reported : ((launchIs (fun l => { l with topDone := true })).launch 1).state = .running ∧ ((launchIs (fun l => { l with topDone := true })).launch 1).topDone = true := by decide +kernel
/-- R311: the stages from the broadcast on. -/
theorem witness_start_pkgs : ∀ e ∈ aLaunch.place.tiles 0, pkgOf e.1 ∈ aLaunch.place.packages := by decide +kernel
theorem witness_rests : ((launchIs (fun l => { l with state := .stopping 2 })).launch 1).state = .stopping 2 ∧ (launchIs (fun l => { l with state := .stopping 2 })).atRest 1 = true := by decide +kernel
theorem witness_restless : ∃ s : State, (s.launch 1).state = .stopping 0 ∧ s.atRest 1 = false :=
  ⟨{ launchIs (fun l => { l with state := .stopping 0 }) with tiles := (st (fun t => { t with wait := .fabric })).tiles }, by decide +kernel⟩
theorem witness_saving : ((launchIs (fun l => { l with state := .stopping 10 })).launch 1).state = .stopping 10 := by decide +kernel
theorem witness_stopper : ((launchIs (fun l => { l with state := .stopping 11, stopper := some 262144 })).launch 1).state = .stopping 11 := by decide +kernel
theorem witness_pre_empted : ((launchIs (fun l => { l with state := .stopping 10 })).launch 1).state = .stopping 10 ∧ ((launchIs (fun l => { l with state := .killed })).launch 1).state = .killed ∧
    ((launchIs (fun l => { l with state := .stopping 12 })).launch 1).state = .stopping 12 := by decide +kernel
/-- R306, R307: a launch held at rest, and one whose start broadcast is on its way. -/
theorem witness_resuming : ((launchIs (fun l => { l with state := .heldStop })).launch 1).state = .heldStop ∧ (launchIs (fun l => { l with state := .heldStop })).resuming 1 = false ∧
    ((launchIs (fun l => { l with state := .heldStop })).schedule 9 (.firstFetch 1)).resuming 1 = true := by decide +kernel
/-- R311: the save area of a launch; its state before the restore. -/
def savedState : State := let s := launchIs (fun l => { l with state := .saved }); { s with saves := [s.saveArea 1] }
theorem witness_restore : savedState.saves.find? (fun v => v.lid == 1) = some ((launchIs (fun l => { l with state := .saved })).saveArea 1) ∧
    (∀ v ∈ savedState.saves, v.progs.any (fun e => e.2.busy && (savedState.prog e.1).busy) = false ∧ v.pages = [] ∧ Memory.wf v.mem = true ∧ (v.tiles.map Prod.fst).Nodup) :=
  ⟨rfl, by decide +kernel⟩
theorem witness_restore_read : ∀ v ∈ savedState.saves, let r := savedState.readSave v
    r.progs.any (fun e => e.2.busy && (savedState.prog e.1).busy) = false ∧ r.pages = [] ∧ Memory.wf r.mem = true ∧ (r.tiles.map Prod.fst).Nodup := by decide +kernel
theorem witness_restore_waits : ∃ (s : State) (v : SaveArea), s.saves.find? (fun v => v.lid == 1) = some v ∧ v.progs.any (fun e => e.2.busy && (s.prog e.1).busy) = true :=
  ⟨{ State.reset with saves := [{ (default : SaveArea) with lid := 1, progs := [(5, { (default : Prog) with st := 1 })] }], progs := [(5, { (default : Prog) with st := 1 })] }, _, rfl, by decide +kernel⟩

/-! Fetch, mailboxes, engines. -/

theorem witness_refill : ∃ s : State, 9 ∈ (s.thread 0 0).refill := ⟨st (fun t => { t with refill := [9] }), by decide +kernel⟩
theorem witness_filler_reads : (primaryReads State.reset 0).length < 8 ∧ ¬ (primaryReads { State.reset with events := List.replicate 8 (6, .lineRefill 0 1 3) } 0).length < 8 := by decide +kernel
theorem witness_tick_taken : ∃ s : State, (s.thread 0 0).ticks ≠ 0 ∧ (s.thread 0 0).tie = true ∧ (s.thread 0 0).inTrap = false ∧ (s.thread 0 0).tvec ≠ 0#64 :=
  ⟨st (fun t => { t with ticks := 2, tie := true, tvec := 8#64 }), by decide +kernel⟩
def idling (w : Wait) (box : List Message) : State :=
  { State.reset with tiles := [(262144, { (default : Tile) with threads := [(0, { aThread with sys := true, wait := w, waitFrom := 3 })] })], curTile := 262144
                     dies := [(0, { (default : Die) with mailbox := box })] }
theorem witness_idle_wakes : ((idling (.idle 0) [default]).thread 262144 0).wait = .idle 0 ∧ ((idling (.idle 0) [default]).thread 262144 0).waitFrom = 3 ∧
    ((idling (.idle 0) [default]).die (dieOf 262144)).mailbox ≠ [] ∧ ((idling (.idle 9) []).die (dieOf 262144)).mailbox = [] ∧ (idling (.idle 9) []).cyc < 9 := by decide +kernel
theorem witness_not_idle : ∀ u, ((idling .none []).thread 262144 0).wait ≠ .idle u := fun u h => by
  have e : ((idling .none []).thread 262144 0).wait = .none := by decide +kernel
  rw [e] at h; cases h
/-- R302, R306: a thread of proctor 1 waits, and a message has arrived. -/
def second : State := { State.reset with tiles := [(262145, { (default : Tile) with threads := [(0, { aThread with sys := true, wait := .mailbox 0x5BFE0 2 })] })]
                                         dies := [(0, { (default : Die) with mailbox := [default] })] }
theorem witness_second_reads : NoEvent second ∧ second.dueProg = none ∧ second.nextAct = none ∧ (262145, 0) ∈ proctorThreads 0 ∧ (second.thread 262145 0).wait = .mailbox 0x5BFE0 2 ∧
    NoReader second 0 [(262145, 0)] ∧ (second.die 0).mailbox = default :: [] ∧ (second.die 0).waiting = [] ∧ (∀ e ∈ second.dies, e.1 ≠ 0 → e.2.mailbox = []) ∧ second.outbox = [] := by
  refine ⟨by unfold NoEvent; decide +kernel, by decide +kernel, by decide +kernel, by decide +kernel, by decide +kernel, ?_, by decide +kernel, by decide +kernel, by decide +kernel, by decide +kernel⟩
  unfold NoReader
  have h : ∀ e ∈ proctorThreads 0, e ∉ [(262145, 0)] → (second.thread e.1 e.2).wait = .none := by decide +kernel
  intro e he ne a rd g
  rw [h e he ne] at g; cases g
/-- R302: proctor 1 waits. -/
theorem witness_arrival_second : (262145, 0) ∈ proctorThreads 0 ∧ 262145 % 2 = 1 ∧ 262144 % 2 = 0 ∧ ((State.reset.updThread 262145 0 (fun t => { t with wait := .mailbox 0 0 })).thread 262145 0).wait = .mailbox 0 0 := by decide +kernel
theorem witness_arrival_waits : FirstPoster (idling .none []) 0 default ∧ NoReader (idling .none []) 0 [] ∧ ((idling .none []).die 0).mailbox.length < 1024 ∧
    1024 ≤ ((idling .none (List.replicate 1024 default)).die 0).mailbox.length := by
  have g : ∀ e ∈ (idling .none []).events, (match e.2 with
    | .mailboxArrival _ _ => false
    | _ => true) = true := by decide +kernel
  unfold FirstPoster NoReader
  refine ⟨fun e h _ n hn => (by have q := g e h; rw [hn] at q; cases q), ?_, by decide +kernel, by decide +kernel⟩
  have h : ∀ e ∈ proctorThreads 0, ((idling .none []).thread e.1 e.2).wait = .none := by decide +kernel
  intro e he _ a rd g
  rw [h e he] at g; cases g
theorem witness_arrival_read : (262144, 0) ∈ proctorThreads 0 ∧ ((idling (.mailbox 0x5BFE0 2) []).thread 262144 0).wait = .mailbox 0x5BFE0 2 ∧ NoReader (idling (.mailbox 0x5BFE0 2) []) 0 [(262144, 0)] ∧
    ((idling (.mailbox 0x5BFE0 2) []).die 0).waiting = [] ∧ 0x5BFE0 + 32 ≤ 393216 := by
  refine ⟨by decide +kernel, by decide +kernel, ?_, by decide +kernel, by decide⟩
  unfold NoReader
  have h : ∀ e ∈ proctorThreads 0, e ∉ [(262144, 0)] → ((idling (.mailbox 0x5BFE0 2) []).thread e.1 e.2).wait = .none := by decide +kernel
  intro e he ne a rd g
  rw [h e he ne] at g; cases g
theorem witness_resume : ∃ s : State, (s.tile 0).parked = true ∧ Running (s.thread 0 0) ∧ ∃ n, (s.thread 0 0).nested = some n :=
  ⟨{ State.reset with tiles := [(0, { (default : Tile) with prim := some 1, parked := true, threads := [(0, { aThread with nested := some default })] })] }, by decide +kernel, ⟨by decide +kernel, by decide +kernel, by decide +kernel⟩, _, rfl⟩
theorem witness_retry : ∃ (s : State) (x : Xfer), s.xfers.get 4 = some x ∧ x.kind = .get ∧ x.segs ≠ [] ∧ x.final = false ∧ x.verdict = 1 :=
  ⟨{ State.reset with xfers := [(4, some { (default : Xfer) with kind := .get, verdict := 1, segs := [⟨0, 64, 0#64⟩] })] }, _, rfl, by decide +kernel⟩
theorem witness_retry_fails : ∃ (s : State) (x : Xfer), s.xfers.get 4 = some x ∧ x.final = false ∧ x.verdict = 2 :=
  ⟨{ State.reset with xfers := [(4, some { (default : Xfer) with verdict := 2 })] }, _, rfl, by decide +kernel⟩
def heldProg (v : Nat) : State := { State.reset with progs := [(5, { (default : Prog) with st := 3, run := 9, verdict := v })] }
theorem witness_engine : (heldProg 1).pslotOf 9 = some 5 ∧ ((heldProg 1).prog 5).st = 3 ∧ ((heldProg 1).prog 5).verdict = 1 ∧ ((heldProg 2).prog 5).verdict = 2 ∧
    ((heldProg 2).prog 5).wrote = [] ∧ (heldProg 2).moveWindow 5 = [] ∧ (heldProg 1).pslotOf 8 = none := by decide +kernel

/-! Logs, save seals, faults and rollback. -/

theorem witness_drain : ((recovering 2 id).tile 0).undoPrim ≠ 0 ∧ (oldestEntry ((recovering 2 id).tile 0)).old.length ≤ 64 ∧ ((recovering 2 id).group (groupOf 0)).undo < 7168 := by decide +kernel
theorem witness_drain_waits : ∃ s : State, (s.tile 0).undoPrim ≠ 0 ∧ 7168 ≤ (s.group 0).undo := ⟨{ recovering 2 id with groups := [(0, { (default : Group) with undo := 7168 })] }, by decide +kernel⟩
theorem witness_group_drain : ∃ s : State, (s.group 2048).undo ≠ 0 ∧ (s.pkg 1).undo < s.undoSize 1 ∧ s.fullSince = none ∧ s.undoSize 1 ≤ (s.pkg 1).undo + 1 :=
  ⟨{ State.reset with groups := [(2048, { (default : Group) with undo := 3 })], pkgs := [(1, { (default : Pkg) with mg := [(0x20, 1#64)], undo := 67108863 })] }, by decide +kernel⟩
theorem witness_emergency : ∃ s : State, s.fullSince = some 7 := ⟨{ State.reset with fullSince := some 7 }, rfl⟩
theorem witness_save_seal : ∃ s : State, s.sealAsked = true ∧ s.placedMembers ≠ [] ∧ ∀ l ∈ s.placedMembers, s.atSealSync l = true ∧ (s.launch l).state = .running :=
  ⟨{ bellIn 6 false with sealAsked := true }, by decide +kernel⟩
theorem witness_save_held : ∃ s : State, s.placedMembers ≠ [] ∧ ∀ l ∈ s.placedMembers, (s.launch l).state = .heldStop ∧ (s.launch l).stopper = none ∧ s.resuming l = false ∧
    ({ s with cut := none } : State).areasFor l = none :=
  ⟨{ recovering 0 id with launches := [(1, { aLaunch with recover := true, state := .heldStop })] }, by decide +kernel⟩
theorem witness_fault : (∃ l ∈ (recovering 0 id).membersIn false, ((recovering 0 id).tile 0).prim = some l) ∧
    (st id).members = [] ∧ ((st id).tile 0).prim ≠ none := by decide +kernel
/-- R324: a fault of a filler's register file and accumulators; one in the group SRAM on which a member stands. -/
theorem witness_fault_filler : ∃ s : State, (s.tile 0).filler = some 2 ∧ (s.launch 2).isFiller = true ∧ 2051 / 256 = 8 ∧ 255 / 256 ≠ 8 ∧ s.unlogged 10 0 64 = false ∧
    ∃ l ∈ s.membersIn false, s.concerns l 10 0 64 = true :=
  ⟨{ (recovering 0 id).updTile 0 (fun t => { t with filler := some 2 }) with launches := [(1, { aLaunch with recover := true }), (2, { aLaunch with isFiller := true })] }, by decide +kernel⟩
theorem witness_stop_arrives : (0x20000#32).getLsbD 17 = true ∧ (∀ e ∈ (recovering 0 id).launches, e.2.isFiller = false) ∧ (0#32).getLsbD 17 = false ∧ (0#32).getLsbD 18 = false ∧ (0x40000#32).getLsbD 17 = false ∧ (0x40000#32).getLsbD 18 = true ∧
    ∃ l ∈ (recovering 0 id).membersIn ((0x20000#32).getLsbD 16), 0 ∈ (recovering 0 id).tilesOf l ∧ ((recovering 0 id).launch l).state ≠ .saved ∧ ((recovering 0 id).thread 0 0).live = true := by decide +kernel
theorem witness_unlogged : (∃ s : State, s.unlogged 12 0 64 = true) ∧ State.reset.unlogged 10 0 64 = false ∧ State.reset.members = [] :=
  ⟨⟨{ State.reset with pkgs := [(0, { (default : Pkg) with hdm := [(0, 268435456)] })] }, by decide +kernel⟩, by decide +kernel, by decide +kernel⟩
/-- Tables 17.4 and 17.5: Q0 at 0x180 of thread 1's record, and the count of window 2. -/
theorem test_seal_buffer : (({ (default : SealBuffer) with threads := [(1, some { (default : SealRecord) with q0 := 8#18 })], windows := [(2, { (default : Window) with c := 7#32 })] } : SealBuffer).cells 5).filter (fun c => decide (c.2 ≠ 5#8)) =
    [(480 + 0x180, 8#8), (0xF00 + 24, 7#8)] := by decide +kernel
/-- R328: a member on tile 0 whose thread has a seal record. -/
def sealedMember : State := (recovering 0 id).updTile 0 (fun t => { t with sealBuf := { (default : SealBuffer) with threads := [(0, some { (default : SealRecord) with q0 := 8#18, q1 := 10#18, q2 := 12#18, rd := 3 })] } })
theorem witness_rollback : sealedMember.saves = [] ∧ sealedMember.cut = none ∧ Tab.canon default sealedMember.tiles = true ∧ sealedMember.members = [1] ∧ sealedMember.membersIn ((0#32 : BitVec 32).getLsbD 16) = [1] ∧ (∀ e ∈ sealedMember.groups, e.2.undo = 0) ∧ sealedMember.undo = [] ∧
    (∀ e ∈ sealedMember.tiles, e.2.filler = none ∧ Tab.canon default e.2.threads = true) ∧ (sealedMember.launch 1).hadSeal = true ∧ (sealedMember.launch 1).state ≠ .saved ∧
    sealedMember.tilesOf 1 = [0] ∧ (sealedMember.thread 0 0).live = true ∧ ((sealedMember.tile 0).sealBuf.threads.get 0).isSome = true := by decide +kernel
/-- R325: an undo entry of a member that stands on its tiles. -/
theorem witness_replay : ∃ s : State, ∃ e ∈ s.undo, (s.launch e.lid).state ≠ .saved ∧ e.pod = (0x40000#32).getLsbD 16 ∧
    ∃ l ∈ s.membersIn ((0x40000#32).getLsbD 16), (s.launch l).ctx = e.ctx :=
  ⟨{ recovering 0 id with undo := [{ (default : UndoEntry) with lid := 1, ctx := 1, old := [1#8] }] }, by decide +kernel⟩

/-! Retirement, power, resets and management. -/

theorem witness_quiet : ∃ s : State, (s.tile 0).filler = none ∧ (s.tile 0).prim = some 1 ∧ (s.tile 0).retired = false ∧ s.tileQuiet 1 0 = true := ⟨st (fun t => { t with halted := true }), by decide +kernel⟩
theorem witness_noisy : (st id).tileQuiet 1 0 = false := by decide +kernel
theorem witness_final : ∃ s : State, s.bellAt 1 0 0 = none ∧ s.awake 1 0 0 = [] ∧ s.atInst 1 0 0 ≠ [] :=
  ⟨{ State.reset with launches := [(1, aLaunch)], tiles := (List.range 16).map (fun k => (k, { (default : Tile) with prim := some 1, threads := [(0, { aThread with halted := true })] })) }, by decide +kernel⟩
theorem witness_over : ((launchIs (fun l => { l with state := .stopping 3 })).launch 1).over = true ∧ ((launchIs (fun l => { l with state := .heldStop })).launch 1).over = false ∧
    ((launchIs id).launch 1).over = false ∧ ((launchIs id).launch 1).grpDone = [] ∧ ((launchIs id).launch 1).place.packages.length ≤ 1 := by decide +kernel
theorem witness_commit : ∃ s : State, (s.launch 1).topDone = true ∧ (s.launch 1).committed = false ∧ (s.launch 1).over = false ∧ (s.launch 1).recover = true :=
  ⟨launchIs (fun l => { l with topDone := true, recover := true }), by decide +kernel⟩
theorem witness_complete : ∃ s : State, (s.launch 1).committed = true ∧ (s.launch 1).completed = false ∧ s.escrowDone 1 = true ∧ (s.launch 1).over = false :=
  ⟨launchIs (fun l => { l with topDone := true, committed := true }), by decide +kernel⟩
theorem witness_completion : ∃ s : State, (s.launch 1).state ≠ .done ∧ (s.launch 1).completed = true ∧ (s.launch 1).completion = some (0x7000, 1#64) :=
  ⟨launchIs (fun l => { l with completed := true, completion := some (0x7000, 1#64) }), by decide +kernel⟩
theorem witness_ramp : ∃ s : State, s.rampHeld = [(8 * 1 + 0, 0, s.sigma + 2)] ∧ ((s.bellAt 1 0 0).map Bell.phase) = some 5 ∧ (s.launch 1).state.frozen = false ∧ (s.mgMod.get 0x100).getLsbD 0 = true :=
  ⟨{ bellIn 5 false with rampHeld := [(8, 0, (bellIn 5 false).sigma + 2)] }, by decide +kernel⟩
/-- R335: the last bytes of a window of 256 MiB, and the first beyond it. -/
theorem witness_hdm : ∃ s : State, (∀ i, i < 4 → ∃ w ∈ (s.pkg 0).hdm.take 4, w.1 % 268435456 = 0 ∧ w.2 % 268435456 = 0 ∧ w.1 ≤ 268435452 + i ∧ 268435452 + i < w.1 + w.2) ∧
    ¬ ∃ w ∈ (s.pkg 0).hdm.take 4, w.1 ≤ 268435456 ∧ 268435456 < w.1 + w.2 :=
  ⟨{ State.reset with pkgs := [(0, { (default : Pkg) with hdm := [(0, 268435456)] })] }, by decide +kernel⟩
/-- R313: a pod of modules 2 to 4, with this module 3; the same when it stands. -/
theorem witness_pod : (let v := 0x300020003#64; bitsOf v 15 0 = 3 ∧ bitsOf v 31 16 = 2 ∧ bitsOf v 47 32 = 3) ∧ State.reset.inPod = false ∧
    (let s : State := { State.reset with inPod := true, podModule := 3, podFirst := 2, podCount := 3 }; s.inPod = true ∧ s.podModule = 3 ∧ s.podFirst = 2 ∧ s.podCount = 3) := by decide +kernel
/-- R337: a package that has failed its boot, and one that has not. -/
theorem witness_boot : (State.reset.updPkg 1 (fun p => { p with mg := [(8, 2#64)] })).bootFailed = true ∧
    ((State.reset.updPkg 1 (fun p => { p with mg := [(8, 2#64)] })).mg 1 8).extractLsb' 0 2 = 2#2 ∧ (State.reset.mg 0 8).extractLsb' 0 2 ≠ 2#2 ∧ State.reset.bootFailed = false := by
  decide +kernel
theorem witness_no_write_due : State.reset.writesDue 0 = [] ∧ State.reset.powered = true := by decide +kernel
theorem witness_learned : ∃ s : State, 3 ∈ (s.die 5).learned := ⟨{ State.reset with dies := [(5, { (default : Die) with learned := [3] })] }, by decide +kernel⟩

/-! ## States for the further clauses of statements: recovery, full queues, conversions, other spaces -/

/-- R314: the first write of ctl.xperm under recovery; WSAVE and SEAL with room for the lines that a spill logs. -/
theorem witness_xperm_logged : ∃ s : State, ReadableW s 1#5 ∧ ¬ NoEntryDue s 0x004 ∧ (s.tile s.curTile).undoPrim = 447 ∧ s.fullSince = none :=
  ⟨{ State.reset with
      tiles := [(0, { (default : Tile) with prim := some 1, undoPrim := 447, threads := [(0, { aThread with recov := true, regs := [(1, 0x80#64)] })] })]
      launches := [(1, { aLaunch with recover := true, hadSeal := true })] }, by unfold ReadableW NoEntryDue; decide +kernel⟩
theorem witness_wsave_logged : ∃ s : State, s.thr.depth = 15 ∧ 5 ≤ s.thr.resident ∧ s.thr.chk = false ∧ s.recovering s.curTile = true ∧ s.curThread = 7 ∧
    (s.tile s.curTile).undoPrim + 2 = 448 ∧ s.fullSince = none :=
  ⟨{ State.reset with curThread := 7, launches := [(1, { aLaunch with recover := true, hadSeal := true })]
                      tiles := [(0, { (default : Tile) with prim := some 1, undoPrim := 446, threads := [(7, { aThread with recov := true, base := 2, depth := 15 })] })] },
    by decide +kernel⟩

/-- R306: a message for proctor 1, no thread of which waits. -/
theorem witness_mbxrd_second : ∃ s : State, SystemReads s 1#5 ∧ DescAddress s (s.readW 1#5) ∧ s.curTile % 2 = 1 ∧ (s.die (dieOf s.curTile)).mailbox = [default] ∧
    ∀ i, i < 8 → (s.thread (262145 + 2 * dieOf s.curTile) i).wait = .none :=
  ⟨{ State.reset with tiles := [(262145, { (default : Tile) with threads := [(0, { aThread with sys := true, regs := [(1, 0#64)] })] })], curTile := 262145,
                      dies := [(0, { (default : Die) with mailbox := [default], nextTicket := 1 })] },
    by unfold SystemReads ReadableW DescAddress; decide +kernel⟩
/-- R88: without system mode a descriptor that MBXPOST accepts, one that it does not, and an operand that names no tile. -/
theorem witness_priv_post : ∃ s : State, s.thr.sys = false ∧ ReadableW s 1#5 ∧ DescAddress s (s.readW 1#5) ∧ (s.readW 1#5).toNat = 0 ∧ PostOk s 0 = true :=
  ⟨(regs [(1, 0#64)]).poke (.tile 0) 0 [1#8], by unfold ReadableW DescAddress; decide +kernel⟩
theorem witness_post_ok : PostOk ((regs [(1, 0#64)]).poke (.tile 0) 0 [1#8]) 0 = true ∧ PostOk ((regs [(1, 0#64)]).poke (.tile 0) 0 [3#8]) 0 = false ∧
    PostOk (descAt [3]) ((descAt [3]).readW 1#5).toNat = false := by decide +kernel
theorem witness_priv_gstop : ∃ s : State, s.thr.sys = false ∧ ReadableW s 1#5 ∧ (s.readW 1#5).toNat = 4096 := ⟨regs [(1, 4096#64)], by unfold ReadableW; decide +kernel⟩

/-- R188 to R191: a copy of 8 elements from BF16 to D8, in one format, from D8 with a code that does not decode; fills of FP32 and INT8. -/
def convBanks (f g : Word) (b : List Byte) : State := ({ State.reset with
  tiles := [(0, { (default : Tile) with prim := some 1, bfmt := [(1, f), (2, g)], threads := [(0, { aThread with regs := [(1, 1#64), (2, 2#64), (3, 8#64)] })] })]
  launches := [(1, aLaunch)] } : State).poke (.tile 0) 1024 b
theorem witness_copy_converts : ReadableW (convBanks 8#64 9#64 []) 1#5 ∧ NoLog (convBanks 8#64 9#64 []) ∧ ((convBanks 8#64 9#64 []).readW 3#5).toNat = 8 + 2 ^ 11 * 0 + 2 ^ 21 * 0 + 2 ^ 31 * 0 ∧
    CopySide (convBanks 8#64 9#64 []) ((convBanks 8#64 9#64 []).readW 1#5) 0 8 (elemNibbles 8) ∧ CopySide (convBanks 8#64 9#64 []) ((convBanks 8#64 9#64 []).readW 2#5) 0 8 (elemNibbles 9) := by
  unfold ReadableW NoLog CopySide; decide +kernel
theorem witness_copy_values : (let s := convBanks 8#64 9#64 []
    (runValues (s.tileRd 0) 1 (s.bfmt 0 1) [] 0 8).isOk = true ∧ ((runValues (s.tileRd 0) 1 (s.bfmt 0 1) [] 0 8).toOption.map (fun xs =>
      (encodeRun (s.tileRd 0) 2 (s.bfmt 0 2) 0 (RMode.ofCode 0) xs).isOk)) = some true ∧ bfE8 (s.bfmt 0 1) = bfE8 (s.bfmt 0 2)) ∧
    (let s := convBanks 9#64 8#64 [0x80#8]; (runValues (s.tileRd 0) 1 (s.bfmt 0 1) [] 0 8).isOk = false) := by decide +kernel
theorem witness_copy_codes : bfFmt ((convBanks 8#64 8#64 []).bfmt 0 1) = bfFmt ((convBanks 8#64 8#64 []).bfmt 0 2) ∧ bfRaw ((convBanks 8#64 8#64 []).bfmt 0 1) = false ∧
    bfE8 ((convBanks 0xB#64 8#64 []).bfmt 0 1) ≠ bfE8 ((convBanks 0xB#64 8#64 []).bfmt 0 2) ∧ bfFmt ((convBanks 0#64 6#64 []).bfmt 0 2) = 6 ∧
    bfE8 ((convBanks 0#64 0#64 []).bfmt 0 2) = false := by decide +kernel

/-- R104: rows that rose 64 cycles after the thread was held. -/
theorem witness_rows_late : ∃ s : State, AccOk s 0#3 ∧ (1#4 : BitVec 4).toNat < rowsReadable s 0 ∧ s.thr.heldFrom = some 0 ∧ (s.tile s.curTile).accAt.get 8 = 64 ∧
    (s.tile s.curTile).accAt.get 0 = 0 := ⟨({ st (fun t => { t with heldFrom := some 0 }) with cyc := 64 }).updTile 0 (fun t => { t with accAt := [(8, 64)] }), by unfold AccOk; decide +kernel⟩
/-- R160 to R163: a latch that begins now, of operands in tile SRAM and of a .BS operand of the tensor store. -/
def latchable (bs : Bool) : State := (oneCmd { anMma 0 2 with kind := .mma { (default : MmaOp) with ty := 0, k := 1, mrow := 1#16, mcol := 0x8000#16, bs := bs, fmts := [(0, 8#64)] } }).poke
  (.directory 0) 0 [5, 8, 1, 0, 16, 0, 0, 0]
theorem witness_latch (bs : Bool) : ∃ c op, command (latchable bs) 0 0 3 = some c ∧ c.kind = .mma op ∧ op.bs = bs ∧ c.subst = [] ∧ LatchFree (latchable bs) 0 0 c ∧
    (op.bs = true → (latchable bs).bsGood 0 op = true ∧ ((latchable bs).die 0).lost.contains (columnOf 0) = false) ∧
    Decodes (elementAt (latchable bs) 0 op 0) ∧ ∃ x, operandB (latchable bs) 0 op 0 15 = some x ∧ Decodes x := by
  have e : ((latchable bs).mqueue 0 0).takeWhile (fun x => x.id != 3) = [] := by cases bs <;> decide +kernel
  have f (x : MCmd) (h : x ∈ ((latchable bs).mqueue 0 0).takeWhile (fun x => x.id != 3)) : x.stage ≠ 5 ∧ ∀ op, x.kind ≠ .msta op := by rw [e] at h; cases h
  cases bs <;> refine ⟨_, _, rfl, rfl, rfl, rfl, ⟨rfl, rfl, .inl rfl, by decide +kernel, f⟩, by decide +kernel, by unfold Decodes; decide +kernel, _, rfl, by unfold Decodes; decide +kernel⟩
def latchOp (bs : Bool) : MmaOp := { (default : MmaOp) with ty := 0, k := 1, mrow := 1#16, mcol := 0x8000#16, bs := bs, fmts := [(0, 8#64)] }
theorem witness_latch_passes (bs : Bool) : LatchPasses (latchable bs) 0 (latchOp bs) := by
  have a : ∀ r, r < 16 → Decodes (elementAt (latchable bs) 0 (latchOp bs) ((latchOp bs).rows.getD r 0 + 0 * 2)) := by cases bs <;> (unfold Decodes; decide +kernel)
  have b : ∀ j, j < 16 → ∃ x ∈ operandB (latchable bs) 0 (latchOp bs) 0 j, Decodes x := by cases bs <;> (unfold Decodes; decide +kernel)
  refine ⟨by cases bs <;> decide +kernel, by cases bs <;> decide, fun r i hr hi _ => ?_, fun i j hi hj _ _ => ?_⟩
  · obtain rfl : i = 0 := by have : i < 1 := hi; omega
    exact a r hr
  · obtain rfl : i = 0 := by have : i < 1 := hi; omega
    exact b j hj

/-- R216: a thread with 32 gets that have not landed, a tile with 64 deposits. -/
def crowd (k : XKind) (n : Nat) (ad loc len : Word) : State := { xf ad loc len with
  xfers := (List.range n).map (fun i => (i, some { (default : Xfer) with kind := k, lid := 1 })), nextXfer := 100 }
theorem witness_crowd : getsOut (crowd .get 31 0#64 0#64 1#64) = 31 ∧ getsOut (crowd .get 32 0#64 0#64 1#64) = 32 ∧ writesOut (crowd .dep 63 0#64 0#64 1#64) = 63 ∧
    writesOut (crowd .dep 64 0#64 0#64 1#64) = 64 := by decide +kernel
set_option synthInstance.maxSize 1000 in
set_option synthInstance.maxHeartbeats 200000 in
def admittedDec (s : State) (r : XReq) : Decidable (Admitted s r) := by
  unfold Admitted
  dsimp only
  infer_instance
theorem admitted_of {s : State} {r : XReq} (h : @decide _ (admittedDec s r) = true) : Admitted s r := @of_decide_eq_true _ (admittedDec s r) h
theorem witness_get_full : ∃ s : State, XferReads s 2#5 1#5 3#5 ∧ Admitted s (operands s 0 true false 393216 false 2#5 1#5 3#5) ∧ 32 ≤ getsOut s :=
  ⟨crowd .get 32 0#64 0#64 1#64, xfer_reads rfl rfl _ _ _, admitted_of (by decide +kernel), by decide +kernel⟩
theorem witness_dep_full (sp : Nat) (h : sp ∈ [0, 1, 2, 3, 4, 5]) : ∃ s : State, XferReads s 2#5 1#5 3#5 ∧ Admitted s (operands s sp false false 256 false 2#5 1#5 3#5) ∧ 64 ≤ writesOut s := by
  simp only [List.mem_cons, List.not_mem_nil, or_false] at h
  rcases h with rfl | rfl | rfl | rfl | rfl | rfl <;> exact ⟨crowd .dep 64 0#64 0#64 1#64, xfer_reads rfl rfl _ _ _, admitted_of (by decide +kernel), by decide +kernel⟩
theorem witness_depb_full (sp : Nat) (h : sp ∈ [0, 1, 2, 3, 4, 5]) : ∃ s : State, XferReads s 2#5 1#5 3#5 ∧ Admitted s (operands s sp false false 393216 false 2#5 1#5 3#5) ∧ 64 ≤ writesOut s := by
  simp only [List.mem_cons, List.not_mem_nil, or_false] at h
  rcases h with rfl | rfl | rfl | rfl | rfl | rfl <;> exact ⟨crowd .dep 64 0#64 0#64 1#64, xfer_reads rfl rfl _ _ _, admitted_of (by decide +kernel), by decide +kernel⟩
theorem witness_depa_full : ∃ s : State, XferReads s 2#5 1#5 3#5 ∧ Admitted s (operands s 5 false true 256 false 2#5 1#5 3#5) ∧ 64 ≤ writesOut s ∧ isProctor s.curTile = false :=
  ⟨crowd .dep 64 0#64 0#64 256#64, xfer_reads rfl rfl _ _ _, admitted_of (by decide +kernel), by decide +kernel⟩
theorem witness_atomic_full : ∃ s : State, AtomicAdmitted s 0 4 2#5 1#5 30#5 ∧ 64 ≤ writesOut s :=
  ⟨crowd .dep 64 0x1BFFF8#64 0x5BFF8#64 0#64, ⟨xfer_reads rfl rfl _ _ _, by decide, fun _ => readable_w rfl _, fun _ => readable_w rfl _, by decide +kernel, by decide +kernel, by decide +kernel,
    by decide +kernel, by decide +kernel⟩, by decide +kernel⟩

/-- R223, R235: another thread waits in WAITA until the window's counter has passed a number that its new definition passes. -/
theorem witness_wdef_wakes : ∃ s : State, s.thr.wait = .none ∧ s.curThread < 8 ∧ (s.thread s.curTile 1).wait = .window 15 0 3 ∧ (0#32 - BitVec.ofNat 32 0).toNat < 2147483648 :=
  ⟨{ State.reset with tiles := [(0, { (default : Tile) with prim := some 1, threads := [(0, aThread), (1, { aThread with wait := .window 15 0 3 })] })], launches := [(1, aLaunch)] },
    by decide +kernel⟩
/-- R225: a program whose B is level memory, one whose B names a window that is not there, and one without a permit. -/
theorem witness_level_b : (program (oneProgram 0#64 default)).bKind = 0 ∧ (let s := oneProgram 0#64 { (default : Prog) with bKind := 1, tile := 5 }; (program s).bKind = 1) ∧
    (65536#20 : BitVec 20).toNat = 65536 ∧ (mover 2).bWindow 0 = some (0, 2) ∧ pslotPkg 0 = false := by decide +kernel
/-- R320: a SEAL with five octets resident and room for the lines of its spill. -/
theorem witness_seal_spills : ∃ s : State, s.curThread < 8 ∧ isProctor s.curTile = false ∧ s.thr.recov = true ∧ (∀ j, j < 4 → s.thr.nest.act.get j = false) ∧
    s.thr.depth + (s.thr.resident - 3) / 2 ≤ 16 ∧ s.thr.resident = 5 ∧ s.thr.chk = false ∧ s.recovering s.curTile = true ∧ (s.tile s.curTile).undoPrim + 2 = 448 ∧ s.fullSince = none :=
  ⟨recovering 446 (fun t => { t with base := 2 }), by decide +kernel⟩
theorem witness_bara_filler : ∃ s : State, s.curThread = 8 ∧ isProctor (sys []).curTile = true := ⟨{ State.reset with curThread := 8 }, by decide +kernel⟩

/-- R209 to R212, R314: applications at the ends of the tensor store and of HBM; under recovery, below the group's log, into another tile's last free lines, to the host
and to a peer outside the domain; to a peer that the launch has not, and to one that it has. -/
def applying (rec_ : Bool) (keys : Tab Nat) (x : Xfer) : State := { oneXfer x with
  tiles := [(0, { (default : Tile) with prim := some 1, undoExch := 63, threads := [(0, { aThread with recov := rec_ })] })]
  launches := [(1, { aLaunch with recover := rec_, hadSeal := rec_, keys := keys })] }
def aDep (space addr : Nat) (l : List Seg) : Xfer := { (default : Xfer) with kind := .dep, space := space, addr := addr, tag := 4, data := List.replicate 8 1#8, segs := l }
theorem witness_apply_level : (∃ x, (applying false [] (aDep 1 0 [⟨(Space.tensor 1).key ((Space.tensor 1).size - 8), 8, 0#64⟩])).xfers.get 1 = some x ∧ x.final = false ∧ levelSpace (.tensor 1) ∧ x.space = 1) ∧
    (∃ x, (applying false [] (aDep 2 0 [⟨(Space.hbm 7).key ((Space.hbm 7).size - 8), 8, 0#64⟩])).xfers.get 1 = some x ∧ x.final = false ∧ levelSpace (.hbm 7) ∧ x.space = 2) ∧
    ((applying false [] default).launch 1).recover = false ∧ (applying false [] default).saves = [] := ⟨⟨_, rfl, rfl, trivial, rfl⟩, ⟨_, rfl, rfl, trivial, rfl⟩, by decide +kernel⟩
theorem witness_apply_logged : ∃ x, (applying true [] (aDep 0 0 [⟨(Space.group 0).key (0x140000 - 8), 8, 0#64⟩])).xfers.get 1 = some x ∧ x.final = false ∧ x.thread ≠ 8 ∧ levelSpace (.group 0) ∧
    x.data.length = 8 ∧ ((applying true [] (aDep 0 0 [])).launch x.lid).recover = true := ⟨_, rfl, by decide +kernel, by decide +kernel, trivial, by decide +kernel⟩
theorem witness_apply_logged_tile : ∃ (s : State) (x : Xfer), s.xfers.get 1 = some x ∧ x.final = false ∧ x.thread ≠ 8 ∧ x.space = 5 ∧ x.kind = .dep ∧ s.tileOfId x.lid (x.addr / 4294967296) = some 0 ∧
    s.recovering 0 = true ∧ (s.newTileLines 0 [(x.addr % 524288, x.data.length)]).length = 1 ∧ x.addr % 524288 + 8 = 0x54000 ∧ (s.tile 0).undoExch + 1 ≤ 64 :=
  ⟨applying true [] (aDep 5 (0x54000 - 8) []), _, rfl, by decide +kernel⟩
theorem witness_apply_outside : ∃ (s : State) (x : Xfer), s.xfers.get 1 = some x ∧ x.final = false ∧ (s.launch x.lid).recover = true ∧ x.thread ≠ 8 ∧ x.space = 4 ∧ x.kind = .dep ∧
    s.peerOf x.lid x.tag = some 2 ∧ s.inDomain x.lid 2 = false := ⟨applying true [(4, 2)] (aDep 4 0 []), _, rfl, by decide +kernel⟩
theorem witness_apply_peer : ∃ (s : State) (x : Xfer), s.xfers.get 1 = some x ∧ x.final = false ∧ x.space = 4 ∧ s.peerOf x.lid x.tag = some 2 ∧ s.irrevocable x = none :=
  ⟨applying false [(4, 2)] (aDep 4 0 []), _, rfl, by decide +kernel⟩
theorem witness_apply_no_peer : ∃ (s : State) (x : Xfer), s.xfers.get 1 = some x ∧ x.final = false ∧ x.space = 4 ∧ s.peerOf x.lid x.tag = none := ⟨applying false [] (aDep 4 0 []), _, rfl, by decide +kernel⟩

/-- R331: a final exchange with a deposit behind it, and one with none. R339: a module release that waits its turn, and one with the limiter off. R245: FP32 sums of one member. -/
theorem witness_final_behind : ({ wroteOut none with xfers := [(1, some { (default : Xfer) with kind := .dep, lid := 1, data := [1#8] })] } : State).finalBehind
      { (default : Bell) with lid := 1, phase := 1, isFinal := true } = true ∧ (wroteOut none).finalBehind { (default : Bell) with lid := 1, phase := 1, isFinal := true } = false := by decide +kernel
theorem witness_ramp_holds : ¬ RampFree { State.reset with rampHeld := [(2, 3, 0)] } 1 3 ∧ RampFree { State.reset with mgMod := [] } 1 3 := by
  have a : ¬ (({ State.reset with rampHeld := [(2, 3, 0)] } : State).rampHeld = []) := by decide
  have b : (({ State.reset with rampHeld := [(2, 3, 0)] } : State).mgMod.get 0x100).getLsbD 0 = true := by decide +kernel
  exact ⟨fun h => h.elim (fun g => g rfl) (fun g => g.elim (fun e => by rw [b] at e; cases e) (fun e => a e.1)), .inr (.inl (by decide +kernel))⟩
theorem witness_rolling : ∃ s : State, s.rollingDomain false = true ∧ s.rollingDomain true = false := ⟨{ State.reset with events := [(9, .rollbackDone 0 0)] }, by decide +kernel⟩
theorem witness_float : ∃ s : State, ∃ m ∈ s.awake 1 0 0, (s.thread m.1 m.2).arr.map Arrival.op = some 9 ∧ s.memberIndex 1 0 m.1 m.2 < 2 ^ leafBits 0 1 :=
  ⟨st (fun t => { t with arr := some { (default : Arrival) with op := 9, val := 0x3F800000#64, rd := 3 }, wait := .bell }), (0, 0), by decide +kernel, by decide +kernel⟩

/-- R287: a further contribution that agrees with the one that stands, and one of another length; a multicast that one member's slot takes and one that none takes. -/
def joining (n : Nat) : Bucket := { fullBucket 1 with flying := [{ aContribution with tile := 1, xid := 2, n := n }], present := [0, 1] }
theorem witness_bucket_joins : OnlyBucket (bucket1 (joining 1)) 1 5 (joining 1) ∧ (joining 1).opened = true ∧ (joining 1).sent = false ∧ (joining 1).cast = 0 ∧
    (∀ k ∈ ((bucket1 (joining 1)).cohorts.get 1).members.map Member.tile, k ∈ (joining 1).present) ∧
    (∀ g ∈ (joining 1).contribs, ¬ Disagrees false { aContribution with tile := 1, xid := 2 } g) ∧
    ∃ g ∈ (joining 2).contribs, Disagrees false { aContribution with tile := 1, xid := 2, n := 2 } g := by unfold OnlyBucket Disagrees; decide +kernel
def casting : Bucket := { fullBucket 1 with cast := 1, present := [0] }
theorem witness_cast : OnlyBucket (bucket1 casting) 1 5 casting ∧ casting.contribs = [aContribution] ∧ casting.cast ≠ 0 ∧
    (∃ m ∈ ((bucket1 casting).cohorts.get 1).members, Fits (bucket1 casting) m aContribution.data.length ∧ m.tile ∈ casting.present) ∧
    (∃ m ∈ ((bucket1 casting).cohorts.get 1).members, m.tile ∉ casting.present) ∧ ∀ m ∈ ((bucket1 casting).cohorts.get 1).members, ¬ Fits (bucket1 casting) m 65 := by
  unfold OnlyBucket Fits; decide +kernel
/-- R289: a delivery that its slot takes, and one that it does not. -/
theorem witness_delivery_fits : (let x := (cohort1 .none).window 1 2
    0 + 64 ≤ x.size ∧ 1024 * x.bank + 1 % max 1 x.count * x.size + 64 ≤ 393216 ∧ (cohort1 .none).firstReserved 1 (1024 * x.bank + 1 % max 1 x.count * x.size) 64 = none ∧
    ¬ 1 + 64 ≤ x.size) ∧ (cohort1 .none).freshOf 1 [(64, 1#8)] = 0 := by decide +kernel
theorem witness_delivery_logged : (recovering 0 id).freshOf 0 (spread 0 [1#8]) = 1 ∧ ((recovering 0 id).tile 0).undoExch + 1 ≤ 64 ∧ (recovering 0 id).fullSince = none := by decide +kernel
/-- R282: a key that lacks the right of an atomic, one that reaches no page, one that may do both. -/
theorem witness_key_bad : aRegion.a = false ∧ (remote.inDomain aRegion.lid remote.podModule = true ∨ aRegion.ext = true) ∧
    (remote.mapRun (.pkg 0) aRegion.ctx refuseRead (64 / 4096 + 2) (aRegion.base + 0) 64).2.2.isOk = false ∧
    ((mapped remote).mapRun (.pkg 0) aRegion.ctx refuseRead (64 / 4096 + 2) (aRegion.base + 0) 64).2.2.isOk = true := by decide +kernel
/-- R264, R282: an accepted atomic of a launch without recovery, due at its memory; one whose line has no room in its log. -/
def dueTxn (full : Option Nat) : State := { applying full.isSome [] (aDep 4 0 []) with fullSince := full }.updPkg 0 (fun p => { p with txns :=
  [{ (default : Txn) with src := 0, tag := 1, op := 4, key := 0x31FF0055#32, lid := 1, data := List.replicate 24 0#8, whole := some [⟨(Space.hbm 0).key 4096, 8, 0#64⟩] }] })
theorem witness_txn : ∃ y, ((dueTxn none).pkg 0).txns.find? (fun y => y.src == (dueTxn none).podModule && y.tag == 1 && y.whole.isSome) = some y ∧ y.op = 4 ∧ y.data.length = 24 ∧
    y.whole = some [⟨(Space.hbm 0).key 4096, 8, 0#64⟩] ∧ pteCb 0#64 = false ∧ ((dueTxn none).launch y.lid).recover = false ∧ (dueTxn none).xfers.get 1 ≠ none :=
  ⟨_, rfl, rfl, rfl, rfl, by decide +kernel⟩
theorem witness_txn_shut : (dueTxn (some 0)).levelShut 1 [⟨(Space.hbm 0).key 4096, 8, 0#64⟩] = true := by decide +kernel
/-- R355: a pattern that tells a lane of the other half, and one among the lanes in training. -/
theorem witness_pattern : BitVec.ofNat 16 0x20 ≠ 0#16 ∧ (0xFF00#16 : BitVec 16) &&& BitVec.ofNat 16 0x20 = 0#16 ∧ (0xFF00#16 : BitVec 16) &&& BitVec.ofNat 16 0x8000 ≠ 0#16 ∧
    4 ≤ 16 - popcount (0#16 ||| BitVec.ofNat 16 0x20) ∧ laneChoice (BitVec.ofNat 16 0x20) = some 0xFF00#16 := by decide +kernel

/-! ## Single steps, their results worked out by hand from the spec's rules -/

/-- R109: a sum wraps. -/
theorem test_add_wraps : wreg (after (.add 3#5 1#5 2#5) (regs [(1, 0xFFFFFFFFFFFFFFFF#64), (2, 2#64)])) 3 100 = 1#64 := by decide +kernel
/-- R109: the high half of (-1) * 2 is -1 signed, and 1 for the same bits unsigned. -/
theorem test_mulh_sign : wreg (after (.mulh 3#5 1#5 2#5) (regs [(1, 0xFFFFFFFFFFFFFFFF#64), (2, 2#64)])) 3 100 = 0xFFFFFFFFFFFFFFFF#64 := by decide +kernel
theorem test_mulhu : wreg (after (.mulhu 3#5 1#5 2#5) (regs [(1, 0xFFFFFFFFFFFFFFFF#64), (2, 2#64)])) 3 100 = 1#64 := by decide +kernel
/-- R110: -7 / 2 truncates to -3 and leaves -1. -/
theorem test_div_truncates : wreg (after (.div 3#5 1#5 2#5) (regs [(1, 0xFFFFFFFFFFFFFFF9#64), (2, 2#64)])) 3 100 = 0xFFFFFFFFFFFFFFFD#64 := by decide +kernel
theorem test_rem_sign : wreg (after (.rem 3#5 1#5 2#5) (regs [(1, 0xFFFFFFFFFFFFFFF9#64), (2, 2#64)])) 3 100 = 0xFFFFFFFFFFFFFFFF#64 := by decide +kernel
/-- R112: LDI extends the sign of 17 bits; a following LDIH shifts it up by 17. -/
theorem test_ldi_sign : wreg (after (.ldi 3#5 0x10000#17) (regs [])) 3 100 = 0xFFFFFFFFFFFF0000#64 := by decide +kernel
theorem test_ldih : wreg (after (.ldih 1#5 3#17) (regs [(1, 1#64)])) 1 100 = 0x20003#64 := by decide +kernel
theorem test_slt_signed : wreg (after (.slt 3#5 1#5 2#5) (regs [(1, 0x8000000000000000#64), (2, 0#64)])) 3 100 = 1#64 := by decide +kernel
theorem test_csel_condition : wreg (after (.csel 3#5 1#5 2#5 4#5) (regs [(1, 5#64), (2, 6#64), (4, 0#64)])) 3 100 = 6#64 := by decide +kernel
theorem test_w0_reads_zero : wreg (after (.add 0#5 1#5 1#5) (regs [(1, 5#64)])) 0 100 = 0#64 := by decide +kernel

end Sys2Proof.Tests
end

namespace Sys2Proof.Proofs.Memory

open Sys2Proof.Machine Sys2Proof.Laws

/-- The memories have numbers of their own: the number mod 8 tells the kind, the rest the unit. -/
theorem space_num_injective {x y : Space} (h : x.num = y.num) : x = y := by
  cases x <;> cases y <;> simp only [Space.num, reduceCtorEq, Space.tile.injEq, Space.group.injEq, Space.istore.injEq, Space.tensor.injEq,
    Space.directory.injEq, Space.hbm.injEq, Space.system.injEq] at h ⊢ <;> omega

/-- No memory holds more bytes than the 2^64 keys that are its own. -/
theorem space_size_le (x : Space) : x.size ≤ 18446744073709551616 := by
  cases x <;> simp [Space.size]

/-- Within their sizes two memories share no key. -/
theorem space_key_eq_iff {x y : Space} {a b : Nat} (ha : a < x.size) (hb : b < y.size) : x.key a = y.key b ↔ x = y ∧ a = b := by
  refine ⟨fun h => ?_, fun ⟨hx, hab⟩ => by rw [hx, hab]⟩
  obtain ⟨hn, hab⟩ := Space.key_inj (Nat.lt_of_lt_of_le ha (space_size_le x)) (Nat.lt_of_lt_of_le hb (space_size_le y)) h
  exact ⟨space_num_injective hn, hab⟩

theorem space_key_add (x : Space) (a i : Nat) : x.key (a + i) = x.key a + i := (Nat.add_assoc _ _ _).symm

theorem byte_poke_inside (s : State) (sp : Space) (a : Nat) (bs : List Byte) {i : Nat} (hi : i < bs.length) :
    (s.poke sp a bs).byte sp (a + i) = bs.getD i 0#8 := by
  rw [byte_poke, space_key_add, if_pos (by omega), Nat.add_sub_cancel_left]

theorem byte_poke_outside (s : State) {sp sq : Space} {a x : Nat} {bs : List Byte} (ha : a + bs.length ≤ sp.size) (hx : x < sq.size)
    (h : sq = sp → x < a ∨ a + bs.length ≤ x) : (s.poke sp a bs).byte sq x = s.byte sq x := by
  rw [byte_poke, if_neg]
  rintro ⟨hlo, hhi⟩
  have hkey : sp.key (a + (sq.key x - sp.key a)) = sq.key x := by rw [space_key_add]; omega
  obtain ⟨hsp, hat⟩ := (space_key_eq_iff (by omega) hx).mp hkey
  have := h hsp.symm
  omega

theorem num_zero (s : State) (sp : Space) (a : Nat) : s.num sp a 0 = 0 := rfl

theorem num_succ (s : State) (sp : Space) (a n : Nat) : s.num sp a (n + 1) = (s.byte sp a).toNat + 256 * s.num sp (a + 1) n := by
  simp only [State.num, State.bytes, List.range_succ_eq_map, List.map_cons, List.map_map, natOfBytes, Function.comp_def, Nat.add_zero,
    Nat.succ_eq_add_one, Nat.add_assoc, Nat.add_comm 1]

/-- Settles O35: a write changes the keys of its own bytes alone, and memories share no key. -/
theorem memoryReadsBack : Obligations.MemoryReadsBack := by
  unfold Obligations.MemoryReadsBack
  exact ⟨fun s sp a bs ha => ⟨fun _ hi => byte_poke_inside s sp a bs hi, fun _ _ hx h => byte_poke_outside s ha hx h⟩,
    fun s sp a n => ⟨num_zero s sp a, num_succ s sp a n⟩⟩
end Sys2Proof.Proofs.Memory

namespace Sys2Proof.Proofs.Memory

open Sys2Proof.Machine Sys2Proof.Laws

/-! ## What keeps the canonical form

Memory is changed by writes of bytes and by dropping listed bytes alone. `Keeps old m` follows that through the model: `m` has the
canonical form if `old`, the memory at the beginning, has it. `Ends old o` says of a meaning's answer that it is a next state, and that
the next state's memory keeps the form. The lemmas below carry both along each function of the model, in the order of the model's files. -/

/-- Memory `m` has the canonical form if `old` has it. -/
def KeepsMem (old m : List Host.Cell) : Prop := Memory.wf old = true → Memory.wf m = true

/-- The memory of a state has the canonical form if `old` has it. -/
def Keeps (old : List Host.Cell) (s : State) : Prop := KeepsMem old s.mem

/-- A meaning answers a next state, whose memory has the canonical form if `old` has it. -/
def Ends (old : List Host.Cell) (o : Out) : Prop := ∃ t, o = .next t ∧ Keeps old t

theorem Keeps.self (s : State) : Keeps s.mem s := id

section Rules

variable {old m : List Host.Cell} {α β : Type}

theorem KeepsMem.of {s : State} (hk : Keeps old s) : KeepsMem old s.mem := hk

theorem KeepsMem.nil : KeepsMem old [] := fun _ => rfl

theorem KeepsMem.put {k : Nat} {b : Byte} (hk : KeepsMem old m) : KeepsMem old (Memory.put m k b) := fun h => Memory.wf_put k b (hk h)

theorem KeepsMem.putAll {k : Nat} {bs : List Byte} (hk : KeepsMem old m) : KeepsMem old (Memory.putAll m k bs) :=
  fun h => Memory.wf_putAll k bs (hk h)

theorem KeepsMem.filter {p : Host.Cell → Bool} (hk : KeepsMem old m) : KeepsMem old (m.filter p) := fun h => Memory.wf_filter p (hk h)

theorem KeepsMem.clear {lo n : Nat} (hk : KeepsMem old m) : KeepsMem old (Memory.clear m lo n) := hk.filter

theorem KeepsMem.ite {c : Prop} [Decidable c] {a b : List Host.Cell} (ha : KeepsMem old a) (hb : KeepsMem old b) :
    KeepsMem old (if c then a else b) := by split <;> assumption

theorem KeepsMem.foldlPut {l : List α} {key : α → Nat} {val : α → Byte} (hk : KeepsMem old m) :
    KeepsMem old (l.foldl (fun m x => Memory.put m (key x) (val x)) m) := by
  induction l generalizing m with
  | nil => exact hk
  | cons x r ih => exact ih hk.put

theorem KeepsMem.putCells {cells : List Host.Cell} (hk : KeepsMem old m) : KeepsMem old (putCells m cells) := hk.foldlPut

theorem KeepsMem.pagesBack {pages : List (Nat × List Host.Cell)} (hk : KeepsMem old m) : KeepsMem old (pages.foldl pageBack m) := by
  induction pages generalizing m with
  | nil => exact hk
  | cons g r ih => exact ih hk.clear.putCells

/-- A state given field by field, with a memory of its own: the form in which a record update reaches the unifier, which finds the memory in it. -/
theorem Keeps.litMem {x0 x1 x2 x3 x4 x5 x7 x8 x9 x10 x11 x12 x13 x14 x15 x16 x17 x18 x19 x20 x21 x22 x23 x24 x25 x26 x27 x28 x29 x30 x31 x32 x33
    x34 x35 x36 x37 x38 x39 x40 x41 x42 x43 x44} (hk : KeepsMem old m) :
    Keeps old ⟨x0, x1, x2, x3, x4, x5, m, x7, x8, x9, x10, x11, x12, x13, x14, x15, x16, x17, x18, x19, x20, x21, x22, x23, x24, x25, x26, x27, x28,
    x29, x30, x31, x32, x33, x34, x35, x36, x37, x38, x39, x40, x41, x42, x43, x44⟩ := hk

/-- A state given field by field, with the memory of a state: a record update that leaves memory as it is. -/
theorem Keeps.lit {x0 x1 x2 x3 x4 x5 x7 x8 x9 x10 x11 x12 x13 x14 x15 x16 x17 x18 x19 x20 x21 x22 x23 x24 x25 x26 x27 x28 x29 x30 x31 x32 x33 x34
    x35 x36 x37 x38 x39 x40 x41 x42 x43 x44} {s : State} (hk : Keeps old s) :
    Keeps old ⟨x0, x1, x2, x3, x4, x5, s.mem, x7, x8, x9, x10, x11, x12, x13, x14, x15, x16, x17, x18, x19, x20, x21, x22, x23, x24, x25, x26, x27,
    x28, x29, x30, x31, x32, x33, x34, x35, x36, x37, x38, x39, x40, x41, x42, x43, x44⟩ := hk

/-- A fold whose every step keeps the form of the state that `π` picks from what is folded. -/
theorem Keeps.foldlVia {l : List α} {f : β → α → β} {b : β} (π : β → State) (hk : Keeps old (π b))
    (hf : ∀ {b x}, Keeps old (π b) → Keeps old (π (f b x))) : Keeps old (π (l.foldl f b)) := by
  induction l generalizing b with
  | nil => exact hk
  | cons x r ih => exact ih (hf hk)

theorem Keeps.foldl {l : List α} {f : State → α → State} {s : State} (hk : Keeps old s)
    (hf : ∀ {s x}, Keeps old s → Keeps old (f s x)) : Keeps old (l.foldl f s) := hk.foldlVia id hf

theorem Keeps.iteVia {c : Prop} [Decidable c] {a b : β} (π : β → State) (ha : Keeps old (π a)) (hb : Keeps old (π b)) :
    Keeps old (π (if c then a else b)) := by split <;> assumption

theorem Keeps.ite {c : Prop} [Decidable c] {a b : State} (ha : Keeps old a) (hb : Keeps old b) : Keeps old (if c then a else b) :=
  ha.iteVia id hb

/-- A state that a pattern takes out of a pair. -/
theorem Keeps.of_eq {p : State × β} {s : State} {b : β} (hk : Keeps old p.1) (h : p = (s, b)) : Keeps old s := by rw [h] at hk; exact hk

theorem Keeps.pair {s : State} {b : β} (hk : Keeps old s) : Keeps old (s, b).1 := hk

theorem Keeps.pairVia {a : α} {b : β} (π : α → State) (hk : Keeps old (π a)) : Keeps old (π (a, b).1) := hk

theorem Keeps.accLit {s : State} {a b c d e f} (hk : Keeps old s) : Keeps old (WriteAcc.mk s a b c d e f).st := hk

theorem Keeps.halvesLit {s : State} {a b c d e} (hk : Keeps old s) : Keeps old (Halves.mk s a b c d e).st := hk

theorem Ends.next {s : State} (hk : Keeps old s) : Ends old (.next s) := ⟨s, rfl, hk⟩

theorem Ends.ite {c : Prop} [Decidable c] {a b : Out} (ha : Ends old a) (hb : Ends old b) : Ends old (if c then a else b) := by
  split <;> assumption

end Rules

section Model

variable {old : List Host.Cell} {s : State} {a addr c cast code col ctx d data delay dst ev g i id index inst k key kind l lane lat lc lid line
  lvl m n nthr o off op p pa page place q rd reason run seq share since space src st t tag unit v va vc w wait why x : Nat}

/-! ### Machine/Memory.lean -/

theorem keeps_poke {sp : Space} {bs : List Byte} (hk : Keeps old s) : Keeps old (s.poke sp a bs) := .litMem (.putAll (.of hk))

theorem keeps_pokeAt {sp : Space} {bs : List (Nat × Byte)} (hk : Keeps old s) : Keeps old (s.pokeAt sp bs) := .litMem (.foldlPut (.of hk))

theorem keeps_clearRange {sp : Space} (hk : Keeps old s) : Keeps old (s.clearRange sp a n) := .litMem (.clear (.of hk))

theorem keeps_schedule {e : Instr} (hk : Keeps old s) : Keeps old (s.schedule t e) := hk

theorem keeps_updTile {f : Tile → Tile} (hk : Keeps old s) : Keeps old (s.updTile k f) := hk

theorem keeps_updThread {f : Thread → Thread} (hk : Keeps old s) : Keeps old (s.updThread k t f) := hk

theorem keeps_updGroup {f : Group → Group} (hk : Keeps old s) : Keeps old (s.updGroup g f) := hk

theorem keeps_updDie {f : Die → Die} (hk : Keeps old s) : Keeps old (s.updDie d f) := hk

theorem keeps_updPkg {f : Pkg → Pkg} (hk : Keeps old s) : Keeps old (s.updPkg p f) := hk

theorem keeps_updLaunch {f : Launch → Launch} (hk : Keeps old s) : Keeps old (s.updLaunch l f) := hk

theorem keeps_updProg {f : Prog → Prog} (hk : Keeps old s) : Keeps old (s.updProg k f) := hk

theorem keeps_updXfer {f : Xfer → Xfer} (hk : Keeps old s) : Keeps old (s.updXfer x f) := by
  unfold State.updXfer
  split
  · exact .lit hk
  · exact hk

theorem keeps_updThr {f : Thread → Thread} (hk : Keeps old s) : Keeps old (s.updThr f) := hk

theorem keeps_logLine {tile : Nat} (hk : Keeps old s) : Keeps old (s.logLine lid kind tile line) := hk

theorem keeps_startDrain (hk : Keeps old s) : Keeps old (s.startDrain k share) :=
  .ite (.ite hk (keeps_schedule (keeps_updTile hk))) (.ite hk (keeps_schedule (keeps_updTile hk)))

theorem keeps_startGroupDrain (hk : Keeps old s) : Keeps old (s.startGroupDrain g) := .ite hk (keeps_schedule (keeps_updGroup hk))

theorem keeps_intoGroupLog {e : UndoEntry} (hk : Keeps old s) : Keeps old (s.intoGroupLog g e) :=
  keeps_startGroupDrain (keeps_updGroup (keeps_poke (keeps_poke (keeps_poke hk))))

theorem keeps_dropGroupLog (hk : Keeps old s) : Keeps old (s.dropGroupLog g n) := keeps_updGroup (keeps_poke hk)

theorem keeps_intoTileLog {e : UndoEntry} (hk : Keeps old s) : Keeps old (s.intoTileLog k share e) :=
  .ite (keeps_intoGroupLog hk) (keeps_startDrain (keeps_updTile (keeps_poke hk)))

theorem keeps_logTile {ls : List Nat} (hk : Keeps old s) : Keeps old (s.logTile k share ls) :=
  .ite (.foldl hk fun h1 => keeps_intoTileLog (keeps_logLine h1)) hk

theorem keeps_storeTile {bs : List Byte} (hk : Keeps old s) : Keeps old (s.storeTile k share a bs) := keeps_poke (keeps_logTile hk)

theorem keeps_storeTileAt {bs : List (Nat × Byte)} (hk : Keeps old s) : Keeps old (s.storeTileAt k share bs) := keeps_pokeAt (keeps_logTile hk)

/-! ### Machine/Ops.lean -/

theorem keeps_writeW {d : BitVec 5} {v : Word} (hk : Keeps old s) : Keeps old (s.writeW d lat v) := .ite hk (keeps_updThr hk)

theorem keeps_writeV {d : BitVec 5} {v : Vec} (hk : Keeps old s) : Keeps old (s.writeV d lat v) := hk

theorem keeps_writeM {v : Mask} (hk : Keeps old s) : Keeps old (s.writeM d lat v) := .ite hk (keeps_updThr hk)

theorem keeps_deliverW {v : Word} (hk : Keeps old s) : Keeps old (s.deliverW k t rd v) := .ite hk (keeps_updThread hk)

theorem keeps_retire (hk : Keeps old s) : Keeps old s.retire := hk

theorem keeps_retireTo {x : BitVec 18} (hk : Keeps old s) : Keeps old (s.retireTo x) := hk

theorem keeps_retireAnnul (hk : Keeps old s) : Keeps old s.retireAnnul := hk

theorem keeps_holdUntil (hk : Keeps old s) : Keeps old (s.holdUntil c) := hk

theorem keeps_post {m : Message} (hk : Keeps old s) : Keeps old (s.post d delay m) := hk

theorem keeps_park {it : HeldItem} {m : Message} (hk : Keeps old s) : Keeps old (s.park k t it m) :=
  keeps_post (keeps_updTile (keeps_updDie (.foldl hk fun h1 => .ite (keeps_updThread h1) h1)))

theorem keeps_parkTrap {r : TrapReq} (hk : Keeps old s) : Keeps old (s.parkTrap kind r) := keeps_park hk

theorem keeps_parkFmt {scale value : Bool} {v loc : Word} (hk : Keeps old s) : Keeps old (s.parkFmt unit place scale value v loc) := keeps_park hk

theorem keeps_takeTrap {r : TrapReq} (hk : Keeps old s) : Keeps old (s.takeTrap r) :=
  .ite (keeps_parkTrap hk) (.ite (keeps_parkTrap hk) (keeps_updThr (.ite (keeps_retire hk) hk)))

theorem ends_guarded {checks : List (Option TrapReq)} {body : State → Out} (hk : Keeps old s) (hBody : ∀ {u : State}, Keeps old u → Ends old
    (body u)) :
    Ends old (s.guarded checks body) := by
  unfold State.guarded
  split
  · exact .next (keeps_takeTrap hk)
  · exact hBody hk

theorem keeps_enterWait {w : Wait} (hk : Keeps old s) : Keeps old (s.enterWait w) := .ite (keeps_schedule (keeps_updThr hk)) (keeps_updThr hk)

theorem keeps_wakeAt {ctr : Option Nat} (hk : Keeps old s) : Keeps old (s.wakeAt k t c ctr) := hk

theorem keeps_wake {ctr : Option Nat} (hk : Keeps old s) : Keeps old (s.wake k t ctr) := hk

theorem keeps_stall (hk : Keeps old s) : Keeps old s.stall := hk

theorem keeps_stallLog (hk : Keeps old s) : Keeps old s.stallLog := .ite (keeps_updThr (keeps_stall hk)) (keeps_stall hk)

theorem ends_afterHold {e : Nat} {go : State → Out} (hk : Keeps old s) (hGo : ∀ {u : State}, Keeps old u → Ends old (go u)) :
    Ends old (s.afterHold e go) := by
  unfold State.afterHold
  split
  · exact .ite (.next (.lit (keeps_updThr hk))) (hGo hk)
  · exact hGo hk

theorem keeps_askRetire (hk : Keeps old s) : Keeps old (s.askRetire k) := .ite (keeps_schedule hk) hk

/-! ### Machine/Operands.lean -/

theorem ends_threadStore {bs : List (Nat × Byte)} {after : State → State} (hk : Keeps old s) (hAfter : ∀ {u : State}, Keeps old u → Keeps old
    (after u)) :
    Ends old (s.threadStore bs after) := by
  unfold State.threadStore
  refine .ite ?_ ?_
  · exact .next (hAfter (keeps_retire (keeps_pokeAt hk)))
  · refine .ite ?_ ?_
    · exact .next (hAfter (keeps_retire (keeps_pokeAt hk)))
    · refine .ite (.next (keeps_stallLog hk)) ?_
      exact .next (hAfter (keeps_holdUntil (keeps_retire (keeps_storeTileAt hk))))

/-! ### Machine/Flags.lean -/

theorem keeps_logReg (hk : Keeps old s) : Keeps old (s.logReg k n) := keeps_intoTileLog (keeps_updTile (.lit hk))

theorem keeps_setSpecial {v : Word} (hk : Keeps old s) : Keeps old (s.setSpecial n v) := by
  unfold State.setSpecial
  refine .ite (keeps_updThr hk) ?_
  refine .ite (keeps_updThr hk) ?_
  refine .ite (keeps_updTile hk) ?_
  refine .ite (keeps_updThr hk) ?_
  refine .ite (keeps_updThr hk) ?_
  refine .ite (keeps_updThr hk) ?_
  refine .ite (keeps_updThr hk) ?_
  refine .ite (keeps_updThr hk) ?_
  refine .ite (keeps_updThr hk) ?_
  exact .ite (keeps_updThr hk) (.ite (keeps_updThr hk) (.ite (keeps_updThr hk) (.ite (keeps_updTile hk) hk)))

/-! ### Machine/Alu.lean -/

theorem ends_alu2 {d a b : BitVec 5} {f : Word → Word → Word} (hk : Keeps old s) :
    Ends old (s.alu2 d a b lat f) := ends_guarded hk fun h1 => .next (keeps_retire (keeps_writeW h1))

theorem ends_alu1 {d a : BitVec 5} {f : Word → Word} (hk : Keeps old s) :
    Ends old (s.alu1 d a f) := ends_guarded hk fun h1 => .next (keeps_retire (keeps_writeW h1))

theorem ends_execLdi {d : BitVec 5} {i : BitVec 17} (hk : Keeps old s) : Ends old (execLdi d i s) := .next (keeps_retire (keeps_writeW hk))

theorem ends_execBfi {d a b : BitVec 5} (hk : Keeps old s) :
    Ends old (execBfi d a b s) := ends_guarded hk fun h1 => .next (keeps_retire (keeps_writeW h1))

theorem ends_select {d a b c : BitVec 5} {f : Word → Bool} (hk : Keeps old s) : Ends old (s.select d a b c f) :=
  ends_guarded hk fun h1 => .next (keeps_retire (keeps_writeW h1))

/-! ### Machine/Convert.lean -/

theorem keeps_landExchange {plain : Bool} {bs : List (Nat × Byte)} (hk : Keeps old s) : Keeps old (s.landExchange k plain bs).1 := by
  unfold State.landExchange
  split
  · exact .pair (keeps_pokeAt hk)
  · exact .pair (keeps_storeTileAt hk)

/-! ### Machine/Level.lean -/

theorem keeps_physPut {bs : List Byte} (hk : Keeps old s) : Keeps old (s.physPut pa bs) := .litMem (.foldlPut (.of hk))

theorem keeps_setCache {c : Cache} {l : List Tlb} (hk : Keeps old s) : Keeps old (s.setCache c l) := by
  unfold State.setCache
  split
  · exact keeps_updGroup hk
  · exact keeps_updPkg hk

theorem keeps_translate {c : Cache} (hk : Keeps old s) : Keeps old (s.translate c ctx va).1 := by
  unfold State.translate
  dsimp only
  split
  · exact .pair (keeps_setCache hk)
  · split
    · exact .pair hk
    · exact .pair (keeps_setCache hk)

theorem keeps_mapRun {c : Cache} {refuse : Word → Option Nat} {fuel : Nat} (hk : Keeps old s) :
    Keeps old (s.mapRun c ctx refuse fuel va n).1 := by
  induction fuel generalizing s va n with
  | zero => exact hk
  | succ fuel ih =>
    unfold State.mapRun
    refine .iteVia Prod.fst hk ?_
    split
    · exact .of_eq (keeps_translate hk) ‹_›
    · split
      · exact .of_eq (keeps_translate hk) ‹_›
      · dsimp only
        split <;> exact .of_eq (ih (.of_eq (keeps_translate hk) ‹_›)) ‹_›

theorem keeps_touch {l : List Seg} (hk : Keeps old s) : Keeps old (s.touch lid l) := .ite hk (keeps_updLaunch hk)

theorem keeps_lay {cells : List (Nat × Byte)} (hk : Keeps old s) : Keeps old (s.lay p o n cells) := keeps_pokeAt (keeps_clearRange hk)

theorem keeps_copyMarked (hk : Keeps old s) : Keeps old (s.copyMarked lid page) :=
  .foldl (.lit hk) fun h1 => by split; exact keeps_poke (.ite h1 (keeps_lay h1)); exact h1

theorem keeps_growUndo (hk : Keeps old s) : Keeps old (s.growUndo p n) :=
  .ite (keeps_schedule (.lit (.ite (.lit (keeps_updPkg hk)) (keeps_updPkg hk)))) (.ite (.lit (keeps_updPkg hk)) (keeps_updPkg hk))

theorem keeps_writeLevel {unl : Bool} {bs : List Byte} (hk : Keeps old s) : Keeps old (s.writeLevel lid k unl key bs) := by
  unfold State.writeLevel
  refine .litMem ?_
  refine .putAll ?_
  refine .of ?_
  refine .ite ?_ ?_
  · refine .foldl (.ite (.foldl hk keeps_copyMarked) hk) fun h1 => ?_
    exact .ite (keeps_intoGroupLog (keeps_logLine h1)) (keeps_logLine h1)
  · refine keeps_growUndo ?_
    refine .foldl (.ite (.foldl hk keeps_copyMarked) hk) fun h1 => ?_
    exact .ite (keeps_intoGroupLog (keeps_logLine h1)) (keeps_logLine h1)

theorem keeps_writeSegs {r : List Seg} {bs : List Byte} (hk : Keeps old s) : Keeps old (s.writeSegs lid k r bs) := by
  induction r generalizing s bs with
  | nil => exact hk
  | cons g r ih => exact ih (.foldl hk keeps_writeLevel)

theorem ends_execTranslationInvalidation (hk : Keeps old s) : Ends old (execTranslationInvalidation kind index ctx page s) :=
  .next (keeps_setCache hk)

theorem ends_execUndoLogDrain (hk : Keeps old s) : Ends old (execUndoLogDrain k share s) := by
  unfold execUndoLogDrain
  refine .ite (.next (keeps_updTile hk)) ?_
  refine .ite (.next (keeps_schedule hk)) ?_
  exact .next (keeps_startDrain (keeps_intoGroupLog (keeps_updTile (keeps_updTile hk))))

theorem ends_execGroupUndoDrain (hk : Keeps old s) : Ends old (execGroupUndoDrain g s) := by
  unfold execGroupUndoDrain
  refine .ite (.next (keeps_updGroup hk)) ?_
  refine .ite (.next (keeps_schedule hk)) ?_
  exact .next (keeps_startGroupDrain (keeps_growUndo (keeps_dropGroupLog (keeps_updGroup hk))))

/-! ### Machine/Control.lean -/

theorem ends_branch {a b : BitVec 5} {n : BitVec 1} {o : BitVec 11} {f : Word → Word → Bool} (hk : Keeps old s) : Ends old (s.branch a b n o f) :=
  ends_guarded hk fun h1 => .next (.ite (keeps_retireTo h1) (.ite (keeps_retireAnnul h1) (keeps_retire h1)))

theorem ends_execJmp {j : BitVec 22} (hk : Keeps old s) : Ends old (execJmp j s) := .next (keeps_retireTo hk)

theorem keeps_callTo {x : BitVec 18} (hk : Keeps old s) : Keeps old (s.callTo x) := hk

theorem ends_execCall {j : BitVec 22} (hk : Keeps old s) : Ends old (execCall j s) := ends_guarded hk fun h1 => .next (keeps_callTo h1)

theorem ends_execJr {a : BitVec 5} (hk : Keeps old s) : Ends old (execJr a s) := ends_guarded hk fun h1 => .next (keeps_retireTo h1)

theorem ends_execCallr {a : BitVec 5} (hk : Keeps old s) : Ends old (execCallr a s) := ends_guarded hk fun h1 => .next (keeps_callTo h1)

theorem ends_execRet (hk : Keeps old s) : Ends old (execRet s) := ends_guarded hk fun h1 => .next (keeps_retireTo (keeps_updThr h1))

theorem ends_nestWrite {a : BitVec 5} {checks : List (Option TrapReq)} {f : Word → Nest → Nest} (hk : Keeps old s) :
    Ends old (s.nestWrite a checks f) :=
  ends_guarded hk fun h1 => .next (keeps_retire (keeps_updThr h1))

theorem ends_execLoop {o : BitVec 15} {j : BitVec 2} (hk : Keeps old s) : Ends old (execLoop o j s) :=
  .ite (.next (keeps_retire hk)) (.ite (.next (keeps_retireTo (keeps_updThr hk))) (.next (keeps_retire (keeps_updThr hk))))

/-! ### Machine/System.lean -/

theorem ends_execNop (hk : Keeps old s) : Ends old (execNop s) := .next (keeps_retire hk)

theorem ends_execTrap {c : BitVec 12} (hk : Keeps old s) : Ends old (execTrap c s) := .next (keeps_takeTrap hk)

theorem ends_execEret (hk : Keeps old s) : Ends old (execEret s) := ends_guarded hk fun h1 => .next (keeps_updThr h1)

theorem ends_execMfsr {d : BitVec 5} {n : BitVec 12} (hk : Keeps old s) : Ends old (execMfsr d n s) := by
  unfold execMfsr
  split
  · exact .next (keeps_takeTrap hk)
  · exact .next (keeps_retire (keeps_writeW hk))

theorem ends_execMtsr {a : BitVec 5} {n : BitVec 12} (hk : Keeps old s) : Ends old (execMtsr a n s) := by
  unfold execMtsr
  refine ends_guarded hk fun h1 => ?_
  refine .ite ?_ ?_
  · refine .ite (.next (keeps_stallLog h1)) ?_
    exact .next (keeps_holdUntil (keeps_retire (keeps_setSpecial (keeps_logReg h1))))
  · exact .next (keeps_retire (keeps_setSpecial h1))

theorem ends_execSwait {a : BitVec 5} (hk : Keeps old s) : Ends old (execSwait a s) :=
  ends_guarded hk fun h1 => .ite (.next (keeps_retire h1)) (.next (keeps_schedule (keeps_enterWait (keeps_retire h1))))

theorem ends_execSwaitExpiry {upto : Nat} (hk : Keeps old s) : Ends old (execSwaitExpiry k t upto s) := .ite (.next (keeps_updThread hk)) (.next hk)

theorem ends_execThreadPark (hk : Keeps old s) : Ends old (execThreadPark k t since s) := .ite (.next (keeps_updThread hk)) (.next hk)

theorem ends_execWsave (hk : Keeps old s) : Ends old (execWsave s) := by
  unfold execWsave
  refine ends_guarded hk fun h1 => ?_
  refine .ite (.next (keeps_stallLog h1)) ?_
  exact .next (keeps_holdUntil (keeps_retire (keeps_updThr (.ite (keeps_pokeAt h1) (keeps_storeTileAt h1)))))

theorem keeps_loadOctet (hk : Keeps old s) : Keeps old (s.loadOctet o a) := hk

theorem ends_execWrest (hk : Keeps old s) : Ends old (execWrest s) := by
  unfold execWrest
  refine ends_guarded hk fun h1 => ?_
  exact .next (keeps_holdUntil (keeps_retire (keeps_loadOctet (keeps_loadOctet (keeps_updThr h1)))))

/-! ### Machine/Setup.lean -/

theorem keeps_setupTile {y : Nat} {seat : Tab (Word × Word)} {bfmt : Tab Word} {windows : Tab Window} (hk : Keeps old s) :
    Keeps old (s.setupTile lid k x y seat bfmt windows) :=
  .ite (keeps_updTile (keeps_clearRange hk)) (keeps_updTile (keeps_clearRange hk))

theorem keeps_startThread {e : BitVec 18} (hk : Keeps old s) : Keeps old (s.startThread k t e) := hk

/-! ### Machine/Package.lean -/

theorem keeps_record {source : Nat} (hk : Keeps old s) : Keeps old (s.record d ev source data) := .ite hk (keeps_updDie hk)

theorem keeps_recordAll {ps : List Nat} (hk : Keeps old s) : Keeps old (s.recordAll ps ev data) := .foldl hk keeps_record

theorem keeps_noteKeys {keys : List Nat} (hk : Keeps old s) : Keeps old (s.noteKeys keys) := .foldl hk fun h1 => .ite (keeps_schedule h1) h1

theorem keeps_hbmPut {bs : List Byte} (hk : Keeps old s) : Keeps old (s.hbmPut pa bs) := keeps_noteKeys (keeps_physPut hk)

theorem keeps_addCounter {v : Word} (hk : Keeps old s) : Keeps old (s.addCounter p ctx va v) := by
  unfold State.addCounter
  split
  · exact keeps_hbmPut hk
  · exact hk

theorem keeps_alarm (hk : Keeps old s) : Keeps old (s.alarm p ctx) := .ite hk (keeps_addCounter hk)

/-! ### Machine/Link.lean -/

theorem keeps_updLink {f : Link → Link} (hk : Keeps old s) : Keeps old (s.updLink p l f) := hk

theorem keeps_sendControl {ack : Option Nat} (hk : Keeps old s) : Keeps old (s.sendControl p l kind seq ack) := .ite (keeps_updLink hk) hk

theorem keeps_sendData {f : Frame} (hk : Keeps old s) : Keeps old (s.sendData p l f) := hk

theorem keeps_sendAck (hk : Keeps old s) : Keeps old (s.sendAck p l) :=
  .ite hk (.ite (keeps_updLink hk) (keeps_sendControl (keeps_updLink hk)))

theorem keeps_retireLink (hk : Keeps old s) : Keeps old (s.retireLink p l) :=
  .ite hk (by dsimp only; split; exact .foldl (keeps_record (keeps_updLink hk)) keeps_sendData; exact keeps_record (keeps_updLink hk))

theorem keeps_train {lanes : BitVec 16} (hk : Keeps old s) : Keeps old (s.train p l lanes) := hk

theorem keeps_faultLanes {lanes : BitVec 16} (hk : Keeps old s) : Keeps old (s.faultLanes p l lanes) := by
  unfold State.faultLanes
  refine .ite (keeps_updLink hk) ?_
  refine .ite (keeps_retireLink (keeps_updLink hk)) ?_
  split
  · dsimp only
    split
    · exact keeps_train (keeps_updLink hk)
    · exact keeps_retireLink (keeps_updLink hk)
  · refine .ite (keeps_updLink hk) ?_
    dsimp only
    split
    · exact keeps_train (keeps_updLink hk)
    · exact keeps_retireLink (keeps_updLink hk)
  · exact .ite (keeps_updLink hk) (keeps_retireLink (keeps_updLink hk))
  · refine .ite (keeps_updLink hk) ?_
    dsimp only
    split
    · exact keeps_train (keeps_updLink hk)
    · exact keeps_retireLink (keeps_updLink hk)
  · exact keeps_updLink hk

theorem keeps_laneFault (hk : Keeps old s) : Keeps old (s.laneFault p l lane) := keeps_faultLanes (keeps_updLink hk)

theorem ends_execLaneFault (hk : Keeps old s) : Ends old (execLaneFault p l lane s) := .next (keeps_laneFault hk)

theorem ends_execTrainingPatternArrival {l : Pattern} (hk : Keeps old s) : Ends old (execTrainingPatternArrival p l s) :=
  .next (.ite hk (.ite (keeps_train hk) (keeps_faultLanes hk)))

theorem ends_execTrainDone {lanes last : Nat} (hk : Keeps old s) : Ends old (execTrainDone p l lanes last s) := by
  unfold execTrainDone
  split
  · dsimp only
    split
    · exact .next (.ite (keeps_retireLink hk) hk)
    · exact .next (keeps_updLink (keeps_sendControl (keeps_record (keeps_updLink hk))))
  · exact .next hk

theorem ends_execTrainTimeout (hk : Keeps old s) : Ends old (execTrainTimeout p l since s) := by
  unfold execTrainTimeout
  split
  · exact .next (.ite (keeps_retireLink hk) hk)
  · exact .next hk

theorem keeps_crcFail (hk : Keeps old s) : Keeps old (s.crcFail p l) :=
  .ite (keeps_laneFault (.lit (keeps_updLink hk))) (.lit (keeps_updLink hk))

theorem keeps_dropFrame (hk : Keeps old s) : Keeps old (s.dropFrame p l) :=
  .ite hk (keeps_schedule (keeps_sendControl (keeps_updLink hk)))

theorem ends_execReplayRequestTimeout (hk : Keeps old s) : Ends old (execReplayRequestTimeout p l seq s) :=
  .ite (.next (keeps_schedule (keeps_sendControl hk))) (.next hk)

theorem ends_execAckTimeout (hk : Keeps old s) : Ends old (execAckTimeout p l since s) := .ite (.next (keeps_sendAck hk)) (.next hk)

theorem keeps_sendFlits {owner : Option Nat} {fs : List (Nat × List Byte)} (hk : Keeps old s) :
    Keeps old (s.sendFlits owner wait p vc op dst key tag fs) := .foldl hk .lit

theorem keeps_sendTxn {owner : Option Nat} {bytes : List Byte} (hk : Keeps old s) :
    Keeps old (s.sendTxn owner wait p vc op dst key off n tag bytes) :=
  .ite (by dsimp only; split; exact keeps_schedule (keeps_schedule hk); exact keeps_schedule hk) (keeps_sendFlits hk)

theorem keeps_sendBucket {owner : Option Nat} {size : Nat} {bytes : List Byte} (hk : Keeps old s) :
    Keeps old (s.sendBucket owner wait p vc op dst key seq tag size bytes) :=
  keeps_sendFlits hk

theorem keeps_leave {e : Sending} (hk : Keeps old s) : Keeps old (s.leave e) := by
  unfold State.leave
  dsimp only
  split
  · split
    · exact keeps_schedule hk
    · exact hk
  · exact .ite (.lit hk) (by split; exact keeps_schedule (keeps_sendData hk); exact keeps_sendData hk)

theorem keeps_flush (hk : Keeps old s) : Keeps old s.flush := .ite (.foldl (.lit hk) keeps_leave) hk

theorem keeps_updBucket {f : Bucket → Bucket} (hk : Keeps old s) : Keeps old (s.updBucket c seq cast f) := hk

theorem keeps_failBucket (hk : Keeps old s) : Keeps old (s.failBucket c seq cast st) := .ite hk (keeps_schedule (keeps_updBucket hk))

theorem keeps_countStale (hk : Keeps old s) : Keeps old (s.countStale lvl index) := hk

theorem keeps_dropFrom {f : Frame} {w : Nat × Nat} (hk : Keeps old s) : Keeps old (s.dropFrom p f w) :=
  .ite (keeps_sendTxn (keeps_countStale hk)) (keeps_countStale hk)

theorem keeps_strayFlit {f : Frame} (hk : Keeps old s) : Keeps old (s.strayFlit p f) := keeps_dropFrom hk

theorem keeps_farResult {f : Frame} (hk : Keeps old s) : Keeps old (s.farResult p f cast) := by
  unfold State.farResult
  refine .ite ?_ ?_
  · exact .ite (keeps_countStale hk) (keeps_strayFlit hk)
  · exact .ite (.lit hk) (.ite (.foldl (.lit hk) keeps_schedule) (keeps_sendTxn (.foldl (.lit hk) keeps_schedule)))

theorem keeps_deliver {f : Frame} (hk : Keeps old s) : Keeps old (s.deliver p f) := by
  unfold State.deliver
  refine .ite hk ?_
  dsimp only
  split
  · exact keeps_schedule (keeps_updPkg hk)
  · exact keeps_schedule (keeps_updPkg hk)
  · exact keeps_schedule (keeps_updPkg hk)
  · split
    · exact .ite (keeps_schedule (keeps_updPkg hk)) (keeps_updXfer (keeps_updPkg hk))
    · exact keeps_updPkg hk
  · split
    · exact keeps_schedule (keeps_updPkg hk)
    · exact keeps_updPkg hk
  · split
    · exact keeps_schedule (keeps_updPkg hk)
    · exact keeps_updPkg hk
  · exact keeps_strayFlit (keeps_updPkg hk)
  · exact keeps_farResult (keeps_updPkg hk)
  · exact keeps_farResult (keeps_updPkg hk)
  · exact keeps_updPkg hk

theorem ends_execFrameReceive {bytes : List Byte} (hk : Keeps old s) : Ends old (execFrameReceive p l bytes s) := by
  unfold execFrameReceive
  refine .ite (.next hk) ?_
  split
  · exact .next (keeps_dropFrame (keeps_crcFail hk))
  · dsimp only
    split
    · exact .next (by split; exact keeps_updLink hk; exact hk)
    · exact .next (keeps_updLink (by split; exact keeps_updLink hk; exact hk))
    · refine .ite ?_ ?_
      · refine .next ?_
        refine keeps_deliver ?_
        refine .ite ?_ ?_
        · refine keeps_sendAck ?_
          refine .ite ?_ ?_
          · exact keeps_schedule (keeps_updLink (by split; exact keeps_updLink hk; exact hk))
          · exact keeps_updLink (by split; exact keeps_updLink hk; exact hk)
        · refine .ite ?_ ?_
          · exact keeps_schedule (keeps_updLink (by split; exact keeps_updLink hk; exact hk))
          · exact keeps_updLink (by split; exact keeps_updLink hk; exact hk)
      · exact .next (keeps_dropFrame (by split; exact keeps_updLink hk; exact hk))
    · exact .next (keeps_dropFrame (by split; exact keeps_updLink hk; exact hk))

theorem ends_execVcEscape (hk : Keeps old s) : Ends old (execVcEscape p l seq s) := .next (keeps_updLink hk)

theorem ends_execBufferRepair {port : Nat} (hk : Keeps old s) : Ends old (execBufferRepair p port c s) := by
  unfold execBufferRepair
  dsimp only
  split
  · exact .next (keeps_retireLink (keeps_updPkg hk))
  · exact .next (keeps_updPkg (keeps_updPkg hk))

theorem keeps_keyVerdict {key : BitVec 32} (hk : Keeps old s) : Keeps old (s.keyVerdict src op key off n).1 := by
  unfold State.keyVerdict
  refine .iteVia Prod.fst hk (.iteVia Prod.fst hk ?_)
  dsimp only
  generalize hrun : s.mapRun _ _ _ _ _ _ = x
  obtain ⟨s1, w, l | e⟩ := x <;> exact .of_eq (keeps_mapRun hk) hrun

theorem keeps_answer {key : BitVec 32} {bytes : List Byte} (hk : Keeps old s) : Keeps old (s.answer p src tag op st delay key off bytes) :=
  .ite (keeps_schedule hk) (.ite (keeps_sendTxn hk) (keeps_sendTxn hk))

theorem keeps_accept {t : Txn} {l : List Seg} (hk : Keeps old s) : Keeps old (s.accept p t l d) := hk

theorem keeps_wholeTxn {t : Txn} {fresh : Bool} (hk : Keeps old s) : Keeps old (s.wholeTxn p t fresh) := by
  unfold State.wholeTxn
  refine .ite (.ite (keeps_answer hk) hk) ?_
  refine .ite (keeps_answer hk) ?_
  split
  · exact keeps_answer ((.of_eq (keeps_mapRun hk) ‹_›))
  · exact keeps_accept ((.of_eq (keeps_mapRun hk) ‹_›))

theorem keeps_depositFlit {key : BitVec 32} {last : Bool} {bytes : List Byte} (hk : Keeps old s) :
    Keeps old (s.depositFlit p src tag key off last bytes) := by
  unfold State.depositFlit
  dsimp only
  split
  · refine .ite (keeps_wholeTxn (keeps_keyVerdict hk)) ?_
    exact .ite (keeps_updPkg (keeps_keyVerdict hk)) (keeps_answer (keeps_updPkg (keeps_keyVerdict hk)))
  · exact .ite (keeps_wholeTxn (keeps_updPkg hk)) (keeps_updPkg hk)

theorem keeps_performTxn (hk : Keeps old s) : Keeps old (s.performTxn p src tag) := by
  unfold State.performTxn
  split
  · exact hk
  · refine .ite (keeps_schedule hk) ?_
    refine .ite ?_ ?_
    · exact keeps_answer (keeps_noteKeys (keeps_writeSegs (keeps_updPkg hk)))
    · exact keeps_answer (.ite (keeps_noteKeys (keeps_writeSegs (keeps_updPkg hk))) (keeps_updPkg hk))

theorem keeps_answerGet {key : BitVec 32} {l : List Seg} (hk : Keeps old s) : Keeps old (s.answerGet p src tag key off delay l) :=
  .ite (keeps_answer (keeps_updXfer hk)) (.ite (keeps_answer hk) (keeps_answer hk))

theorem ends_execKeyCheck {key : BitVec 32} {bytes : List Byte} (hk : Keeps old s) : Ends old (execKeyCheck src op key off n tag bytes s) := by
  unfold execKeyCheck
  refine .ite (.next (keeps_performTxn hk)) ?_
  refine .ite (.next (keeps_depositFlit hk)) ?_
  split
  · exact .next (keeps_answer ((.of_eq (keeps_keyVerdict hk) ‹_›)))
  · refine .ite ?_ ?_
    · exact .next (keeps_answerGet ((.of_eq (keeps_keyVerdict hk) ‹_›)))
    · exact .next (keeps_accept ((.of_eq (keeps_keyVerdict hk) ‹_›)))

/-! ### Machine/Batch.lean -/

theorem keeps_settleBatch (hk : Keeps old s) : Keeps old (s.settleBatch k t) := by
  unfold State.settleBatch
  split
  · exact .ite (keeps_updThread (keeps_deliverW (keeps_wake hk))) hk
  · exact hk

theorem keeps_nudgeBells (hk : Keeps old s) : Keeps old s.nudgeBells :=
  .foldl hk fun h1 => .ite (keeps_schedule h1) (.ite (keeps_schedule h1) h1)

theorem keeps_stretchBells {x : Xfer} (hk : Keeps old s) : Keeps old (s.stretchBells x) := .foldl (.lit hk) fun h1 => .ite (keeps_schedule h1) h1

theorem keeps_finishSaved (hk : Keeps old s) : Keeps old (s.finishSaved id st) := hk

theorem keeps_finish (hk : Keeps old s) : Keeps old (s.finish id st) := by
  unfold State.finish
  refine .ite (keeps_finishSaved hk) ?_
  refine .ite hk ?_
  refine keeps_askRetire ?_
  refine .lit ?_
  refine keeps_nudgeBells ?_
  refine keeps_stretchBells ?_
  refine keeps_settleBatch ?_
  split
  · exact keeps_updPkg (keeps_updThread (keeps_updXfer hk))
  · exact keeps_updThread (keeps_updXfer hk)

theorem keeps_localDone (hk : Keeps old s) : Keeps old (s.localDone id) := keeps_settleBatch (keeps_updXfer hk)

/-! ### Machine/Fetch.lean -/

theorem keeps_requestFrom (hk : Keeps old s) : Keeps old (s.requestFrom k t c) :=
  .foldl hk fun h1 => .ite (keeps_schedule (keeps_updThread h1)) (keeps_schedule (keeps_updThread h1))

theorem keeps_requestNext (hk : Keeps old s) : Keeps old (s.requestNext k t) := .ite (keeps_requestFrom hk) hk

theorem ends_execLineRefill (hk : Keeps old s) : Ends old (execLineRefill k t line s) := .next (.ite (keeps_updThread hk) hk)

theorem keeps_fillWindow {ls : List Nat} (hk : Keeps old s) : Keeps old (s.fillWindow k t c ls) := hk

theorem keeps_primeThread (hk : Keeps old s) : Keeps old (s.primeThread k t c) := keeps_requestFrom (keeps_fillWindow hk)

theorem ends_execFillerFetch (hk : Keeps old s) : Ends old (execFillerFetch k line s) :=
  .ite (.next (keeps_schedule hk)) (.next (keeps_schedule hk))

theorem keeps_turn (hk : Keeps old s) : Keeps old (s.turn k t) := hk

/-! ### Machine/Vector.lean -/

theorem keeps_setLanes {d : BitVec 5} {m : BitVec 3} {f : Nat → Lane} (hk : Keeps old s) : Keeps old (s.setLanes d m lat f) := hk

theorem ends_vbin {d a b : BitVec 5} {m : BitVec 3} {op : Lane → Lane → Lane} (hk : Keeps old s) : Ends old (s.vbin d a b m lat op) :=
  ends_guarded hk fun h1 => .next (keeps_retire (keeps_setLanes h1))

theorem ends_vun {d a : BitVec 5} {m : BitVec 3} {op : Lane → Lane} (hk : Keeps old s) : Ends old (s.vun d a m lat op) :=
  ends_guarded hk fun h1 => .next (keeps_retire (keeps_setLanes h1))

theorem ends_vtri {d a b : BitVec 5} {m : BitVec 3} {op : Lane → Lane → Lane → Lane} (hk : Keeps old s) : Ends old (s.vtri d a b m lat op) :=
  ends_guarded hk fun h1 => .next (keeps_retire (keeps_setLanes h1))

theorem ends_vcmp {d a b : BitVec 5} {m : BitVec 3} {op : Lane → Lane → Bool} (hk : Keeps old s) :
    Ends old (s.vcmp d a b m op) := ends_guarded hk fun h1 => .next (keeps_retire (keeps_writeM h1))

theorem ends_execVsel {d a b : BitVec 5} {m : BitVec 3} (hk : Keeps old s) : Ends old (execVsel d a b m s) :=
  ends_guarded hk fun h1 => .next (keeps_retire (keeps_writeV h1))

theorem ends_vbin16 {d v : BitVec 5} {m : BitVec 1} {op : Lane → Lane → Lane} (hk : Keeps old s) :
    Ends old (s.vbin16 d v m lat op) := ends_vbin hk

/-! ### Machine/VecData.lean -/

theorem ends_narrow {l : Layout} {d a : BitVec 5} {h : BitVec 1} {r : BitVec 2} {m : BitVec 3} (hk : Keeps old s) : Ends old (s.narrow l d a h r m) :=
  ends_guarded hk fun h1 => .next (keeps_retire (keeps_writeV h1))

theorem ends_widen {l : Layout} {d a : BitVec 5} {h : BitVec 1} {m : BitVec 3} (hk : Keeps old s) : Ends old (s.widen l d a h m) :=
  ends_guarded hk fun h1 => .next (keeps_retire (keeps_setLanes h1))

theorem ends_execVpackI8 {d a : BitVec 5} {q : BitVec 2} {u : BitVec 1} {m : BitVec 3} (hk : Keeps old s) : Ends old (execVpackI8 d a q u m s) :=
  ends_guarded hk fun h1 => .next (keeps_retire (keeps_writeV h1))

theorem ends_execVunpkI8 {d a : BitVec 5} {q : BitVec 2} {u : BitVec 1} {m : BitVec 3} (hk : Keeps old s) : Ends old (execVunpkI8 d a q u m s) :=
  ends_guarded hk fun h1 => .next (keeps_retire (keeps_setLanes h1))

theorem ends_execVquant {d a b : BitVec 5} {m : BitVec 3} (hk : Keeps old s) : Ends old (execVquant d a b m s) :=
  ends_guarded hk fun h1 => by dsimp only; split; exact .next (keeps_parkFmt h1); exact .next (keeps_retire (keeps_writeV h1))

theorem ends_execVdeq {d a : BitVec 5} {h w : BitVec 1} {m : BitVec 3} (hk : Keeps old s) : Ends old (execVdeq d a h w m s) := by
  unfold execVdeq
  refine ends_guarded hk fun h1 => ?_
  refine .ite (.next (keeps_parkFmt h1)) ?_
  split
  · exact .next (keeps_parkFmt h1)
  · exact .next (keeps_retire (keeps_setLanes h1))

theorem ends_vred {d a : BitVec 5} {m : BitVec 3} {pre : Lane → Lane} {op : Lane → Lane → Lane} {unit : Lane} (hk : Keeps old s) :
    Ends old (s.vred d a m pre op unit) :=
  ends_guarded hk fun h1 => .next (keeps_retire (keeps_writeV h1))

theorem ends_vscan {d a : BitVec 5} {m : BitVec 3} {op : Lane → Lane → Lane} (hk : Keeps old s) :
    Ends old (s.vscan d a m op) := ends_guarded hk fun h1 => .next (keeps_retire (keeps_writeV h1))

theorem ends_execVperm {d a b : BitVec 5} {m : BitVec 3} (hk : Keeps old s) : Ends old (execVperm d a b m s) :=
  ends_guarded hk fun h1 => .next (keeps_retire (keeps_setLanes h1))

theorem ends_execVbcast {d a : BitVec 5} {m : BitVec 3} (hk : Keeps old s) : Ends old (execVbcast d a m s) :=
  ends_guarded hk fun h1 => .next (keeps_retire (keeps_setLanes h1))

theorem ends_execVextr {d a : BitVec 5} {n : BitVec 4} (hk : Keeps old s) : Ends old (execVextr d a n s) :=
  ends_guarded hk fun h1 => .next (keeps_retire (keeps_writeW h1))

theorem ends_execVins {d a : BitVec 5} {n : BitVec 4} {m : BitVec 3} (hk : Keeps old s) : Ends old (execVins d a n m s) :=
  ends_guarded hk fun h1 => .next (keeps_retire (keeps_writeV h1))

theorem ends_execVcompr {d a : BitVec 5} {m : BitVec 3} (hk : Keeps old s) : Ends old (execVcompr d a m s) :=
  ends_guarded hk fun h1 => .next (keeps_retire (keeps_writeV h1))

theorem ends_execVexpnd {d a : BitVec 5} {m : BitVec 3} (hk : Keeps old s) : Ends old (execVexpnd d a m s) :=
  ends_guarded hk fun h1 => .next (keeps_retire (keeps_setLanes h1))

theorem ends_execVrot {d a : BitVec 5} {n : BitVec 4} {m : BitVec 3} (hk : Keeps old s) : Ends old (execVrot d a n m s) :=
  ends_guarded hk fun h1 => .next (keeps_retire (keeps_setLanes h1))

theorem ends_execViota {d : BitVec 5} {m : BitVec 3} (hk : Keeps old s) : Ends old (execViota d m s) :=
  ends_guarded hk fun h1 => .next (keeps_retire (keeps_writeV h1))

theorem ends_mbin {d a b : BitVec 5} {op : Mask → Mask → Mask} (hk : Keeps old s) :
    Ends old (s.mbin d a b op) := ends_guarded hk fun h1 => .next (keeps_retire (keeps_writeM h1))

theorem ends_mun {d a : BitVec 5} {op : Mask → Mask} (hk : Keeps old s) :
    Ends old (s.mun d a op) := ends_guarded hk fun h1 => .next (keeps_retire (keeps_writeM h1))

theorem ends_execMset {d n : BitVec 5} (hk : Keeps old s) : Ends old (execMset d n s) := .next (keeps_retire (keeps_writeM hk))

/-! ### Machine/Matrix.lean -/

theorem keeps_updCmd {f : MCmd → MCmd} (hk : Keeps old s) : Keeps old (s.updCmd k o id f) := hk

theorem keeps_delayFiller (hk : Keeps old s) : Keeps old (s.delayFiller k o n) := by
  unfold State.delayFiller
  refine .ite hk ?_
  refine .foldl hk fun h1 => ?_
  dsimp only
  split
  · exact .ite (keeps_schedule (keeps_updCmd h1)) (.ite (keeps_updCmd h1) h1)
  · exact .ite (keeps_schedule (keeps_updCmd h1)) h1
  · exact h1

theorem keeps_advanceFrom {r : List MCmd} {latch : Nat} (hk : Keeps old s) : Keeps old (advanceFrom k o r i latch s) := by
  induction r generalizing i latch s with
  | nil => exact hk
  | cons c r ih =>
    unfold advanceFrom
    refine .ite hk ?_
    cases c.kind with
    | mma op =>
      dsimp only
      refine .ite (ih ?_) ?_ <;> refine .ite (.ite (keeps_schedule (keeps_updCmd hk)) hk) (.ite ?_ hk)
      all_goals split; exact keeps_schedule (keeps_updCmd hk); exact hk
    | mzero => exact ih (.ite (keeps_schedule (keeps_updCmd hk)) hk)
    | mwr => exact ih (.ite (keeps_schedule (keeps_updCmd hk)) hk)
    | msta => exact ih (.ite (keeps_schedule (keeps_updCmd hk)) hk)

theorem keeps_mxAdvance (hk : Keeps old s) : Keeps old (s.mxAdvance k o) := keeps_advanceFrom hk

theorem ends_enqueue {acc : Nat} {kind : MKind} (hk : Keeps old s) : Ends old (s.enqueue acc kind) :=
  .ite (.next (keeps_stall hk)) (.next (keeps_retire (keeps_mxAdvance (keeps_updTile hk))))

theorem keeps_noteRise (hk : Keeps old s) : Keeps old (s.noteRise k o a w) := hk

theorem keeps_endCmd (hk : Keeps old s) : Keeps old (s.endCmd k o id) := by
  unfold State.endCmd
  refine keeps_askRetire ?_
  refine keeps_mxAdvance ?_
  refine .foldl (keeps_noteRise (keeps_updTile hk)) fun h1 => ?_
  split
  · exact .ite (keeps_wake h1) (keeps_updThread h1)
  · exact h1

theorem ends_mma {ty : Nat} {b t x : BitVec 1} {bank : BitVec 9} {n : BitVec 5} {c : BitVec 3} (hk : Keeps old s) :
    Ends old (s.mma ty b t x bank n c) := by
  unfold State.mma
  exact ends_guarded hk ends_enqueue

theorem keeps_parkMatrix {c : MCmd} {e : LatchErr} (hk : Keeps old s) : Keeps old (s.parkMatrix k c e) := by
  unfold State.parkMatrix
  dsimp only
  split <;> exact keeps_park hk

theorem ends_execMmaPass (hk : Keeps old s) : Ends old (execMmaPass k o id p s) := by
  unfold execMmaPass
  split
  · exact .next hk
  · split
    · refine .ite (.next hk) ?_
      refine .ite ?_ ?_
      · split
        · exact .next (keeps_schedule (keeps_schedule (keeps_updTile hk)))
        · exact .next (keeps_schedule (keeps_updTile hk))
      · exact .next (keeps_schedule (keeps_updTile hk))
    · exact .next hk

theorem ends_execMmaRowsFinal (hk : Keeps old s) : Ends old (execMmaRowsFinal k o id p s) :=
  .ite (.next (keeps_noteRise (keeps_updCmd hk))) (.next (keeps_endCmd hk))

theorem ends_execMzeroExecute (hk : Keeps old s) : Ends old (execMzeroExecute k o id s) := by
  unfold execMzeroExecute
  split
  · exact .next hk
  · exact .next (keeps_endCmd (keeps_updTile hk))

theorem ends_execMwrExecute (hk : Keeps old s) : Ends old (execMwrExecute k o id s) := by
  unfold execMwrExecute
  split
  · exact .next hk
  · split
    · exact .next (keeps_endCmd (keeps_updTile hk))
    · exact .next hk

theorem ends_execMrd {r : BitVec 4} {d : BitVec 5} {c : BitVec 3} (hk : Keeps old s) : Ends old (execMrd r d c s) :=
  ends_guarded hk fun h1 => .ite (ends_afterHold h1 fun h2 => .next (keeps_retire (keeps_writeV h2))) (.next (keeps_stall h1))

theorem ends_execMwm {d : BitVec 5} {c : BitVec 3} (hk : Keeps old s) :
    Ends old (execMwm d c s) := ends_guarded hk fun h1 => .next (keeps_retire (keeps_writeW h1))

theorem ends_execMwait {q : BitVec 1} {c : BitVec 3} (hk : Keeps old s) : Ends old (execMwait q c s) :=
  ends_guarded hk fun h1 => .ite (.next (keeps_retire h1)) (.next (keeps_enterWait (keeps_retire h1)))

theorem keeps_holdColumn (hk : Keeps old s) : Keeps old (s.holdColumn k o n) :=
  keeps_updTile (keeps_updTile (.foldl hk fun h1 => keeps_schedule (keeps_updXfer h1)))

theorem keeps_readColumn {c : MCmd} {op : MmaOp} (hk : Keeps old s) : Keeps old (s.readColumn k o c op n m) :=
  .ite hk (.ite (keeps_touch hk) (keeps_holdColumn (keeps_touch hk)))

theorem ends_execMmaLatch (hk : Keeps old s) : Ends old (execMmaLatch k o id s) := by
  unfold execMmaLatch
  split
  · exact .next hk
  · split
    · refine .ite (.next hk) ?_
      refine .ite (.next (keeps_updCmd hk)) ?_
      refine .ite (.next (keeps_schedule hk)) ?_
      dsimp only
      split
      · refine .ite ?_ ?_
        · exact .next (keeps_parkMatrix (keeps_updCmd (keeps_readColumn (.ite (keeps_record hk) hk))))
        · exact .next (keeps_mxAdvance (keeps_delayFiller (keeps_schedule (keeps_updCmd (keeps_readColumn hk)))))
      · exact .next (keeps_mxAdvance (keeps_mxAdvance (keeps_delayFiller (keeps_updCmd (keeps_readColumn hk)))))
    · exact .next hk

theorem ends_execMstaExecute (hk : Keeps old s) : Ends old (execMstaExecute k o id s) := by
  unfold execMstaExecute
  split
  · exact .next hk
  · split
    · refine .ite (.next (keeps_schedule hk)) ?_
      split
      · exact .next (keeps_parkMatrix (keeps_updCmd hk))
      · refine .ite ?_ ?_
        · exact .next (keeps_schedule (keeps_updCmd (.ite (keeps_updThread hk) hk)))
        · refine .next ?_
          exact keeps_mxAdvance (keeps_delayFiller (keeps_schedule (keeps_updCmd (.ite hk (keeps_logTile hk)))))
    · exact .next hk

theorem ends_execMstaEnd (hk : Keeps old s) : Ends old (execMstaEnd k o id s) := by
  unfold execMstaEnd
  split
  · exact .next hk
  · exact .ite (.next hk) (.next (keeps_endCmd (keeps_pokeAt hk)))

theorem ends_execMscale {m : BitVec 4} {a : BitVec 5} (hk : Keeps old s) : Ends old (execMscale m a s) :=
  ends_guarded hk fun h1 => .next (keeps_retire (keeps_updThr h1))

theorem ends_execMmask {a : BitVec 5} (hk : Keeps old s) :
    Ends old (execMmask a s) := ends_guarded hk fun h1 => .next (keeps_retire (keeps_updThr h1))

/-! ### Machine/Save.lean -/

theorem keeps_takeAreas (hk : Keeps old s) : Keeps old (s.takeAreas lid) := hk

theorem keeps_layTile {v : SaveArea} {filler : Bool} {e : Nat × Tile} (hk : Keeps old s) : Keeps old (s.layTile v filler p o e) := by
  unfold State.layTile
  refine .ite (keeps_lay (.foldl hk keeps_lay)) ?_
  refine .ite ?_ ?_
  · exact keeps_lay (keeps_lay (keeps_lay (keeps_lay (keeps_lay (keeps_lay (.foldl hk keeps_lay))))))
  · exact keeps_lay (keeps_lay (keeps_lay (keeps_lay (keeps_lay (keeps_lay (.foldl hk keeps_lay))))))

theorem keeps_layPart {v : SaveArea} (hk : Keeps old s) : Keeps old (s.layPart v p o) :=
  .foldl (.foldl (keeps_lay hk) fun h1 => .foldl (.ite h1 (keeps_lay h1)) keeps_layTile) keeps_lay

theorem keeps_layAreas {v : SaveArea} {areas : List (Nat × Nat × Nat)} (hk : Keeps old s) :
    Keeps old (s.layAreas v areas) := .foldl hk keeps_layPart

theorem keeps_laySave (hk : Keeps old s) : Keeps old (s.laySave lid) := by
  unfold State.laySave
  split
  · exact hk
  · exact keeps_layAreas hk

theorem keeps_layBuffer {b : SealBuffer} (hk : Keeps old s) : Keeps old (s.layBuffer k n b) := keeps_pokeAt (keeps_clearRange hk)

/-! ### Machine/Recovery.lean -/

theorem keeps_setStatus (hk : Keeps old s) : Keeps old (s.setStatus lid st reason) :=
  .foldl hk fun h1 => by split; exact keeps_hbmPut h1; exact h1

theorem keeps_askSelection (hk : Keeps old s) : Keeps old (s.askSelection p) :=
  .ite hk (by split; exact keeps_schedule (keeps_updPkg hk); exact hk; exact keeps_updPkg hk)

theorem keeps_retireHead (hk : Keeps old s) : Keeps old (s.retireHead p q) := keeps_askSelection (keeps_updPkg (keeps_physPut hk))

theorem keeps_freeTiles (hk : Keeps old s) : Keeps old (s.freeTiles lid) := by
  unfold State.freeTiles
  refine .foldl ?_ keeps_askSelection
  refine .ite ?_ ?_
  · exact .foldl (.ite (.foldl hk keeps_updTile) (.foldl (.foldl hk keeps_updTile) keeps_updGroup)) keeps_askRetire
  · exact .ite (.foldl hk keeps_updTile) (.foldl (.foldl hk keeps_updTile) keeps_updGroup)

theorem keeps_dropTickets {ids : List Nat} (hk : Keeps old s) : Keeps old (s.dropTickets lid ids) := hk

theorem keeps_windowStatus (hk : Keeps old s) : Keeps old (s.windowStatus lid st) := .foldl hk keeps_updTile

theorem keeps_dropFabric {undo : Bool} {x3 : Instr} (hk : Keeps old s) : Keeps old (s.dropFabric lid undo x3) := by
  unfold State.dropFabric
  split
  · exact .ite (.lit hk) hk
  · exact .ite (keeps_updPkg hk) hk
  · exact .lit hk
  · exact hk

theorem keeps_dropCollectives {ks : List Nat} (hk : Keeps old s) : Keeps old (s.dropCollectives ks) := .foldl (.lit hk) keeps_finish

theorem keeps_absentFrom {ks ids : List Nat} (hk : Keeps old s) : Keeps old (s.absentFrom lid ks ids) :=
  .foldl (.lit (.foldl (.lit hk) keeps_failBucket)) fun h1 => .foldl h1 keeps_finish

theorem keeps_discardWork (hk : Keeps old s) : Keeps old (s.discardWork lid st) := by
  unfold State.discardWork
  refine .ite ?_ ?_
  · exact keeps_dropCollectives (.lit (.foldl (.foldl (keeps_dropTickets hk) keeps_dropFabric) keeps_updTile))
  · refine .ite ?_ ?_
    · refine .foldl ?_ keeps_askRetire
      exact keeps_absentFrom (.lit (.foldl (.foldl (keeps_dropTickets hk) keeps_dropFabric) keeps_updTile))
    · exact keeps_absentFrom (.lit (.foldl (.foldl (keeps_dropTickets hk) keeps_dropFabric) keeps_updTile))

theorem keeps_afterText (hk : Keeps old s) : Keeps old (s.afterText lid) := .ite (keeps_schedule hk) (keeps_schedule hk)

theorem keeps_proceed (hk : Keeps old s) : Keeps old (s.proceed lid) := .ite hk (.ite (keeps_afterText hk) (keeps_schedule hk))

theorem keeps_freed (hk : Keeps old s) : Keeps old (s.freed lid) :=
  .foldl hk fun h1 => .ite (keeps_proceed (keeps_updLaunch h1)) (keeps_updLaunch h1)

theorem keeps_retireKill {k : Nat × Nat × Nat × Word} (hk : Keeps old s) : Keeps old (s.retireKill ctx k reason) :=
  keeps_retireHead (by split; exact keeps_hbmPut (.ite hk (keeps_addCounter hk)); exact .ite hk (keeps_addCounter hk))

theorem keeps_killed (hk : Keeps old s) : Keeps old (s.killed lid) :=
  .foldl (.foldl (.lit (keeps_freed (keeps_updLaunch (keeps_freeTiles (keeps_setStatus hk))))) keeps_retireHead) keeps_retireKill

theorem keeps_waitForFillers (hk : Keeps old s) : Keeps old (s.waitForFillers lid) := hk

theorem keeps_releaseWrite {w : EscrowWrite} (hk : Keeps old s) : Keeps old (s.releaseWrite p w) := by
  unfold State.releaseWrite
  split
  · exact keeps_schedule (keeps_poke hk)
  · exact keeps_sendTxn hk
  · exact keeps_schedule (keeps_updPkg hk)

theorem keeps_sendEscrow (hk : Keeps old s) : Keeps old (s.sendEscrow p) := by
  unfold State.sendEscrow
  split
  · exact hk
  · exact .foldl (keeps_updPkg hk) keeps_releaseWrite

theorem keeps_releaseEscrow {pod : Bool} (hk : Keeps old s) : Keeps old (s.releaseEscrow pod) :=
  .foldl hk fun h1 => keeps_sendEscrow (keeps_updPkg h1)

theorem keeps_clearLogs {pod : Bool} (hk : Keeps old s) : Keeps old (s.clearLogs pod) := .lit (.foldl hk fun h1 => .ite h1 (keeps_dropGroupLog h1))

theorem keeps_wakeStuck (hk : Keeps old s) : Keeps old s.wakeStuck := .foldl hk fun h1 => .ite (keeps_schedule h1) h1

theorem keeps_commit {pod : Bool} (hk : Keeps old s) : Keeps old (s.commit pod) :=
  keeps_wakeStuck (keeps_recordAll (.lit (keeps_clearLogs (keeps_releaseEscrow hk))))

theorem keeps_ackWrite (hk : Keeps old s) : Keeps old (s.ackWrite p x) := by
  unfold State.ackWrite
  dsimp only
  split
  · exact hk
  · exact .foldl (keeps_sendEscrow (keeps_updPkg hk)) keeps_schedule

theorem keeps_replayEntry {e : UndoEntry} (hk : Keeps old s) : Keeps old (s.replayEntry e) :=
  .ite (.lit hk) (.ite (keeps_updTile hk) (.litMem (.putAll (.of hk))))

theorem keeps_undoFabric {c : FabricChange} (hk : Keeps old s) : Keeps old (s.undoFabric c) := by
  unfold State.undoFabric
  dsimp only
  split
  · exact keeps_updPkg hk
  · exact keeps_updPkg hk
  · exact .lit hk
  · exact .lit hk
  · exact .lit hk
  · exact .lit hk

theorem keeps_rollingBack (hk : Keeps old s) : Keeps old (s.rollingBack l) := hk

theorem keeps_startRollback {pod : Bool} {code origin : BitVec 32} (hk : Keeps old s) : Keeps old (s.startRollback pod code origin) := by
  unfold State.startRollback
  refine .ite hk ?_
  refine keeps_schedule ?_
  exact .foldl (.ite (keeps_schedule (.lit (keeps_recordAll hk))) (.lit (keeps_recordAll hk))) keeps_rollingBack

theorem keeps_freeze (hk : Keeps old s) : Keeps old (s.freeze l) := by
  unfold State.freeze
  refine .foldl ?_ fun h1 => ?_
  · exact keeps_rollingBack (keeps_discardWork (.foldl hk fun h1 => keeps_killed (keeps_discardWork h1)))
  · exact .foldl h1 fun h2 => .ite (keeps_updThread h2) h2

theorem keeps_freezeDomain {pod : Bool} {code origin : BitVec 32} (hk : Keeps old s) :
    Keeps old (s.freezeDomain pod code origin) := keeps_schedule (.foldl hk keeps_freeze)

theorem keeps_replayDomain {pod : Bool} {code origin : BitVec 32} (hk : Keeps old s) : Keeps old (s.replayDomain pod code origin) :=
  keeps_schedule (keeps_noteKeys (.foldl hk keeps_replayEntry))

theorem keeps_lookAgain (hk : Keeps old s) : Keeps old (s.lookAgain k t c) := .ite hk (keeps_schedule hk)

theorem keeps_restoreCut {pod : Bool} (hk : Keeps old s) : Keeps old (s.restoreCut pod c) := by
  unfold State.restoreCut
  split
  · exact hk
  · refine .foldl ?_ fun h1 => ?_
    · exact .foldl (.lit hk) fun h1 => .foldl h1 keeps_schedule
    · exact .ite (keeps_schedule h1) (.ite (keeps_schedule h1) (keeps_schedule h1))

theorem keeps_stopAgain (hk : Keeps old s) : Keeps old (s.stopAgain l c) :=
  .ite (keeps_schedule (by split; exact keeps_schedule hk; exact hk)) (by split; exact keeps_schedule hk; exact hk)

theorem keeps_unreport {empty : Nat → Nat → Bool} (hk : Keeps old s) : Keeps old (s.unreport l empty) := hk

theorem keeps_watch (hk : Keeps old s) : Keeps old (s.watch lid) := .ite (.lit hk) (keeps_schedule (.lit hk))

theorem keeps_rollMember {code origin : BitVec 32} (hk : Keeps old s) : Keeps old (s.rollMember code origin c l) := by
  unfold State.rollMember
  refine .ite (keeps_killed (keeps_discardWork hk)) ?_
  refine .ite (keeps_unreport (.lit hk)) ?_
  refine keeps_stopAgain ?_
  refine keeps_watch ?_
  refine .foldl ?_ keeps_askRetire
  refine keeps_updLaunch ?_
  refine keeps_unreport ?_
  refine .foldl ?_ keeps_mxAdvance
  refine .foldl ?_ fun h1 => ?_
  · exact .foldl (.foldl hk keeps_updTile) keeps_updGroup
  · exact .foldl h1 fun h2 => .ite (keeps_lookAgain (keeps_primeThread (keeps_updThread h2))) h2

theorem ends_execRollbackDone {code origin : BitVec 32} (hk : Keeps old s) : Ends old (execRollbackDone code origin s) := by
  unfold execRollbackDone
  refine .ite (.next (keeps_freezeDomain hk)) ?_
  refine .ite (.next (keeps_replayDomain hk)) ?_
  refine .next ?_
  refine keeps_recordAll ?_
  refine .foldl ?_ keeps_laySave
  exact keeps_restoreCut (.foldl (keeps_clearLogs (.foldl hk keeps_undoFabric)) keeps_rollMember)

theorem ends_execUncorrectableFault (hk : Keeps old s) : Ends old (execUncorrectableFault unit index place s) := by
  unfold execUncorrectableFault
  refine .ite ?_ ?_
  · exact .next (.lit (keeps_updDie (keeps_record hk)))
  · refine .ite ?_ ?_
    · exact .next (.foldl (keeps_post (keeps_updDie (keeps_record hk))) fun h1 => .ite (keeps_startRollback h1) h1)
    · refine .ite ?_ ?_
      · exact .ite (.next (keeps_park (keeps_updDie (keeps_record hk)))) (.next (keeps_updDie (keeps_record hk)))
      · exact .next (keeps_post (.lit (keeps_updDie (keeps_record hk))))

/-! ### Machine/TileMem.lean -/

theorem ends_load {d : BitVec 5} {regs : List (Option TrapReq)} {ea : Word} {f : Nat → Word} (hk : Keeps old s) : Ends old (s.load d regs ea n f) :=
  ends_guarded hk fun h1 => .next (keeps_retire (keeps_writeW h1))

theorem ends_loadOff {d a : BitVec 5} {i : BitVec 9} {f : Nat → Word} (hk : Keeps old s) : Ends old (s.loadOff d a i n f) := ends_load hk

theorem ends_loadAreg {d : BitVec 5} {k : BitVec 4} {f : Nat → Word} (hk : Keeps old s) : Ends old (s.loadAreg d k n f) := ends_load hk

theorem ends_store {d : BitVec 5} {regs : List (Option TrapReq)} {ea : Word} (hk : Keeps old s) :
    Ends old (s.store d regs ea n) := ends_guarded hk fun h1 => ends_threadStore h1 fun h2 => h2

theorem ends_storeOff {d a : BitVec 5} {i : BitVec 9} (hk : Keeps old s) : Ends old (s.storeOff d a i n) := ends_store hk

theorem ends_storeAreg {d : BitVec 5} {k : BitVec 4} (hk : Keeps old s) : Ends old (s.storeAreg d k n) := ends_store hk

theorem ends_atomic {d a b : BitVec 5} {w : BitVec 1} {f : Nat → Nat → Nat → Nat} (hk : Keeps old s) : Ends old (s.atomic d a b w f) := by
  unfold State.atomic
  exact ends_guarded hk fun h1 => ends_threadStore h1 keeps_writeW

theorem ends_execAmtCas {d a b : BitVec 5} {w : BitVec 1} (hk : Keeps old s) : Ends old (execAmtCas d a b w s) := by
  unfold execAmtCas
  exact ends_guarded hk fun h1 => .ite (ends_threadStore h1 keeps_writeW) (.next (keeps_retire (keeps_writeW h1)))

theorem ends_vload {d : BitVec 5} {m : BitVec 3} {regs : List (Option TrapReq)} {ea : Nat → Word} (hk : Keeps old s) :
    Ends old (s.vload d m regs lat ea) :=
  ends_guarded hk fun h1 => .next (keeps_retire (keeps_setLanes h1))

theorem ends_vstore {d : BitVec 5} {m : BitVec 3} {regs : List (Option TrapReq)} {ea : Nat → Word} (hk : Keeps old s) :
    Ends old (s.vstore d m regs ea) := ends_guarded hk fun h1 => ends_threadStore h1 fun h2 => h2

theorem keeps_runCopy {bs : List (Nat × Byte)} (hk : Keeps old s) : Keeps old (s.runCopy k t d bs) :=
  keeps_updThread (keeps_schedule (.ite hk (keeps_logTile hk)))

theorem ends_startCopy {bs : List (Nat × Byte)} {srcBytes : Nat} {quant : Bool} (hk : Keeps old s) : Ends old (s.startCopy bs srcBytes quant) := by
  unfold State.startCopy
  refine .ite ?_ ?_
  · exact .next (keeps_holdUntil (keeps_schedule (keeps_updTile (keeps_retire (keeps_updTile hk)))))
  · exact .next (keeps_runCopy (keeps_retire (keeps_updTile hk)))

theorem keeps_copyFault {e : FmtErr} (hk : Keeps old s) : Keeps old (s.copyFault e) := keeps_parkFmt hk

theorem ends_execCopyb {d a c : BitVec 5} (hk : Keeps old s) : Ends old (execCopyb d a c s) := by
  unfold execCopyb
  refine ends_guarded hk fun h1 => ?_
  refine .ite (ends_startCopy h1) ?_
  refine .ite (ends_startCopy h1) ?_
  split
  · exact .next (keeps_copyFault h1)
  · split
    · exact .next (keeps_copyFault h1)
    · exact ends_startCopy h1

theorem ends_execFillb {d a c : BitVec 5} (hk : Keeps old s) : Ends old (execFillb d a c s) := by
  unfold execFillb
  refine ends_guarded hk fun h1 => ?_
  refine .ite (ends_startCopy h1) ?_
  exact .ite (ends_startCopy h1) (by dsimp only; split; exact .next (keeps_copyFault h1); exact ends_startCopy h1)

theorem keeps_waitCopy (hk : Keeps old s) : Keeps old (s.waitCopy k t d) := hk

theorem ends_execCopyEnd (hk : Keeps old s) : Ends old (execCopyEnd k x s) := by
  unfold execCopyEnd
  refine .ite ?_ ?_
  · exact .ite (.next (keeps_waitCopy hk)) (.next (keeps_runCopy (keeps_updTile hk)))
  · exact .next (keeps_askRetire (keeps_updTile (keeps_pokeAt hk)))

/-! ### Machine/Transfer.lean -/

theorem keeps_holdXfer {detail flags : Nat} {value loc : Word} (hk : Keeps old s) : Keeps old (s.holdXfer id kind detail flags place value loc) :=
  keeps_post (keeps_updXfer (keeps_updDie hk))

theorem keeps_holdFmt {e : FmtErr} (hk : Keeps old s) : Keeps old (s.holdFmt id e) := keeps_holdXfer hk

theorem keeps_countFrom {x : Xfer} (hk : Keeps old s) : Keeps old (s.countFrom x c) := by
  unfold State.countFrom
  split
  · exact keeps_updThread hk
  · exact hk

theorem keeps_overtake {as : List Nat} (hk : Keeps old s) : Keeps old (s.overtake id as) := hk

theorem keeps_landBytes {ws : List (Nat × Byte)} (hk : Keeps old s) : Keeps old (s.landBytes id ws) := by
  unfold State.landBytes
  dsimp only
  split
  · refine keeps_finish ?_
    refine keeps_touch ?_
    exact .ite (keeps_countFrom ((.of_eq (keeps_landExchange hk) ‹_›))) ((.of_eq (keeps_landExchange hk) ‹_›))
  · exact keeps_schedule (keeps_updXfer ((.of_eq (keeps_landExchange hk) ‹_›)))

theorem keeps_landGet (hk : Keeps old s) : Keeps old (s.landGet id) := by
  unfold State.landGet
  refine .ite (keeps_landBytes hk) ?_
  split
  · exact keeps_holdFmt hk
  · exact keeps_landBytes (keeps_overtake (keeps_updXfer (.ite hk (keeps_record hk))))

theorem ends_execGetLand (hk : Keeps old s) : Ends old (execGetLand id s) := by
  unfold execGetLand
  split
  · exact .next hk
  · exact .ite (.next hk) (.next (keeps_landGet hk))

theorem keeps_captured (hk : Keeps old s) : Keeps old (s.captured id) := .ite (keeps_updXfer hk) (keeps_localDone hk)

theorem keeps_startXfer (hk : Keeps old s) : Keeps old (s.startXfer id) := by
  unfold State.startXfer
  dsimp only
  split
  · refine .ite ?_ (keeps_captured (keeps_updXfer hk))
    refine keeps_schedule ?_
    refine .ite ?_ ?_
    · exact keeps_updThread (keeps_updXfer (keeps_updXfer hk))
    · exact .ite (keeps_updThread (keeps_updXfer (keeps_updXfer hk))) (keeps_updXfer (keeps_updXfer hk))
  · split
    · exact keeps_holdXfer hk
    · refine .ite ?_ (keeps_captured (keeps_updXfer hk))
      refine keeps_schedule ?_
      refine .ite ?_ ?_
      · exact keeps_updThread (keeps_updXfer (keeps_updXfer hk))
      · exact .ite (keeps_updThread (keeps_updXfer (keeps_updXfer hk))) (keeps_updXfer (keeps_updXfer hk))
  · refine .ite ?_ ?_
    · exact keeps_schedule (by split; exact .ite (keeps_updXfer hk) hk; exact hk)
    · split
      · exact keeps_holdXfer (keeps_mapRun hk)
      · refine .ite ?_ ?_
        · refine keeps_schedule ?_
          refine .ite ?_ ?_
          · exact keeps_updThread (keeps_updXfer (keeps_updXfer (keeps_mapRun hk)))
          · refine .ite ?_ ?_
            · exact keeps_updThread (keeps_updXfer (keeps_updXfer (keeps_mapRun hk)))
            · exact keeps_updXfer (keeps_updXfer (keeps_mapRun hk))
        · exact keeps_captured (keeps_updXfer (keeps_mapRun hk))
  · refine .ite ?_ (keeps_holdXfer hk)
    refine .ite ?_ (keeps_captured (keeps_updXfer hk))
    refine keeps_schedule ?_
    refine .ite ?_ ?_
    · exact keeps_updThread (keeps_updXfer (keeps_updXfer hk))
    · exact .ite (keeps_updThread (keeps_updXfer (keeps_updXfer hk))) (keeps_updXfer (keeps_updXfer hk))
  · split
    · exact keeps_finish hk
    · refine .ite (keeps_holdXfer hk) ?_
      exact .ite (keeps_sendTxn (keeps_updXfer (keeps_updXfer hk))) (keeps_captured (keeps_updXfer hk))
  · exact .ite (keeps_updXfer (keeps_updXfer hk)) (keeps_captured (keeps_updXfer hk))

theorem ends_get {inv : Bool} {t a l : BitVec 5} (hk : Keeps old s) : Ends old (s.get space inv t a l) :=
  ends_guarded hk fun h1 => .next (keeps_startXfer (keeps_retire (.lit h1)))

theorem keeps_convertDep (hk : Keeps old s) : Keeps old (s.convertDep id) := by
  unfold State.convertDep
  dsimp only
  split
  · exact keeps_holdFmt hk
  · exact keeps_startXfer (keeps_updXfer hk)

theorem ends_withEscrow {x : Xfer} {go : State → Out} (hk : Keeps old s) (hGo : ∀ {u : State}, Keeps old u → Ends old (go u)) :
    Ends old (s.withEscrow x go) := by
  unfold State.withEscrow
  split
  · exact hGo hk
  · exact .ite (.next (keeps_updThr (keeps_stall hk))) (hGo (keeps_updPkg hk))

theorem ends_deposit {depa : Bool} {t a l : BitVec 5} (hk : Keeps old s) : Ends old (s.deposit space depa t a l) := by
  unfold State.deposit
  refine ends_guarded hk fun h1 => ?_
  exact ends_withEscrow h1 fun h2 => .next (keeps_convertDep (keeps_holdUntil (keeps_retire (.lit h2))))

theorem ends_bulkDeposit {t a l : BitVec 5} (hk : Keeps old s) : Ends old (s.bulkDeposit space t a l) := by
  unfold State.bulkDeposit
  exact ends_guarded hk fun h1 => ends_withEscrow h1 fun h2 => .next (keeps_startXfer (keeps_retire (.lit h2)))

theorem ends_levelAtomic {t a v : BitVec 5} (hk : Keeps old s) : Ends old (s.levelAtomic space op t a v) :=
  ends_guarded hk fun h1 => .next (keeps_startXfer (keeps_retire (.lit h1)))

theorem ends_execUnassignedWord {w : BitVec 32} (hk : Keeps old s) :
    Ends old (execUnassignedWord w s) := .ite (ends_get hk) (.next (keeps_takeTrap hk))

theorem keeps_walkDone (hk : Keeps old s) : Keeps old (s.walkDone id) := by
  unfold State.walkDone
  split
  · exact hk
  · dsimp only
    split
    · exact keeps_holdXfer ((.of_eq (keeps_mapRun hk) ‹_›))
    · exact keeps_startXfer ((.of_eq (keeps_mapRun hk) ‹_›))

theorem ends_execTranslationWalkDone (hk : Keeps old s) : Ends old (execTranslationWalkDone d kind id s) :=
  .ite (.next (keeps_nudgeBells (keeps_walkDone hk))) (.next (keeps_translate hk))

theorem keeps_escrow {l : Launch} {bs : List Byte} (hk : Keeps old s) : Keeps old (s.escrow k kind addr tag l bs) := hk

theorem keeps_sendXfer {bs : List Byte} (hk : Keeps old s) : Keeps old (s.sendXfer wait id op m bs) := keeps_sendTxn (keeps_updXfer hk)

theorem keeps_applyXfer (hk : Keeps old s) : Keeps old (s.applyXfer wait id).1 := by
  unfold State.applyXfer
  dsimp only
  split
  · split
    · split
      · exact .pair (keeps_sendXfer hk)
      · exact .pair (keeps_finish hk)
    · refine .pair ?_
      refine keeps_finish ?_
      refine .ite ?_ ?_
      · exact keeps_poke (.ite (keeps_noteKeys (keeps_writeSegs hk)) hk)
      · exact keeps_storeTile (.ite (keeps_noteKeys (keeps_writeSegs hk)) hk)
  · split
    · split
      · exact .pair (keeps_finish (keeps_escrow hk))
      · exact .pair (keeps_finish (keeps_poke hk))
    · split
      · exact .pair (keeps_finish hk)
      · split
        · exact .pair (keeps_finish (keeps_escrow hk))
        · exact .pair (keeps_sendXfer hk)
    · split
      · exact .pair (keeps_finish hk)
      · exact .pair (keeps_finish (.ite (keeps_poke hk) (keeps_storeTile hk)))
    · exact .pair (keeps_finish (keeps_touch (keeps_noteKeys (keeps_writeSegs hk))))

theorem ends_execBseal (hk : Keeps old s) : Ends old (execBseal s) := ends_guarded hk fun h1 => .next (keeps_retire (keeps_updThr h1))

theorem ends_execBwait {d a : BitVec 5} (hk : Keeps old s) : Ends old (execBwait d a s) := by
  unfold execBwait
  refine ends_guarded hk fun h1 => ?_
  refine .ite ?_ ?_
  · exact .next (keeps_retire (keeps_updThr (keeps_writeW h1)))
  · exact .next (keeps_updThr (keeps_enterWait (keeps_retire h1)))

theorem ends_execXfence {a b : BitVec 5} (hk : Keeps old s) : Ends old (execXfence a b s) :=
  ends_guarded hk fun h1 => .next (keeps_holdUntil (keeps_retire h1))

theorem keeps_countHeld (hk : Keeps old s) : Keeps old (s.countHeld id) := keeps_countFrom hk

theorem keeps_countLate (hk : Keeps old s) : Keeps old (s.countLate id) := by
  unfold State.countLate
  dsimp only
  split
  · exact .ite (keeps_countFrom hk) hk
  · exact hk

theorem keeps_retryXfer (hk : Keeps old s) : Keeps old (s.retryXfer id) := by
  unfold State.retryXfer
  refine .ite ?_ ?_
  · refine .ite ?_ ?_
    · exact keeps_startXfer (keeps_countHeld (keeps_updXfer hk))
    · exact keeps_schedule (keeps_countHeld (keeps_updXfer hk))
  · refine .ite ?_ ?_
    · refine .ite ?_ ?_
      · exact .ite (keeps_countHeld (keeps_updXfer hk)) (keeps_startXfer (keeps_countHeld (keeps_updXfer hk)))
      · split
        · exact keeps_holdFmt (keeps_countHeld (keeps_updXfer hk))
        · exact keeps_updXfer (keeps_countHeld (keeps_updXfer hk))
    · refine .ite (keeps_countHeld (keeps_updXfer hk)) ?_
      refine .ite ?_ ?_
      · exact keeps_startXfer (keeps_countHeld (keeps_updXfer hk))
      · exact keeps_convertDep (keeps_countHeld (keeps_updXfer hk))

theorem keeps_bucketLanded {b : Bucket} (hk : Keeps old s) : Keeps old (s.bucketLanded b st) := .ite (.lit (.foldl hk keeps_finish)) (.lit hk)

theorem keeps_castAnswer (hk : Keeps old s) : Keeps old (s.castAnswer id st) := by
  unfold State.castAnswer
  split
  · exact keeps_bucketLanded hk
  · exact keeps_finish hk

theorem ends_execE2eStatus {bytes : List Byte} (hk : Keeps old s) : Ends old (execE2eStatus id st bytes s) := by
  unfold execE2eStatus
  split
  · exact .next (.foldl hk keeps_ackWrite)
  · refine .ite (.next hk) ?_
    refine .ite ?_ ?_
    · exact .next (keeps_castAnswer (keeps_countLate hk))
    · refine .ite ?_ ?_
      · exact .next (keeps_finish (keeps_countLate hk))
      · split
        · refine .next ?_
          refine .ite ?_ ?_
          · exact keeps_schedule (keeps_updXfer (keeps_countLate hk))
          · exact keeps_landGet (keeps_updXfer (keeps_countLate hk))
        · refine .ite ?_ ?_
          · exact .next (keeps_schedule (keeps_updXfer hk))
          · exact .next (keeps_finish (.ite (keeps_poke hk) (keeps_storeTile hk)))
        · exact .next (keeps_finish hk)

theorem ends_execE2eTimeout (hk : Keeps old s) : Ends old (execE2eTimeout id s) := by
  unfold execE2eTimeout
  split
  · exact .next (by split; exact keeps_startRollback hk; exact hk)
  · refine .ite (.next hk) ?_
    refine .ite ?_ ?_
    · exact .next (keeps_startRollback (keeps_finish (keeps_countLate hk)))
    · exact .next (keeps_post (keeps_finish (keeps_countLate hk)))

theorem ends_execEscrowAck (hk : Keeps old s) : Ends old (execEscrowAck p x s) := .next (keeps_nudgeBells (keeps_ackWrite hk))

/-! ### Machine/Stream.lean -/

theorem keeps_updWindow {f : Window → Window} (hk : Keeps old s) : Keeps old (s.updWindow k w f) := hk

theorem keeps_settleWindow (hk : Keeps old s) : Keeps old (s.settleWindow k w) :=
  .foldl hk fun h1 => by split; exact .ite (keeps_deliverW (keeps_wakeAt (keeps_updThread h1))) h1; exact h1

theorem keeps_wakeProgs (hk : Keeps old s) : Keeps old s.wakeProgs := hk

theorem keeps_wakeNext (hk : Keeps old s) : Keeps old s.wakeNext := hk

theorem keeps_updP {f : Prog → Prog} (hk : Keeps old s) : Keeps old (s.updP f) := hk

theorem ends_stepP {f : Prog → Prog} (hk : Keeps old s) : Ends old (s.stepP f) := .next (keeps_updP hk)

theorem keeps_waitP {due : Nat} (hk : Keeps old s) : Keeps old (s.waitP due) := hk

theorem keeps_holdProg {detail flags : Nat} {scale value : Bool} {v loc : Word} (hk : Keeps old s) :
    Keeps old (s.holdProg key kind detail flags place scale value v loc) := hk

theorem keeps_progFault (hk : Keeps old s) : Keeps old s.progFault := hk

theorem ends_faultIf {c : Bool} {go : Out} (hk : Keeps old s) (hGo : Ends old go) : Ends old (s.faultIf c go) := .ite (.next (keeps_progFault hk)) hGo

theorem ends_execScJump {t : BitVec 16} (hk : Keeps old s) : Ends old (execScJump t s) := .next (keeps_updP hk)

theorem ends_execScWaitp (hk : Keeps old s) : Ends old (execScWaitp s) := by
  unfold execScWaitp
  split
  · exact .next (keeps_progFault hk)
  · exact .ite (ends_stepP hk) (.next (keeps_waitP hk))

theorem ends_execScBarr {imm : BitVec 32} {z : BitVec 1} {g : BitVec 2} {f : BitVec 4} (hk : Keeps old s) : Ends old (execScBarr imm z g f s) := by
  unfold execScBarr
  refine ends_faultIf hk ?_
  refine .ite ?_ ?_
  · exact ends_stepP (.ite (keeps_nudgeBells (keeps_updP hk)) hk)
  · exact .next (keeps_waitP (.ite (keeps_nudgeBells (keeps_updP hk)) hk))

theorem keeps_askComplete (hk : Keeps old s) : Keeps old (s.askComplete lid) := .ite (keeps_schedule hk) hk

theorem ends_execScEnd (hk : Keeps old s) : Ends old (execScEnd s) :=
  .ite (.next (keeps_askComplete (keeps_nudgeBells (keeps_updP hk)))) (.next (keeps_waitP hk))

theorem ends_execScArrive (hk : Keeps old s) : Ends old (execScArrive s) := by
  unfold execScArrive
  split
  · exact .next (keeps_progFault hk)
  · exact .ite (.next (keeps_waitP hk)) (.next (keeps_schedule (keeps_waitP hk)))

theorem ends_execWindowCounterIncrement (hk : Keeps old s) : Ends old (execWindowCounterIncrement k w run s) := by
  unfold execWindowCounterIncrement
  split
  · exact .next hk
  · exact .ite (.next (keeps_settleWindow (keeps_updProg (keeps_updWindow hk)))) (.next hk)

theorem keeps_moveSide {write : Bool} (hk : Keeps old s) : Keeps old (s.moveSide key write addr tag n).1 := by
  unfold State.moveSide
  dsimp only
  split
  · split <;> exact .pair ((.of_eq (keeps_mapRun hk) ‹_›))
  · split <;> exact .pair hk

theorem keeps_walkPages {cost : Nat} {runs : List (Nat × Nat)} (hk : Keeps old s) :
    Keeps old (s.walkPages key cost runs) := .ite hk (.foldl hk keeps_schedule)

theorem keeps_recordRead {k : Option Nat} (hk : Keeps old s) : Keeps old (s.recordRead key k) := by
  unfold State.recordRead
  split <;> exact keeps_record hk

theorem ends_moveFail {write : Bool} {e : Nat × Nat} (hk : Keeps old s) : Ends old (s.moveFail write e) := .next (keeps_holdProg hk)

theorem ends_move {conv : Option (RMode × Nat)} (hk : Keeps old s) : Ends old (s.move n conv) := by
  unfold State.move
  dsimp only
  refine .ite (.next (keeps_progFault hk)) (.ite (.ite (.next (keeps_progFault hk)) ?_) ?_)
  · split
    · exact ends_moveFail hk
    next s1 _ _ _ _ h1 =>
      have hk1 : Keeps old s1 := .of_eq (keeps_moveSide hk) h1
      split
      · exact ends_moveFail hk
      next s2 _ _ _ _ h2 =>
        have hk2 : Keeps old s2 := .of_eq (keeps_moveSide hk1) h2
        refine .ite (.next (keeps_progFault (keeps_recordRead hk))) (.ite (.next (keeps_progFault hk)) ?_)
        exact ends_stepP (.lit (keeps_touch (keeps_walkPages (.ite hk2 hk))))
  · split
    · exact .next (keeps_progFault hk)
    refine .ite (.next (keeps_waitP hk)) ?_
    split
    · exact ends_moveFail hk
    next s1 _ _ _ _ h1 =>
      have hk1 : Keeps old s1 := .of_eq (keeps_moveSide hk) h1
      refine .ite (.next (keeps_progFault (keeps_recordRead hk))) (.ite (.next (keeps_progFault hk)) ?_)
      split
      · exact .next (keeps_holdProg hk)
      · exact ends_stepP (keeps_schedule (keeps_updP (keeps_touch (keeps_walkPages (.ite hk1 hk)))))

theorem ends_execStreamMoveLand {bytes : List (Nat × Byte)} (hk : Keeps old s) : Ends old (execStreamMoveLand run k w bytes s) := by
  unfold execStreamMoveLand
  refine .next ?_
  refine .ite ?_ ?_
  · split
    · exact keeps_wakeProgs (keeps_updProg (keeps_landExchange hk))
    · exact keeps_landExchange hk
  · refine keeps_schedule ?_
    split
    · exact keeps_wakeProgs (keeps_updProg (keeps_landExchange hk))
    · exact keeps_landExchange hk

theorem keeps_applyStreamWrite {w : StreamWrite} (hk : Keeps old s) : Keeps old (s.applyStreamWrite w).1 :=
  .pair (keeps_noteKeys (.foldl hk keeps_writeLevel))

theorem ends_execSestart {a b : BitVec 5} (hk : Keeps old s) : Ends old (execSestart a b s) := by
  unfold execSestart
  refine ends_guarded hk fun h1 => ?_
  exact .ite (.next (keeps_updThr (keeps_stall h1))) (.next (keeps_retire (keeps_schedule (.lit h1))))

theorem ends_execStreamProgramStart (hk : Keeps old s) : Ends old (execStreamProgramStart key s) := .next (.ite (keeps_updProg hk) hk)

theorem ends_execSestop {a : BitVec 5} (hk : Keeps old s) : Ends old (execSestop a s) := by
  unfold execSestop
  refine ends_guarded hk fun h1 => ?_
  refine .ite ?_ (.next (keeps_retire h1))
  exact .next (keeps_retire (keeps_askComplete (keeps_nudgeBells (keeps_updProg h1))))

theorem ends_execSepoll {d a : BitVec 5} (hk : Keeps old s) : Ends old (execSepoll d a s) :=
  ends_guarded hk fun h1 => .next (keeps_schedule (keeps_enterWait (keeps_retire h1)))

theorem ends_execSepollSample (hk : Keeps old s) : Ends old (execSepollSample k t key rd s) :=
  .ite (.next (keeps_deliverW (keeps_wake hk))) (.next hk)

theorem ends_execWdef {a b : BitVec 5} (hk : Keeps old s) : Ends old (execWdef a b s) := by
  unfold execWdef
  exact ends_guarded hk fun h1 => .next (keeps_retire (keeps_wakeNext (keeps_settleWindow (keeps_updWindow h1))))

theorem ends_execWaita {d a : BitVec 5} {w : BitVec 4} (hk : Keeps old s) : Ends old (execWaita d a w s) :=
  ends_guarded hk fun h1 => .ite (.next (keeps_retire (keeps_writeW h1))) (.next (keeps_enterWait (keeps_retire h1)))

theorem ends_execRela {a : BitVec 5} {w : BitVec 4} (hk : Keeps old s) : Ends old (execRela a w s) :=
  ends_guarded hk fun h1 => .next (keeps_retire (keeps_wakeProgs (keeps_updWindow h1)))

theorem keeps_failProg (hk : Keeps old s) : Keeps old (s.failProg key) :=
  keeps_askComplete (keeps_nudgeBells (.foldl (keeps_updProg hk) fun h1 => keeps_settleWindow (keeps_updWindow h1)))

theorem ends_execStreamListStart (hk : Keeps old s) : Ends old (execStreamListStart lid s) :=
  .ite (.next hk) (.ite (.next (keeps_schedule hk)) (.next (keeps_schedule (keeps_recordAll (.foldl hk .lit)))))

/-! ### Machine/Fabric.lean -/

theorem keeps_mint {m : Mint} (hk : Keeps old s) : Keeps old (s.mint m) :=
  .foldl (.lit hk) fun h1 => by split; exact keeps_schedule h1; exact keeps_schedule (keeps_updPkg h1)

theorem ends_execKmint {d a b : BitVec 5} (hk : Keeps old s) : Ends old (execKmint d a b s) := by
  unfold execKmint
  exact ends_guarded hk fun h1 => .next (keeps_mint (keeps_enterWait (keeps_retire h1)))

theorem keeps_fabricResult {ctr : Option Nat} {v : Word} (hk : Keeps old s) :
    Keeps old (s.fabricResult k t rd ctr v) := .ite (keeps_deliverW (keeps_wake hk)) hk

theorem keeps_logFabric (hk : Keeps old s) : Keeps old (s.logFabric k t kind p i) := .ite (.lit hk) hk

theorem ends_execKmintDone {key : Word} (hk : Keeps old s) : Ends old (execKmintDone k t rd key s) :=
  .next (keeps_fabricResult (.ite hk (keeps_logFabric hk)))

theorem ends_execKrev {d a : BitVec 5} (hk : Keeps old s) : Ends old (execKrev d a s) := by
  unfold execKrev
  refine ends_guarded hk fun h1 => ?_
  refine .ite ?_ ?_
  · refine .ite (.next (keeps_updThr (keeps_stall h1))) ?_
    exact .next (keeps_schedule (keeps_updThr (keeps_enterWait (keeps_retire (keeps_updPkg h1)))))
  · exact .next (keeps_schedule (keeps_updThr (keeps_enterWait (keeps_retire h1))))

theorem ends_execKrevEffect {key : BitVec 32} (hk : Keeps old s) : Ends old (execKrevEffect k t rd key s) := by
  unfold execKrevEffect
  refine .next ?_
  refine keeps_fabricResult ?_
  refine .ite ?_ ?_
  · exact .ite (keeps_updPkg (keeps_updThread hk)) (keeps_updThread hk)
  · refine .ite ?_ ?_
    · exact keeps_escrow (keeps_updPkg (.ite (keeps_updPkg (keeps_updThread hk)) (keeps_updThread hk)))
    · exact keeps_logFabric (keeps_updPkg (.ite (keeps_updPkg (keeps_updThread hk)) (keeps_updThread hk)))

theorem keeps_sendControlFlits {word free : Nat} {ks : List Nat} (hk : Keeps old s) :
    Keeps old (s.sendControlFlits word free ks) := .foldl hk keeps_sendTxn

theorem ends_execCset {d a b : BitVec 5} (hk : Keeps old s) : Ends old (execCset d a b s) := by
  unfold execCset
  refine ends_guarded hk fun h1 => ?_
  refine .next ?_
  refine keeps_schedule ?_
  refine keeps_enterWait ?_
  refine keeps_retire ?_
  split
  · exact h1
  · split
    · exact h1
    · split
      · exact h1
      · split
        · exact h1
        · exact keeps_sendControlFlits (keeps_logFabric (.lit h1))

theorem ends_execCsetDone {v : Word} (hk : Keeps old s) : Ends old (execCsetDone k t rd v s) := .next (keeps_fabricResult hk)

theorem ends_execCfree {d a : BitVec 5} (hk : Keeps old s) : Ends old (execCfree d a s) := by
  unfold execCfree
  refine ends_guarded hk fun h1 => ?_
  split
  · exact .next (keeps_retire (keeps_writeW h1))
  · exact .next (keeps_schedule (keeps_updThr (keeps_enterWait (keeps_retire (.lit h1)))))

theorem keeps_freeCohort (hk : Keeps old s) : Keeps old (s.freeCohort k t c) := keeps_sendControlFlits (keeps_logFabric (.lit hk))

theorem ends_execCfreeDone (hk : Keeps old s) : Ends old (execCfreeDone k t rd w s) :=
  .ite (.next hk) (.ite (.next (keeps_schedule hk)) (.next (keeps_fabricResult (keeps_updThread (.ite (keeps_freeCohort hk) hk)))))

theorem keeps_sendCast {f : Contribution} {ms : List Nat} (hk : Keeps old s) : Keeps old (s.sendCast wait id vc key seq f ms) := by
  induction ms generalizing s with
  | nil => exact hk
  | cons m r ih => exact ih (keeps_sendBucket (keeps_updXfer hk))

theorem keeps_contribute {kind : XKind} {cw owner at_ : Nat} {c : Contribution} (hk : Keeps old s) :
    Keeps old (s.contribute kind cw seq owner at_ n c) := by
  unfold State.contribute
  refine .ite ?_ ?_
  · exact keeps_schedule (.lit (keeps_holdUntil (keeps_retire (.lit hk))))
  · exact keeps_sendCast (keeps_holdUntil (keeps_retire (.lit hk)))

theorem ends_execMlred {k a b : BitVec 5} {w x : BitVec 1} (hk : Keeps old s) :
    Ends old (execMlred k a b w x s) := ends_guarded hk fun h1 => .next (keeps_contribute h1)

theorem ends_execMcast {a b : BitVec 5} (hk : Keeps old s) : Ends old (execMcast a b s) := ends_guarded hk fun h1 => .next (keeps_contribute h1)

theorem keeps_staleFlit {w : Nat × Nat} {f : Contribution} (hk : Keeps old s) : Keeps old (s.staleFlit w f) := keeps_finish (keeps_countStale hk)

theorem keeps_sendOut {h : Cohort} {f : Contribution} (hk : Keeps old s) : Keeps old (s.sendOut c seq h f) := keeps_sendCast hk

theorem keeps_arriveAtRoot {f : Contribution} (hk : Keeps old s) : Keeps old (s.arriveAtRoot c seq cast f) := by
  unfold State.arriveAtRoot
  refine .ite (keeps_staleFlit (keeps_updBucket hk)) ?_
  refine .ite (keeps_staleFlit (keeps_updBucket hk)) ?_
  refine .ite (keeps_staleFlit (keeps_updBucket hk)) ?_
  refine .ite ?_ ?_
  · exact keeps_sendOut (.lit (keeps_updBucket hk))
  · refine .ite (keeps_schedule (keeps_updBucket hk)) ?_
    refine .ite ?_ ?_
    · refine keeps_failBucket ?_
      exact .ite (keeps_schedule (keeps_updBucket (keeps_updBucket hk))) (keeps_updBucket (keeps_updBucket hk))
    · refine .ite ?_ ?_
      · refine keeps_schedule ?_
        exact .ite (keeps_schedule (keeps_updBucket (keeps_updBucket hk))) (keeps_updBucket (keeps_updBucket hk))
      · refine .ite ?_ ?_
        · refine keeps_failBucket ?_
          exact .ite (keeps_schedule (keeps_updBucket (keeps_updBucket hk))) (keeps_updBucket (keeps_updBucket hk))
        · refine .ite ?_ ?_
          · refine keeps_schedule ?_
            refine .ite ?_ (keeps_updBucket (keeps_updBucket hk))
            exact keeps_schedule (keeps_updBucket (keeps_updBucket hk))
          · refine .ite ?_ (keeps_updBucket (keeps_updBucket hk))
            exact keeps_schedule (keeps_updBucket (keeps_updBucket hk))

theorem ends_execBucketOpen (hk : Keeps old s) : Ends old (execBucketOpen c seq s) :=
  .next (.foldl hk fun h1 => .foldl h1 keeps_arriveAtRoot)

theorem keeps_spreadFailure {h : Cohort} {b : Bucket} (hk : Keeps old s) : Keeps old (s.spreadFailure h b) :=
  keeps_updBucket (.foldl (.foldl hk fun h1 => .ite (keeps_settleWindow (keeps_updWindow h1)) h1) keeps_finish)

theorem keeps_sendResult {h : Cohort} {b : Bucket} (hk : Keeps old s) : Keeps old (s.sendResult h b) := by
  unfold State.sendResult
  refine .ite (keeps_failBucket hk) ?_
  refine .ite ?_ ?_
  · exact .foldl (.lit (keeps_sendCast (.foldl (.lit (keeps_updBucket hk)) keeps_schedule))) keeps_finish
  · exact keeps_sendCast (.foldl (.lit (keeps_updBucket hk)) keeps_schedule)

theorem ends_execBucketComplete (hk : Keeps old s) : Ends old (execBucketComplete c seq s) :=
  .next (.foldl hk fun h1 => .ite (.ite (keeps_spreadFailure h1) h1) (.ite (keeps_sendResult h1) h1))

theorem ends_execBucketTimeout (hk : Keeps old s) : Ends old (execBucketTimeout c seq s) :=
  .ite (.next (keeps_failBucket (keeps_updBucket hk))) (.next hk)

theorem keeps_delivered (hk : Keeps old s) : Keeps old (s.delivered c seq) :=
  .ite (by split; exact hk; exact keeps_bucketLanded hk) (by split; exact hk; exact .ite (.lit (.foldl hk keeps_finish)) (.lit hk))

theorem keeps_dropDelivery (hk : Keeps old s) : Keeps old (s.dropDelivery c k w seq) :=
  keeps_delivered (.foldl (keeps_settleWindow (keeps_updWindow hk)) keeps_finish)

theorem ends_execCollectiveDelivery {base : Nat} {bytes : List Byte} (hk : Keeps old s) :
    Ends old (execCollectiveDelivery c k w base seq bytes s) := by
  unfold execCollectiveDelivery
  refine .ite ?_ ?_
  · refine .ite (.next (keeps_schedule hk)) ?_
    refine .ite ?_ ?_
    · exact .next (keeps_delivered (keeps_settleWindow (keeps_updWindow hk)))
    · refine .ite (.next (keeps_schedule hk)) ?_
      refine .ite (.next (keeps_dropDelivery hk)) ?_
      split
      · exact .next (keeps_schedule ((.of_eq (keeps_landExchange hk) ‹_›)))
      · exact .next (keeps_schedule (keeps_landExchange hk))
  · exact .ite (.next (keeps_schedule hk)) (.next (keeps_delivered hk))

theorem keeps_touchAll {p : Plan} {ls : List (List Seg)} (hk : Keeps old s) :
    Keeps old (s.touchAll p ls) := .foldl hk fun h1 => by split; exact keeps_touch h1; exact h1

theorem keeps_fire {ms : List (Nat × Nat)} (hk : Keeps old s) : Keeps old (s.fire i seq ms) := .ite (keeps_schedule (.lit hk)) (.lit hk)

theorem ends_execCfire {a : BitVec 5} (hk : Keeps old s) : Ends old (execCfire a s) := by
  unfold execCfire
  refine .ite (.next (keeps_takeTrap hk)) ?_
  refine ends_guarded hk fun h1 => ?_
  dsimp only
  split
  · exact .next (keeps_finish (keeps_retire (.lit h1)))
  · exact .next (keeps_fire (keeps_retire (.lit h1)))

theorem keeps_dropFiring {f : Firing} (hk : Keeps old s) : Keeps old (s.dropFiring f st) := .foldl (.lit hk) keeps_finish

theorem keeps_sendFiring {p : Plan} {f : Firing} (hk : Keeps old s) : Keeps old (s.sendFiring p i f) :=
  .foldl (.foldl (.lit hk) fun h1 => .foldl h1 keeps_sendBucket) keeps_updXfer

theorem keeps_running {f : Firing} (hk : Keeps old s) : Keeps old (s.running f n) := hk

theorem ends_execPlanFiring (hk : Keeps old s) : Ends old (execPlanFiring i seq s) := by
  unfold execPlanFiring
  dsimp only
  split
  · exact .next hk
  · refine .ite (.next (keeps_dropFiring hk)) ?_
    refine .ite (.next (keeps_dropFiring hk)) ?_
    refine .ite ?_ ?_
    · exact .next (keeps_sendFiring (keeps_touchAll hk))
    · refine .ite ?_ ?_
      · exact .next (keeps_dropFiring (keeps_touchAll hk))
      · exact .next (.foldl (.lit (keeps_running (keeps_touchAll hk))) keeps_schedule)

theorem keeps_applyFiring {f : Firing} (hk : Keeps old s) : Keeps old (s.applyFiring f).1 := by
  unfold State.applyFiring
  dsimp only
  split
  · exact .pair (keeps_dropFiring hk)
  · split
    · exact .pair (keeps_dropFiring hk)
    · split
      · exact .pair (keeps_dropFiring hk)
      · split
        · exact .pair (keeps_sendFiring (keeps_touchAll (keeps_touchAll hk)))
        · split
          · exact .pair (keeps_dropFiring hk)
          · refine .pair ?_
            refine .lit ?_
            refine keeps_dropFiring ?_
            refine .foldlVia Prod.fst ?_ fun h1 => ?_
            · exact .pair (keeps_touchAll (keeps_touchAll hk))
            · split
              · exact .pair (keeps_storeTile h1)
              · exact .pair (keeps_noteKeys (keeps_writeSegs h1))

theorem ends_execSwitchFailure (hk : Keeps old s) : Ends old (execSwitchFailure lvl index s) :=
  .next (.foldl (.ite (keeps_updPkg (.lit hk)) (.lit hk)) keeps_schedule)

/-! ### Machine/Bells.lean -/

theorem keeps_updBell {f : Bell → Bell} (hk : Keeps old s) : Keeps old (s.updBell lid lvl inst f) := hk

theorem keeps_dropBell (hk : Keeps old s) : Keeps old (s.dropBell lid lvl inst) := hk

theorem keeps_podBell (hk : Keeps old s) : Keeps old (s.podBell lid) := .foldl hk keeps_sendTxn

theorem keeps_toll (hk : Keeps old s) : Keeps old (s.toll lid lvl) := .ite hk (keeps_podBell hk)

theorem keeps_ring {isSeal : Bool} (hk : Keeps old s) : Keeps old (s.ring lid lvl inst isSeal) :=
  .ite (keeps_schedule (.lit hk)) (keeps_toll (keeps_schedule (.lit hk)))

theorem keeps_checkBell (hk : Keeps old s) : Keeps old (s.checkBell lid lvl inst) :=
  .ite hk (.ite (keeps_ring hk) (.ite (keeps_ring hk) hk))

theorem keeps_stallCounted (hk : Keeps old s) : Keeps old (s.stallCounted i) := hk

theorem ends_beforeArrival {gets queue : Bool} {go : State → Out} (hk : Keeps old s) (hGo : ∀ {u : State}, Keeps old u → Ends old (go u)) :
    Ends old (s.beforeArrival gets queue go) :=
  .ite (.next (keeps_stallCounted hk)) (.ite (.next (keeps_stall hk)) (.ite (.next (keeps_stallCounted hk)) (hGo hk)))

theorem keeps_arrive {v : Word} {isSeal : Bool} (hk : Keeps old s) : Keeps old (s.arrive lvl op v rd isSeal) :=
  keeps_checkBell (keeps_updThr (keeps_enterWait (keeps_retire hk)))

theorem ends_execSync {d a : BitVec 5} {p : BitVec 4} {l : BitVec 3} (hk : Keeps old s) : Ends old (execSync d a p l s) :=
  .ite (.next (keeps_takeTrap hk)) (ends_beforeArrival hk fun h1 => ends_guarded h1 fun h2 => .next (keeps_arrive h2))

theorem keeps_readPhase (hk : Keeps old s) : Keeps old (s.readPhase lid lvl inst v c).1 :=
  .pair (.foldl hk fun h1 => by split; exact keeps_finish h1; exact keeps_landGet (keeps_updXfer h1))

theorem keeps_readHalves (hk : Keeps old s) : Keeps old (s.readHalves lid lvl inst).1 :=
  .foldlVia Prod.fst hk fun h1 => by split; exact .of_eq (keeps_readPhase h1) ‹_›

theorem ends_execArrivalBellDone (hk : Keeps old s) : Ends old (execArrivalBellDone lid lvl inst s) := by
  unfold execArrivalBellDone
  split
  · exact .next hk
  · refine .ite (.next hk) ?_
    dsimp only
    split
    · exact .next (keeps_startRollback hk)
    · exact .next (keeps_schedule (keeps_updBell (keeps_readHalves hk)))

theorem keeps_accAppend {w : WriteAcc} {x : Xfer} (hk : Keeps old w.st) : Keeps old (w.append id x).1.st := by
  unfold WriteAcc.append
  split
  · exact .pairVia WriteAcc.st (.accLit (keeps_finish hk))
  · dsimp only
    split
    · exact .pairVia WriteAcc.st (.accLit (keeps_finish hk))
    · exact .pairVia WriteAcc.st (.accLit (keeps_finish (.ite (keeps_poke hk) (keeps_storeTile hk))))

theorem keeps_accApply {w : WriteAcc} (hk : Keeps old w.st) : Keeps old (w.apply v id).st := by
  unfold WriteAcc.apply
  dsimp only
  split
  · exact .accLit hk
  · split
    · exact .accLit (keeps_applyXfer hk)
    · split
      · exact .accLit (keeps_accAppend hk)
      · exact .accLit (keeps_applyXfer hk)

theorem keeps_readSource (hk : Keeps old s) : Keeps old (s.readSource id) := by
  unfold State.readSource
  dsimp only
  split
  · exact keeps_holdFmt (keeps_localDone (keeps_updXfer hk))
  · exact keeps_updXfer (keeps_localDone (keeps_updXfer hk))

theorem keeps_accStream {w : WriteAcc} {p : StreamWrite} (hk : Keeps old w.st) : Keeps old (w.stream p).st := by
  unfold WriteAcc.stream
  split
  · exact .accLit hk
  · exact .accLit (.lit (keeps_applyStreamWrite hk))

theorem keeps_accFire {w : WriteAcc} {f : Firing} (hk : Keeps old w.st) : Keeps old (w.fire v f).st := by
  unfold WriteAcc.fire
  split
  · exact .accLit hk
  · exact .accLit (keeps_applyFiring hk)

theorem keeps_writePhase {before : Nat} {begun : Bool} {packed : Tab Nat} {full : List Nat} (hk : Keeps old s) :
    Keeps old (s.writePhase lid lvl inst v before begun packed full).st := by
  unfold State.writePhase
  refine .halvesLit ?_
  refine .lit ?_
  refine .foldlVia WriteAcc.st ?_ keeps_accFire
  refine .foldlVia WriteAcc.st ?_ keeps_accStream
  exact .foldlVia WriteAcc.st (.accLit (.foldl (.foldl hk keeps_holdXfer) keeps_readSource)) keeps_accApply

theorem keeps_writeHalves {b : Bell} (hk : Keeps old s) : Keeps old (s.writeHalves b).st :=
  .foldlVia Halves.st (.halvesLit hk) fun h1 => by split; exact h1; exact .halvesLit (keeps_writePhase h1)

theorem keeps_discardHeld (hk : Keeps old s) : Keeps old (s.discardHeld lid lvl inst) :=
  .foldl (.lit (.lit (.foldl hk keeps_finish))) fun h1 => .foldl (.lit h1) keeps_finish

theorem keeps_standWrite {b : Bell} {h : Halves} (hk1 : Keeps old h.st) : Keeps old (s.standWrite b h v) :=
  .ite (keeps_updBell hk1) (keeps_schedule (keeps_updBell hk1))

theorem ends_execWriteHalf (hk : Keeps old s) : Ends old (execWriteHalf lid lvl inst s) := by
  unfold execWriteHalf
  split
  · exact .next hk
  · refine .ite (.next hk) ?_
    refine .ite (.next (.ite hk (keeps_updBell hk))) ?_
    dsimp only
    split
    · exact .next (keeps_standWrite (by split; exact .halvesLit (keeps_discardHeld hk); exact keeps_writeHalves hk))
    · refine .ite ?_ ?_
      · exact .next (keeps_updBell (by split; exact .halvesLit (keeps_discardHeld hk); exact keeps_writeHalves hk))
      · refine .ite ?_ ?_
        · refine .next ?_
          refine keeps_schedule ?_
          exact keeps_updBell (by split; exact .halvesLit (keeps_discardHeld hk); exact keeps_writeHalves hk)
        · refine .ite ?_ ?_
          · refine .next ?_
            refine keeps_schedule ?_
            exact keeps_updBell (by split; exact .halvesLit (keeps_discardHeld hk); exact keeps_writeHalves hk)
          · refine .next ?_
            refine keeps_toll ?_
            refine keeps_schedule ?_
            exact keeps_updBell (by split; exact .halvesLit (keeps_discardHeld hk); exact keeps_writeHalves hk)

theorem keeps_setLists {b : Bell} (hk : Keeps old s) : Keeps old (s.setLists b) := .ite hk (.foldl hk keeps_updTile)

theorem keeps_release {b : Bell} (hk : Keeps old s) : Keeps old (s.release b) := by
  unfold State.release
  refine keeps_wakeProgs ?_
  refine .lit ?_
  refine .ite ?_ ?_
  · refine keeps_record ?_
    refine keeps_dropBell ?_
    refine keeps_updLaunch ?_
    refine .ite ?_ ?_
    · refine .foldl ?_ keeps_updGroup
      refine .foldl ?_ keeps_updTile
      refine keeps_setLists ?_
      refine .foldl hk fun h1 => ?_
      refine keeps_deliverW ?_
      exact .ite (keeps_updThread (keeps_wake (keeps_updThread h1))) (keeps_wake (keeps_updThread h1))
    · refine keeps_setLists ?_
      refine .foldl hk fun h1 => ?_
      refine keeps_deliverW ?_
      exact .ite (keeps_updThread (keeps_wake (keeps_updThread h1))) (keeps_wake (keeps_updThread h1))
  · refine .ite ?_ ?_
    · refine keeps_recordAll ?_
      refine keeps_dropBell ?_
      refine keeps_updLaunch ?_
      refine .ite ?_ ?_
      · refine .foldl ?_ keeps_updGroup
        refine .foldl ?_ keeps_updTile
        refine keeps_setLists ?_
        refine .foldl hk fun h1 => ?_
        refine keeps_deliverW ?_
        exact .ite (keeps_updThread (keeps_wake (keeps_updThread h1))) (keeps_wake (keeps_updThread h1))
      · refine keeps_setLists ?_
        refine .foldl hk fun h1 => ?_
        refine keeps_deliverW ?_
        exact .ite (keeps_updThread (keeps_wake (keeps_updThread h1))) (keeps_wake (keeps_updThread h1))
    · refine keeps_dropBell ?_
      refine keeps_updLaunch ?_
      refine .ite ?_ ?_
      · refine .foldl ?_ keeps_updGroup
        refine .foldl ?_ keeps_updTile
        refine keeps_setLists ?_
        refine .foldl hk fun h1 => ?_
        refine keeps_deliverW ?_
        exact .ite (keeps_updThread (keeps_wake (keeps_updThread h1))) (keeps_wake (keeps_updThread h1))
      · refine keeps_setLists ?_
        refine .foldl hk fun h1 => ?_
        refine keeps_deliverW ?_
        exact .ite (keeps_updThread (keeps_wake (keeps_updThread h1))) (keeps_wake (keeps_updThread h1))

theorem keeps_writeSeals {b : Bell} (hk : Keeps old s) : Keeps old (s.writeSeals b) := .foldl hk fun h1 => keeps_updTile (keeps_layBuffer h1)

theorem keeps_requestRelease {b : Bell} (hk : Keeps old s) : Keeps old (s.requestRelease b) := .ite (keeps_release hk) (.lit (keeps_updBell hk))

theorem keeps_askReport (hk : Keeps old s) : Keeps old (s.askReport lid g) := .ite (keeps_schedule hk) hk

theorem keeps_endFinal {b : Bell} (hk : Keeps old s) : Keeps old (s.endFinal b) := .foldl (keeps_dropBell hk) keeps_askReport

theorem keeps_commitSeal {b : Bell} (hk : Keeps old s) : Keeps old (s.commitSeal b) :=
  keeps_toll (keeps_schedule (keeps_updBell (keeps_commit (keeps_writeSeals (.lit hk)))))

theorem ends_execBellRelease (hk : Keeps old s) : Ends old (execBellRelease lid lvl inst s) := by
  unfold execBellRelease
  split
  · exact .next hk
  · refine .ite (.next hk) ?_
    refine .ite (.next (keeps_endFinal hk)) ?_
    exact .ite (.next (.ite hk (keeps_commitSeal hk))) (.next (keeps_requestRelease hk))

theorem ends_execAbort {a : BitVec 5} (hk : Keeps old s) :
    Ends old (execAbort a s) := ends_guarded hk fun h1 => .next (keeps_retire (keeps_updThr h1))

theorem ends_execAclr (hk : Keeps old s) : Ends old (execAclr s) := .next (keeps_retire (keeps_updThr hk))

theorem ends_sealSpill (hk : Keeps old s) : Ends old s.sealSpill := by
  unfold State.sealSpill
  refine ends_guarded hk fun h1 => ?_
  exact .ite (.next (keeps_stallLog h1)) (.next (keeps_holdUntil (keeps_updThr (keeps_storeTileAt h1))))

theorem ends_execSeal {d : BitVec 5} (hk : Keeps old s) : Ends old (execSeal d s) := by
  unfold execSeal
  refine .ite (.next (keeps_takeTrap hk)) ?_
  refine .ite ?_ ?_
  · exact .ite (ends_sealSpill hk) (ends_beforeArrival hk fun h1 => .next (keeps_arrive h1))
  · exact ends_beforeArrival hk fun h1 => .next (keeps_arrive h1)

theorem keeps_checkBarrier (hk : Keeps old s) : Keeps old (s.checkBarrier g id) := .ite (keeps_schedule (keeps_updGroup hk)) hk

theorem ends_execBara {a : BitVec 5} {i : BitVec 3} (hk : Keeps old s) : Ends old (execBara a i s) := by
  unfold execBara
  refine .ite (.next (keeps_takeTrap hk)) ?_
  refine ends_guarded hk fun h1 => ?_
  refine .ite (.next (keeps_stallCounted h1)) ?_
  exact .next (keeps_checkBarrier (keeps_retire (keeps_updTile (keeps_updGroup h1))))

theorem ends_execBarrierGenerationComplete (hk : Keeps old s) : Ends old (execBarrierGenerationComplete g id s) := by
  unfold execBarrierGenerationComplete
  refine .ite ?_ (.next hk)
  refine .next ?_
  refine keeps_checkBarrier ?_
  refine .foldl (keeps_updGroup hk) fun h1 => ?_
  exact .foldl h1 fun h2 => by dsimp only; split; exact .ite (keeps_wake (keeps_updThread h2)) h2; exact h2

theorem ends_execBarw {i : BitVec 3} (hk : Keeps old s) : Ends old (execBarw i s) :=
  .ite (.next (keeps_takeTrap hk)) (.ite (.next (keeps_retire hk)) (.next (keeps_enterWait (keeps_retire hk))))

theorem keeps_checkTsync (hk : Keeps old s) : Keeps old (s.checkTsync k) :=
  .ite (.foldl hk fun h1 => keeps_wake (keeps_updThread h1)) hk

theorem ends_execTsync (hk : Keeps old s) : Ends old (execTsync s) :=
  .ite (.next (keeps_retire hk)) (.next (keeps_checkTsync (keeps_enterWait (keeps_retire hk))))

/-! ### Machine/Proctor.lean -/

theorem keeps_popInto (hk : Keeps old s) : Keeps old (s.popInto k t a rd c) := by
  unfold State.popInto
  dsimp only
  split
  · exact hk
  · exact keeps_updThread (keeps_poke (keeps_updDie hk))

theorem keeps_serveMailbox (hk : Keeps old s) : Keeps old (s.serveMailbox d n) :=
  .foldl hk fun h1 => by split; exact .ite h1 (keeps_popInto h1); exact h1

theorem keeps_wakeIdle (hk : Keeps old s) : Keeps old (s.wakeIdle d) := .foldl hk fun h1 => by split; exact keeps_schedule h1; exact h1

theorem ends_execMailboxArrival {msg : Message} (hk : Keeps old s) : Ends old (execMailboxArrival d msg s) :=
  .ite (.next (keeps_schedule hk)) (.next (keeps_wakeIdle (keeps_serveMailbox (keeps_updDie hk))))

theorem keeps_endCycle (hk : Keeps old s) : Keeps old s.endCycle := keeps_flush (.foldl hk fun h1 => .ite h1 (keeps_serveMailbox h1))

theorem ends_execIdleWake (hk : Keeps old s) : Ends old (execIdleWake k t since s) := by
  unfold execIdleWake
  dsimp only
  split
  · exact .ite (.next (keeps_wake hk)) (.next hk)
  · exact .next hk

theorem keeps_tickSwait (hk : Keeps old s) : Keeps old (s.tickSwait k t) := by
  unfold State.tickSwait
  dsimp only
  split
  · exact .ite (keeps_wake hk) hk
  · exact hk

theorem ends_execTickArrival {mask : Nat} (hk : Keeps old s) : Ends old (execTickArrival k mask s) :=
  .next (.foldl hk fun h1 => .ite (keeps_tickSwait (keeps_updThread h1)) h1)

theorem ends_execTickTaken (hk : Keeps old s) : Ends old (execTickTaken k t s) :=
  .ite (.next (keeps_updThr (keeps_takeTrap (.lit hk)))) (.next hk)

theorem ends_execMbxrd {d : BitVec 5} {w : BitVec 1} (hk : Keeps old s) : Ends old (execMbxrd d w s) := by
  unfold execMbxrd
  refine ends_guarded hk fun h1 => ?_
  refine .ite ?_ ?_
  · exact .next (keeps_popInto (keeps_retire (.ite h1 (keeps_serveMailbox h1))))
  · refine .ite ?_ ?_
    · exact .next (keeps_holdUntil (keeps_retire (keeps_writeW (.ite h1 (keeps_serveMailbox h1)))))
    · exact .next (keeps_enterWait (keeps_retire (.ite h1 (keeps_serveMailbox h1))))

theorem ends_execMbxpost {a : BitVec 5} (hk : Keeps old s) : Ends old (execMbxpost a s) := by
  unfold execMbxpost
  refine ends_guarded hk fun h1 => ?_
  exact .ite (.next (keeps_schedule (keeps_retire h1))) (.next (keeps_post (keeps_retire h1)))

theorem ends_execIdle {a : BitVec 5} (hk : Keeps old s) : Ends old (execIdle a s) := by
  unfold execIdle
  refine ends_guarded hk fun h1 => ?_
  refine .ite (.next (keeps_retire h1)) ?_
  exact .next (.ite (keeps_enterWait (keeps_retire h1)) (keeps_schedule (keeps_enterWait (keeps_retire h1))))

theorem keeps_onTile {f : Tile → Tile} (hk : Keeps old s) : Keeps old (s.onTile lid k f) := .ite (keeps_laySave (.lit hk)) (keeps_updTile hk)

theorem keeps_letGo {filler engine : Bool} (hk : Keeps old s) : Keeps old (s.letGo d lid k filler engine) :=
  .ite (keeps_onTile hk) (.ite (.ite (keeps_schedule hk) hk) (keeps_schedule (.ite (keeps_schedule hk) hk)))

theorem keeps_replyTile {thread : Nat} {r : Reply} (hk : Keeps old s) : Keeps old (s.replyTile d lid k thread kind unit place r) := by
  unfold State.replyTile
  refine keeps_letGo ?_
  refine .ite (keeps_onTile hk) ?_
  refine .ite ?_ hk
  refine .ite (keeps_onTile (keeps_onTile hk)) ?_
  refine .ite ?_ (keeps_onTile (keeps_onTile hk))
  exact .ite (keeps_onTile (keeps_onTile hk)) (.foldl (keeps_onTile hk) keeps_endCmd)

theorem keeps_codeTo (hk : Keeps old s) : Keeps old (s.codeTo lid k t code) := keeps_onTile hk

theorem keeps_onXfer {f : Xfer → Xfer} (hk : Keeps old s) : Keeps old (s.onXfer id f) := by
  unfold State.onXfer
  split
  · exact keeps_updXfer hk
  · exact .lit hk

theorem keeps_onProg {f : Prog → Prog} (hk : Keeps old s) : Keeps old (s.onProg run f) := by
  unfold State.onProg
  split
  · exact keeps_updProg hk
  · exact .lit hk

theorem keeps_replyEngine {it : HeldItem} {r : Reply} (hk : Keeps old s) : Keeps old (s.replyEngine it r) := by
  unfold State.replyEngine
  dsimp only
  split
  · exact .ite (keeps_codeTo (keeps_schedule (keeps_onXfer hk))) (keeps_schedule (keeps_onXfer hk))
  · exact .ite hk (.ite (keeps_codeTo (keeps_schedule (keeps_onProg hk))) (keeps_schedule (keeps_onProg hk)))
  · exact hk

theorem ends_execUnpark {a : BitVec 5} (hk : Keeps old s) : Ends old (execUnpark a s) := by
  unfold execUnpark
  refine ends_guarded hk fun h1 => ?_
  refine .ite (.next (keeps_updTile (keeps_retire h1))) ?_
  dsimp only
  split
  · exact .next (keeps_replyTile (keeps_updDie (keeps_retire h1)))
  · exact .next (keeps_updDie (keeps_retire h1))

theorem ends_execXresume {a : BitVec 5} (hk : Keeps old s) : Ends old (execXresume a s) :=
  ends_guarded hk fun h1 => .next (keeps_replyEngine (keeps_updDie (keeps_retire h1)))

theorem ends_execTileResume {fill : Nat} (hk : Keeps old s) : Ends old (execTileResume k fill s) :=
  .ite (.next (.foldl (keeps_updTile hk) fun h1 => .ite (keeps_tickSwait (keeps_requestFrom (keeps_updThread h1))) h1)) (.next hk)

theorem keeps_answerXfer (hk : Keeps old s) : Keeps old (s.answerXfer id) := by
  unfold State.answerXfer
  split
  · exact hk
  · exact .ite (keeps_nudgeBells (keeps_retryXfer hk)) (.ite (keeps_finish (keeps_countHeld hk)) hk)

theorem keeps_answerProg (hk : Keeps old s) : Keeps old (s.answerProg run) := by
  unfold State.answerProg
  split
  · exact hk
  · exact .ite hk (.ite (keeps_updProg hk) (.ite (keeps_failProg hk) hk))

theorem ends_execEngineRetry (hk : Keeps old s) : Ends old (execEngineRetry kind id s) := by
  unfold execEngineRetry
  split
  · exact .next (keeps_answerXfer hk)
  · exact .next (keeps_answerProg hk)
  · exact .next (keeps_mxAdvance (keeps_updTile hk))
  · exact .next hk

theorem keeps_postStopped {lid : Option Nat} (hk : Keeps old s) : Keeps old (s.postStopped d lid) := hk

theorem ends_execGstop {a : BitVec 5} (hk : Keeps old s) : Ends old (execGstop a s) := by
  unfold execGstop
  refine ends_guarded hk fun h1 => ?_
  dsimp only
  split
  · exact .next (keeps_postStopped (keeps_retire h1))
  · exact .next (keeps_schedule (keeps_updLaunch (keeps_retire h1)))

theorem ends_execGstopRelease {a : BitVec 5} (hk : Keeps old s) : Ends old (execGstopRelease a s) := by
  unfold execGstopRelease
  refine ends_guarded hk fun h1 => ?_
  dsimp only
  split
  · exact .next (keeps_retire h1)
  · exact .ite (.next (keeps_schedule (keeps_updLaunch (keeps_retire h1)))) (.next (keeps_retire h1))

/-! ### Machine/Preempt.lean -/

theorem keeps_stopThreads (hk : Keeps old s) : Keeps old (s.stopThreads lid why) := keeps_updLaunch (.foldl hk keeps_updThread)

theorem keeps_dropLooks (hk : Keeps old s) : Keeps old (s.dropLooks lid) := hk

theorem keeps_killNow (hk : Keeps old s) : Keeps old (s.killNow lid) := by
  unfold State.killNow
  refine keeps_schedule ?_
  refine .foldl ?_ fun h1 => ?_
  · exact keeps_discardWork (keeps_stopThreads (keeps_windowStatus hk))
  · exact keeps_discardWork (keeps_stopThreads (keeps_windowStatus h1))

theorem keeps_reportGstop {lid : Option Nat} (hk : Keeps old s) : Keeps old (s.reportGstop code lid) := .ite hk (keeps_postStopped hk)

theorem keeps_stopReported (hk : Keeps old s) : Keeps old (s.stopReported lid code) :=
  .ite (keeps_schedule hk) (keeps_reportGstop (keeps_updLaunch hk))

theorem ends_execGangStop (hk : Keeps old s) : Ends old (execGangStop lid code s) := by
  unfold execGangStop
  refine .ite (.next (.ite (keeps_stopReported hk) hk)) ?_
  refine .ite ?_ ?_
  · refine .ite ?_ (.next hk)
    exact .ite (.next (keeps_schedule (keeps_updLaunch (keeps_dropLooks hk)))) (.next (keeps_schedule hk))
  · refine .ite (.next (keeps_schedule hk)) ?_
    split
    · refine .ite (.next (keeps_killNow hk)) ?_
      refine .ite (.next hk) ?_
      refine .next ?_
      refine keeps_schedule ?_
      exact .foldl (.ite (keeps_waitForFillers (keeps_stopThreads hk)) (keeps_stopThreads hk)) keeps_schedule
    · refine .ite ?_ ?_
      · exact .ite (.next hk) (.next (keeps_killNow hk))
      · exact .ite (.next (keeps_reportGstop hk)) (.ite (.next (keeps_reportGstop hk)) (.next (keeps_schedule hk)))
    · refine .ite (.next (keeps_killNow hk)) ?_
      refine .ite (.next (keeps_schedule hk)) ?_
      refine .ite ?_ (.next (keeps_reportGstop hk))
      exact .next (.foldl (keeps_stopReported (keeps_waitForFillers (keeps_updLaunch hk))) keeps_schedule)
    · exact .ite (.next (keeps_killNow hk)) (.next (keeps_schedule hk))
    · exact .ite (.next (keeps_killNow hk)) (.next (keeps_schedule hk))
    · refine .ite ?_ ?_
      · exact .next (keeps_killed (keeps_discardWork hk))
      · exact .ite (.next (keeps_schedule hk)) (.next (keeps_reportGstop hk))
    · exact .next (keeps_reportGstop hk)

theorem keeps_recorded (hk : Keeps old s) : Keeps old (s.recorded lid) :=
  .foldl (.foldl (.lit hk) fun h1 => by split; exact keeps_updTile h1; exact keeps_updTile h1; exact h1) keeps_updThread

theorem ends_execContextSave (hk : Keeps old s) : Ends old (execContextSave lid s) := by
  unfold execContextSave
  dsimp only
  split
  · refine .next ?_
    refine keeps_freed ?_
    refine keeps_laySave ?_
    exact keeps_takeAreas (keeps_updLaunch (keeps_freeTiles (keeps_setStatus (.lit (keeps_recorded hk)))))
  · exact .next hk

theorem ends_execContextRestore (hk : Keeps old s) : Ends old (execContextRestore lid s) := by
  unfold execContextRestore
  split
  · exact .next hk
  · refine .ite (.next hk) ?_
    refine .ite (.next (keeps_schedule hk)) ?_
    refine .next ?_
    refine keeps_schedule ?_
    refine keeps_updLaunch ?_
    refine .ite ?_ ?_
    · refine .foldl ?_ fun h1 => ?_
      · exact .litMem (.ite (.of hk) (.putCells (.pagesBack (.filter (.of hk)))))
      · exact .ite (keeps_updTile h1) (keeps_startDrain (keeps_startDrain (keeps_updTile h1)))
    · refine .foldl ?_ keeps_updGroup
      refine .foldl ?_ fun h1 => ?_
      · exact .litMem (.ite (.of hk) (.putCells (.pagesBack (.filter (.of hk)))))
      · exact .ite (keeps_updTile h1) (keeps_startDrain (keeps_startDrain (keeps_updTile h1)))

theorem keeps_resumeBell {b : Bell} (hk : Keeps old s) : Keeps old (s.resumeBell b) := by
  unfold State.resumeBell
  dsimp only
  split
  · exact keeps_toll (keeps_schedule hk)
  · exact keeps_toll (keeps_schedule (keeps_updBell hk))
  · exact keeps_schedule hk
  · exact keeps_schedule hk

theorem keeps_resumeThread (hk : Keeps old s) : Keeps old (s.resumeThread k t) :=
  .ite (keeps_lookAgain (keeps_tickSwait (keeps_primeThread (keeps_updThread hk)))) hk

theorem keeps_mstasAgain (hk : Keeps old s) : Keeps old (s.mstasAgain k o) := .foldl hk keeps_schedule

theorem keeps_resumeLaunch (hk : Keeps old s) : Keeps old (s.resumeLaunch lid) := by
  unfold State.resumeLaunch
  refine keeps_watch ?_
  refine keeps_updLaunch ?_
  refine .foldl ?_ keeps_resumeBell
  refine .foldl ?_ fun h1 => ?_
  · refine .foldl ?_ fun h1 => .ite (keeps_schedule h1) h1
    exact .lit (.foldl (.foldl hk keeps_resumeThread) fun h1 => keeps_mxAdvance (keeps_mstasAgain h1))
  · split
    · exact .ite (.foldl h1 keeps_schedule) h1
    · exact h1

theorem keeps_layCut {vs : List SaveArea} (hk : Keeps old s) :
    Keeps old (s.layCut vs) := .foldl hk fun h1 => by split; exact keeps_layAreas (.lit h1); exact h1

theorem keeps_countEscrow (hk : Keeps old s) : Keeps old (s.countEscrow l n) := .lit (.foldl hk keeps_updThread)

theorem keeps_sealCut {ms : List Nat} (hk : Keeps old s) : Keeps old (s.sealCut ms why) := by
  unfold State.sealCut
  refine .foldl ?_ fun h1 => ?_
  · exact .foldl (.foldl (keeps_layCut (.lit (keeps_recordAll hk))) keeps_commit) keeps_updLaunch
  · exact .ite (.ite (keeps_countEscrow h1) h1) (keeps_schedule (.ite (keeps_countEscrow h1) h1))

theorem keeps_callOff (hk : Keeps old s) : Keeps old s.callOff :=
  .ite (.foldl hk keeps_schedule) (keeps_schedule (.foldl (.foldl hk keeps_schedule) keeps_updLaunch))

theorem ends_execSaveSeal {emergency : Nat} (hk : Keeps old s) : Ends old (execSaveSeal emergency s) := by
  unfold execSaveSeal
  dsimp only
  split
  · exact .ite (.next (keeps_schedule (.foldl hk keeps_schedule))) (.next hk)
  · exact .next (keeps_schedule (.foldl hk keeps_schedule))
  · exact .next (keeps_sealCut hk)
  · exact .next (keeps_sealCut hk)
  · exact .next (keeps_callOff hk)
  · exact .ite (.next (keeps_schedule hk)) (.next (keeps_schedule hk))

theorem ends_execEmergencyTimeout {_p : Nat} (hk : Keeps old s) : Ends old (execEmergencyTimeout _p since s) := .next (.ite (keeps_schedule hk) hk)

/-! ### Machine/Registrar.lean -/

theorem keeps_checkQueue (hk : Keeps old s) : Keeps old (s.checkQueue p q) := by
  unfold State.checkQueue
  exact .ite (keeps_alarm (keeps_updPkg hk)) (.ite (keeps_physPut (keeps_updPkg hk)) hk)

theorem ends_execHbmWriteMatch (hk : Keeps old s) : Ends old (execHbmWriteMatch p a s) :=
  .next (keeps_askSelection (.foldl hk keeps_checkQueue))

theorem keeps_putStatus (hk : Keeps old s) : Keeps old (s.putStatus p q addr st reason) := by
  unfold State.putStatus
  split
  · exact keeps_hbmPut hk
  · exact hk

theorem keeps_rejectHead (hk : Keeps old s) : Keeps old (s.rejectHead p q addr reason) := keeps_retireHead (keeps_putStatus hk)

theorem keeps_doneHead (hk : Keeps old s) : Keeps old (s.doneHead p q addr) := keeps_retireHead (keeps_putStatus hk)

theorem keeps_selectBegin (hk : Keeps old s) : Keeps old (s.selectBegin p) := by
  unfold State.selectBegin
  refine keeps_schedule ?_
  split
  · refine keeps_updPkg ?_
    exact .foldl (.foldl (keeps_updPkg hk) keeps_checkQueue) fun h1 => by split; exact keeps_rejectHead h1; exact h1
  · dsimp only
    split
    · refine keeps_updPkg ?_
      exact .foldl (.foldl (keeps_updPkg hk) keeps_checkQueue) fun h1 => by split; exact keeps_rejectHead h1; exact h1
    · split
      · refine keeps_schedule ?_
        refine keeps_updPkg ?_
        refine .foldl ?_ keeps_physPut
        refine keeps_updPkg ?_
        refine .foldl ?_ fun h1 => ?_
        · exact .foldl (keeps_updPkg hk) keeps_checkQueue
        · split
          · exact keeps_rejectHead h1
          · exact h1
      · refine keeps_schedule ?_
        refine keeps_updPkg ?_
        refine .foldl ?_ keeps_physPut
        refine keeps_updPkg ?_
        refine .foldl ?_ fun h1 => ?_
        · exact .foldl (keeps_updPkg hk) keeps_checkQueue
        · split
          · exact keeps_rejectHead h1
          · exact h1
      · refine keeps_updPkg ?_
        refine .foldl ?_ keeps_physPut
        refine keeps_updPkg ?_
        refine .foldl ?_ fun h1 => ?_
        · exact .foldl (keeps_updPkg hk) keeps_checkQueue
        · split
          · exact keeps_rejectHead h1
          · exact h1

theorem ends_execSelection (hk : Keeps old s) : Ends old (execSelection p s) := by
  unfold execSelection
  split
  · exact .next hk
  · exact .next (keeps_selectBegin hk)
  · exact .ite (.next (keeps_schedule (keeps_updPkg hk))) (.next (keeps_updPkg hk))

theorem ends_atHead {go : Nat → State} (hk : Keeps old s) (hGo : ∀ (i : Nat), Keeps old (go i)) : Ends old (s.atHead p q kind go) := by
  unfold State.atHead
  split
  · exact .ite (.next hk) (by split; exact .next (keeps_rejectHead hk); exact .next (hGo _); exact .next hk)
  · exact .next hk

theorem ends_execWaitevEntry (hk : Keeps old s) : Ends old (execWaitevEntry p q s) := ends_atHead hk fun _ => keeps_doneHead hk

theorem ends_execSigevEntry (hk : Keeps old s) : Ends old (execSigevEntry p q s) :=
  ends_atHead hk fun _ => keeps_doneHead (keeps_addCounter hk)

theorem ends_execSealEntry (hk : Keeps old s) : Ends old (execSealEntry p q s) := ends_atHead hk fun _ => keeps_doneHead (.lit hk)

theorem keeps_setStatusAt (hk : Keeps old s) : Keeps old (s.setStatusAt lid p st) := .foldl hk keeps_putStatus

theorem keeps_displace {h : Nat} (hk : Keeps old s) : Keeps old (s.displace p h) :=
  .ite (keeps_askSelection (keeps_setStatusAt (keeps_updLaunch (.lit hk)))) (.ite hk (keeps_schedule (keeps_takeAreas hk)))

theorem keeps_reserve (hk : Keeps old s) : Keeps old (s.reserve p lid) := by
  unfold State.reserve
  refine .ite ?_ ?_
  · refine keeps_proceed ?_
    refine keeps_updLaunch ?_
    refine .ite ?_ ?_
    · exact keeps_updLaunch (.foldl hk keeps_displace)
    · exact keeps_setStatusAt (keeps_updLaunch (.foldl hk keeps_displace))
  · refine .ite ?_ ?_
    · refine keeps_watch ?_
      refine .ite ?_ ?_
      · exact keeps_updLaunch (.foldl hk keeps_displace)
      · exact keeps_setStatusAt (keeps_updLaunch (.foldl hk keeps_displace))
    · refine .ite ?_ ?_
      · exact keeps_updLaunch (.foldl hk keeps_displace)
      · exact keeps_setStatusAt (keeps_updLaunch (.foldl hk keeps_displace))

theorem ends_execLaunchEntry (hk : Keeps old s) : Ends old (execLaunchEntry p q s) := by
  unfold execLaunchEntry
  split
  · split
    · exact .next (keeps_reserve hk)
    · exact .next hk
  · refine ends_atHead hk fun _ => ?_
    dsimp only
    split
    · exact keeps_reserve (keeps_updLaunch hk)
    · exact .ite (keeps_retireHead (keeps_reserve (.lit hk))) (keeps_reserve (.lit hk))

theorem keeps_loadText (hk : Keeps old s) : Keeps old (s.loadText lid g) := keeps_updGroup (keeps_poke (keeps_clearRange hk))

theorem ends_execTextLoad (hk : Keeps old s) : Ends old (execTextLoad lid s) :=
  .ite (.next (keeps_afterText (.foldl hk keeps_loadText))) (.next hk)

theorem keeps_setUp (hk : Keeps old s) : Keeps old (s.setUp lid) :=
  .foldl hk fun h1 => .foldl h1 fun h2 => .foldl (keeps_setupTile h2) keeps_poke

theorem ends_execStartBroadcast (hk : Keeps old s) : Ends old (execStartBroadcast lid s) := by
  unfold execStartBroadcast
  dsimp only
  split
  · refine .next ?_
    refine keeps_schedule ?_
    refine keeps_setUp ?_
    refine .ite (keeps_setStatus (keeps_updLaunch hk)) ?_
    exact .foldl (keeps_setStatus (keeps_updLaunch hk)) keeps_retireHead
  · exact .next (keeps_schedule (.ite hk (keeps_setStatus (keeps_updLaunch hk))))
  · exact .next hk

theorem ends_execFirstFetch (hk : Keeps old s) : Ends old (execFirstFetch lid s) := by
  unfold execFirstFetch
  dsimp only
  split
  · refine .next ?_
    refine keeps_watch ?_
    refine .foldl ?_ keeps_askSelection
    exact .foldl (keeps_updLaunch (.foldl hk fun h1 => keeps_primeThread (keeps_startThread h1))) keeps_addCounter
  · exact .next (keeps_resumeLaunch hk)
  · exact .next hk

theorem ends_execWatchdogExpiry (hk : Keeps old s) : Ends old (execWatchdogExpiry lid since s) := by
  unfold execWatchdogExpiry
  refine .ite (.next hk) ?_
  refine .ite (.next (keeps_watch (keeps_updLaunch hk))) ?_
  refine .ite (.next (keeps_schedule hk)) ?_
  exact .next (keeps_schedule (keeps_alarm (keeps_setStatus (keeps_updLaunch hk))))

theorem keeps_dropEntry {idx : Nat} (hk : Keeps old s) : Keeps old (s.dropEntry p q idx) :=
  .ite (keeps_retireHead (keeps_putStatus (keeps_updPkg hk))) (keeps_updPkg (keeps_putStatus (keeps_updPkg hk)))

theorem keeps_dropCopies {ps : List Nat} (hk : Keeps old s) : Keeps old (s.dropCopies ctx tag ps) :=
  .foldl hk fun h1 => .foldl h1 fun h2 => .ite h2 (keeps_dropEntry h2)

theorem ends_execKillEntry (hk : Keeps old s) : Ends old (execKillEntry p q s) := by
  unfold execKillEntry
  refine ends_atHead hk fun _ => ?_
  dsimp only
  split
  · exact keeps_schedule (.ite (keeps_updLaunch hk) (keeps_dropCopies (keeps_updLaunch hk)))
  · split
    · exact keeps_retireKill (.ite (keeps_dropEntry hk) (keeps_dropCopies (keeps_dropEntry hk)))
    · exact keeps_retireKill hk

theorem ends_execKillQuiesced (hk : Keeps old s) : Ends old (execKillQuiesced lid s) :=
  .ite (.next (keeps_killed (.foldl hk keeps_killed))) (.next hk)

theorem ends_execPlanEntry (hk : Keeps old s) : Ends old (execPlanEntry p q s) := by
  unfold execPlanEntry
  dsimp only
  split
  · refine .next ?_
    exact .ite (keeps_schedule (.lit hk)) (keeps_doneHead (by split; exact keeps_hbmPut (.lit hk); exact .lit hk))
  · refine ends_atHead hk fun _ => ?_
    refine .ite ?_ ?_
    · split
      · exact keeps_doneHead (by split; exact keeps_hbmPut hk; exact hk)
      · exact .ite (keeps_schedule (.lit hk)) (keeps_doneHead (by split; exact keeps_hbmPut (.lit hk); exact .lit hk))
    · split
      · exact keeps_rejectHead hk
      · exact keeps_doneHead (by split; exact keeps_hbmPut (.lit hk); exact .lit hk)

theorem ends_execCollEntry (hk : Keeps old s) : Ends old (execCollEntry p q s) :=
  ends_atHead hk fun _ => by split; exact keeps_rejectHead hk; exact .ite (keeps_rejectHead hk) (keeps_doneHead (keeps_fire hk))

/-! ### Machine/Retire.lean -/

theorem keeps_afterHalt (hk : Keeps old s) : Keeps old (s.afterHalt lid k t) := by
  unfold State.afterHalt
  refine keeps_askRetire ?_
  split
  · refine keeps_schedule ?_
    refine .ite ?_ ?_
    · exact .foldl (.ite (keeps_updLaunch hk) hk) keeps_checkBell
    · exact keeps_checkTsync (.foldl (.foldl (.ite (keeps_updLaunch hk) hk) keeps_checkBell) keeps_checkBarrier)
  · refine .ite ?_ ?_
    · exact .foldl (.ite (keeps_updLaunch hk) hk) keeps_checkBell
    · exact keeps_checkTsync (.foldl (.foldl (.ite (keeps_updLaunch hk) hk) keeps_checkBell) keeps_checkBarrier)

theorem ends_execHalt (hk : Keeps old s) : Ends old (execHalt s) := by
  unfold execHalt
  dsimp only
  split
  · exact .next (keeps_afterHalt (keeps_updThr hk))
  · exact .next (keeps_updThr hk)

theorem ends_execFinalExchange (hk : Keeps old s) : Ends old (execFinalExchange lid lvl inst s) :=
  .ite (.next hk) (.next (keeps_schedule (keeps_updBell (keeps_readHalves (.lit hk)))))

theorem ends_execTileRetire (hk : Keeps old s) : Ends old (execTileRetire k s) := by
  unfold execTileRetire
  dsimp only
  split
  · refine .next ?_
    refine .ite ?_ ?_
    · exact keeps_askReport (by split; exact .ite (keeps_askReport (keeps_updTile hk)) hk; exact hk)
    · split
      · exact .ite (keeps_askReport (keeps_updTile hk)) hk
      · exact hk
  · exact .next (by split; exact .ite (keeps_askReport (keeps_updTile hk)) hk; exact hk)

theorem ends_whileStopped {e : Instr} {go : State} (hk : Keeps old s) (hk1 : Keeps old go) : Ends old (s.whileStopped lid e go) :=
  .ite (.next hk) (.ite (.next hk1) (.next (keeps_schedule hk)))

theorem keeps_topReport (hk : Keeps old s) : Keeps old (s.topReport lid) := hk

theorem ends_execCompletionReport (hk : Keeps old s) : Ends old (execCompletionReport lid lvl inst s) := by
  unfold execCompletionReport
  refine ends_whileStopped hk ?_
  split
  · exact .ite hk (.ite (keeps_schedule (keeps_updLaunch hk)) (keeps_updLaunch hk))
  · exact .ite (keeps_schedule (keeps_updLaunch hk)) (keeps_updLaunch hk)
  · refine .ite (keeps_topReport (keeps_updLaunch hk)) ?_
    exact .ite (keeps_schedule (keeps_updLaunch hk)) (keeps_updLaunch hk)
  · exact keeps_topReport hk

theorem ends_execCompletionCommit (hk : Keeps old s) : Ends old (execCompletionCommit lid s) :=
  ends_whileStopped hk (.ite (keeps_schedule (keeps_updLaunch (.ite (keeps_commit hk) hk))) hk)

theorem ends_execLaunchComplete (hk : Keeps old s) : Ends old (execLaunchComplete lid s) := by
  unfold execLaunchComplete
  refine ends_whileStopped hk ?_
  refine .ite ?_ hk
  exact keeps_schedule (keeps_waitForFillers (.foldl (keeps_recordAll (keeps_updLaunch hk)) keeps_schedule))

theorem keeps_finishLaunch (hk : Keeps old s) : Keeps old (s.finishLaunch lid) :=
  keeps_freed (keeps_updLaunch (keeps_freeTiles (keeps_setStatus (.lit hk))))

theorem ends_execCompletionAdd (hk : Keeps old s) : Ends old (execCompletionAdd lid s) :=
  .ite (.next hk) (by split; exact .next (keeps_finishLaunch hk); exact .next (keeps_schedule hk))

theorem ends_execCompletionAddDone (hk : Keeps old s) : Ends old (execCompletionAddDone lid s) :=
  .ite (.next hk) (by split; exact .next (keeps_finishLaunch hk); exact .next (keeps_finishLaunch (keeps_addCounter hk)))

/-! ### Machine/Manage.lean -/

theorem keeps_grantRamp {step : Nat} (hk : Keeps old s) : Keeps old (s.grantRamp step n) := by
  induction n generalizing s step with
  | zero => exact hk
  | succ n ih =>
    unfold State.grantRamp
    split
    · exact hk
    · split
      · exact ih hk
      · exact .ite hk (.ite hk (ih (keeps_release hk)))

theorem ends_execRampTick (hk : Keeps old s) : Ends old (execRampTick s) := .next (.lit (keeps_schedule (keeps_grantRamp hk)))

theorem keeps_telemetryOf (hk : Keeps old s) : Keeps old (s.telemetryOf p) := .ite hk (keeps_hbmPut (keeps_updPkg (keeps_updPkg hk)))

theorem ends_execTelemetryTick (hk : Keeps old s) : Ends old (execTelemetryTick s) :=
  .next (.lit (.foldl (keeps_schedule hk) keeps_telemetryOf))

theorem ends_execOvertempWarning (hk : Keeps old s) : Ends old (execOvertempWarning p s) := .next (keeps_updPkg hk)

theorem keeps_freezeRings {ds : List Nat} (hk : Keeps old s) : Keeps old (s.freezeRings ds) := .foldl hk keeps_updDie

theorem ends_execThermalShutdown (hk : Keeps old s) : Ends old (execThermalShutdown p s) :=
  .next (.lit (keeps_freezeRings (keeps_record hk)))

theorem ends_execColdReset (hk : Keeps old s) : Ends old (execColdReset s) := .next (.litMem (.filter (.of hk)))

theorem ends_execWarmReset (hk : Keeps old s) : Ends old (execWarmReset s) := .next (.litMem (.filter (.of hk)))

theorem ends_execRepairLearned (hk : Keeps old s) : Ends old (execRepairLearned d col s) := .next (keeps_record (keeps_updDie hk))

theorem ends_execRepairCommit (hk : Keeps old s) : Ends old (execRepairCommit d col s) :=
  .next (.ite (keeps_record (keeps_updDie hk)) hk)

theorem keeps_startProctor (hk : Keeps old s) : Keeps old (s.startProctor k lc nthr) :=
  .foldl (keeps_updTile (keeps_clearRange hk)) fun h1 => keeps_primeThread (keeps_startThread h1)

theorem ends_execBoot {image text : List Byte} (hk : Keeps old s) : Ends old (execBoot p image text lc nthr s) := by
  unfold execBoot
  refine .ite (.next hk) ?_
  refine .ite ?_ (.next (.lit (keeps_updPkg hk)))
  exact .next (keeps_updPkg (.foldl hk fun h1 => keeps_startProctor (.lit (keeps_poke (keeps_clearRange h1)))))

theorem ends_execSpdmRequest {req : List Byte} (hk : Keeps old s) : Ends old (execSpdmRequest p req s) := .next (.lit (keeps_updPkg hk))

theorem ends_execCxlMemAccess {write : Bool} {bytes : List Byte} (hk : Keeps old s) : Ends old (execCxlMemAccess p write a bytes s) :=
  .ite (.next hk) (.ite (.next (keeps_hbmPut hk)) (.next (keeps_updPkg hk)))

theorem keeps_mgEffect {v : Word} {trusted : Bool} (hk : Keeps old s) : Keeps old (s.mgEffect p off v trusted) := by
  unfold State.mgEffect
  refine .ite (keeps_schedule hk) ?_
  refine .ite (keeps_schedule hk) ?_
  refine .ite (keeps_schedule hk) ?_
  refine .ite hk ?_
  split
  · exact hk
  · exact .ite (.lit hk) (.ite (keeps_askSelection (keeps_updPkg hk)) (keeps_updPkg hk))

theorem ends_execManagementWrite {v : Word} {trusted : Bool} (hk : Keeps old s) : Ends old (execManagementWrite p off v trusted s) :=
  .ite (.next (keeps_mgEffect hk)) (.next (.lit (keeps_schedule hk)))

theorem ends_execMgLinkctl {v : Word} {trusted : Bool} (hk : Keeps old s) : Ends old (execMgLinkctl p v trusted s) :=
  .next (.ite (keeps_train (keeps_updLink hk)) hk)

theorem ends_execMgBbctl {v : Word} {trusted : Bool} (hk : Keeps old s) :
    Ends old (execMgBbctl p v trusted s) := .next (.ite (.foldl hk keeps_updDie) hk)

theorem ends_execMgPod {v : PkgWrite} {trusted : Bool} (hk : Keeps old s) :
    Ends old (execMgPod v trusted s) := .next (.ite hk (.lit (keeps_updPkg hk)))

/-! ### Machine/Dispatch.lean -/

theorem ends_exec {i : Instr} (hk : Keeps old s) : Ends old (exec i s) := by
  unfold exec
  cases i with
  | mmaLatch => exact ends_execMmaLatch hk
  | mmaPass => exact ends_execMmaPass hk
  | mmaRowsFinal => exact ends_execMmaRowsFinal hk
  | mzeroExecute => exact ends_execMzeroExecute hk
  | mwrExecute => exact ends_execMwrExecute hk
  | mstaExecute => exact ends_execMstaExecute hk
  | mstaEnd => exact ends_execMstaEnd hk
  | copyEnd => exact ends_execCopyEnd hk
  | translationWalkDone => exact ends_execTranslationWalkDone hk
  | getLand => exact ends_execGetLand hk
  | streamProgramStart => exact ends_execStreamProgramStart hk
  | sepollSample => exact ends_execSepollSample hk
  | streamMoveLand => exact ends_execStreamMoveLand hk
  | windowCounterIncrement => exact ends_execWindowCounterIncrement hk
  | streamListStart => exact ends_execStreamListStart hk
  | arrivalBellDone => exact ends_execArrivalBellDone hk
  | writeHalf => exact ends_execWriteHalf hk
  | bellRelease => exact ends_execBellRelease hk
  | barrierGenerationComplete => exact ends_execBarrierGenerationComplete hk
  | kmintDone => exact ends_execKmintDone hk
  | krevEffect => exact ends_execKrevEffect hk
  | csetDone => exact ends_execCsetDone hk
  | cfreeDone => exact ends_execCfreeDone hk
  | bucketOpen => exact ends_execBucketOpen hk
  | bucketComplete => exact ends_execBucketComplete hk
  | bucketTimeout => exact ends_execBucketTimeout hk
  | collectiveDelivery => exact ends_execCollectiveDelivery hk
  | planFiring => exact ends_execPlanFiring hk
  | frameReceive => exact ends_execFrameReceive hk
  | ackTimeout => exact ends_execAckTimeout hk
  | replayRequestTimeout => exact ends_execReplayRequestTimeout hk
  | laneFault => exact ends_execLaneFault hk
  | trainDone => exact ends_execTrainDone hk
  | trainTimeout => exact ends_execTrainTimeout hk
  | e2eStatus => exact ends_execE2eStatus hk
  | e2eTimeout => exact ends_execE2eTimeout hk
  | vcEscape => exact ends_execVcEscape hk
  | bufferRepair => exact ends_execBufferRepair hk
  | keyCheck => exact ends_execKeyCheck hk
  | hbmWriteMatch => exact ends_execHbmWriteMatch hk
  | selection => exact ends_execSelection hk
  | launchEntry => exact ends_execLaunchEntry hk
  | planEntry => exact ends_execPlanEntry hk
  | collEntry => exact ends_execCollEntry hk
  | sealEntry => exact ends_execSealEntry hk
  | waitevEntry => exact ends_execWaitevEntry hk
  | sigevEntry => exact ends_execSigevEntry hk
  | killEntry => exact ends_execKillEntry hk
  | killQuiesced => exact ends_execKillQuiesced hk
  | textLoad => exact ends_execTextLoad hk
  | startBroadcast => exact ends_execStartBroadcast hk
  | firstFetch => exact ends_execFirstFetch hk
  | watchdogExpiry => exact ends_execWatchdogExpiry hk
  | lineRefill => exact ends_execLineRefill hk
  | fillerFetch => exact ends_execFillerFetch hk
  | tickArrival => exact ends_execTickArrival hk
  | tickTaken => exact ends_execTickTaken hk
  | threadPark => exact ends_execThreadPark hk
  | swaitExpiry => exact ends_execSwaitExpiry hk
  | idleWake => exact ends_execIdleWake hk
  | mailboxArrival => exact ends_execMailboxArrival hk
  | tileResume => exact ends_execTileResume hk
  | engineRetry => exact ends_execEngineRetry hk
  | gangStop => exact ends_execGangStop hk
  | contextSave => exact ends_execContextSave hk
  | contextRestore => exact ends_execContextRestore hk
  | undoLogDrain => exact ends_execUndoLogDrain hk
  | groupUndoDrain => exact ends_execGroupUndoDrain hk
  | saveSeal => exact ends_execSaveSeal hk
  | emergencyTimeout => exact ends_execEmergencyTimeout hk
  | escrowAck => exact ends_execEscrowAck hk
  | uncorrectableFault => exact ends_execUncorrectableFault hk
  | rollbackDone => exact ends_execRollbackDone hk
  | tileRetire => exact ends_execTileRetire hk
  | finalExchange => exact ends_execFinalExchange hk
  | completionReport => exact ends_execCompletionReport hk
  | completionCommit => exact ends_execCompletionCommit hk
  | launchComplete => exact ends_execLaunchComplete hk
  | completionAdd => exact ends_execCompletionAdd hk
  | completionAddDone => exact ends_execCompletionAddDone hk
  | rampTick => exact ends_execRampTick hk
  | telemetryTick => exact ends_execTelemetryTick hk
  | overtempWarning => exact ends_execOvertempWarning hk
  | thermalShutdown => exact ends_execThermalShutdown hk
  | coldReset => exact ends_execColdReset hk
  | warmReset => exact ends_execWarmReset hk
  | repairLearned => exact ends_execRepairLearned hk
  | repairCommit => exact ends_execRepairCommit hk
  | boot => exact ends_execBoot hk
  | spdmRequest => exact ends_execSpdmRequest hk
  | cxlMemAccess => exact ends_execCxlMemAccess hk
  | managementWrite => exact ends_execManagementWrite hk
  | mgLinkctl => exact ends_execMgLinkctl hk
  | mgBbctl => exact ends_execMgBbctl hk
  | mgPod => exact ends_execMgPod hk
  | unassignedWord => exact ends_execUnassignedWord hk
  | trainingPatternArrival => exact ends_execTrainingPatternArrival hk
  | switchFailure => exact ends_execSwitchFailure hk
  | translationInvalidation => exact ends_execTranslationInvalidation hk
  | scSeta | scSetb | scLoop => exact ends_faultIf hk (ends_stepP hk)
  | scMove | scMoveq => exact ends_move hk
  | scNext => exact ends_faultIf hk (.ite (.next (keeps_updP hk)) (ends_stepP hk))
  | scWaitp => exact ends_execScWaitp hk
  | scArrive => exact ends_execScArrive hk
  | scBarr => exact ends_execScBarr hk
  | scJump => exact ends_execScJump hk
  | scEnd => exact ends_execScEnd hk
  | nop => exact ends_execNop hk
  | halt => exact ends_execHalt hk
  | trap => exact ends_execTrap hk
  | eret => exact ends_execEret hk
  | mfsr => exact ends_execMfsr hk
  | mtsr => exact ends_execMtsr hk
  | swait => exact ends_execSwait hk
  | wsave => exact ends_execWsave hk
  | wrest => exact ends_execWrest hk
  | mbxrd => exact ends_execMbxrd hk
  | mbxpost => exact ends_execMbxpost hk
  | xresume => exact ends_execXresume hk
  | gstop => exact ends_execGstop hk
  | gstopRelease => exact ends_execGstopRelease hk
  | unpark => exact ends_execUnpark hk
  | idle => exact ends_execIdle hk
  | add | sub | addw | subw | and | or | xor | andn | sll | srl | sra | mul | mulw | mulh | mulhu | div | divu | rem | remu | min | max | minu
  | maxu | seq | slt | sltu | bfx | bfxu => exact ends_alu2 hk
  | clz | ctz | popc | sextb | sexth | sextw | zextb | zexth | zextw | addi | andi | ori | xori | slti | sltiu | slli | srli | srai | ldih
    => exact ends_alu1 hk
  | ldi => exact ends_execLdi hk
  | bfi => exact ends_execBfi hk
  | csel | cseln => exact ends_select hk
  | beq | bne | blt | bge | bltu | bgeu => exact ends_branch hk
  | jmp => exact ends_execJmp hk
  | call => exact ends_execCall hk
  | jr => exact ends_execJr hk
  | callr => exact ends_execCallr hk
  | ret => exact ends_execRet hk
  | lnset | lnco | lnbase | lnidx => exact ends_nestWrite hk
  | loop => exact ends_execLoop hk
  | ldtB | ldtBu | ldtH | ldtHu | ldtW | ldtWu | ldtD => exact ends_loadOff hk
  | ldtBAreg | ldtBuAreg | ldtHAreg | ldtHuAreg | ldtWAreg | ldtWuAreg | ldtDAreg => exact ends_loadAreg hk
  | sttB | sttH | sttW | sttD => exact ends_storeOff hk
  | sttBAreg | sttHAreg | sttWAreg | sttDAreg => exact ends_storeAreg hk
  | amtAdd | amtSwap | amtMin | amtMax | amtAnd | amtOr | amtXor => exact ends_atomic hk
  | amtCas => exact ends_execAmtCas hk
  | vldt | vldts | vgath => exact ends_vload hk
  | vstt | vstts | vscat => exact ends_vstore hk
  | copyb => exact ends_execCopyb hk
  | fillb => exact ends_execFillb hk
  | vaddF | vsubF | vmulF | vminF | vmaxF | vdivF | vaddI | vsubI | vmulI | vmulhI | vmulhuI | vminI | vmaxI | vminuI | vmaxuI | vaddsI | vsubsI
  | vand | vor | vxor | vandn | vshlV | vshrV | vsraV | vmov16 => exact ends_vbin hk
  | vfmaF | vfmsF | vfnmaF | vfmac16 => exact ends_vtri hk
  | vabsF | vnegF | vrcpF | vrsqF | vsqrtF | vexp2F | vlog2F | vabsI | vnot | vshli | vshri | vsrai | vpopc | vclz | vclass | vcvtFI | vcvtIF
    => exact ends_vun hk
  | vcmpFEq | vcmpFNe | vcmpFLt | vcmpFLe | vcmpFUn | vcmpIEq | vcmpINe | vcmpILt | vcmpILe | vcmpILtu | vcmpILeu => exact ends_vcmp hk
  | vsel => exact ends_execVsel hk
  | vcvtBfF | vcvtHF => exact ends_narrow hk
  | vcvtFBf | vcvtFH => exact ends_widen hk
  | vquant => exact ends_execVquant hk
  | vdeq => exact ends_execVdeq hk
  | vpackI8 => exact ends_execVpackI8 hk
  | vunpkI8 => exact ends_execVunpkI8 hk
  | vredaddF | vredaddI | vredmaxF | vredminF | vredmaxI | vamax => exact ends_vred hk
  | vscanI | vscanF => exact ends_vscan hk
  | vperm => exact ends_execVperm hk
  | vbcast => exact ends_execVbcast hk
  | vextr => exact ends_execVextr hk
  | vins => exact ends_execVins hk
  | vcompr => exact ends_execVcompr hk
  | vexpnd => exact ends_execVexpnd hk
  | vrot => exact ends_execVrot hk
  | viota => exact ends_execViota hk
  | mand | mor | mxor => exact ends_mbin hk
  | mnot | mpop | mfirst | mget => exact ends_mun hk
  | mset => exact ends_execMset hk
  | vaddF16 | vsubF16 | vmulF16 | vmaxF16 | vminF16 | vaddI16 | vsubI16 | vmulI16 | vand16 | vor16 | vxor16 | vshlV16 | vshrV16 | vsraV16
    => exact ends_vbin16 hk
  | mmaBf | mmaH | mmaD8 | mmaI8 => exact ends_mma hk
  | mzero | mwr | msta => exact ends_guarded hk ends_enqueue
  | mrd => exact ends_execMrd hk
  | mwm => exact ends_execMwm hk
  | mwait => exact ends_execMwait hk
  | mscale => exact ends_execMscale hk
  | mmask => exact ends_execMmask hk
  | getg | gets | getm | geth | getr | gett => exact ends_get hk
  | depg | deps | depm | deph | depr | dept | depa => exact ends_deposit hk
  | depbG | depbS | depbM | depbH | depbR | depbT => exact ends_bulkDeposit hk
  | amogAdd | amomAdd | amorAdd | amogMin | amomMin | amorMin | amogMax | amomMax | amorMax | amogSwap | amomSwap | amorSwap | amogCas | amomCas
  | amorCas => exact ends_levelAtomic hk
  | bseal => exact ends_execBseal hk
  | bwait => exact ends_execBwait hk
  | xfence => exact ends_execXfence hk
  | sestart => exact ends_execSestart hk
  | sestop => exact ends_execSestop hk
  | sepoll => exact ends_execSepoll hk
  | wdef => exact ends_execWdef hk
  | waita => exact ends_execWaita hk
  | rela => exact ends_execRela hk
  | sync => exact ends_execSync hk
  | abort => exact ends_execAbort hk
  | aclr => exact ends_execAclr hk
  | bara => exact ends_execBara hk
  | barw => exact ends_execBarw hk
  | tsync => exact ends_execTsync hk
  | kmint => exact ends_execKmint hk
  | krev => exact ends_execKrev hk
  | cset => exact ends_execCset hk
  | cfree => exact ends_execCfree hk
  | cfire => exact ends_execCfire hk
  | mlred => exact ends_execMlred hk
  | mcast => exact ends_execMcast hk
  -- SEAL alone is left: its constructor's name is a keyword of Lean
  | _ => exact ends_execSeal hk

/-! ### Machine/Issue.lean -/

theorem ends_unassigned {w : BitVec 32} (hk : Keeps old s) : Ends old (unassigned w s) := ends_execUnassignedWord hk

theorem ends_runDecoded {r : Except DecodeError Instr} {w : BitVec 32} (hk : Keeps old s) : Ends old (runDecoded r w s) := by
  unfold runDecoded
  split
  · exact .ite (ends_exec hk) (ends_unassigned hk)
  · exact ends_unassigned hk

theorem ends_issueWord {w : BitVec 32} (hk : Keeps old s) : Ends old (issueWord w s) := .ite (ends_runDecoded hk) (ends_exec hk)

/-! ### Machine/Cycle.lean -/

theorem ends_fetchNext {o : Out} (ho : Ends old o) : Ends old (fetchNext k t o) := by
  obtain ⟨u, rfl, hk⟩ := ho
  exact .next (keeps_requestNext hk)

theorem ends_performTick (hk : Keeps old s) : Ends old (s.performTick k t) := by
  have htick : Ends old (exec (.tickTaken k t) s) := ends_exec hk
  unfold State.performTick
  refine .ite htick ?_
  obtain ⟨u, hu, hku⟩ := ends_issueWord (w := s.textWord k t s.thr.q0) hk
  rw [hu]
  exact .ite (.next hku) htick

theorem ends_perform {a : Act} (hk : Keeps old s) : Ends old (s.perform k a) := by
  unfold State.perform
  refine ends_fetchNext ?_
  split
  · exact ends_performTick (keeps_turn hk)
  · exact .next (keeps_retire (keeps_turn hk))
  · exact ends_issueWord (keeps_turn hk)

theorem ends_runCommand (hk : Keeps old s) : Ends old (s.runCommand key) := by
  unfold State.runCommand
  dsimp only
  split
  · exact .next (keeps_progFault (.lit hk))
  · split
    · exact ends_exec (.lit hk)
    · exact .next (keeps_progFault (.lit hk))

theorem ends_afterEvents (hk : Keeps old s) : Ends old s.afterEvents := by
  unfold State.afterEvents
  split
  · exact ends_runCommand hk
  · split
    · exact ends_perform hk
    · exact .next (.lit (keeps_endCycle hk))

end Model

/-! ### A step -/

section Step

variable {old : List Host.Cell} {s : State}

theorem step_unpowered (hp : s.powered = false) : step s = .fault .poweredOff := by simp [step, hp]

theorem ends_step (hp : s.powered = true) (hk : Keeps old s) : Ends old (step s) := by
  rw [step, if_pos hp]
  split
  · exact ends_afterEvents hk
  · exact .ite (ends_exec (.lit hk)) (ends_afterEvents hk)

end Step

/-- Settles O34: every function of the model changes memory by writes of bytes and by dropping listed bytes alone, and both keep the form. -/
theorem stepKeepsMemoryCanonical : Obligations.StepKeepsMemoryCanonical := by
  unfold Obligations.StepKeepsMemoryCanonical
  intro s t hwf hstep
  cases hp : s.powered with
  | false =>
    rw [step_unpowered hp] at hstep
    cases hstep
  | true =>
    obtain ⟨u, hu, hk⟩ := ends_step hp (Keeps.self s)
    rw [hu] at hstep
    cases hstep
    exact hk hwf

end Sys2Proof.Proofs.Memory

namespace Sys2Proof.Proofs.Steps

open Sys2Proof.Machine Sys2Proof.Laws Sys2Proof.Claims Sys2Proof.Proofs.Memory

/-! ## Every instruction and every step answers a next state -/

theorem exec_answers (i : Instr) (s : State) : ∃ t, exec i s = .next t := by
  obtain ⟨t, ht, _⟩ := ends_exec (i := i) (Keeps.self s)
  exact ⟨t, ht⟩

theorem step_answers {s : State} (hp : s.powered = true) : ∃ t, step s = .next t := by
  obtain ⟨t, ht, _⟩ := ends_step hp (Keeps.self s)
  exact ⟨t, ht⟩

/-! ## What a step does -/

section Step

variable {s : State}

theorem step_of_dueEvent {c : Nat} {e : Instr} {r : List (Nat × Instr)} (hp : s.powered = true) (hev : s.events = (c, e) :: r)
    (hc : c ≤ s.cyc) : step s = exec e { s with events := r } := by
  rw [step, if_pos hp, hev]
  exact if_pos hc

theorem step_of_noEvent (h : NoEvent s) : step s = s.afterEvents := by
  obtain ⟨hp, hlater⟩ := h
  rw [step, if_pos hp]
  split
  · rfl
  · next c e r hev =>
    have hc : s.cyc < c := hlater (c, e) (hev ▸ List.mem_cons_self)
    exact if_neg (by omega)

theorem runCommand_of_decode {key : Nat} {w : Word} {i : Instr} (hw : s.command key = some w) (hi : decodeCommand w = .ok i) :
    s.runCommand key = exec i { s with curProg := key } := by
  have hw' : State.command { s with curProg := key } key = some w := hw
  simp only [State.runCommand, hw', hi]

theorem step_of_dueProg (h : NoEvent s) {key : Nat} (hd : s.dueProg = some key) : step s = s.runCommand key := by
  rw [step_of_noEvent h, State.afterEvents, hd]

theorem step_of_nextAct (h : NoEvent s) (hd : s.dueProg = none) {k : Nat} {a : Act} (ha : s.nextAct = some (k, a)) :
    step s = s.perform k a := by
  rw [step_of_noEvent h, State.afterEvents, hd, ha]

theorem step_of_cycleEnd (h : NoEvent s) (hd : s.dueProg = none) (ha : s.nextAct = none) :
    step s = .next { s.endCycle with cyc := s.cyc + 1, cursor := 0 } := by
  rw [step_of_noEvent h, State.afterEvents, hd, ha]

end Step

/-! ## A word that decodes is its instruction -/

theorem issueWord_of_decode {w : BitVec 32} {i : Instr} {n : BitVec 3} (h : decode (codeOf w) = .ok (i, n)) (s : State) :
    issueWord w s = exec i s := by
  unfold codeOf at h
  unfold issueWord
  split at h
  · next hbit =>
    rw [if_pos hbit]
    simp only [decode, decode32] at h
    split at h
    · cases h
    · split at h
      · cases h
      · next j hj =>
        split at h
        · next hwf =>
          cases h
          rw [hj]
          exact if_pos hwf
        · cases h
  · next hbit =>
    rw [if_neg hbit]
    cases h
    rfl

/-! ## Insertion and sorting keep the members -/

theorem mem_insertBy {α : Type} {key : α → Nat} {x y : α} {l : List α} : y ∈ insertBy key x l ↔ y = x ∨ y ∈ l := by
  induction l with
  | nil => simp [insertBy]
  | cons z r ih =>
    unfold insertBy
    split
    · exact List.mem_cons
    · rw [List.mem_cons, ih, List.mem_cons]
      exact or_left_comm

theorem mem_foldl_insertBy {α : Type} {key : α → Nat} {y : α} {l acc : List α} :
    y ∈ l.foldl (fun acc x => insertBy key x acc) acc ↔ y ∈ l ∨ y ∈ acc := by
  induction l generalizing acc with
  | nil => simp
  | cons x r ih => rw [List.foldl_cons, ih, mem_insertBy, List.mem_cons, or_left_comm, or_assoc]

theorem mem_sortBy {α : Type} {key : α → Nat} {y : α} {l : List α} : y ∈ sortBy key l ↔ y ∈ l := by
  simp [sortBy, mem_foldl_insertBy]

/-! ## The lines that a thread asks for after its turn (R91) -/

section Lines

variable {u v w : State} {k t : Nat}

theorem linesAsked_refl (u : State) (k t : Nat) : LinesAsked u u k t := ⟨rfl, fun _ => rfl, fun _ _ _ => rfl, rfl, fun _ h => h⟩

theorem linesAsked_trans (huv : LinesAsked u v k t) (hvw : LinesAsked v w k t) : LinesAsked u w k t := by
  obtain ⟨hs, htile, hother, hthr, hev⟩ := huv
  obtain ⟨hs', htile', hother', hthr', hev'⟩ := hvw
  refine ⟨?_, fun j => ?_, fun j i h => (hother' j i h).trans (hother j i h), ?_, fun e he => hev' e (hev e he)⟩
  · exact hs'.trans (congrArg (fun x : State => { x with tiles := w.tiles, events := w.events }) hs)
  · exact (htile' j).trans (congrArg (fun x : Tile => { x with threads := (w.tile j).threads }) (htile j))
  · exact hthr'.trans (congrArg (fun x : Thread => { x with refill := (w.thread k t).refill }) hthr)

theorem linesAsked_updThread_refill (u : State) (k t : Nat) (f : Thread → List Nat) :
    LinesAsked u (u.updThread k t (fun y => { y with refill := f y })) k t := by
  refine ⟨rfl, fun j => ?_, fun j i h => thread_updThread_other u _ h, ?_, fun _ h => h⟩
  · by_cases hj : j = k
    · subst hj
      exact (tile_updTile u j _).trans (by rw [State.updThread, tile_updTile])
    · rw [State.updThread, tile_updTile_other u _ hj]
  · rw [thread_updThread]

theorem linesAsked_schedule (u : State) (k t c : Nat) (e : Instr) : LinesAsked u (u.schedule c e) k t :=
  ⟨rfl, fun _ => rfl, fun _ _ _ => rfl, rfl, fun _ h => mem_insertBy.mpr (.inr h)⟩

theorem linesAsked_ite {c : Prop} [Decidable c] {a b : State} (ha : LinesAsked u a k t) (hb : LinesAsked u b k t) :
    LinesAsked u (if c then a else b) k t := by split <;> assumption

theorem linesAsked_foldl {α : Type} {f : State → α → State} (hf : ∀ a x, LinesAsked a (f a x) k t) (l : List α) (u : State) :
    LinesAsked u (l.foldl f u) k t := by
  induction l generalizing u with
  | nil => exact linesAsked_refl u k t
  | cons x r ih => exact linesAsked_trans (hf u x) (ih (f u x))

theorem linesAsked_requestNext (u : State) (k t : Nat) : LinesAsked u (u.requestNext k t) k t := by
  unfold State.requestNext
  refine linesAsked_ite (linesAsked_foldl (fun a x => ?_) _ u) (linesAsked_refl u k t)
  exact linesAsked_trans (linesAsked_updThread_refill a k t fun y => x.1 :: y.refill)
    (linesAsked_ite (linesAsked_schedule ..) (linesAsked_schedule ..))

theorem step_of_turn {s : State} (h : NoEvent s) (hd : s.dueProg = none) {a : Act} (ha : s.nextAct = some (k, a))
    (hu : s.perform k a = fetchNext k t (.next u)) : ∃ v, step s = .next v ∧ LinesAsked u v k t :=
  ⟨u.requestNext k t, (step_of_nextAct h hd ha).trans hu, linesAsked_requestNext u k t⟩

end Lines

/-! ## A turn in which a TICK waits (R118, R298, R300) -/

section Tick

variable {s u : State} {k t : Nat}

theorem thr_turn (s : State) (k t : Nat) : (s.turn k t).thr = s.thread k t := rfl

theorem textWord_turn (s : State) (k t : Nat) (x : BitVec 18) : (s.turn k t).textWord k t x = s.textWord k t x := rfl

theorem performTick_of_annulled (h : (s.thread k t).n0 = true) : (s.turn k t).performTick k t = exec (.tickTaken k t) (s.turn k t) := by
  rw [State.performTick, thr_turn, if_pos h]

theorem performTick_of_word (h : (s.thread k t).n0 = false)
    (hu : issueWord (s.textWord k t (s.thread k t).q0) (s.turn k t) = .next u) :
    (s.turn k t).performTick k t =
      if (s.thread k t).heldBy (u.thread k t) then .next u else exec (.tickTaken k t) (s.turn k t) := by
  rw [State.performTick, thr_turn, textWord_turn, hu, h]
  exact if_neg Bool.false_ne_true

theorem heldBy_iff {x y : Thread} : x.heldBy y = true ↔ y.lastIssue = x.lastIssue ∧ y.nested = x.nested := by
  simp [Thread.heldBy]

theorem step_of_tick (h : NoEvent s) (hd : s.dueProg = none) (ha : s.nextAct = some (k, .tick t))
    (hu : (s.turn k t).performTick k t = .next u) : ∃ v, step s = .next v ∧ LinesAsked u v k t :=
  step_of_turn h hd ha (congrArg (fetchNext k t) hu)

end Tick

/-! ## The end of a cycle (R273, R302, R306) -/

theorem foldl_fixed {α β : Type} {f : β → α → β} {b : β} {l : List α} (h : ∀ x ∈ l, f b x = b) : l.foldl f b = b := by
  induction l with
  | nil => rfl
  | cons x r ih => rw [List.foldl_cons, h x List.mem_cons_self, ih fun y hy => h y (List.mem_cons_of_mem _ hy)]

theorem mem_proctorThreads_odd {d : Nat} {e : Nat × Nat} (he : e ∈ proctorThreads d) (hodd : e.1 % 2 = 1) :
    e.1 = 262145 + 2 * d ∧ e.2 < 8 := by
  simp only [proctorThreads, List.flatMap_cons, List.flatMap_nil, List.append_nil, List.mem_append, List.mem_map, List.mem_range] at he
  obtain ⟨i, hi, rfl⟩ | ⟨i, hi, rfl⟩ := he
  · simp only at hodd; omega
  · exact ⟨rfl, hi⟩

section CycleEnd

variable {s : State}

theorem serveMailbox_of_none {d : Nat} (h : (s.die d).mailbox = [] ∨ ∀ i b e, i < 8 → (s.thread (262145 + 2 * d) i).wait ≠ .mailbox b e) :
    s.serveMailbox d 1 = s := by
  refine foldl_fixed fun e he => ?_
  obtain ⟨hmem, hodd⟩ := List.mem_filter.mp (mem_sortBy.mp he)
  obtain ⟨htile, hthread⟩ := mem_proctorThreads_odd hmem (by simpa using hodd)
  split
  · next addr rd hwait =>
    rcases h with hempty | hnone
    · exact if_pos (by rw [hempty]; rfl)
    · exact absurd (htile ▸ hwait) (hnone e.2 addr rd hthread)
  · rfl

theorem flush_of_none (h : ∀ e ∈ s.outbox, s.cyc < e.due) : s.flush = s := by
  unfold State.flush
  refine if_neg ?_
  simpa using h

theorem endCycle_of_none (hmail : ∀ d, (s.die d).mailbox = [] ∨ ∀ i b e, i < 8 → (s.thread (262145 + 2 * d) i).wait ≠ .mailbox b e)
    (hout : ∀ e ∈ s.outbox, s.cyc < e.due) : s.endCycle = s := by
  unfold State.endCycle
  rw [foldl_fixed fun e _ => ?_]
  · exact flush_of_none hout
  · rw [serveMailbox_of_none (hmail e.1), ite_self]

end CycleEnd

/-- Settles O31, clause by clause: `step` by its cases, and the last clauses by what `State.performTick` and `State.endCycle` do. -/
theorem everyStepDoesOneThing : Obligations.EveryStepDoesOneThing := by
  unfold Obligations.EveryStepDoesOneThing
  intro s
  refine ⟨fun i => exec_answers i s, step_answers, fun hp c e r hev hc => step_of_dueEvent hp hev hc, fun h key w i hd hw hi => ?_,
    fun h hd k t ha => ⟨fun hn0 u hu => ?_, fun i n u hn0 hdec hu => ⟨fun hissue w hw => ?_, fun hissue hnested => ?_⟩⟩,
    fun h hd ha => ⟨s.endCycle, step_of_cycleEnd h hd ha, rfl, endCycle_of_none⟩, step_unpowered⟩
  · rw [step_of_dueProg h hd, runCommand_of_decode hw hi]
  · exact step_of_tick h hd ha ((performTick_of_annulled hn0).trans hu)
  · have hturn := performTick_of_word hn0 ((issueWord_of_decode hdec _).trans hu)
    rw [if_neg fun hheld => hissue (heldBy_iff.mp hheld).1] at hturn
    exact step_of_tick h hd ha (hturn.trans hw)
  · have hturn := performTick_of_word hn0 ((issueWord_of_decode hdec _).trans hu)
    rw [if_pos (heldBy_iff.mpr ⟨hissue, hnested⟩)] at hturn
    exact step_of_tick h hd ha hturn

end Sys2Proof.Proofs.Steps

namespace Sys2Proof.Proofs.IssuedWord

open Sys2Proof.Machine Sys2Proof.Claims Sys2Proof.Proofs.Steps

/-! ## What a turn to issue says of its thread (R7, R11, R12, R96) -/

section Turn

variable {s : State} {k t : Nat} {w : BitVec 32}

theorem tileAct_of_nextAct {a : Act} (h : s.nextAct = some (k, a)) : s.tileAct k = some a := by
  unfold State.nextAct at h
  split at h
  · cases h
  · obtain ⟨e, _, he⟩ := List.exists_of_findSome?_eq_some h
    split at he
    · cases he
    · obtain ⟨b, hb, hpair⟩ := Option.map_eq_some_iff.mp he
      cases hpair
      exact hb

/-- The slot's owner or the filler acts, and neither acts unless it may issue. -/
theorem ready_of_tileAct {a : Act} (h : s.tileAct k = some a) : ∃ i, s.ready k i = some a := by
  unfold State.tileAct at h
  dsimp only at h
  split at h
  · next hprim =>
    cases h
    exact ⟨_, (Option.ite_none_right_eq_some.mp hprim).2⟩
  · split at h
    · exact ⟨8, (Option.ite_none_right_eq_some.mp h).2⟩
    · cases h

/-- A thread that is to issue a word issues the text at its Q0, and nothing keeps it from issuing. -/
theorem ready_issue {i : Nat} (h : s.ready k i = some (.issue t w)) :
    i = t ∧ w = s.textWord k t (s.thread k t).q0 ∧ (s.thread k t).live = true ∧ (s.thread k t).halted = false ∧ (s.thread k t).wait = .none := by
  obtain ⟨hmay, hact⟩ := Option.ite_none_right_eq_some.mp h
  simp only [Bool.and_eq_true, Bool.not_eq_true', beq_iff_eq] at hmay
  obtain ⟨⟨⟨⟨⟨⟨hlive, hhalted⟩, _⟩, _⟩, hwait⟩, _⟩, _⟩ := hmay
  obtain ⟨_, hact⟩ := Option.ite_none_right_eq_some.mp hact
  split at hact
  · cases hact
  · split at hact
    · cases hact
    · cases hact
      exact ⟨rfl, rfl, hlive, hhalted, hwait⟩

theorem nextAct_issue (h : s.nextAct = some (k, .issue t w)) :
    w = s.textWord k t (s.thread k t).q0 ∧ (s.thread k t).live = true ∧ (s.thread k t).halted = false ∧ (s.thread k t).wait = .none := by
  obtain ⟨_, hready⟩ := ready_of_tileAct (tileAct_of_nextAct h)
  exact (ready_issue hready).2

theorem step_of_issue {u : State} (h : NoEvent s) (hd : s.dueProg = none) (ha : s.nextAct = some (k, .issue t w))
    (hu : issueWord w (s.turn k t) = .next u) : ∃ v, step s = .next v ∧ LinesAsked u v k t :=
  step_of_turn h hd ha (congrArg (fetchNext k t) hu)

end Turn

/-! ## A word that does not decode is issued as the unassigned word (R88) -/

theorem lowBit_beq_zero_of_bit {w : BitVec 32} (hbit : w.getLsbD 0 = true) : (w.extractLsb' 0 1 == 0#1) = false := by
  rw [beq_eq_false_iff_ne]
  intro hzero
  have hlow : (w.extractLsb' 0 1).getLsbD 0 = false := by rw [hzero]; rfl
  rw [BitVec.getLsbD_extractLsb', hbit] at hlow
  cases hlow

theorem runDecoded_of_decode32_error {w : BitVec 32} {e : DecodeError} (hbit : w.getLsbD 0 = true) (h : decode32 w = .error e) (s : State) :
    runDecoded (decodeOperands w) w s = unassigned w s := by
  rw [decode32, lowBit_beq_zero_of_bit hbit, if_neg Bool.false_ne_true] at h
  cases hops : decodeOperands w with
  | error _ => rfl
  | ok i =>
    refine if_neg fun hwf => ?_
    simp [hops, hwf] at h

theorem issueWord_of_decode_error {w : BitVec 32} {e : DecodeError} (h : decode (codeOf w) = .error e) (s : State) :
    issueWord w s = exec (.unassignedWord w) s := by
  unfold codeOf at h
  unfold issueWord
  split at h
  · next hbit =>
    rw [if_pos hbit]
    exact runDecoded_of_decode32_error hbit h s
  · cases h

/-- Settles O30: the turn to issue names the text at Q0, and `issueWord` runs what that word decodes to, or the unassigned word. -/
theorem stepRunsTheIssuedWord : Obligations.StepRunsTheIssuedWord := by
  unfold Obligations.StepRunsTheIssuedWord
  refine ⟨fun w s => exec_answers (.unassignedWord w) s, fun s k t w h hd ha => ?_⟩
  obtain ⟨hword, hlive, hhalted, hwait⟩ := nextAct_issue ha
  exact ⟨hword, hlive, hhalted, hwait,
    fun i n u hdec hu => step_of_issue h hd ha ((issueWord_of_decode hdec _).trans hu),
    fun e u hdec hu => step_of_issue h hd ha ((issueWord_of_decode_error hdec _).trans hu)⟩

end Sys2Proof.Proofs.IssuedWord

namespace Sys2Proof.Proofs.NumberFormats

open Sys2Proof.Machine

/-! ## FP32, FP16 and BF16 (R28 to R31)

Nothing below is about one of the three layouts: a layout with any numbers of exponent and fraction bits keeps its codes. A value of a
layout is a multiple of a place that the layout has at the value's size, so that rounding cuts nothing off and the mode has no say. -/

section Ieee

variable {l : Layout} {md : RMode} {neg : Bool} {m f x : Nat} {e : Int}

theorem roundAt_same_exponent : roundAt md neg m e e = m := by
  rw [roundAt, if_pos (Int.le_refl e), Int.sub_self, Int.toNat_zero, Nat.shiftLeft_zero]

theorem round_inf : l.round md (.inf neg) = l.sign neg + l.infCode := rfl

theorem round_fin : l.round md (.fin neg m e) = l.sign neg + l.roundMag md neg m e := rfl

theorem roundMag_zero : l.roundMag md neg 0 e = 0 := rfl

/-- R30: a value whose last place the layout keeps is not rounded. -/
theorem roundMag_of_last_place (hm : m ≠ 0) (hplace : max (e + (Nat.log2 m : Int) - l.fb) l.emin = e)
    (hfits : (e - l.emin).toNat * 2 ^ l.fb + m < l.infCode) : l.roundMag md neg m e = (e - l.emin).toNat * 2 ^ l.fb + m := by
  simp only [Layout.roundMag, if_neg hm, hplace, roundAt_same_exponent, if_pos hfits]

theorem lt_infCode (hx : x + 1 < 2 ^ l.eb) (hf : f < 2 ^ l.fb) : x * 2 ^ l.fb + f < l.infCode :=
  calc x * 2 ^ l.fb + f
    _ < (x + 1) * 2 ^ l.fb := by rw [Nat.succ_mul]; omega
    _ ≤ l.infCode := Nat.mul_le_mul_right _ (by omega)

theorem roundMag_subnormal (heb : 1 < 2 ^ l.eb) (hf : f < 2 ^ l.fb) : l.roundMag md neg f l.emin = f := by
  by_cases hf0 : f = 0
  · rw [hf0, roundMag_zero]
  · have hlog : Nat.log2 f < l.fb := (Nat.log2_lt hf0).mpr hf
    have hcode : (l.emin - l.emin).toNat * 2 ^ l.fb + f = f := by
      rw [Int.sub_self, Int.toNat_zero, Nat.zero_mul, Nat.zero_add]
    have hfits : f < l.infCode := by
      have h0 := lt_infCode (x := 0) heb hf
      rwa [Nat.zero_mul, Nat.zero_add] at h0
    rw [roundMag_of_last_place hf0 (by omega) (by rwa [hcode]), hcode]

theorem log2_normal (hf : f < 2 ^ l.fb) : Nat.log2 (2 ^ l.fb + f) = l.fb :=
  (Nat.log2_eq_iff (by have := Nat.two_pow_pos l.fb; omega)).mpr ⟨Nat.le_add_right _ _, by rw [Nat.pow_succ]; omega⟩

theorem roundMag_normal (hx : x + 2 < 2 ^ l.eb) (hf : f < 2 ^ l.fb) :
    l.roundMag md neg (2 ^ l.fb + f) (l.emin + x) = (x + 1) * 2 ^ l.fb + f := by
  have hcode : (l.emin + x - l.emin).toNat * 2 ^ l.fb + (2 ^ l.fb + f) = (x + 1) * 2 ^ l.fb + f := by
    rw [show (l.emin + x - l.emin).toNat = x by omega, Nat.succ_mul, Nat.add_assoc]
  have hm : 2 ^ l.fb + f ≠ 0 := by have := Nat.two_pow_pos l.fb; omega
  rw [roundMag_of_last_place hm (by rw [log2_normal hf]; omega) (by rw [hcode]; exact lt_infCode hx hf), hcode]

end Ieee

section Decode

variable (l : Layout) (c : Nat)

/-- The sign bit of a code (R28). -/
def signOf : Bool := c / 2 ^ (l.eb + l.fb) % 2 == 1

/-- The exponent field of a code (R28). -/
def exponentOf : Nat := c / 2 ^ l.fb % 2 ^ l.eb

/-- The fraction field of a code (R28). -/
def fractionOf : Nat := c % 2 ^ l.fb

theorem exponentOf_lt : exponentOf l c < 2 ^ l.eb := Nat.mod_lt _ (Nat.two_pow_pos _)

theorem fractionOf_lt : fractionOf l c < 2 ^ l.fb := Nat.mod_lt _ (Nat.two_pow_pos _)

variable {l c}

/-- A code is made of its fields. -/
theorem sign_add_fields (hc : c < 2 ^ (1 + l.eb + l.fb)) : l.sign (signOf l c) + (exponentOf l c * 2 ^ l.fb + fractionOf l c) = c := by
  have hsign : c / 2 ^ (l.eb + l.fb) < 2 := Nat.div_lt_of_lt_mul (by rwa [← Nat.pow_succ, Nat.succ_eq_one_add, ← Nat.add_assoc])
  have htop : l.sign (signOf l c) = c / 2 ^ (l.eb + l.fb) * 2 ^ (l.eb + l.fb) := by
    obtain h | h := Nat.le_one_iff_eq_zero_or_eq_one.mp (Nat.le_of_lt_succ hsign)
    · simp only [Layout.sign, signOf, h, Nat.zero_mul, Nat.zero_mod, Nat.reduceBEq, Bool.false_eq_true, if_false]
    · simp only [Layout.sign, signOf, h, Nat.one_mul, Nat.reduceMod, Nat.reduceBEq, if_true]
  have hquot : c / 2 ^ l.fb / 2 ^ l.eb = c / 2 ^ (l.eb + l.fb) := by rw [Nat.div_div_eq_div_mul, ← Nat.pow_add, Nat.add_comm]
  calc l.sign (signOf l c) + (exponentOf l c * 2 ^ l.fb + fractionOf l c)
    _ = (2 ^ l.eb * (c / 2 ^ l.fb / 2 ^ l.eb) + c / 2 ^ l.fb % 2 ^ l.eb) * 2 ^ l.fb + c % 2 ^ l.fb := by
      rw [htop, hquot, exponentOf, fractionOf, Nat.add_mul, Nat.mul_comm (2 ^ l.eb), Nat.mul_assoc, ← Nat.pow_add, Nat.add_assoc]
    _ = c := by rw [Nat.div_add_mod, Nat.div_add_mod']

theorem decode_special (h : exponentOf l c = 2 ^ l.eb - 1) : l.decode c = if fractionOf l c = 0 then .inf (signOf l c) else .nan := if_pos h

theorem decode_subnormal (h1 : exponentOf l c ≠ 2 ^ l.eb - 1) (h0 : exponentOf l c = 0) :
    l.decode c = .fin (signOf l c) (fractionOf l c) l.emin := (if_neg h1).trans (if_pos h0)

theorem decode_normal (h1 : exponentOf l c ≠ 2 ^ l.eb - 1) (h0 : exponentOf l c ≠ 0) :
    l.decode c = .fin (signOf l c) (2 ^ l.fb + fractionOf l c) (l.emin + exponentOf l c - 1) := (if_neg h1).trans (if_neg h0)

theorem round_decode_nan (md : RMode) (h1 : exponentOf l c = 2 ^ l.eb - 1) (hf : fractionOf l c ≠ 0) : l.round md (l.decode c) = l.nanCode := by
  rw [decode_special h1, if_neg hf]
  rfl

/-- R28 to R31: decoding a code that is not NaN and rounding its value gives the code, under every mode. -/
theorem round_decode (md : RMode) (hc : c < 2 ^ (1 + l.eb + l.fb)) (hnum : ¬(exponentOf l c = 2 ^ l.eb - 1 ∧ fractionOf l c ≠ 0)) :
    l.round md (l.decode c) = c := by
  have hxlt := exponentOf_lt l c
  have hflt := fractionOf_lt l c
  refine Eq.trans ?_ (sign_add_fields hc)
  by_cases h1 : exponentOf l c = 2 ^ l.eb - 1
  · have hf : fractionOf l c = 0 := Classical.byContradiction fun hf => hnum ⟨h1, hf⟩
    rw [decode_special h1, if_pos hf, round_inf, h1, hf]
    rfl
  · by_cases h0 : exponentOf l c = 0
    · rw [decode_subnormal h1 h0, round_fin, roundMag_subnormal (by omega) hflt, h0, Nat.zero_mul, Nat.zero_add]
    · obtain ⟨y, hy⟩ := Nat.exists_eq_succ_of_ne_zero h0
      have hexp : l.emin + (exponentOf l c : Int) - 1 = l.emin + y := by omega
      rw [decode_normal h1 h0, round_fin, hexp, roundMag_normal (by omega) hflt, hy]

end Decode

/-! ## D8 (R32, R33)

The values of the 128 magnitude codes differ, so that for the value of a code the nearest code, at distance 0, is the code itself. -/

section D8

variable {x s a b c : Nat} {best : Nat × Nat}

def distance (a b : Nat) : Nat := if a ≤ b then b - a else a - b

theorem distance_self : distance a a = 0 := (if_pos Nat.le.refl).trans (Nat.sub_self a)

theorem distance_zero_right : distance a 0 = a := by
  unfold distance
  split
  · next h => omega
  · exact Nat.sub_zero a

theorem eq_of_distance_eq_zero (h : distance a b = 0) : a = b := by
  unfold distance at h
  split at h
  · omega
  · omega

/-- One step of `d8Nearest`'s search: the nearer of the best code so far and the code `c`. -/
def nearer (x s : Nat) (best : Nat × Nat) (c : Nat) : Nat × Nat :=
  if distance x (d8Units c * s) < best.2 ∨ (distance x (d8Units c * s) = best.2 ∧ c % 2 = 0) then (c, distance x (d8Units c * s)) else best

theorem d8Nearest_eq_foldl : d8Nearest x s = ((List.range 128).foldl (nearer x s) (0, x)).1 := rfl

/-- A magnitude code and its distance from x / s, in units of 1 / s. -/
def IsCandidate (x s : Nat) (best : Nat × Nat) : Prop := best.1 < 128 ∧ best.2 = distance x (d8Units best.1 * s)

theorem isCandidate_zero : IsCandidate x s (0, x) := by
  have hunits : d8Units 0 = 0 := rfl
  exact ⟨Nat.zero_lt_succ 127, by rw [hunits, Nat.zero_mul, distance_zero_right]⟩

theorem isCandidate_nearer (h : IsCandidate x s best) (hc : c < 128) : IsCandidate x s (nearer x s best c) := by
  unfold nearer
  split
  · exact ⟨hc, rfl⟩
  · exact h

theorem nearer_le_best : (nearer x s best c).2 ≤ best.2 := by
  unfold nearer
  split
  · next h => exact h.elim Nat.le_of_lt fun htie => Nat.le_of_eq htie.1
  · exact Nat.le.refl

theorem nearer_le_distance : (nearer x s best c).2 ≤ distance x (d8Units c * s) := by
  unfold nearer
  split
  · exact Nat.le.refl
  · next h => exact Nat.le_of_not_lt fun hlt => h (.inl hlt)

theorem isCandidate_foldl {cs : List Nat} (h : IsCandidate x s best) (hcs : ∀ c ∈ cs, c < 128) : IsCandidate x s (cs.foldl (nearer x s) best) :=
  List.foldlRecOn cs _ h fun _ hb c hc => isCandidate_nearer hb (hcs c hc)

theorem foldl_nearer_le_best (cs : List Nat) (best : Nat × Nat) : (cs.foldl (nearer x s) best).2 ≤ best.2 :=
  List.foldlRecOn (motive := fun b : Nat × Nat => b.2 ≤ best.2) cs _ Nat.le.refl fun _ hb _ _ => Nat.le_trans nearer_le_best hb

theorem foldl_nearer_le_distance {cs : List Nat} (hc : c ∈ cs) : (cs.foldl (nearer x s) best).2 ≤ distance x (d8Units c * s) := by
  induction cs generalizing best with
  | nil => cases hc
  | cons d ds ih =>
    cases hc with
    | head => exact Nat.le_trans (foldl_nearer_le_best ds _) nearer_le_distance
    | tail _ hds => exact ih hds

/-- R33: no magnitude code is nearer to x / s than the one that the search finds. -/
theorem d8Nearest_nearest (x s : Nat) :
    d8Nearest x s < 128 ∧ ∀ c, c < 128 → distance x (d8Units (d8Nearest x s) * s) ≤ distance x (d8Units c * s) := by
  obtain ⟨hlt, hdist⟩ := isCandidate_foldl isCandidate_zero (x := x) (s := s) (cs := List.range 128) fun c hc => List.mem_range.mp hc
  rw [d8Nearest_eq_foldl, ← hdist]
  exact ⟨hlt, fun c hc => foldl_nearer_le_distance (List.mem_range.mpr hc)⟩

/-- R32: no two magnitude codes have one value. The values do not rise with the codes (B[z] alternates), so the 128 are compared. -/
theorem d8Units_nodup : ((List.range 128).map d8Units).Nodup := by decide +kernel

theorem d8Units_injective (ha : a < 128) (hb : b < 128) (h : d8Units a = d8Units b) : a = b := by
  have hget : ∀ i < 128, ((List.range 128).map d8Units)[i]? = some (d8Units i) := fun i hi => by
    rw [List.getElem?_map, List.getElem?_range hi, Option.map_some]
  have hlen : a < ((List.range 128).map d8Units).length := by rwa [List.length_map, List.length_range]
  exact (List.getElem?_inj hlen d8Units_nodup).mp (by rw [hget a ha, hget b hb, h])

/-- R32: code 3 has the largest value. -/
theorem d8Units_le_three : ∀ c < 128, d8Units c ≤ d8Units 3 := by decide +kernel

theorem d8Nearest_d8Units (hc : c < 128) : d8Nearest (d8Units c) 1 = c := by
  obtain ⟨hlt, hnearest⟩ := d8Nearest_nearest (d8Units c) 1
  have hzero := hnearest c hc
  rw [Nat.mul_one, Nat.mul_one, distance_self] at hzero
  exact (d8Units_injective hc hlt (eq_of_distance_eq_zero (Nat.le_zero.mp hzero))).symm

/-- R32: the places of a D8 value are multiples of 2^−11. -/
theorem d8Base_place_ge {p : Nat} (hp : p < 7) : -11 ≤ d8Base (6 - p) - ((p - min 2 p : Nat) : Int) := by
  have hall : ∀ q < 7, -11 ≤ d8Base (6 - q) - ((q - min 2 q : Nat) : Int) := by decide
  exact hall p hp

/-- R32: the value of a code but 0x80 is its sign and its magnitude code's value, a number of units of 2^−11. -/
theorem exists_fromD8_eq (c : Byte) (hc : c ≠ 0x80#8) :
    ∃ m e, fromD8 c = .fin (c.getLsbD 7) m e ∧ -11 ≤ e ∧ d8Units (c.toNat % 128) = m <<< (e + 11).toNat := by
  by_cases h0 : c.toNat % 128 = 0
  · have hzero : c = 0#8 := by bv_omega
    subst hzero
    exact ⟨0, 0, rfl, by decide, rfl⟩
  · have hlow : (BitVec.ofNat 8 (c.toNat % 128)).toNat % 128 = c.toNat % 128 := by
      rw [BitVec.toNat_ofNat]; omega
    have hlog : Nat.log2 (c.toNat % 128) < 7 := (Nat.log2_lt h0).mpr (Nat.mod_lt _ (by decide))
    have hplace := d8Base_place_ge hlog
    refine ⟨_, _, by rw [fromD8, if_neg h0], by omega, ?_⟩
    simp only [d8Units, fromD8, hlow, if_neg h0]

theorem ofNat_low_add_sign (c : Byte) : BitVec.ofNat 8 (c.toNat % 128 + if c.getLsbD 7 then 128 else 0) = c := by
  have hsign : c.getLsbD 7 = decide (c.toNat / 128 % 2 = 1) := Nat.testBit_eq_decide_div_mod_eq
  apply BitVec.eq_of_toNat_eq
  rw [hsign, BitVec.toNat_ofNat]
  by_cases h : c.toNat / 128 % 2 = 1
  · rw [if_pos (decide_eq_true h)]; omega
  · rw [if_neg (mt of_decide_eq_true h)]; omega

/-- R33: a value of magnitude code `c` is encoded as `c` with the value's sign. -/
theorem toD8_of_units {neg : Bool} {m : Nat} {e : Int} (hc : c < 128) (he : -11 ≤ e) (hm : d8Units c = m <<< (e + 11).toNat) :
    toD8 neg m e = if c = 0 then 0#8 else BitVec.ofNat 8 (c + if neg then 128 else 0) := by
  have hs : 2 ^ (-(e + 11)).toNat = 1 := by rw [Int.toNat_of_nonpos (by omega), Nat.pow_zero]
  have hle : ¬d8Units 3 * 1 < d8Units c := by have := d8Units_le_three c hc; omega
  simp only [toD8, hs, ← hm, if_neg hle, d8Nearest_d8Units hc]

theorem toD8_fromD8 (c : Byte) (hc : c ≠ 0x80#8) : ∃ n m e, fromD8 c = .fin n m e ∧ toD8 n m e = c := by
  obtain ⟨m, e, hdecode, he, hunits⟩ := exists_fromD8_eq c hc
  refine ⟨_, m, e, hdecode, (toD8_of_units (Nat.mod_lt _ (by decide)) he hunits).trans ?_⟩
  split
  · next h0 => bv_omega
  · exact ofNat_low_add_sign c

end D8

/-- Settles O24: every layout rounds the value of a code without cutting, and the D8 codes have values of their own. -/
theorem formatsKeepTheirCodes : Obligations.FormatsKeepTheirCodes := by
  unfold Obligations.FormatsKeepTheirCodes
  refine ⟨fun l _ md c hc => ?_, toD8_fromD8⟩
  split
  · next hnan => exact round_decode_nan md hnan.1 hnan.2
  · next hnum => exact round_decode md hc hnum

end Sys2Proof.Proofs.NumberFormats

namespace Sys2Proof.Proofs.Registrar

open Sys2Proof.Machine Sys2Proof.Laws Sys2Proof.Claims Sys2Proof.Observe Sys2Proof.Proofs.Steps

/-! ## Folds and numbers -/

/-- One member of a list makes a property true, and every member keeps it: it holds after the list. -/
theorem foldl_establishes {α β : Type} {Q : β → Prop} {f : β → α → β} {l : List α} {x : α} (b : β) (hx : x ∈ l) (hset : ∀ b, Q (f b x))
    (hkeep : ∀ b, ∀ y ∈ l, Q b → Q (f b y)) : Q (l.foldl f b) := by
  obtain ⟨l₁, l₂, rfl⟩ := List.append_of_mem hx
  rw [List.foldl_append, List.foldl_cons]
  exact List.foldlRecOn l₂ f (hset _) fun b hb y hy => hkeep b y (List.mem_append_right _ (List.mem_cons_of_mem _ hy)) hb

/-- What no step of a fold changes, the fold does not change. -/
theorem foldl_same {α β : Type} (π : State → β) {f : State → α → State} (h : ∀ s x, π (f s x) = π s) (l : List α) (s : State) :
    π (l.foldl f s) = π s :=
  List.foldlRecOn (motive := fun t => π t = π s) l f rfl fun t ht x _ => (h t x).trans ht

theorem natOfBytes_bytesOfNat (n x : Nat) : natOfBytes (bytesOfNat n x) = x % 256 ^ n := by
  induction n generalizing x with
  | zero => rw [Nat.pow_zero, Nat.mod_one]; rfl
  | succ n ih => rw [bytesOfNat, natOfBytes, ih, Nat.pow_succ', Nat.mod_mul, BitVec.toNat_ofNat]

theorem length_bytesOfNat (n x : Nat) : (bytesOfNat n x).length = n := by
  induction n generalizing x with
  | zero => rfl
  | succ n ih => rw [bytesOfNat, List.length_cons, ih]

theorem natOfBytes_lt (l : List Byte) : natOfBytes l < 256 ^ l.length := by
  induction l with
  | nil => exact Nat.one_pos
  | cons b r ih =>
    rw [natOfBytes, List.length_cons, Nat.pow_succ']
    have := b.isLt
    omega

/-! ## Bytes at physical addresses (R197) -/

/-- Below 2^42 every physical address has a byte of its own. -/
theorem physKey_injective {a b : Nat} (ha : a < 4398046511104) (hb : b < 4398046511104) (h : physKey a = physKey b) : a = b := by
  simp only [physKey, Space.key, Space.num] at h
  omega

theorem physPut_cons (s : State) (pa : Nat) (b : Byte) (r : List Byte) :
    s.physPut pa (b :: r) = (s.physPut pa [b]).physPut (pa + 1) r := rfl

theorem get_physPut_single (s : State) (pa k : Nat) (b : Byte) :
    Memory.get (s.physPut pa [b]).mem k = if k = physKey pa then b else Memory.get s.mem k := Memory.get_put ..

/-- A write at physical addresses changes no other key. -/
theorem get_physPut_other {k : Nat} (s : State) {pa : Nat} {bs : List Byte} (h : ∀ i < bs.length, k ≠ physKey (pa + i)) :
    Memory.get (s.physPut pa bs).mem k = Memory.get s.mem k := by
  induction bs generalizing s pa with
  | nil => rfl
  | cons b r ih =>
    have hne : k ≠ physKey pa := h 0 (Nat.succ_pos _)
    rw [physPut_cons, ih, get_physPut_single, if_neg hne]
    intro i hi
    have := h (i + 1) (Nat.succ_lt_succ hi)
    rwa [Nat.add_comm i 1, ← Nat.add_assoc] at this

theorem physByte_physPut_other (s : State) {pa a : Nat} {bs : List Byte} (hfit : pa + bs.length ≤ 4398046511104) (ha : a < 4398046511104)
    (h : a < pa ∨ pa + bs.length ≤ a) : physByte (s.physPut pa bs) a = physByte s a := by
  refine get_physPut_other s fun i hi heq => ?_
  have := physKey_injective ha (by omega) heq
  omega

theorem physByte_physPut_inside (s : State) {pa i : Nat} {bs : List Byte} (hfit : pa + bs.length ≤ 4398046511104) (hi : i < bs.length) :
    physByte (s.physPut pa bs) (pa + i) = bs[i] := by
  induction bs generalizing s pa i with
  | nil => exact absurd hi (Nat.not_lt_zero _)
  | cons b r ih =>
    have hlen : (b :: r).length = r.length + 1 := List.length_cons
    rw [physPut_cons]
    cases i with
    | zero =>
      rw [physByte_physPut_other _ (by omega) (by omega) (by omega)]
      exact (get_physPut_single ..).trans (if_pos rfl)
    | succ i =>
      have hnext := ih (s.physPut pa [b]) (pa := pa + 1) (i := i) (by omega) (by omega)
      rwa [Nat.add_assoc, Nat.add_comm 1 i] at hnext

theorem physNum_congr {s t : State} {pa n : Nat} (h : ∀ i < n, physByte t (pa + i) = physByte s (pa + i)) :
    t.physNum pa n = s.physNum pa n :=
  congrArg natOfBytes (List.map_congr_left fun i hi => h i (List.mem_range.mp hi))

theorem physNum_of_mem {s t : State} (h : t.mem = s.mem) (pa n : Nat) : t.physNum pa n = s.physNum pa n := by
  simp only [State.physNum, h]

theorem physNum_physPut_bytes (s : State) {pa n : Nat} (v : Nat) (hfit : pa + n ≤ 4398046511104) :
    (s.physPut pa (bytesOfNat n v)).physNum pa n = v % 256 ^ n := by
  rw [← natOfBytes_bytesOfNat]
  refine congrArg natOfBytes (List.ext_getElem (by simp [length_bytesOfNat]) fun i h₁ h₂ => ?_)
  rw [List.getElem_map, List.getElem_range]
  exact physByte_physPut_inside s (by rwa [length_bytesOfNat]) h₂

theorem physByte_of_mem {s t : State} (h : t.mem = s.mem) (a : Nat) : physByte t a = physByte s a := by rw [physByte, physByte, h]

theorem physKept_congr {s s' t t' : State} {but : List Nat} (hs : s'.mem = s.mem) (ht : t'.mem = t.mem) (h : PhysKept s t but) :
    PhysKept s' t' but := fun sp x hx => by
  rw [State.byte, State.byte, hs, ht]
  exact h sp x hx

theorem physKept_trans {s t u : State} {but₁ but₂ : List Nat} (h₁ : PhysKept s t but₁) (h₂ : PhysKept t u but₂) :
    PhysKept s u (but₁ ++ but₂) := fun sp x hx =>
  (h₂ sp x fun a ha => hx a (List.mem_append_right _ ha)).trans (h₁ sp x fun a ha => hx a (List.mem_append_left _ ha))

theorem physKept_physPut (s : State) (pa : Nat) (bs : List Byte) :
    PhysKept s (s.physPut pa bs) ((List.range bs.length).map fun i => pa + i) := fun _ _ hx =>
  get_physPut_other s fun i hi => hx (pa + i) (List.mem_map_of_mem (List.mem_range.mpr hi))

/-! ## What work on the queues leaves unchanged (R57 to R62) -/

/-- The registrar works on its queues: memory, package state and new events; nothing that is due is lost. -/
structure QueueWork (s t : State) : Prop where
  only : OnlyQueues s t
  events : s.events ⊆ t.events

section Work

variable {s t u : State}

theorem QueueWork.refl (s : State) : QueueWork s s := ⟨rfl, List.Subset.refl _⟩

theorem QueueWork.trans (h₁ : QueueWork s t) (h₂ : QueueWork t u) : QueueWork s u :=
  ⟨h₂.only.trans (congrArg (fun x : State => { x with mem := u.mem, pkgs := u.pkgs, events := u.events }) h₁.only),
    List.Subset.trans h₁.events h₂.events⟩

theorem QueueWork.foldl {α : Type} {f : State → α → State} (hf : ∀ s x, QueueWork s (f s x)) (l : List α) (s : State) :
    QueueWork s (l.foldl f s) :=
  List.foldlRecOn l f (.refl s) fun _ h x _ => h.trans (hf _ x)

theorem QueueWork.ite {c : Prop} [Decidable c] (ht : QueueWork s t) (hu : QueueWork s u) : QueueWork s (if c then t else u) := by
  split <;> assumption

theorem QueueWork.launches (h : QueueWork s t) : t.launches = s.launches := (congrArg State.launches h.only :)
theorem QueueWork.launch (h : QueueWork s t) (l : Nat) : t.launch l = s.launch l := congrArg (Tab.get · l) h.launches
theorem QueueWork.nextLaunch (h : QueueWork s t) : t.nextLaunch = s.nextLaunch := (congrArg State.nextLaunch h.only :)
theorem QueueWork.tiles (h : QueueWork s t) : t.tiles = s.tiles := (congrArg State.tiles h.only :)
theorem QueueWork.tile (h : QueueWork s t) (k : Nat) : t.tile k = s.tile k := congrArg (Tab.get · k) h.tiles
theorem QueueWork.xfers (h : QueueWork s t) : t.xfers = s.xfers := (congrArg State.xfers h.only :)
theorem QueueWork.plans (h : QueueWork s t) : t.plans = s.plans := (congrArg State.plans h.only :)
theorem QueueWork.firings (h : QueueWork s t) : t.firings = s.firings := (congrArg State.firings h.only :)
theorem QueueWork.saves (h : QueueWork s t) : t.saves = s.saves := (congrArg State.saves h.only :)
theorem QueueWork.sealAsked (h : QueueWork s t) : t.sealAsked = s.sealAsked := (congrArg State.sealAsked h.only :)
theorem QueueWork.due (h : QueueWork s t) {c : Nat} {e : Instr} (hd : Due s c e) : Due t c e := h.events hd

theorem due_schedule (s : State) (c : Nat) (e : Instr) : Due (s.schedule c e) c e := mem_insertBy.mpr (.inl rfl)

end Work

section Rules

variable (s : State) (p q a : Nat)

theorem queueWork_updPkg (f : Pkg → Pkg) : QueueWork s (s.updPkg p f) := ⟨rfl, List.Subset.refl _⟩
theorem queueWork_schedule (c : Nat) (e : Instr) : QueueWork s (s.schedule c e) := ⟨rfl, fun _ h => mem_insertBy.mpr (.inr h)⟩
theorem queueWork_physPut (bs : List Byte) : QueueWork s (s.physPut a bs) := ⟨rfl, List.Subset.refl _⟩

theorem noteKeys_onlyEvents (keys : List Nat) : s.noteKeys keys = { s with events := (s.noteKeys keys).events } := by
  unfold State.noteKeys
  refine List.foldlRecOn (motive := fun t : State => t = { s with events := t.events }) _ _ rfl fun b hb l _ => ?_
  dsimp only
  split
  · exact congrArg (fun x : State => { x with events := (b.schedule b.cyc (.hbmWriteMatch (l / 8589934592) (64 * l))).events }) hb
  · exact hb

theorem queueWork_noteKeys (keys : List Nat) : QueueWork s (s.noteKeys keys) :=
  .foldl (fun b _ => .ite (queueWork_schedule b _ _) (.refl b)) _ s

theorem queueWork_hbmPut (bs : List Byte) : QueueWork s (s.hbmPut a bs) :=
  (queueWork_physPut s a bs).trans (queueWork_noteKeys _ _)

theorem hbmPut_mem (bs : List Byte) : (s.hbmPut a bs).mem = (s.physPut a bs).mem := (congrArg State.mem (noteKeys_onlyEvents (s.physPut a bs) _) :)

theorem hbmPut_onlyMemAndEvents (bs : List Byte) :
    s.hbmPut a bs = { s with mem := (s.hbmPut a bs).mem, events := (s.hbmPut a bs).events } := by
  rw [hbmPut_mem]
  exact noteKeys_onlyEvents (s.physPut a bs) _

theorem hbmPut_pkgs (bs : List Byte) : (s.hbmPut a bs).pkgs = s.pkgs := (congrArg State.pkgs (hbmPut_onlyMemAndEvents s a bs) :)

theorem queueWork_addCounter (va : Nat) (v : Word) : QueueWork s (s.addCounter p q va v) := by
  unfold State.addCounter
  split
  · exact queueWork_hbmPut ..
  · exact .refl s

theorem putStatus_of_ctxPa {pa : Nat} (st reason : Nat) (h : s.ctxPa p (q / 64) (a + 2) = some pa) :
    s.putStatus p q a st reason = s.hbmPut pa [BitVec.ofNat 8 reason, BitVec.ofNat 8 st] := by
  rw [State.putStatus, h]

theorem queueWork_putStatus (st reason : Nat) : QueueWork s (s.putStatus p q a st reason) := by
  unfold State.putStatus
  split
  · exact queueWork_hbmPut ..
  · exact .refl s

theorem putStatus_pkgs (st reason : Nat) : (s.putStatus p q a st reason).pkgs = s.pkgs := by
  unfold State.putStatus
  split
  · exact hbmPut_pkgs ..
  · rfl

theorem queueWork_setStatus (lid st reason : Nat) : QueueWork s (s.setStatus lid st reason) :=
  .foldl (fun b _ => by split; exact queueWork_hbmPut ..; exact .refl b) _ s

theorem queueWork_askSelection : QueueWork s (s.askSelection p) := by
  unfold State.askSelection
  refine .ite (.refl s) ?_
  split
  · exact (queueWork_updPkg s p _).trans (queueWork_schedule ..)
  · exact .refl s
  · exact queueWork_updPkg ..

theorem askSelection_mem : (s.askSelection p).mem = s.mem := by
  unfold State.askSelection
  split
  · rfl
  · split <;> rfl

theorem queueWork_retireHead : QueueWork s (s.retireHead p q) :=
  ((queueWork_physPut ..).trans (queueWork_updPkg ..)).trans (queueWork_askSelection ..)

/-- R57: the head index goes up by one where a KILL has removed no entry behind it. -/
theorem retireHead_mem (h : ((s.pkg p).queues.get q).removed = []) :
    (s.retireHead p q).mem = (s.physPut (s.descAddr p q + 0x18) (bytesOfNat 4 (((s.desc p q).head + 1) % 4294967296))).mem := by
  rw [State.retireHead, askSelection_mem, h]
  rfl

theorem queueWork_doneHead : QueueWork s (s.doneHead p q a) := (queueWork_putStatus ..).trans (queueWork_retireHead ..)

theorem queueWork_retireKill (k : Nat × Nat × Nat × Word) (reason : Nat) : QueueWork s (s.retireKill q k reason) := by
  unfold State.retireKill
  refine QueueWork.trans ?_ (queueWork_retireHead ..)
  have hadd : QueueWork s (if k.2.2.1 = 0 then s else s.addCounter (k.1 % 8) q k.2.2.1 k.2.2.2) := .ite (.refl s) (queueWork_addCounter ..)
  split
  · exact hadd.trans (queueWork_hbmPut ..)
  · exact hadd

end Rules

/-! ## A head that is carried out, rejected or left (R59, R61) -/

section Heads

variable {s : State} {p q a kind : Nat}

theorem atHead_of_ready (h : EntryReady s p q a kind) (go : Nat → State) : s.atHead p q kind go = .next (go a) := by
  obtain ⟨hchosen, c, hjudge⟩ := h
  simp only [State.atHead, hchosen, hjudge, ne_eq, not_true_eq_false, if_false]

theorem atHead_of_reject {r : Nat} (hchosen : s.chosenOf p q = some (.entry a kind)) (hjudge : s.judge p q (.entry a kind) = .reject r)
    (go : Nat → State) : s.atHead p q kind go = .next (s.rejectHead p q a r) := by
  simp only [State.atHead, hchosen, hjudge, ne_eq, not_true_eq_false, if_false]

theorem atHead_of_blocked {l : List Nat} (hchosen : s.chosenOf p q = some (.entry a kind)) (hjudge : s.judge p q (.entry a kind) = .blocked l)
    (go : Nat → State) : s.atHead p q kind go = .next s := by
  simp only [State.atHead, hchosen, hjudge, ne_eq, not_true_eq_false, if_false]

/-- R60: a kind that Table 4.3 does not list is rejected. -/
theorem judge_of_unknownKind (h : kind = 0 ∨ 7 < kind) : s.judge p q (.entry a kind) = .reject 0x0A :=
  if_pos (h.imp_right Or.inl)

theorem judge_of_waitev (hreserved : s.entryReserved p q a 5 = false)
    (hcounter : s.badCounter p (q / 64) (s.entryNum p q a 0x10 8) false = false) :
    s.judge p q (.entry a 5) = if s.waitMet p (q / 64) (s.entryNum p q a 0x10 8, word (s.entryNum p q a 0x18 8)) then .ready 1
      else .blocked (s.counterLine p (q / 64) (s.entryNum p q a 0x10 8)) := by
  have hkind : ¬(5 = 0 ∨ 7 < 5 ∨ s.entryReserved p q a 5 = true) := by rw [hreserved]; decide
  have hgood : ¬s.badCounter p (q / 64) (s.entryNum p q a 0x10 8) false = true := by rw [hcounter]; exact Bool.false_ne_true
  exact (if_neg hkind).trans (if_neg hgood)

theorem ctxNum_lt (s : State) (p ctx va n : Nat) : s.ctxNum p ctx va n < 256 ^ n := by
  simpa [State.ctxNum] using natOfBytes_lt ((List.range n).map fun i => s.ctxByte p ctx (va + i))

/-- R62: a wait on an 8-byte value is met when the counter has reached the value. -/
theorem waitMet_word_iff {ctx va v : Nat} (hv : v < 256 ^ 8) : s.waitMet p ctx (va, word v) = true ↔ v ≤ s.ctxNum p ctx va 8 := by
  have hword : (word v).toNat = v := by rw [word, BitVec.toNat_ofNat]; exact Nat.mod_eq_of_lt hv
  rw [State.waitMet, decide_eq_true_iff, hword]

end Heads

/-! ## A head's status and index, and a counter's add (R57, R61, R62) -/

section Writes

variable {s u : State} {p q a pa : Nat}

theorem hbmPut_status {st reason : Nat} (hpa : pa + 2 ≤ 4398046511104) :
    let t := s.hbmPut pa [BitVec.ofNat 8 reason, BitVec.ofNat 8 st]
    physByte t pa = BitVec.ofNat 8 reason ∧ physByte t (pa + 1) = BitVec.ofNat 8 st ∧ PhysKept s t [pa, pa + 1] := by
  have hmem := hbmPut_mem s pa [BitVec.ofNat 8 reason, BitVec.ofNat 8 st]
  simp only [physByte, PhysKept, State.byte, hmem]
  exact ⟨physByte_physPut_inside s (i := 0) (bs := [_, _]) hpa Nat.two_pos,
    physByte_physPut_inside s (i := 1) (bs := [_, _]) hpa Nat.one_lt_two, physKept_physPut s pa [_, _]⟩

/-- R57: the retired head's index is the next; the four bytes of the index alone change. -/
theorem retireHead_index {d : Nat} (hd : u.descAddr p q = d) (hfit : d + 64 ≤ 4398046511104) (hr : ((u.pkg p).queues.get q).removed = []) :
    let t := u.retireHead p q
    t.physNum (d + 0x18) 4 = ((u.desc p q).head + 1) % 4294967296 ∧ PhysKept u t [d + 0x18, d + 0x19, d + 0x1A, d + 0x1B] := by
  have hmem := retireHead_mem u p q hr
  rw [hd] at hmem
  refine ⟨?_, fun sp x hx => ?_⟩
  · rw [physNum_of_mem hmem, physNum_physPut_bytes u _ (by omega)]
    exact Nat.mod_mod _ _
  · rw [State.byte, hmem]
    exact get_physPut_other u fun i hi => hx _ (by rw [length_bytesOfNat] at hi; simp; omega)

/-- R61: the end of a head whose status lies apart from its queue's descriptor. -/
theorem head_ends {st reason : Nat} (hstatus : s.ctxPa p (q / 64) (a + 2) = some pa) (hpa : pa + 2 ≤ 4398046511104) :
    let u := s.putStatus p q a st reason
    let d := s.descAddr p q
    let t := u.retireHead p q
    u.desc p q = s.desc p q → u.descAddr p q = d → d + 64 ≤ 4398046511104 → pa + 2 ≤ d ∨ d + 64 ≤ pa → ((s.pkg p).queues.get q).removed = [] →
    physByte t pa = BitVec.ofNat 8 reason ∧ physByte t (pa + 1) = BitVec.ofNat 8 st ∧ t.physNum (d + 0x18) 4 = ((s.desc p q).head + 1) % 4294967296 ∧
    PhysKept s t [pa, pa + 1, d + 0x18, d + 0x19, d + 0x1A, d + 0x1B] ∧ OnlyQueues s t := by
  intro u d t hdesc haddr hfit hapart hr
  have hput : u = s.hbmPut pa [BitVec.ofNat 8 reason, BitVec.ofNat 8 st] := putStatus_of_ctxPa s p q a st reason hstatus
  have hremoved : ((u.pkg p).queues.get q).removed = [] := by
    have hpkgs : u.pkgs = s.pkgs := putStatus_pkgs s p q a st reason
    rw [State.pkg, hpkgs]
    exact hr
  obtain ⟨hreason, hst, hkeptStatus⟩ := hbmPut_status (s := s) (st := st) (reason := reason) hpa
  obtain ⟨hindex, hkeptIndex⟩ := retireHead_index haddr hfit hremoved
  rw [← hput] at hreason hst hkeptStatus
  have hapartByte : ∀ b, b = pa ∨ b = pa + 1 → physByte t b = physByte u b := fun b hb =>
    hkeptIndex (.hbm (b / 549755813888 % 8)) (b % 549755813888) fun x hx heq => by
      have := physKey_injective (a := b) (b := x) (by omega) (by simp at hx; omega) heq
      simp at hx
      omega
  refine ⟨(hapartByte pa (.inl rfl)).trans hreason, (hapartByte (pa + 1) (.inr rfl)).trans hst, hdesc ▸ hindex,
    physKept_trans hkeptStatus hkeptIndex, ?_⟩
  exact ((queueWork_putStatus s p q a st reason).trans (queueWork_retireHead u p q)).only

/-- R62: the add is modulo 2^64, at the counter's own bytes. -/
theorem addCounter_adds {ctx va : Nat} (v : Word) (h : s.ctxPa p ctx va = some pa) (hpa : pa + 8 ≤ 4398046511104) :
    let t := s.addCounter p ctx va v
    t.physNum pa 8 = (s.physNum pa 8 + v.toNat) % 18446744073709551616 ∧ PhysKept s t ((List.range 8).map (fun i => pa + i)) ∧
    t = { s with mem := t.mem, events := t.events } := by
  intro t
  have ht : t = s.hbmPut pa (bytesOfNat 8 (word (s.physNum pa 8) + v).toNat) := by simp only [t, State.addCounter, h]
  have hmem := hbmPut_mem s pa (bytesOfNat 8 (word (s.physNum pa 8) + v).toNat)
  rw [← ht] at hmem
  refine ⟨?_, fun sp x hx => ?_, ?_⟩
  · rw [physNum_of_mem hmem, physNum_physPut_bytes s _ hpa, word, BitVec.toNat_add, BitVec.toNat_ofNat]
    omega
  · rw [State.byte, hmem]
    exact get_physPut_other s fun i hi => hx _ (List.mem_map_of_mem (List.mem_range.mpr (by rwa [length_bytesOfNat] at hi)))
  · rw [ht]
    exact hbmPut_onlyMemAndEvents ..

end Writes

/-- Settles O50: a head ends by the write of its status and then that of its index; an entry's event is `State.atHead` of its kind. -/
theorem queueHeadsEnd : Obligations.QueueHeadsEnd := by
  unfold Obligations.QueueHeadsEnd
  refine ⟨fun p q s => ⟨exec_answers _ s, exec_answers _ s, exec_answers _ s⟩, fun p q a pa st reason s t _ hstatus hpa ht => ?_,
    fun p ctx va pa v s h hpa => addCounter_adds v h hpa, fun p q s => ⟨fun a kind h => judge_of_unknownKind h, fun a hres hctr => ?_,
    fun a h => atHead_of_ready h _, fun a h => atHead_of_ready h _, fun a h => ⟨_, atHead_of_ready h _, rfl, ?_⟩,
    fun a r hc hj => atHead_of_reject hc hj _, fun a r hc hj => atHead_of_reject hc hj _, fun a l hc hj => atHead_of_blocked hc hj _⟩⟩
  · obtain ⟨rfl, rfl, rfl⟩ | ⟨rfl, rfl⟩ := ht
    · exact head_ends hstatus hpa
    · exact head_ends hstatus hpa
  · refine Iff.trans ?_ (waitMet_word_iff (ctxNum_lt s p (q / 64) (a + 0x18) 8))
    rw [judge_of_waitev hres hctr]
    split
    · next hmet => exact ⟨fun _ => hmet, fun _ => rfl⟩
    · next hopen => exact ⟨nofun, fun hmet => absurd hmet hopen⟩
  · exact (queueWork_doneHead { s with sealAsked := true } p q a).sealAsked

/-! ## A write match in a module that has failed its boot (R59, R337) -/

/-- R337: a module whose package has failed its boot begins no selection. -/
theorem askSelection_of_bootFailed {s : State} (h : s.bootFailed = true) (p : Nat) : s.askSelection p = s := by
  rw [State.askSelection, h, Bool.or_true, if_pos rfl]

/-- Package 0 has failed its boot (MG.BOOT reads 2) after its context table was set, over memory that holds no context. -/
def failedBoot : State := { State.reset with pkgs := [(0, { (default : Pkg) with mg := [(8, 2#64), (0x10, 64#64)] })] }

theorem failedBoot_bootFailed : failedBoot.bootFailed = true := by decide

/-- No context is valid where no byte is listed. -/
theorem failedBoot_allQueues : failedBoot.allQueues 0 = [] := by
  have hread : ∀ a, failedBoot.physNum a 1 = 0 := fun _ => rfl
  have hnone : (List.range 4096).filter (fun c => failedBoot.ctxValid 0 c) = [] :=
    List.filter_eq_nil_iff.mpr fun c _ => by rw [State.ctxValid, hread]; decide
  rw [State.allQueues, hnone]
  rfl

/-- Refutes O52: in a module that has failed its boot a write to HBM begins no selection, though the registrar's context table is set, no
queue's descriptor lies in the line and no selection runs; the statement does not leave such a module out. -/
theorem not_selectionsRun : ¬ Obligations.SelectionsRun := by
  unfold Obligations.SelectionsRun
  rintro ⟨-, -, hclauses⟩
  obtain ⟨hmatch, -⟩ := hclauses 0 failedBoot
  obtain ⟨t, ht, -, -, hbegins, -⟩ := hmatch 0 (by decide) (by simp [failedBoot_allQueues])
  have hstays : exec (.hbmWriteMatch 0 0) failedBoot = .next failedBoot := by
    change Host.Outcome.next _ = _
    rw [failedBoot_allQueues]
    exact congrArg _ (askSelection_of_bootFailed failedBoot_bootFailed 0)
  obtain rfl : failedBoot = t := Host.Outcome.next.inj (hstays.symm.trans ht)
  exact absurd (hbegins rfl).1 (by decide)

/-! ## The launches that a table lists -/

theorem mem_above {α : Type} {k : Nat} {t : Tab α} {e : Nat × α} (h : e ∈ Tab.above k t) : e ∈ t := by
  induction t with
  | nil => exact h
  | cons x r ih =>
    unfold Tab.above at h
    split at h
    · exact List.mem_cons_of_mem _ (ih h)
    · exact h

/-- A table with one key written lists that entry and old ones. -/
theorem mem_setD {α : Type} [DecidableEq α] {d v : α} {k : Nat} {t : Tab α} {e : Nat × α} (h : e ∈ Tab.setD d t k v) : e = (k, v) ∨ e ∈ t := by
  induction t with
  | nil =>
    unfold Tab.setD at h
    split at h
    · exact .inr h
    · exact .inl (List.mem_singleton.mp h)
  | cons x r ih =>
    unfold Tab.setD at h
    split at h
    · split at h
      · exact .inr h
      · exact List.mem_cons.mp h
    · split at h
      · split at h
        · exact .inr (List.mem_cons_of_mem _ (mem_above h))
        · exact (List.mem_cons.mp h).imp_right (List.mem_cons_of_mem _)
      · obtain hx | hr := List.mem_cons.mp h
        · exact .inr (hx ▸ List.mem_cons_self)
        · exact (ih hr).imp_right (List.mem_cons_of_mem _)

/-! ## Translation reads memory and the context table alone (R56, R197) -/

section Translation

variable {s t : State} (hmem : t.mem = s.mem)

include hmem

theorem walk_of_mem (va : Nat) (lvls : List Nat) (table n : Nat) : t.walk va lvls table n = s.walk va lvls table n := by
  induction lvls generalizing table n with
  | nil => rfl
  | cons l r ih => simp only [State.walk, physNum_of_mem hmem, ih]

theorem ctxPa_of_mem {p : Nat} (htable : t.mg p 0x10 = s.mg p 0x10) (ctx va : Nat) : t.ctxPa p ctx va = s.ctxPa p ctx va := by
  simp only [State.ctxPa, State.ctxKeyBy, State.walkCtx, State.ctxRoot, State.ctxEntry, htable, physNum_of_mem hmem, walk_of_mem hmem]

end Translation

/-! ## The stages after a reservation (R67, R73, R74) -/

section Reserve

variable {s : State} {p lid : Nat}

theorem updLaunch_congr {f g : Launch → Launch} (h : f (s.launch lid) = g (s.launch lid)) : s.updLaunch lid f = s.updLaunch lid g := by
  rw [State.updLaunch, State.updLaunch, Tab.upd, Tab.upd]
  exact congrArg (fun l => { s with launches := s.launches.set lid l }) h

theorem queueWork_afterText (s : State) (lid : Nat) : QueueWork s (s.afterText lid) :=
  .ite (queueWork_schedule ..) (queueWork_schedule ..)

theorem queueWork_proceed (s : State) (lid : Nat) : QueueWork s (s.proceed lid) :=
  .ite (.refl s) (.ite (queueWork_afterText s lid) (queueWork_schedule ..))

theorem afterText_of_starting (h : (s.launch lid).state = .starting) :
    s.afterText lid = s.schedule (s.cyc + s.startTime lid) (.startBroadcast lid) := by
  rw [State.afterText, h]
  exact if_neg nofun

/-- Table 4.7: the start broadcast of a launch in one package takes the package bell's 64 cy. -/
theorem startTime_of_onePackage (h : (s.launch lid).place.packages = [p]) : s.startTime lid = 64 := by
  have htop : (s.launch lid).top ≠ 4 := by
    unfold Launch.top
    split
    · next hpod =>
      simp only [Placement.packages, hpod.1] at h
      exact absurd (congrArg List.length h) (by simp)
    · exact nofun
  simp only [State.startTime, htop, if_false, h, List.length_singleton, Nat.le_refl, if_true]

theorem proceed_of_starting (hstate : (s.launch lid).state = .starting) (hplace : (s.launch lid).place.packages = [p])
    (hwaits : (s.launch lid).waitsFor = []) (hreports : (s.launch lid).reports = [p]) :
    Due (s.proceed lid) (s.cyc + 64) (.startBroadcast lid) ∨
      Due (s.proceed lid) (s.cyc + 600 + ceilDiv (s.launch lid).textSize 256) (.textLoad lid) := by
  have hall : (s.launch lid).allReported = true := by simp [Launch.allReported, hplace, hreports]
  unfold State.proceed
  rw [hwaits, hall, if_neg (by decide)]
  split
  · rw [afterText_of_starting hstate, startTime_of_onePackage hplace]
    exact .inl (due_schedule ..)
  · exact .inr (due_schedule ..)

/-- What its only registrar's report makes of a launch whose tiles are free. -/
def reservedAlone (p c : Nat) (l : Launch) : Launch := { l with reports := [p], waitsFor := [], host := 0, textBase := 0, progress := c }

/-- R70, R73: a launch in one package whose tiles nothing holds goes on at once. -/
theorem reserve_of_free (hplace : (s.launch lid).place.packages = [p]) (htag : (s.launch lid).tag = 0) (hfiller : (s.launch lid).isFiller = false)
    (hstate : (s.launch lid).state = .reserved) (hreports : (s.launch lid).reports = []) (hwaits : (s.launch lid).waitsFor = [])
    (hfree : ∀ filler, s.holders p lid filler (s.groupsIn p (s.launch lid).place) = []) :
    s.reserve p lid = ((s.updLaunch lid (reservedAlone p s.cyc)).updLaunch lid (fun x => { x with state := .starting })).proceed lid := by
  have hall : ((s.updLaunch lid (reservedAlone p s.cyc)).launch lid).allReported = true := by
    rw [launch_updLaunch]
    simp [Launch.allReported, reservedAlone, hplace]
  unfold State.reserve
  simp only [hfiller, hfree, Bool.false_eq_true, if_false, List.foldl_nil, List.append_nil, List.filter_nil, htag, if_true, Bool.not_false]
  rw [updLaunch_congr (s := s) (g := reservedAlone p s.cyc), if_pos hall]
  · refine congrArg (State.proceed · lid) (updLaunch_congr ?_)
    rw [launch_updLaunch]
    exact if_pos hstate
  · simp [reservedAlone, hreports, hwaits, hfiller, dedup]

end Reserve

/-! ## LAUNCH (R70) -/

section LaunchEntry

variable {s : State} {p q a : Nat}

/-- The launch that an entry makes, before it reserves its tiles. -/
def withLaunch (s : State) (p q a : Nat) (r : LaunchRecord) : State :=
  { s with launches := s.launches.set s.nextLaunch (s.newLaunch p q a r), nextLaunch := s.nextLaunch + 1 }

theorem launchEntry_of_untagged (h : EntryReady s p q a 1) (htag : (s.recordAt p (q / 64) (s.entryNum p q a 0x10 8)).tag = 0) :
    exec (.launchEntry p q) s =
      .next (((withLaunch s p q a (s.recordAt p (q / 64) (s.entryNum p q a 0x10 8))).reserve p s.nextLaunch).retireHead p q) := by
  have hsame : ∀ ctx, s.sameLaunch ctx (s.recordAt p (q / 64) (s.entryNum p q a 0x10 8)) = none := fun _ => if_pos htag
  change execLaunchEntry p q s = _
  rw [execLaunchEntry, h.1]
  refine (atHead_of_ready h _).trans ?_
  simp only [hsame, htag, if_true]
  rfl

theorem launch_withLaunch (r : LaunchRecord) : (withLaunch s p q a r).launch s.nextLaunch = s.newLaunch p q a r := Tab.get_set_same ..

theorem launch_withLaunch_other (r : LaunchRecord) {l : Nat} (h : l ≠ s.nextLaunch) : (withLaunch s p q a r).launch l = s.launch l :=
  Tab.get_set_other _ _ h

/-- No launch but the new one holds a tile where no launch has held one. -/
theorem holders_withLaunch {r : LaunchRecord} {gs : List Nat}
    (h : ∀ e ∈ s.launches, e.2.holds p = true → ∀ g ∈ gs, e.2.place.hasGroup g = false) (filler : Bool) :
    (withLaunch s p q a r).holders p s.nextLaunch filler gs = [] := by
  refine List.map_eq_nil_iff.mpr (List.filter_eq_nil_iff.mpr fun e he hheld => ?_)
  simp only [Bool.and_eq_true, bne_iff_ne, ne_eq, List.any_eq_true] at hheld
  obtain ⟨⟨⟨hother, -⟩, hholds⟩, g, hg, hhas⟩ := hheld
  obtain rfl | hold := mem_setD he
  · exact hother rfl
  · exact Bool.false_ne_true ((h e hold hholds g hg).symm.trans hhas)

theorem launchEntry_free (h : EntryReady s p q a 1) :
    let r := s.recordAt p (q / 64) (s.entryNum p q a 0x10 8)
    let n := s.nextLaunch
    r.tag = 0 → r.place.packages = [p] → s.ctxFiller p (q / 64) = false →
    (∀ e ∈ s.launches, e.2.holds p = true → ∀ g ∈ s.groupsIn p r.place, e.2.place.hasGroup g = false) →
    ∃ t, exec (.launchEntry p q) s = .next t ∧ t.nextLaunch = n + 1 ∧ (t.launch n).state = .starting ∧ (t.launch n).ctx = q / 64 ∧
      (t.launch n).records = [(p, r.addr)] ∧ (t.launch n).place = r.place ∧ (t.launch n).nthr = r.nthr ∧ (t.launch n).recover = r.recover ∧
      (t.launch n).image = r.image ∧ (t.launch n).entry = r.entry ∧ (∀ l, l ≠ n → t.launch l = s.launch l) ∧ t.tiles = s.tiles ∧ t.xfers = s.xfers ∧
      (Due t (s.cyc + 64) (.startBroadcast n) ∨ Due t (s.cyc + 600 + ceilDiv (t.launch n).textSize 256) (.textLoad n)) := by
  intro r n htag hplace hfiller hfree
  let s₁ := withLaunch s p q a r
  let s₂ := (s₁.updLaunch n (reservedAlone p s.cyc)).updLaunch n (fun x => { x with state := .starting })
  have hnew : s₁.launch n = s.newLaunch p q a r := launch_withLaunch r
  have hreserve : s₁.reserve p n = s₂.proceed n := reserve_of_free (by rw [hnew]; exact hplace) (by rw [hnew]; exact htag)
    (by rw [hnew]; exact hfiller) (by rw [hnew]; rfl) (by rw [hnew]; rfl) (by rw [hnew]; rfl)
    (fun filler => holders_withLaunch (by rw [hnew]; exact hfree) filler)
  have hlaunch : s₂.launch n = { reservedAlone p s.cyc (s.newLaunch p q a r) with state := .starting } := by
    rw [launch_updLaunch, launch_updLaunch, hnew]
  have hothers : ∀ l, l ≠ n → s₂.launch l = s.launch l := fun l hl => by
    rw [launch_updLaunch_other _ _ hl, launch_updLaunch_other _ _ hl]
    exact launch_withLaunch_other r hl
  have hdue := proceed_of_starting (s := s₂) (lid := n) (by rw [hlaunch]) (by rw [hlaunch]; exact hplace) (by rw [hlaunch]; rfl) (by rw [hlaunch]; rfl)
  have hwork : QueueWork s₂ ((s₂.proceed n).retireHead p q) := (queueWork_proceed s₂ n).trans (queueWork_retireHead ..)
  have hrest : QueueWork (s₂.proceed n) ((s₂.proceed n).retireHead p q) := queueWork_retireHead ..
  have hexec : exec (.launchEntry p q) s = .next ((s₂.proceed n).retireHead p q) :=
    (launchEntry_of_untagged h htag).trans (congrArg (fun t : State => Host.Outcome.next (t.retireHead p q)) hreserve)
  refine ⟨_, hexec, hwork.nextLaunch, ?_⟩
  rw [hwork.launch n, hlaunch]
  refine ⟨rfl, rfl, rfl, rfl, ?_, ?_, rfl, rfl, fun l hl => (hwork.launch l).trans (hothers l hl), hwork.tiles, hwork.xfers, ?_⟩
  · exact if_neg (by rw [hfiller]; exact Bool.false_ne_true)
  · change (r.recover && !s.ctxFiller p (q / 64)) = r.recover
    rw [hfiller]; exact Bool.and_true _
  · rw [hlaunch] at hdue
    exact hdue.imp hrest.due hrest.due

end LaunchEntry

/-! ## PLAN and COLL (R291, R294) -/

section PlanEntry

variable {s : State} {p q a i : Nat}

/-- The result that a PLAN entry writes beside its status. -/
def planResult (s : State) (p q a v : Nat) : State := match s.ctxPa p (q / 64) (a + 4) with
  | some pa => s.hbmPut pa (bytesOfNat 4 v)
  | none => s

/-- R291: a PLAN entry frees a plan once its firings have drained, and looks again each cycle until then (log entry 69). -/
def planFree (s : State) (p q a i : Nat) : State :=
  if s.planBusy i then ({ s with plans := s.plans.upd i (fun h => { h with freeing := some (p, q, a) }) } : State).schedule (s.cyc + 1) (.planEntry p q)
  else
    let s1 : State := { s with plans := s.plans.upd i (fun h => { h with live := false, freeing := none, gen := (h.gen + 1) % 16 })
                               fabricLog := s.planLog (q / 64) 5 i ++ s.fabricLog }
    (planResult s1 p q a 0).doneHead p q a

/-- R291: a PLAN entry makes a plan and writes its handle. -/
def planMake (s : State) (p q a i : Nat) (h : Plan) : State :=
  let s1 : State := { s with plans := s.plans.set i h, fabricLog := s.planLog (q / 64) 4 i ++ s.fabricLog }
  (planResult s1 p q a (h.handle i)).doneHead p q a

theorem queueWork_planResult (s : State) (p q a v : Nat) : QueueWork s (planResult s p q a v) := by
  unfold planResult
  split
  · exact queueWork_hbmPut ..
  · exact .refl s

theorem planEntry_of_freeing (h : s.freeingHead p q = some (a, i)) : exec (.planEntry p q) s = .next (planFree s p q a i) := by
  change execPlanEntry p q s = _
  rw [execPlanEntry, h]
  rfl

theorem planEntry_of_notFreeing (hnone : s.freeingHead p q = none) (h : EntryReady s p q a 2) :
    exec (.planEntry p q) s = .next (if (s.entryNum p q a 0x30 1).testBit 7 then
        match s.planAt (BitVec.ofNat 32 (s.entryNum p q a 0x4C 4)) with
        | none => (planResult s p q a 0).doneHead p q a
        | some (i, _) => planFree s p q a i
      else match s.planOf p q a with
        | .error r => s.rejectHead p q a r
        | .ok (i, h) => planMake s p q a i h) := by
  change execPlanEntry p q s = _
  rw [execPlanEntry, hnone]
  exact atHead_of_ready h _

theorem planFree_idle (h : s.firings.any (fun f => f.plan == i) = false) :
    (planFree s p q a i).plans.get i = { s.plans.get i with live := false, freeing := none, gen := ((s.plans.get i).gen + 1) % 16 } ∧
    ∀ j, j ≠ i → (planFree s p q a i).plans.get j = s.plans.get j := by
  have hplans : (planFree s p q a i).plans = s.plans.upd i (fun h => { h with live := false, freeing := none, gen := (h.gen + 1) % 16 }) := by
    rw [planFree, State.planBusy, h, if_neg Bool.false_ne_true]
    exact ((queueWork_planResult _ p q a 0).trans (queueWork_doneHead ..)).plans
  rw [hplans]
  exact ⟨Tab.get_upd_same .., fun j hj => Tab.get_upd_other _ _ hj⟩

theorem planFree_busy (h : s.firings.any (fun f => f.plan == i) = true) :
    MemoryKept s (planFree s p q a i) ∧ ((planFree s p q a i).plans.get i).freeing = some (p, q, a) ∧
    Due (planFree s p q a i) (s.cyc + 1) (.planEntry p q) := by
  have hfree : planFree s p q a i =
      ({ s with plans := s.plans.upd i (fun h => { h with freeing := some (p, q, a) }) } : State).schedule (s.cyc + 1) (.planEntry p q) := if_pos h
  rw [hfree]
  exact ⟨fun _ _ => rfl, (congrArg Plan.freeing (Tab.get_upd_same s.plans i fun h => { h with freeing := some (p, q, a) }) :), due_schedule ..⟩

theorem planMake_plans (h : Plan) :
    (planMake s p q a i h).plans.get i = h ∧ (∀ j, j ≠ i → (planMake s p q a i h).plans.get j = s.plans.get j) ∧
    (planMake s p q a i h).tiles = s.tiles ∧ (planMake s p q a i h).xfers = s.xfers := by
  let s₁ : State := { s with plans := s.plans.set i h, fabricLog := s.planLog (q / 64) 4 i ++ s.fabricLog }
  have hwork : QueueWork s₁ (planMake s p q a i h) := (queueWork_planResult ..).trans (queueWork_doneHead ..)
  rw [hwork.plans]
  exact ⟨Tab.get_set_same .., fun j hj => Tab.get_set_other _ _ hj, hwork.tiles, hwork.xfers⟩

theorem planAt_eq_get {b : BitVec 32} {h : Plan} (hat : s.planAt b = some (i, h)) : h = s.plans.get i := by
  unfold State.planAt at hat
  dsimp only at hat
  split at hat
  · cases hat; rfl
  · cases hat

/-- R293, R294: a plan that every leader has fired runs in the same cycle. -/
theorem fire_leaders {n : Nat} (hkind : (s.plans.get i).superstep = false) :
    let ms := (s.plans.get i).leaders.map (fun k => (k, 0))
    (∃ f ∈ (s.fire i n ms).firings, f.plan = i ∧ f.seq = n ∧ f.ran = false ∧ ∀ k ∈ (s.plans.get i).leaders, (k, 0) ∈ f.members) ∧
    Due (s.fire i n ms) s.cyc (.planFiring i n) ∧ (s.fire i n ms).plans = s.plans ∧ (s.fire i n ms).tiles = s.tiles := by
  intro ms
  let mine (f : Firing) : Bool := f.plan == i && f.seq == n && !f.ran
  let fs := if s.firings.any mine then s.firings.map (fun f => if mine f then { f with members := f.members ++ ms } else f)
    else s.firings ++ [{ plan := i, seq := n, members := ms, ran := false, left := 0 }]
  have hfired : ∃ f ∈ fs, mine f = true ∧ ∀ m ∈ ms, m ∈ f.members := by
    by_cases hany : s.firings.any mine = true
    · obtain ⟨f, hf, hm⟩ := List.any_eq_true.mp hany
      refine ⟨{ f with members := f.members ++ ms }, ?_, hm, fun m h => List.mem_append_right _ h⟩
      rw [show fs = _ from if_pos hany]
      exact List.mem_map.mpr ⟨f, hf, if_pos hm⟩
    · refine ⟨{ plan := i, seq := n, members := ms, ran := false, left := 0 }, ?_, by simp [mine], fun m h => h⟩
      rw [show fs = _ from if_neg hany]
      exact List.mem_append_right _ List.mem_cons_self
  obtain ⟨f, hf, hm, hms⟩ := hfired
  have hleaders : ∀ k ∈ (s.plans.get i).leaders, (k, 0) ∈ f.members := fun k hk => hms _ (List.mem_map_of_mem hk)
  have hall : fs.any (fun f => mine f && (s.plans.get i).leaders.all (fun k => f.members.any (fun m => m.1 == k))) = true := by
    refine List.any_eq_true.mpr ⟨f, hf, ?_⟩
    rw [hm, Bool.true_and, List.all_eq_true]
    exact fun k hk => List.any_eq_true.mpr ⟨_, hleaders k hk, beq_self_eq_true k⟩
  have hfire : s.fire i n ms = ({ s with firings := fs } : State).schedule s.cyc (.planFiring i n) := by
    refine if_pos ?_
    rw [hkind]
    exact hall
  rw [hfire]
  simp only [mine, Bool.and_eq_true, beq_iff_eq, Bool.not_eq_true'] at hm
  exact ⟨⟨f, hf, hm.1.1, hm.1.2, hm.2, hleaders⟩, due_schedule .., rfl, rfl⟩

theorem collEntry_of_found {h : Plan} (hready : EntryReady s p q a 3)
    (hat : s.planAt (BitVec.ofNat 32 (s.entryNum p q a 0x10 4)) = some (i, h)) (hkind : h.superstep = false) (hctx : h.ctx = q / 64) :
    exec (.collEntry p q) s = .next ((s.fire i (s.entryNum p q a 0x18 4) (h.leaders.map (fun k => (k, 0)))).doneHead p q a) := by
  refine (atHead_of_ready hready _).trans ?_
  simp [hat, hkind, hctx]

theorem collEntry_of_none (hready : EntryReady s p q a 3)
    (hat : ∀ i h, s.planAt (BitVec.ofNat 32 (s.entryNum p q a 0x10 4)) = some (i, h) → h.superstep = true ∨ h.ctx ≠ q / 64) :
    exec (.collEntry p q) s = .next (s.rejectHead p q a 7) := by
  refine (atHead_of_ready hready _).trans ?_
  split
  · rfl
  · next i h hfound =>
    refine congrArg _ (if_pos ?_)
    simpa using hat i h hfound

end PlanEntry

/-! ## KILL (R77, R334) -/

section KillEntry

variable {s : State} {p q a : Nat}

/-- R77: where no queued entry names a spanning launch's record, a KILL looks for a launch that has the record. -/
theorem find_killTarget {ctx target : Nat} {queued : List (Nat × Nat)} {r : LaunchRecord} (h : queued = [] ∨ r.tag = 0) :
    s.launches.find? (fun e => e.2.ctx == ctx && e.2.alive &&
      (e.2.records.contains (p, target) || (!queued.isEmpty && decide (r.tag ≠ 0 ∧ e.2.tag = r.tag ∧ e.2.place = r.place ∧ e.2.started = 0)))) =
    killTarget s p ctx target := by
  obtain rfl | htag := h
  · simp only [List.isEmpty_nil, Bool.not_true, Bool.false_and, Bool.or_false]
    rfl
  · simp only [htag, ne_eq, not_true_eq_false, false_and, decide_false, Bool.and_false, Bool.or_false]
    rfl

/-- R77: what a KILL does with what it finds. -/
theorem killEntry_of_ready (h : EntryReady s p q a 7) :
    let target := s.entryNum p q a 0x10 8
    let k := (p + 8 * q, a, s.entryNum p q a 0x18 8, word (s.entryNum p q a 0x20 8))
    let r := s.recordAt p (q / 64) target
    let queued := s.queuedLaunches p (q / 64) (fun va => va == target)
    queued = [] ∨ r.tag = 0 → exec (.killEntry p q) s = .next (match killTarget s p (q / 64) target with
      | some (lid, l) =>
        let s1 := s.updLaunch lid (fun x => { x with killers := x.killers ++ [k] })
        (if l.tag = 0 then s1 else s1.dropCopies (q / 64) l.tag l.place.packages).schedule (s.cyc + s.stopTime lid) (.gangStop lid 3)
      | none => match queued with
        | (x, i) :: _ => (if r.tag = 0 then s.dropEntry p x i else (s.dropEntry p x i).dropCopies (q / 64) r.tag r.place.packages).retireKill (q / 64) k 0
        | [] => s.retireKill (q / 64) k 0x0C) := by
  intro target k r queued hqueued
  rw [← find_killTarget hqueued]
  exact atHead_of_ready h _

theorem killEntry_of_target {lid : Nat} {l : Launch} (h : EntryReady s p q a 7) :
    let target := s.entryNum p q a 0x10 8
    let k := (p + 8 * q, a, s.entryNum p q a 0x18 8, word (s.entryNum p q a 0x20 8))
    killTarget s p (q / 64) target = some (lid, l) → l.tag = 0 →
    s.queuedLaunches p (q / 64) (fun va => va == target) = [] ∨ (s.recordAt p (q / 64) target).tag = 0 →
    exec (.killEntry p q) s =
      .next ((s.updLaunch lid (fun x => { x with killers := x.killers ++ [k] })).schedule (s.cyc + s.stopTime lid) (.gangStop lid 3)) := by
  intro target k htarget htag hqueued
  rw [killEntry_of_ready h hqueued, htarget]
  simp only [htag, if_true]
  rfl

theorem killEntry_of_queued {x i : Nat} {rest : List (Nat × Nat)} (h : EntryReady s p q a 7) :
    let target := s.entryNum p q a 0x10 8
    let k := (p + 8 * q, a, s.entryNum p q a 0x18 8, word (s.entryNum p q a 0x20 8))
    killTarget s p (q / 64) target = none → s.queuedLaunches p (q / 64) (fun va => va == target) = (x, i) :: rest →
    (s.recordAt p (q / 64) target).tag = 0 → exec (.killEntry p q) s = .next ((s.dropEntry p x i).retireKill (q / 64) k 0) := by
  intro target k htarget hqueued htag
  rw [killEntry_of_ready h (.inr htag), htarget, hqueued]
  exact congrArg (fun t : State => Host.Outcome.next (t.retireKill (q / 64) k 0)) (if_pos htag)

theorem killEntry_of_none (h : EntryReady s p q a 7) :
    let target := s.entryNum p q a 0x10 8
    let k := (p + 8 * q, a, s.entryNum p q a 0x18 8, word (s.entryNum p q a 0x20 8))
    killTarget s p (q / 64) target = none → s.queuedLaunches p (q / 64) (fun va => va == target) = [] →
    exec (.killEntry p q) s = .next (s.retireKill (q / 64) k 0x0C) := by
  intro target k htarget hqueued
  rw [killEntry_of_ready h (.inl hqueued), htarget, hqueued]

/-- R77: an entry behind the head is passed over later, and its status says KILLED now. -/
theorem dropEntry_behind {i : Nat} (h : i ≠ (s.desc p q).head) :
    i ∈ (((s.dropEntry p q i).pkg p).queues.get q).removed ∧
    (∀ pa, s.ctxPa p (q / 64) ((s.desc p q).base + 128 * (i % 2 ^ (s.desc p q).n) + 2) = some pa → pa + 2 ≤ 4398046511104 →
      physByte (s.dropEntry p q i) (pa + 1) = 5#8 ∧ PhysKept s (s.dropEntry p q i) [pa, pa + 1]) := by
  let at_ := (s.desc p q).base + 128 * (i % 2 ^ (s.desc p q).n)
  let s₀ := s.updPkg p (fun x => { x with chosen := match x.chosen with
    | some (_, .entry a _) => if a = at_ then none else x.chosen
    | h => h })
  have hdrop : s.dropEntry p q i = (s₀.putStatus p q at_ 5 0).updPkg p
      (fun x => { x with queues := x.queues.upd q (fun y => { y with removed := y.removed ++ [i] }) }) := if_neg h
  have htable : s₀.mg p 0x10 = s.mg p 0x10 := by rw [State.mg, State.mg, pkg_updPkg]
  rw [hdrop]
  refine ⟨?_, fun pa hpa hfit => ?_⟩
  · rw [pkg_updPkg, Tab.get_upd_same]
    exact List.mem_append_right _ List.mem_cons_self
  · have hmem₀ : s₀.mem = s.mem := rfl
    have hpa₀ : s₀.ctxPa p (q / 64) (at_ + 2) = some pa := (ctxPa_of_mem hmem₀ htable _ _).trans hpa
    have hput : s₀.putStatus p q at_ 5 0 = s₀.hbmPut pa [0#8, 5#8] := putStatus_of_ctxPa s₀ p q at_ 5 0 hpa₀
    obtain ⟨-, hstatus, hkept⟩ := hbmPut_status (s := s₀) (st := 5) (reason := 0) hfit
    have hmem : ((s₀.putStatus p q at_ 5 0).updPkg p fun x =>
        { x with queues := x.queues.upd q fun y => { y with removed := y.removed ++ [i] } }).mem = (s₀.hbmPut pa [0#8, 5#8]).mem := by
      rw [updPkg_mem, hput]
    exact ⟨(physByte_of_mem hmem _).trans hstatus, physKept_congr rfl hmem hkept⟩

end KillEntry

/-! ## A launch that is killed (R334) -/

section Killed

variable {s : State} {lid : Nat}

theorem queueWork_askRetire (s : State) (k : Nat) : QueueWork s (s.askRetire k) := .ite (queueWork_schedule ..) (.refl s)

/-- A tile without the launch, as it is freed. -/
def Vacant (filler : Bool) (t : Tile) : Prop := if filler then t.filler = none else t.prim = none

theorem freeTiles_vacant {k : Nat} (hk : k ∈ s.tilesOf lid) : Vacant (s.launch lid).isFiller ((s.freeTiles lid).tile k) := by
  unfold State.freeTiles
  dsimp only
  rw [foldl_same (State.tile · k) fun b p => (queueWork_askSelection b p).tile k]
  split
  · next hfiller =>
    rw [foldl_same (State.tile · k) fun b k' => (queueWork_askRetire b k').tile k]
    refine foldl_establishes (Q := fun b : State => Vacant _ (b.tile k)) _ hk (fun b => ?_) fun b k' _ hb => ?_
    · rw [tile_updTile, hfiller]
      rfl
    · by_cases hne : k = k'
      · subst hne
        rw [tile_updTile, hfiller]
        rfl
      · rwa [tile_updTile_other _ _ hne]
  · next hprim =>
    rw [Bool.not_eq_true] at hprim
    rw [foldl_same (State.tile · k) fun b g => congrArg (Tab.get · k) (updGroup_tiles b g _)]
    refine foldl_establishes (Q := fun b : State => Vacant _ (b.tile k)) _ hk (fun b => ?_) fun b k' _ hb => ?_
    · rw [tile_updTile, hprim]
      rfl
    · by_cases hne : k = k'
      · subst hne
        rw [tile_updTile, hprim]
        rfl
      · rwa [tile_updTile_other _ _ hne]

/-- R72: launches that waited for a launch's tiles go on; nothing of a launch changes but what it waits for. -/
theorem freed_keeps (s : State) (lid : Nat) : (s.freed lid).tiles = s.tiles ∧ (s.freed lid).saves = s.saves ∧
    ∀ l, ∃ ws, (s.freed lid).launch l = { s.launch l with waitsFor := ws } := by
  unfold State.freed
  refine List.foldlRecOn (motive := fun t : State => t.tiles = s.tiles ∧ t.saves = s.saves ∧ ∀ l, ∃ ws, t.launch l = { s.launch l with waitsFor := ws })
    _ _ ⟨rfl, rfl, fun l => ⟨_, rfl⟩⟩ fun t ht e _ => ?_
  obtain ⟨htiles, hsaves, hlaunch⟩ := ht
  dsimp only
  have hwork : ∀ u : State, QueueWork u (if (e.2.waitsFor.filter (fun x => x != lid)).isEmpty then u.proceed e.1 else u) :=
    fun u => .ite (queueWork_proceed ..) (.refl u)
  refine ⟨(hwork _).tiles.trans htiles, (hwork _).saves.trans hsaves, fun l => ?_⟩
  obtain ⟨ws, hws⟩ := hlaunch l
  rw [(hwork _).launch]
  by_cases hl : l = e.1
  · subst hl
    exact ⟨e.2.waitsFor.filter (fun x => x != lid), by rw [launch_updLaunch, hws]⟩
  · exact ⟨ws, by rw [launch_updLaunch_other _ _ hl, hws]⟩

/-- R77, R334: a launch without its tiles and its save area, before the queues' heads retire. -/
def withoutLaunch (s : State) (lid : Nat) : State :=
  let s1 := (s.setStatus lid 5 0).freeTiles lid
  let s2 := (s1.updLaunch lid (fun x => { x with state := .killed, killers := [], reports := [], areas := [] })).freed lid
  { s2 with saves := s2.saves.filter (fun v => v.lid != lid), cut := s2.cutBut lid }

theorem queueWork_retireAll (s : State) (heads : List (Nat × Nat × Nat)) (ctx : Nat) (kills : List (Nat × Nat × Nat × Word)) :
    QueueWork s (kills.foldl (fun a k => a.retireKill ctx k 0) (heads.foldl (fun a e => a.retireHead e.1 e.2.1) s)) :=
  (QueueWork.foldl (fun b (e : Nat × Nat × Nat) => queueWork_retireHead b e.1 e.2.1) heads s).trans
    (.foldl (fun b (k : Nat × Nat × Nat × Word) => queueWork_retireKill b ctx k 0) kills _)

theorem queueWork_killed (s : State) (lid : Nat) : QueueWork (withoutLaunch s lid) (s.killed lid) := queueWork_retireAll ..

theorem withoutLaunch_keeps (s : State) (lid : Nat) : (withoutLaunch s lid).tiles = ((s.setStatus lid 5 0).freeTiles lid).tiles ∧
    ((withoutLaunch s lid).launch lid).state = .killed ∧ ((withoutLaunch s lid).launch lid).killers = [] ∧
    ∀ v ∈ (withoutLaunch s lid).saves, v.lid ≠ lid := by
  obtain ⟨htiles, -, hlaunch⟩ := freed_keeps (((s.setStatus lid 5 0).freeTiles lid).updLaunch lid
    (fun x => { x with state := .killed, killers := [], reports := [], areas := [] })) lid
  obtain ⟨ws, hws⟩ := hlaunch lid
  rw [launch_updLaunch] at hws
  refine ⟨htiles, (congrArg Launch.state hws :), (congrArg Launch.killers hws :), fun v hv => ?_⟩
  simpa using (List.mem_filter.mp hv).2

/-- R77, R334: what the kill of a launch leaves of it. -/
theorem killed_launch (s : State) (lid : Nat) : ((s.killed lid).launch lid).state = .killed ∧ ((s.killed lid).launch lid).killers = [] ∧
    (∀ v ∈ (s.killed lid).saves, v.lid ≠ lid) ∧ ∀ k ∈ s.tilesOf lid, Vacant (s.launch lid).isFiller ((s.killed lid).tile k) := by
  have hwork := queueWork_killed s lid
  have hstatus : QueueWork s (s.setStatus lid 5 0) := queueWork_setStatus ..
  obtain ⟨htiles, hstate, hkillers, hsaves⟩ := withoutLaunch_keeps s lid
  rw [hwork.launch, hwork.saves]
  refine ⟨hstate, hkillers, hsaves, fun k hk => ?_⟩
  rw [hwork.tile, State.tile, htiles, ← hstatus.launch lid]
  refine freeTiles_vacant ?_
  rwa [State.tilesOf, hstatus.tiles]

end Killed

/-- Settles O51, entry by entry: what the ready head of each kind does, and what a kill leaves. -/
theorem launchPlanCollKill : Obligations.LaunchPlanCollKill := by
  unfold Obligations.LaunchPlanCollKill
  refine ⟨fun p q s => ⟨exec_answers _ s, exec_answers _ s, exec_answers _ s, exec_answers _ s⟩, fun lid s => exec_answers _ s,
    fun p q a s h => launchEntry_free h, fun p q a s h hnone => ?_, fun p q a i s h => ?_, fun p q a s h => ?_, fun p q a s h => ?_,
    fun p q i s h => dropEntry_behind h, fun lid s => ⟨fun hstate hfillers => ?_, fun hstate => ?_⟩⟩
  · refine ⟨fun i h' hfrees hplan => ?_, fun r hfrees hplan => ?_, fun i h' hfrees hat hidle => ?_, fun i h' hfrees hat hbusy => ?_⟩
    all_goals rw [planEntry_of_notFreeing hnone h, hfrees]
    · rw [if_neg Bool.false_ne_true, hplan]
      exact ⟨_, rfl, planMake_plans h'⟩
    · rw [if_neg Bool.false_ne_true, hplan]
    · rw [if_pos rfl, hat]
      exact ⟨_, rfl, planFree_idle hidle⟩
    · rw [if_pos rfl, hat]
      exact ⟨_, rfl, planFree_busy hbusy⟩
  · rw [planEntry_of_freeing h]
    refine ⟨fun hidle => ⟨_, rfl, ?_⟩, fun hbusy => ⟨_, rfl, planFree_busy hbusy⟩⟩
    obtain ⟨hplan, hothers⟩ := planFree_idle (p := p) (q := q) (a := a) hidle
    rw [hplan]
    exact ⟨rfl, rfl, rfl, hothers⟩
  · refine ⟨fun i h' hat hkind hctx => ⟨_, collEntry_of_found h hat hkind hctx, ?_⟩, collEntry_of_none h⟩
    obtain rfl := planAt_eq_get hat
    obtain ⟨hfiring, hdue, hplans, htiles⟩ := fire_leaders (n := s.entryNum p q a 0x18 4) hkind
    have hwork := queueWork_doneHead (s.fire i (s.entryNum p q a 0x18 4) ((s.plans.get i).leaders.map (fun k => (k, 0)))) p q a
    rw [hwork.firings]
    exact ⟨hwork.due hdue, hwork.plans.trans hplans, hwork.tiles.trans htiles, hfiring⟩
  · exact ⟨fun lid l htarget htag hqueued => ⟨_, killEntry_of_target h htarget htag hqueued, fun _ _ => rfl,
      ((queueWork_schedule ..).launch lid).trans (launch_updLaunch s lid _), fun j hj => ((queueWork_schedule ..).launch j).trans
        (launch_updLaunch_other s _ hj), rfl, due_schedule ..⟩,
      fun x i rest htarget hqueued htag => killEntry_of_queued h htarget hqueued htag,
      fun htarget hqueued => killEntry_of_none h htarget hqueued⟩
  · have hkill : exec (.killQuiesced lid) s = .next (s.killed lid) := by
      change execKillQuiesced lid s = _
      rw [execKillQuiesced, if_pos hstate, hfillers]
      rfl
    exact ⟨_, hkill, killed_launch s lid⟩
  · change execKillQuiesced lid s = _
    exact if_neg hstate

/-! ## A text load over a memory without the canonical form (R74) -/

/-- A launch of one group starts, with one byte of text. Memory lists a byte of the group's instruction store before a byte of tile 0, whose
key is the lower one: it has not the canonical form (Memory.wf), and the byte of tile 0 reads 0 because the listing before it hides it. -/
def hiddenByte : State := { State.reset with
  mem := [((Space.istore 0).key 0, 1#8), ((Space.tile 0).key 0, 2#8)]
  launches := [(1, { (default : Launch) with
    state := .starting, textSize := 1, place := { kind := 0, pkg := 0, die := 0, gx := 0, gy := 0, w := 1, h := 1, mask := 0 } })] }

theorem hiddenByte_notCanonical : Memory.wf hiddenByte.mem = false := by decide

theorem textLoad_hiddenByte : exec (.textLoad 1) hiddenByte = .next (((hiddenByte.groupsOf 1).foldl (fun a g => a.loadText 1 g) hiddenByte).afterText 1) := by
  change execTextLoad 1 hiddenByte = _
  rw [execTextLoad]
  exact if_pos (Or.inl rfl)

/-- The load drops the old byte of the instruction store, and the byte of tile 0 is hidden no more. -/
theorem textLoad_uncovers :
    (((hiddenByte.groupsOf 1).foldl (fun a g => a.loadText 1 g) hiddenByte).afterText 1).byte (.tile 0) 0 ≠ hiddenByte.byte (.tile 0) 0 := by
  decide +kernel

/-- Refutes O53: over a memory without the canonical form a text load changes what a byte of a tile reads, which the statement, over every
state, says it does not. (Every memory that a run reaches has the canonical form, O34; the statement does not suppose it.) -/
theorem not_launchesStart : ¬ Obligations.LaunchesStart := by
  unfold Obligations.LaunchesStart
  rintro ⟨-, -, hclauses⟩
  obtain ⟨hload, -⟩ := hclauses 1 hiddenByte
  obtain ⟨t, ht, -, hkept, -⟩ := hload (.inl rfl) (by decide)
  obtain rfl := Host.Outcome.next.inj (textLoad_hiddenByte.symm.trans ht)
  exact textLoad_uncovers (hkept (.tile 0) 0 (by decide) fun _ _ hsame => nomatch hsame)

end Sys2Proof.Proofs.Registrar

namespace Sys2Proof.Proofs.RoundTrip

open Sys2Proof.Laws Sys2Proof.Claims

/-! ## The encoder and the decoder agree (R78 to R88, R222, R223) -/

/-- The encoder has a word for every instruction but the machine's events, whatever its operands. -/
theorem encode_isSome (i : Instr) (n : BitVec 3) : (encode i n).isSome = !isEvent i := by cases i <;> rfl

theorem exists_encode {i : Instr} (n : BitVec 3) (h : isEvent i = false) : ∃ c, encode i n = some c :=
  Option.isSome_iff_exists.mp (by rw [encode_isSome, h]; rfl)

/-- The decoder undoes the encoder: the law of each row of the opcode table, in the table's order. -/
theorem decode_encode (i : Instr) : Encoding.Statement i :=
  Instr.casesOn (motive := Encoding.Statement) i
    -- Machine events: rows with no instruction word
    Encoding.mmaLatch Encoding.mmaPass Encoding.mmaRowsFinal Encoding.mzeroExecute Encoding.mwrExecute Encoding.mstaExecute Encoding.mstaEnd
    Encoding.copyEnd Encoding.translationWalkDone Encoding.getLand Encoding.streamProgramStart Encoding.sepollSample Encoding.streamMoveLand
    Encoding.windowCounterIncrement Encoding.streamListStart Encoding.arrivalBellDone Encoding.writeHalf Encoding.bellRelease
    Encoding.barrierGenerationComplete Encoding.kmintDone Encoding.krevEffect Encoding.csetDone Encoding.cfreeDone Encoding.bucketOpen
    Encoding.bucketComplete Encoding.bucketTimeout Encoding.collectiveDelivery Encoding.planFiring Encoding.frameReceive Encoding.ackTimeout
    Encoding.replayRequestTimeout Encoding.laneFault Encoding.trainDone Encoding.trainTimeout Encoding.e2eStatus Encoding.e2eTimeout Encoding.vcEscape
    Encoding.bufferRepair Encoding.keyCheck Encoding.hbmWriteMatch Encoding.selection Encoding.launchEntry Encoding.planEntry Encoding.collEntry
    Encoding.sealEntry Encoding.waitevEntry Encoding.sigevEntry Encoding.killEntry Encoding.killQuiesced Encoding.textLoad Encoding.startBroadcast
    Encoding.firstFetch Encoding.watchdogExpiry Encoding.lineRefill Encoding.fillerFetch Encoding.tickArrival Encoding.tickTaken Encoding.threadPark
    Encoding.swaitExpiry Encoding.idleWake Encoding.mailboxArrival Encoding.tileResume Encoding.engineRetry Encoding.gangStop Encoding.contextSave
    Encoding.contextRestore Encoding.undoLogDrain Encoding.groupUndoDrain Encoding.saveSeal Encoding.emergencyTimeout Encoding.escrowAck
    Encoding.uncorrectableFault Encoding.rollbackDone Encoding.tileRetire Encoding.finalExchange Encoding.completionReport Encoding.completionCommit
    Encoding.launchComplete Encoding.completionAdd Encoding.completionAddDone Encoding.rampTick Encoding.telemetryTick Encoding.overtempWarning
    Encoding.thermalShutdown Encoding.coldReset Encoding.warmReset Encoding.repairLearned Encoding.repairCommit Encoding.boot Encoding.spdmRequest
    Encoding.cxlMemAccess Encoding.managementWrite Encoding.mgLinkctl Encoding.mgBbctl Encoding.mgPod Encoding.unassignedWord
    Encoding.trainingPatternArrival Encoding.switchFailure Encoding.translationInvalidation
    -- Stream commands (R223, Table 12.2)
    Encoding.scSeta Encoding.scSetb Encoding.scMove Encoding.scMoveq Encoding.scLoop Encoding.scNext Encoding.scWaitp Encoding.scArrive
    Encoding.scBarr Encoding.scJump Encoding.scEnd
    -- System and special-register words (R122–R127, R306)
    Encoding.nop Encoding.halt Encoding.trap Encoding.eret Encoding.mfsr Encoding.mtsr Encoding.swait Encoding.wsave Encoding.wrest Encoding.mbxrd
    Encoding.mbxpost Encoding.xresume Encoding.gstop Encoding.gstopRelease Encoding.unpark Encoding.idle
    -- ALU (R109)
    Encoding.add Encoding.sub Encoding.addw Encoding.subw Encoding.and Encoding.or Encoding.xor Encoding.andn Encoding.sll Encoding.srl Encoding.sra
    Encoding.mul Encoding.mulw Encoding.mulh Encoding.mulhu Encoding.div Encoding.divu Encoding.rem Encoding.remu Encoding.min Encoding.max
    Encoding.minu Encoding.maxu Encoding.seq Encoding.slt Encoding.sltu Encoding.clz Encoding.ctz Encoding.popc Encoding.sextb Encoding.sexth
    Encoding.sextw Encoding.zextb Encoding.zexth Encoding.zextw
    -- Immediates and constants (R111, R112)
    Encoding.addi Encoding.andi Encoding.ori Encoding.xori Encoding.slti Encoding.sltiu Encoding.slli Encoding.srli Encoding.srai Encoding.ldi
    Encoding.ldih
    -- Bit fields and selects (R113, R114)
    Encoding.bfx Encoding.bfxu Encoding.bfi Encoding.csel Encoding.cseln
    -- Branches and jumps (R119–R121)
    Encoding.beq Encoding.bne Encoding.blt Encoding.bge Encoding.bltu Encoding.bgeu Encoding.jmp Encoding.call Encoding.jr Encoding.callr Encoding.ret
    -- Loop-nest unit (R129–R131)
    Encoding.lnset Encoding.lnco Encoding.lnbase Encoding.lnidx Encoding.loop
    -- Tile loads, stores and atomics (R183, R184)
    Encoding.ldtB Encoding.ldtBu Encoding.ldtH Encoding.ldtHu Encoding.ldtW Encoding.ldtWu Encoding.ldtD Encoding.ldtBAreg Encoding.ldtBuAreg
    Encoding.ldtHAreg Encoding.ldtHuAreg Encoding.ldtWAreg Encoding.ldtWuAreg Encoding.ldtDAreg Encoding.sttB Encoding.sttH Encoding.sttW
    Encoding.sttD Encoding.sttBAreg Encoding.sttHAreg Encoding.sttWAreg Encoding.sttDAreg Encoding.amtAdd Encoding.amtSwap Encoding.amtCas
    Encoding.amtMin Encoding.amtMax Encoding.amtAnd Encoding.amtOr Encoding.amtXor
    -- Vector memory, copies and fills (R185–R190)
    Encoding.vldt Encoding.vstt Encoding.vldts Encoding.vstts Encoding.vgath Encoding.vscat Encoding.copyb Encoding.fillb
    -- Vector arithmetic (R136–R151)
    Encoding.vaddF Encoding.vsubF Encoding.vmulF Encoding.vfmaF Encoding.vfmsF Encoding.vfnmaF Encoding.vminF Encoding.vmaxF Encoding.vabsF
    Encoding.vnegF Encoding.vrcpF Encoding.vrsqF Encoding.vsqrtF Encoding.vdivF Encoding.vexp2F Encoding.vlog2F Encoding.vaddI Encoding.vsubI
    Encoding.vmulI Encoding.vmulhI Encoding.vmulhuI Encoding.vminI Encoding.vmaxI Encoding.vminuI Encoding.vmaxuI Encoding.vabsI Encoding.vaddsI
    Encoding.vsubsI Encoding.vand Encoding.vor Encoding.vxor Encoding.vandn Encoding.vnot Encoding.vshlV Encoding.vshrV Encoding.vsraV Encoding.vshli
    Encoding.vshri Encoding.vsrai Encoding.vpopc Encoding.vclz Encoding.vcmpFEq Encoding.vcmpFNe Encoding.vcmpFLt Encoding.vcmpFLe Encoding.vcmpFUn
    Encoding.vcmpIEq Encoding.vcmpINe Encoding.vcmpILt Encoding.vcmpILe Encoding.vcmpILtu Encoding.vcmpILeu Encoding.vsel Encoding.vclass
    Encoding.vcvtFI Encoding.vcvtIF Encoding.vcvtBfF Encoding.vcvtFBf Encoding.vcvtHF Encoding.vcvtFH Encoding.vquant Encoding.vdeq Encoding.vpackI8
    Encoding.vunpkI8 Encoding.vredaddF Encoding.vredaddI Encoding.vredmaxF Encoding.vredminF Encoding.vredmaxI Encoding.vamax Encoding.vscanI
    Encoding.vscanF
    -- Permutes and masks (R152, R153)
    Encoding.vperm Encoding.vbcast Encoding.vextr Encoding.vins Encoding.vcompr Encoding.vexpnd Encoding.vrot Encoding.viota Encoding.mand
    Encoding.mor Encoding.mxor Encoding.mnot Encoding.mpop Encoding.mfirst Encoding.mset Encoding.mget
    -- Matrix (R162–R170)
    Encoding.mmaBf Encoding.mmaH Encoding.mmaD8 Encoding.mmaI8 Encoding.mzero Encoding.mrd Encoding.mwr Encoding.mwm Encoding.msta Encoding.mwait
    Encoding.mscale Encoding.mmask
    -- Gets, deposits, block deposits and level atomics (R203–R212)
    Encoding.getg Encoding.gets Encoding.getm Encoding.geth Encoding.getr Encoding.gett Encoding.depg Encoding.deps Encoding.depm Encoding.deph
    Encoding.depr Encoding.dept Encoding.depa Encoding.depbG Encoding.depbS Encoding.depbM Encoding.depbH Encoding.depbR Encoding.depbT
    Encoding.amogAdd Encoding.amomAdd Encoding.amorAdd Encoding.amogMin Encoding.amomMin Encoding.amorMin Encoding.amogMax Encoding.amomMax
    Encoding.amorMax Encoding.amogSwap Encoding.amomSwap Encoding.amorSwap Encoding.amogCas Encoding.amomCas Encoding.amorCas
    -- Batches, fences, stream engines and windows (R214–R217, R231–R236)
    Encoding.bseal Encoding.bwait Encoding.xfence Encoding.sestart Encoding.sestop Encoding.sepoll Encoding.wdef Encoding.waita Encoding.rela
    -- Synchronisation (R244–R257)
    Encoding.sync Encoding.abort Encoding.aclr Encoding.seal Encoding.bara Encoding.barw Encoding.tsync
    -- Fabric (R280–R293)
    Encoding.kmint Encoding.krev Encoding.cset Encoding.cfree Encoding.cfire Encoding.mlred Encoding.mcast
    -- 16-bit words (R80, Table 5.2)
    Encoding.vmov16 Encoding.vaddF16 Encoding.vsubF16 Encoding.vmulF16 Encoding.vfmac16 Encoding.vmaxF16 Encoding.vminF16 Encoding.vaddI16
    Encoding.vsubI16 Encoding.vmulI16 Encoding.vand16 Encoding.vor16 Encoding.vxor16 Encoding.vshlV16 Encoding.vshrV16 Encoding.vsraV16

/-- Settles O29: only the machine's events have no word, and each row's own law takes its words back. -/
theorem encodeDecodeRoundTrip : Obligations.EncodeDecodeRoundTrip := by
  unfold Obligations.EncodeDecodeRoundTrip
  exact ⟨fun _ n _ he => exists_encode n he, fun i n c hwf hc => decode_encode i hwf n c hc⟩

/-! ## Words written out from the spec's tables (chapters 5 to 10) -/

/-- Settles O28: the decoder is run on each of the fourteen words. -/
theorem decodeSpecWords : Obligations.DecodeSpecWords := by
  unfold Obligations.DecodeSpecWords
  simp only [specWords, List.forall_mem_cons]
  refine ⟨?_, ?_, ?_, ?_, ?_, ?_, ?_, ?_, ?_, ?_, ?_, ?_, ?_, ?_, fun _ h => (List.not_mem_nil h).elim⟩ <;> decide +kernel

end Sys2Proof.Proofs.RoundTrip

namespace Sys2Proof.Proofs.FetchAndProctors

open Sys2Proof.Machine Sys2Proof.Laws Sys2Proof.Claims Sys2Proof.Observe Sys2Proof.Proofs.Memory Sys2Proof.Proofs.Steps Sys2Proof.Proofs.Registrar

/-! ## Folds over lists and threads -/

/-- Some member of a list makes `b'` of `b`, the others do so or change nothing, and `b'` is left as it is: the list makes `b'` of `b`. -/
theorem foldl_settles {α β : Type} {f : β → α → β} {b b' : β} {l : List α} (hmakes : ∃ x ∈ l, f b x = b')
    (heach : ∀ x ∈ l, f b x = b ∨ f b x = b') (hstays : ∀ x ∈ l, f b' x = b') : l.foldl f b = b' := by
  induction l with
  | nil => obtain ⟨x, hx, _⟩ := hmakes; cases hx
  | cons x r ih =>
    have hr : ∀ y ∈ r, f b' y = b' := fun y hy => hstays y (List.mem_cons_of_mem _ hy)
    rw [List.foldl_cons]
    rcases heach x List.mem_cons_self with hx | hx
    · rw [hx]
      obtain ⟨y, hy, hmade⟩ := hmakes
      rcases List.mem_cons.mp hy with rfl | hy
      · rw [← hx, hmade, foldl_fixed hr]
      · exact ih ⟨y, hy, hmade⟩ (fun z hz => heach z (List.mem_cons_of_mem _ hz)) hr
    · rw [hx, foldl_fixed hr]

/-- A fold whose step for thread `i` of tile `k` changes that thread alone, by a relation: each thread listed changes so once, the others stay. -/
theorem foldl_threads {f : State → Nat → State} {k : Nat} {R : Nat → Thread → Thread → Prop}
    (hother : ∀ a i j n, j ≠ k ∨ n ≠ i → (f a i).thread j n = a.thread j n) (hown : ∀ a i, R i (a.thread k i) ((f a i).thread k i))
    {l : List Nat} (hl : l.Nodup) (s : State) :
    (∀ i ∈ l, R i (s.thread k i) ((l.foldl f s).thread k i)) ∧ ∀ j n, j ≠ k ∨ n ∉ l → (l.foldl f s).thread j n = s.thread j n := by
  induction l generalizing s with
  | nil => exact ⟨fun _ h => absurd h List.not_mem_nil, fun _ _ _ => rfl⟩
  | cons x r ih =>
    obtain ⟨hx, hr⟩ := List.nodup_cons.mp hl
    obtain ⟨hin, hout⟩ := ih hr (f s x)
    refine ⟨fun i hi => ?_, fun j n h => ?_⟩
    · rcases List.mem_cons.mp hi with rfl | hi
      · rw [List.foldl_cons, hout k i (.inr hx)]
        exact hown s i
      · have hne : i ≠ x := fun e => hx (e ▸ hi)
        rw [← hother s x k i (.inr hne)]
        exact hin i hi
    · rw [List.foldl_cons, hout j n (h.imp_right fun hn hm => hn (List.mem_cons_of_mem _ hm)),
        hother s x j n (h.imp_right fun hn e => hn (e ▸ List.mem_cons_self))]

theorem mem_of_getD_ne {α : Type} {d : α} {t : Tab α} {k : Nat} (h : Tab.getD d t k ≠ d) : (k, Tab.getD d t k) ∈ t := by
  induction t with
  | nil => exact absurd rfl h
  | cons e r ih =>
    obtain ⟨j, x⟩ := e
    unfold Tab.getD at h ⊢
    split at h
    · exact absurd rfl h
    · next hkj =>
      rw [if_neg hkj]
      split at h
      · next hk => rw [if_pos hk, hk]; exact List.mem_cons_self
      · next hk => rw [if_neg hk]; exact List.mem_cons_of_mem _ (ih h)

/-! ## Changes of the events to come alone -/

theorem thread_of_tiles {s t : State} (h : t.tiles = s.tiles) (k i : Nat) : t.thread k i = s.thread k i := by
  rw [State.thread, State.thread, State.tile, State.tile, h]

theorem die_of_dies {s t : State} (h : t.dies = s.dies) (d : Nat) : t.die d = s.die d := by rw [State.die, State.die, h]

/-- Nothing of the module differs but events that have been added. -/
structure EventsAdded (s t : State) : Prop where
  only : t = { s with events := t.events }
  events : s.events ⊆ t.events

section Added

variable {s t u : State}

theorem EventsAdded.refl (s : State) : EventsAdded s s := ⟨rfl, List.Subset.refl _⟩

theorem EventsAdded.trans (h₁ : EventsAdded s t) (h₂ : EventsAdded t u) : EventsAdded s u :=
  ⟨h₂.only.trans (congrArg (fun x : State => { x with events := u.events }) h₁.only), List.Subset.trans h₁.events h₂.events⟩

theorem EventsAdded.foldl {α : Type} {f : State → α → State} (hf : ∀ s x, EventsAdded s (f s x)) (l : List α) (s : State) :
    EventsAdded s (l.foldl f s) :=
  List.foldlRecOn l f (.refl s) fun _ h x _ => h.trans (hf _ x)

theorem EventsAdded.ite {c : Prop} [Decidable c] (ht : EventsAdded s t) (hu : EventsAdded s u) : EventsAdded s (if c then t else u) := by
  split <;> assumption

theorem eventsAdded_schedule (s : State) (c : Nat) (e : Instr) : EventsAdded s (s.schedule c e) := ⟨rfl, fun _ h => mem_insertBy.mpr (.inr h)⟩

theorem EventsAdded.due (h : EventsAdded s t) {c : Nat} {e : Instr} (hd : Due s c e) : Due t c e := h.events hd
theorem EventsAdded.cyc (h : EventsAdded s t) : t.cyc = s.cyc := (congrArg State.cyc h.only :)
theorem EventsAdded.mem (h : EventsAdded s t) : t.mem = s.mem := (congrArg State.mem h.only :)
theorem EventsAdded.tiles (h : EventsAdded s t) : t.tiles = s.tiles := (congrArg State.tiles h.only :)
theorem EventsAdded.dies (h : EventsAdded s t) : t.dies = s.dies := (congrArg State.dies h.only :)
theorem EventsAdded.xfers (h : EventsAdded s t) : t.xfers = s.xfers := (congrArg State.xfers h.only :)
theorem EventsAdded.progs (h : EventsAdded s t) : t.progs = s.progs := (congrArg State.progs h.only :)
theorem EventsAdded.thread (h : EventsAdded s t) (k i : Nat) : t.thread k i = s.thread k i := thread_of_tiles h.tiles k i
theorem EventsAdded.die (h : EventsAdded s t) (d : Nat) : t.die d = s.die d := die_of_dies h.dies d

end Added

theorem memoryKept_of_mem {s t : State} (h : t.mem = s.mem) : MemoryKept s t := fun sp a => by rw [State.byte, State.byte, h]

/-! ## Changes of one thread -/

section OneThread

variable {s t u : State} {k i : Nat}

theorem onlyThreadAt_refl (s : State) (k i : Nat) : OnlyThreadAt s s k i := ⟨rfl, fun _ => rfl, fun _ _ _ => rfl⟩

theorem onlyThreadAt_updThread (s : State) (k i : Nat) (f : Thread → Thread) : OnlyThreadAt s (s.updThread k i f) k i :=
  ⟨rfl, fun j => tile_updThread s k i j f, fun _ _ h => thread_updThread_other s f h⟩

theorem onlyThreadAt_trans (h₁ : OnlyThreadAt s t k i) (h₂ : OnlyThreadAt t u k i) : OnlyThreadAt s u k i := by
  obtain ⟨honly₁, htile₁, hother₁⟩ := h₁
  obtain ⟨honly₂, htile₂, hother₂⟩ := h₂
  refine ⟨honly₂.trans (congrArg (fun x : State => { x with tiles := u.tiles }) honly₁), fun j => ?_, fun j n h => (hother₂ j n h).trans (hother₁ j n h)⟩
  exact (htile₂ j).trans (congrArg (fun x : Tile => { x with threads := (u.tile j).threads }) (htile₁ j))

/-- A wait ends: the thread waits no more, and issues no earlier than it would have (R104). -/
structure Woken (x y : Thread) : Prop where
  only : y = { x with wait := .none, retained := y.retained, notBefore := y.notBefore }
  later : x.notBefore ≤ y.notBefore

theorem onlyThreadAt_wake (s : State) (k i : Nat) : OnlyThreadAt s (s.wake k i none) k i := onlyThreadAt_updThread ..

theorem woken_wake (s : State) (k i : Nat) : Woken (s.thread k i) ((s.wake k i none).thread k i) := by
  unfold State.wake State.wakeAt
  rw [thread_updThread]
  split <;> exact ⟨rfl, Nat.le_max_left _ _⟩

theorem onlyThreadAt_tickSwait (s : State) (k i : Nat) : OnlyThreadAt s (s.tickSwait k i) k i := by
  unfold State.tickSwait
  dsimp only
  split
  · split
    · exact onlyThreadAt_wake s k i
    · exact onlyThreadAt_refl s k i
  · exact onlyThreadAt_refl s k i

/-- R126: a thread that waits in SWAIT may go on, and nothing else of it changes. -/
theorem tickSwait_thread (s : State) (k i : Nat) :
    (s.tickSwait k i).thread k i = s.thread k i ∨ Woken (s.thread k i) ((s.tickSwait k i).thread k i) := by
  unfold State.tickSwait
  dsimp only
  split
  · split
    · exact .inr (woken_wake s k i)
    · exact .inl rfl
  · exact .inl rfl

/-- Nothing of the module differs but thread i of tile k and the events to come. -/
structure ThreadWork (s t : State) (k i : Nat) : Prop where
  only : t = { s with tiles := t.tiles, events := t.events }
  tile : ∀ j, t.tile j = { s.tile j with threads := (t.tile j).threads }
  other : ∀ j n, j ≠ k ∨ n ≠ i → t.thread j n = s.thread j n

theorem ThreadWork.of_onlyThreadAt (h : OnlyThreadAt s t k i) : ThreadWork s t k i := by
  obtain ⟨honly, htile, hother⟩ := h
  exact ⟨honly.trans (by rw [honly]), htile, hother⟩

theorem ThreadWork.of_linesAsked (h : LinesAsked s t k i) : ThreadWork s t k i := by
  obtain ⟨honly, htile, hother, _, _⟩ := h
  exact ⟨honly, htile, hother⟩

theorem ThreadWork.trans (h₁ : ThreadWork s t k i) (h₂ : ThreadWork t u k i) : ThreadWork s u k i where
  only := h₂.only.trans (congrArg (fun x : State => { x with tiles := u.tiles, events := u.events }) h₁.only)
  tile j := (h₂.tile j).trans (congrArg (fun x : Tile => { x with threads := (u.tile j).threads }) (h₁.tile j))
  other j n h := (h₂.other j n h).trans (h₁.other j n h)

theorem ThreadWork.mem (h : ThreadWork s t k i) : t.mem = s.mem := (congrArg State.mem h.only :)
theorem ThreadWork.parked (h : ThreadWork s t k i) (j : Nat) : (t.tile j).parked = (s.tile j).parked := (congrArg Tile.parked (h.tile j) :)

end OneThread

/-! ## Refills (R90, R91, R94) -/

section Refill

variable {s : State} {k i line : Nat} {x : Thread}

theorem lineRefill_of_asked (h : line ∈ (s.thread k i).refill) :
    exec (.lineRefill k i line) s = .next (s.updThread k i fun x => x.putLine line) :=
  congrArg Host.Outcome.next (if_pos (List.contains_iff_mem.mpr h))

theorem lineRefill_of_notAsked (h : line ∉ (s.thread k i).refill) : exec (.lineRefill k i line) s = .next s :=
  congrArg Host.Outcome.next (if_neg fun hc => h (List.contains_iff_mem.mp hc))

theorem hasLine_putLine_same : (x.putLine line).hasLine line = true := by
  show (Tab.get (x.lines.set (line % x.share) (line + 1)) (line % x.share) == line + 1) = true
  rw [Tab.get_set_same, beq_self_eq_true]

theorem hasLine_putLine_other {l : Nat} (h : l % x.share ≠ line % x.share) : (x.putLine line).hasLine l = x.hasLine l := by
  show (Tab.get (x.lines.set (line % x.share) (line + 1)) (l % x.share) == l + 1) = _
  rw [Tab.get_set_other _ _ h]
  rfl

theorem not_mem_refill_putLine : line ∉ (x.putLine line).refill := by simp [Thread.putLine]

theorem fillerFetch_eq : exec (.fillerFetch k line) s =
    .next (if (primaryReads s k).length < 8 then s.schedule (s.cyc + 6) (.lineRefill k 8 line) else s.schedule (s.cyc + 16) (.fillerFetch k line)) :=
  (apply_ite Host.Outcome.next _ _ _).symm

end Refill

/-! ## TICKs (R298, R300) -/

section Ticks

/-- What a posted TICK does to one thread of its tile. -/
def tickStep (s : State) (k mask : Nat) (a : State) (i : Nat) : State :=
  if mask.testBit i && (s.tile k).prim.isSome && decide (i < (s.launchOf k 0).nthr) && !(s.thread k i).halted then
    (a.updThread k i (fun x => { x with ticks := x.ticks + 1 })).tickSwait k i
  else a

variable {s : State} {k mask i : Nat}

theorem tickArrival_eq : exec (.tickArrival k mask) s = .next ((List.range 8).foldl (tickStep s k mask) s) := rfl

theorem onlyThreadAt_tickStep (a : State) : OnlyThreadAt a (tickStep s k mask a i) k i := by
  unfold tickStep
  split
  · exact onlyThreadAt_trans (onlyThreadAt_updThread ..) (onlyThreadAt_tickSwait ..)
  · exact onlyThreadAt_refl ..

theorem tickStep_ticks (a : State) : ((tickStep s k mask a i).thread k i).ticks = (a.thread k i).ticks +
    if mask.testBit i = true ∧ (s.tile k).prim ≠ none ∧ i < (s.launchOf k 0).nthr ∧ (s.thread k i).halted = false then 1 else 0 := by
  unfold tickStep
  split
  · next hposted =>
    rw [if_pos (by simpa [Option.isSome_iff_ne_none, and_assoc] using hposted)]
    rcases tickSwait_thread (a.updThread k i (fun x => { x with ticks := x.ticks + 1 })) k i with hsame | hwoken
    · rw [hsame, thread_updThread]
    · rw [hwoken.only, thread_updThread]
  · next hposted =>
    rw [if_neg (by simpa [Option.isSome_iff_ne_none, and_assoc] using hposted)]
    rfl

theorem tickArrival_onlyTiles (l : List Nat) : l.foldl (tickStep s k mask) s = { s with tiles := (l.foldl (tickStep s k mask) s).tiles } := by
  refine List.foldlRecOn (motive := fun t : State => t = { s with tiles := t.tiles }) l _ rfl fun b hb i _ => ?_
  obtain ⟨honly, _, _⟩ := onlyThreadAt_tickStep (s := s) (k := k) (mask := mask) (i := i) b
  exact honly.trans (congrArg (fun x : State => { x with tiles := (tickStep s k mask b i).tiles }) hb)

theorem takeTrap_tick {v : Word} (hin : s.thr.inTrap = false) (hvec : s.thr.tvec ≠ 0#64) :
    ∃ h₁ h₂, s.takeTrap ⟨Cause.tick, v⟩ = s.updThr (fun x => x.enter (s.cyc + x.rot) ⟨Cause.tick, v⟩ (s.thr.tvec.setWidth 18) h₁ h₂) :=
  ⟨_, _, by simp only [State.takeTrap, hin, Bool.false_and, Bool.false_eq_true, if_false, if_neg hvec]; rfl⟩

/-- The state in which thread i of tile k takes its TICK. -/
def acting (s : State) (k i : Nat) : State := { s with curTile := k, curThread := i }

theorem tickTaken_eq (hticks : (s.thread k i).ticks ≠ 0) (htie : (s.thread k i).tie = true) (hin : (s.thread k i).inTrap = false) :
    exec (.tickTaken k i) s =
      .next (((acting s k i).takeTrap ⟨Cause.tick, word (min (s.thread k i).ticks 0xFFFF)⟩).updThr (fun y => { y with ticks := 0 })) :=
  if_pos ⟨Nat.pos_of_ne_zero hticks, htie, hin⟩

/-- R298: the TICK is taken as trap 0x0E before the instruction at Q0, with the number of TICKs that it merges. -/
theorem tickTaken_of_pending (hticks : (s.thread k i).ticks ≠ 0) (htie : (s.thread k i).tie = true) (hin : (s.thread k i).inTrap = false)
    (hvec : (s.thread k i).tvec ≠ 0#64) :
    ∃ t h₁ h₂, exec (.tickTaken k i) s = .next t ∧ MemoryKept s t ∧ (∀ j n, j ≠ k ∨ n ≠ i → t.thread j n = s.thread j n) ∧
      t.thread k i = { (s.thread k i).enter (s.cyc + (s.thread k i).rot) ⟨Cause.tick, word (min (s.thread k i).ticks 0xFFFF)⟩
        ((s.thread k i).tvec.setWidth 18) h₁ h₂ with ticks := 0 } := by
  obtain ⟨h₁, h₂, htrap⟩ := takeTrap_tick (s := acting s k i) (v := word (min (s.thread k i).ticks 0xFFFF)) hin hvec
  have hexec := tickTaken_eq hticks htie hin
  rw [htrap] at hexec
  refine ⟨_, h₁, h₂, hexec, memoryKept_of_mem rfl, fun j n h => ?_, ?_⟩
  · exact (thread_updThread_other _ _ h).trans (thread_updThread_other _ _ h)
  · exact (thread_updThread _ k i _).trans (congrArg (fun x : Thread => { x with ticks := 0 }) (thread_updThread _ k i _))

theorem tickTaken_of_none (h : (s.thread k i).ticks = 0 ∨ (s.thread k i).tie = false ∨ (s.thread k i).inTrap = true) :
    exec (.tickTaken k i) s = .next s := by
  refine if_neg fun ⟨hticks, htie, hin⟩ => ?_
  rcases h with h | h | h
  · exact absurd h (Nat.ne_of_gt hticks)
  · exact Bool.false_ne_true (h.symm.trans htie)
  · exact Bool.false_ne_true (hin.symm.trans h)

/-- The trap set of a TICK (R297, R298, Table 16.1). -/
theorem enter_tick (x : Thread) (c : Nat) (v : Word) (h h₁ h₂ : BitVec 18) :
    (x.enter c ⟨Cause.tick, v⟩ h h₁ h₂).trap.tcause = 0x0E#64 ∧ (x.enter c ⟨Cause.tick, v⟩ h h₁ h₂).trap.epc0 = x.q0.setWidth 64 ∧
    (x.enter c ⟨Cause.tick, v⟩ h h₁ h₂).trap.tstat.getLsbD 2 = true := by
  refine ⟨(by decide : zext 8 (word Cause.tick) = 0x0E#64), by simp [Thread.enter, zext], ?_⟩
  show (boolWord x.n0 ||| (boolWord x.n1 <<< 1) ||| (boolWord true <<< 2)).getLsbD 2 = true
  cases x.n0 <;> cases x.n1 <;> rfl

end Ticks

/-! ## IDLE (R306) -/

section Idle

variable {s : State} {k i since : Nat}

theorem idleWake_of_idle {u : Nat} (h : (s.thread k i).wait = .idle u) : exec (.idleWake k i since) s =
    if (s.thread k i).waitFrom = since ∧ ((s.die (dieOf k)).mailbox ≠ [] ∨ (u ≠ 0 ∧ u ≤ s.cyc)) then .next (s.wake k i none) else .next s := by
  show execIdleWake k i since s = _
  unfold execIdleWake
  dsimp only
  rw [h]

theorem idleWake_of_noIdle (h : ∀ u, (s.thread k i).wait ≠ .idle u) : exec (.idleWake k i since) s = .next s := by
  show execIdleWake k i since s = _
  unfold execIdleWake
  dsimp only
  split
  · next u hu => exact absurd hu (h u)
  · rfl

end Idle

/-! ## The mailbox (R302, R303, R306) -/

section Mailbox

/-- A message enters the mailbox, or its poster holds it while the mailbox is full (R302). -/
def entered (m : Message) (x : Die) : Die :=
  if x.mailbox.length < mailboxSize then { x with mailbox := x.mailbox ++ [m] } else { x with waiting := x.waiting ++ [m] }

/-- A proctor thread that waits in IDLE looks again. -/
def idleLook (s : State) (e : Nat × Nat) : State := match (s.thread e.1 e.2).wait with
  | .idle _ => s.schedule s.cyc (.idleWake e.1 e.2 (s.thread e.1 e.2).waitFrom)
  | _ => s

/-- A proctor thread that waits in MBXRD takes the oldest message, if there is one. -/
def mailServe (d : Nat) (s : State) (e : Nat × Nat) : State := match (s.thread e.1 e.2).wait with
  | .mailbox a rd => if (s.die d).mailbox.isEmpty then s else s.popInto e.1 e.2 a rd s.cyc
  | _ => s

/-- What a popped message changes of the thread that reads it, with `n` messages left (R306). -/
def received (c rd n : Nat) (x : Thread) : Thread :=
  let y := { x with wait := .none, retained := false, notBefore := max x.notBefore (c + 12) }
  if rd = 0 then y else y.push c 0 (y.phys rd) (c + 12) ((0x8000000000000000#64 + word n).setWidth 512)

variable {s : State} {d k i a rd c n : Nat} {m : Message} {rest : List Message}

theorem mailboxArrival_of_first (h : FirstPoster s d m) :
    exec (.mailboxArrival d m) s = .next (((s.updDie d (entered m)).serveMailbox d 0).wakeIdle d) := by
  refine if_neg fun hbefore => ?_
  obtain ⟨e, he, hdue⟩ := List.any_eq_true.mp hbefore
  obtain ⟨hcyc, hlower⟩ := Bool.and_eq_true_iff.mp hdue
  split at hlower
  · next d' n hev =>
    obtain ⟨hd, hrank⟩ := Bool.and_eq_true_iff.mp hlower
    exact h e he (of_decide_eq_true hcyc) n (by rw [hev, eq_of_beq hd]) (of_decide_eq_true hrank)
  · cases hlower

theorem wakeIdle_eq (s : State) (d : Nat) : s.wakeIdle d = (proctorThreads d).foldl idleLook s := rfl

theorem eventsAdded_idleLook (s : State) (e : Nat × Nat) : EventsAdded s (idleLook s e) := by
  unfold idleLook
  split
  · exact eventsAdded_schedule ..
  · exact .refl s

theorem eventsAdded_wakeIdle (s : State) (d : Nat) : EventsAdded s (s.wakeIdle d) := .foldl eventsAdded_idleLook _ s

theorem due_wakeIdle {e : Nat × Nat} (he : e ∈ proctorThreads d) {u : Nat} (hu : (s.thread e.1 e.2).wait = .idle u) :
    Due (s.wakeIdle d) s.cyc (.idleWake e.1 e.2 (s.thread e.1 e.2).waitFrom) := by
  obtain ⟨l₁, l₂, hl⟩ := List.append_of_mem he
  rw [wakeIdle_eq, hl, List.foldl_append, List.foldl_cons]
  have hbefore : EventsAdded s (l₁.foldl idleLook s) := .foldl eventsAdded_idleLook l₁ s
  refine EventsAdded.due (.foldl eventsAdded_idleLook l₂ _) ?_
  generalize l₁.foldl idleLook s = b at hbefore ⊢
  unfold idleLook
  rw [hbefore.thread, hu, hbefore.cyc]
  exact due_schedule ..

theorem serveMailbox_eq (s : State) (d n : Nat) : s.serveMailbox d n =
    (sortBy (fun e => (s.thread e.1 e.2).waitFrom) ((proctorThreads d).filter (fun e => e.1 % 2 == n))).foldl (mailServe d) s := rfl

theorem mem_served {e : Nat × Nat} {key : Nat × Nat → Nat} :
    e ∈ sortBy key ((proctorThreads d).filter (fun e => e.1 % 2 == n)) ↔ e ∈ proctorThreads d ∧ e.1 % 2 = n := by
  rw [mem_sortBy, List.mem_filter, beq_iff_eq]

theorem mailServe_of_noWait {e : Nat × Nat} (h : ∀ a rd, (s.thread e.1 e.2).wait ≠ .mailbox a rd) : mailServe d s e = s := by
  unfold mailServe
  split
  · next a rd hwait => exact absurd hwait (h a rd)
  · rfl

theorem mailServe_of_wait {e : Nat × Nat} (h : (s.thread e.1 e.2).wait = .mailbox a rd) (hm : (s.die d).mailbox = m :: rest) :
    mailServe d s e = s.popInto e.1 e.2 a rd s.cyc := by
  unfold mailServe
  rw [h, hm]
  rfl

/-- Nothing is popped where no thread of the proctor waits. -/
theorem serveMailbox_of_noReader {but : List (Nat × Nat)} (h : NoReader s d but) (hbut : ∀ e ∈ but, e.1 % 2 ≠ n) : s.serveMailbox d n = s := by
  rw [serveMailbox_eq]
  refine foldl_fixed fun e he => mailServe_of_noWait ?_
  obtain ⟨hmem, hn⟩ := mem_served.mp he
  exact h e hmem fun hin => hbut e hin hn

theorem dieOf_proctor (h : (k, i) ∈ proctorThreads d) : dieOf k = d := by
  simp only [proctorThreads, List.flatMap_cons, List.flatMap_nil, List.append_nil, List.mem_append, List.mem_map, List.mem_range,
    Prod.mk.injEq] at h
  unfold dieOf
  obtain ⟨_, _, rfl, _⟩ | ⟨_, _, rfl, _⟩ := h
  · rw [if_neg (by omega)]; omega
  · rw [if_neg (by omega)]; omega

/-! ### A message that is popped -/

theorem popInto_of_mailbox (hm : (s.die (dieOf k)).mailbox = m :: rest) (hw : (s.die (dieOf k)).waiting = []) :
    s.popInto k i a rd c = ((s.updDie (dieOf k) (fun x => { x with mailbox := rest, waiting := [] })).poke (.tile k) a (messageBytes m)).updThread k i
      (received c rd rest.length) := by
  simp only [State.popInto, hm, hw, List.take_nil, List.drop_nil, List.append_nil]
  rfl

theorem wait_received (x : Thread) : (received c rd n x).wait = .none := by
  unfold received
  dsimp only
  split
  · rfl
  · exact congrArg Thread.wait (same_push ..)

theorem readAt_received (x : Thread) (hrd : rd ≠ 0) {c' : Nat} (hc : c + 12 ≤ c') :
    (received c rd n x).readAt c' 0 (x.phys rd) = (0x8000000000000000#64 + word n).setWidth 512 := by
  have hfirst : decide (0 = 0 ∧ x.phys rd = x.phys rd ∧ c + 12 ≤ c') = true := decide_eq_true ⟨rfl, rfl, hc⟩
  unfold received Thread.readAt
  dsimp only
  rw [if_neg hrd]
  unfold Thread.push
  rw [List.find?_cons_of_pos]
  exact hfirst

theorem length_messageBytes (m : Message) : (messageBytes m).length = 32 := rfl

theorem num_poke_inside (s : State) (sp : Space) (a : Nat) (bs : List Byte) {o n : Nat} (h : o + n ≤ bs.length) :
    (s.poke sp a bs).num sp (a + o) n = natOfBytes ((bs.drop o).take n) := by
  refine congrArg natOfBytes (List.ext_getElem (by simp only [State.bytes, List.length_map, List.length_range, List.length_take, List.length_drop]; omega) fun j h₁ h₂ => ?_)
  have hj : j < n := by simpa only [State.bytes, List.length_map, List.length_range] using h₁
  simp only [State.bytes, List.getElem_map, List.getElem_range, List.getElem_take, List.getElem_drop, Nat.add_assoc]
  rw [byte_poke_inside s sp a bs (by omega), List.getD_eq_getElem?_getD, List.getElem?_eq_getElem (by omega), Option.getD_some]

/-- The message stands in memory as Table 16.3 lays it out. -/
theorem messageAt_poke (s : State) (k a : Nat) (m : Message) : MessageAt (s.poke (.tile k) a (messageBytes m)) k a m := by
  have hfield : ∀ (o n x : Nat), o + n ≤ 32 → ((messageBytes m).drop o).take n = bytesOfNat n x →
      (s.poke (.tile k) a (messageBytes m)).num (.tile k) (a + o) n = x % 256 ^ n := fun o n x hfit hx => by
    rw [num_poke_inside s _ a _ (by rwa [length_messageBytes]), hx, natOfBytes_bytesOfNat]
  have hword : ∀ w : Word, w.toNat % 256 ^ 8 = w.toNat := fun w => Nat.mod_eq_of_lt w.isLt
  exact ⟨hfield 0 1 m.kind (by decide) rfl, hfield 1 1 m.flags (by decide) rfl, hfield 2 2 m.source (by decide) rfl,
    hfield 4 2 m.ctx (by decide) rfl, hfield 6 1 m.unit (by decide) rfl, hfield 7 1 m.detail (by decide) rfl,
    (hfield 8 8 m.value.toNat (by decide) rfl).trans (hword _), (hfield 16 8 m.location.toNat (by decide) rfl).trans (hword _),
    hfield 24 4 m.item (by decide) rfl, hfield 28 4 m.ticket (by decide) rfl⟩

theorem bytesKept_poke (s : State) (k : Nat) (m : Message) (h : a + 32 ≤ 393216) : BytesKept s (s.poke (.tile k) a (messageBytes m)) k a 32 :=
  fun _ _ hx hout => byte_poke_outside s h hx hout

theorem num_of_mem {s t : State} (h : t.mem = s.mem) (sp : Space) (a n : Nat) : t.num sp a n = s.num sp a n := by
  simp only [State.num, State.bytes, State.byte, h]

theorem messageAt_of_mem {s t : State} (h : t.mem = s.mem) (hmsg : MessageAt s k a m) : MessageAt t k a m := by
  simpa only [MessageAt, num_of_mem h] using hmsg

theorem bytesKept_of_mem {s t u v : State} (ht : t.mem = s.mem) (hv : v.mem = u.mem) (h : BytesKept s u k a n) : BytesKept t v k a n := by
  simpa only [BytesKept, State.byte, ht, hv] using h

/-- A message that is popped for the one thread that reads (R306). -/
structure Popped (s u : State) (d k i a rd : Nat) (m : Message) (rest : List Message) : Prop where
  message : MessageAt u k a m
  bytes : BytesKept s u k a 32
  mailbox : (u.die d).mailbox = rest
  die : u.die d = { s.die d with mailbox := rest, waiting := [] }
  wait : (u.thread k i).wait = .none
  read : rd ≠ 0 → ∀ c, s.cyc + 12 ≤ c → (u.thread k i).readAt c 0 ((s.thread k i).phys rd) = (0x8000000000000000#64 + word rest.length).setWidth 512

section Pop

variable (hm : (s.die (dieOf k)).mailbox = m :: rest) (hw : (s.die (dieOf k)).waiting = [])

include hm hw

theorem popInto_thread : (s.popInto k i a rd c).thread k i = received c rd rest.length (s.thread k i) := by
  rw [popInto_of_mailbox hm hw, thread_updThread, thread_of_tiles ((poke_tiles ..).trans (updDie_tiles ..))]

theorem popInto_thread_other {j n : Nat} (h : j ≠ k ∨ n ≠ i) : (s.popInto k i a rd c).thread j n = s.thread j n := by
  rw [popInto_of_mailbox hm hw, thread_updThread_other _ _ h, thread_of_tiles ((poke_tiles ..).trans (updDie_tiles ..))]

theorem popInto_die : (s.popInto k i a rd c).die (dieOf k) = { s.die (dieOf k) with mailbox := rest, waiting := [] } := by
  rw [popInto_of_mailbox hm hw, die_of_dies ((updThread_dies ..).trans (poke_dies ..)), die_updDie]

theorem popInto_mem : (s.popInto k i a rd c).mem = (s.poke (.tile k) a (messageBytes m)).mem := by
  rw [popInto_of_mailbox hm hw, updThread_mem, State.poke, State.poke, updDie_mem]

theorem popInto_outbox : (s.popInto k i a rd c).outbox = s.outbox := by
  rw [popInto_of_mailbox hm hw, updThread_outbox, poke_outbox, updDie_outbox]

theorem popInto_cyc : (s.popInto k i a rd c).cyc = s.cyc := by
  rw [popInto_of_mailbox hm hw, updThread_cyc, poke_cyc, updDie_cyc]

/-- The thread that has read a message waits for none. -/
theorem noReader_popInto (hno : NoReader s d [(k, i)]) : NoReader (s.popInto k i a rd c) d [] := by
  intro e he _ a' rd' hwait
  by_cases hek : e = (k, i)
  · subst hek
    rw [popInto_thread hm hw, wait_received] at hwait
    cases hwait
  · rw [popInto_thread_other hm hw (Classical.not_and_iff_not_or_not.mp fun ⟨hj, hn⟩ => hek (Prod.ext hj hn))] at hwait
    exact hno e he (by simpa using hek) a' rd' hwait

end Pop

/-- Serving a proctor's threads pops the oldest message for the only one that waits. -/
theorem serveMailbox_of_reader (hk : (k, i) ∈ proctorThreads d) (hn : k % 2 = n) (hwait : (s.thread k i).wait = .mailbox a rd)
    (hno : NoReader s d [(k, i)]) (hm : (s.die d).mailbox = m :: rest) (hw : (s.die d).waiting = []) :
    s.serveMailbox d n = s.popInto k i a rd s.cyc := by
  obtain rfl := dieOf_proctor hk
  have hnone := noReader_popInto (i := i) (a := a) (rd := rd) (c := s.cyc) hm hw hno
  rw [serveMailbox_eq]
  refine foldl_settles ⟨(k, i), mem_served.mpr ⟨hk, hn⟩, mailServe_of_wait hwait hm⟩ (fun e he => ?_) fun e he =>
    mailServe_of_noWait (hnone e (mem_served.mp he).1 List.not_mem_nil)
  by_cases hek : e = (k, i)
  · exact .inr (hek ▸ mailServe_of_wait hwait hm)
  · exact .inl (mailServe_of_noWait (hno e (mem_served.mp he).1 (by simpa using hek)))

theorem popped_popInto (hd : dieOf k = d) (hm : (s.die d).mailbox = m :: rest) (hw : (s.die d).waiting = []) (ha : a + 32 ≤ 393216) :
    Popped s (s.popInto k i a rd s.cyc) d k i a rd m rest := by
  subst hd
  have hdie := popInto_die (i := i) (a := a) (rd := rd) (c := s.cyc) hm hw
  have hthread := popInto_thread (i := i) (a := a) (rd := rd) (c := s.cyc) hm hw
  have hmem := popInto_mem (i := i) (a := a) (rd := rd) (c := s.cyc) hm hw
  refine ⟨messageAt_of_mem hmem (messageAt_poke s k a m), bytesKept_of_mem rfl hmem (bytesKept_poke s k m ha), congrArg Die.mailbox hdie, hdie,
    by rw [hthread, wait_received], fun hrd c hc => ?_⟩
  rw [hthread]
  exact readAt_received _ hrd hc

/-! ### The arrival of a message -/

theorem noReader_updDie {but : List (Nat × Nat)} (h : NoReader s d but) (f : Die → Die) : NoReader (s.updDie d f) d but := h

theorem entered_empty {x : Die} (hm : x.mailbox = []) : entered m x = { x with mailbox := [m] } := by
  unfold entered
  rw [hm, if_pos (by decide)]
  rfl

/-- R302: nobody waits: the message stays in the mailbox or with its poster. -/
theorem mailboxArrival_of_noReader (hfirst : FirstPoster s d m) (hno : NoReader s d []) :
    exec (.mailboxArrival d m) s = .next ((s.updDie d (entered m)).wakeIdle d) := by
  rw [mailboxArrival_of_first hfirst, serveMailbox_of_noReader (noReader_updDie hno _) (fun _ h => absurd h List.not_mem_nil)]

/-- R302, R306: the reader of proctor 0 takes the message as it arrives. -/
theorem mailboxArrival_of_reader (hfirst : FirstPoster s d m) (hk : (k, i) ∈ proctorThreads d) (heven : k % 2 = 0)
    (hwait : (s.thread k i).wait = .mailbox a rd) (hno : NoReader s d [(k, i)]) (hm : (s.die d).mailbox = []) (hw : (s.die d).waiting = []) :
    exec (.mailboxArrival d m) s = .next (((s.updDie d (entered m)).popInto k i a rd (s.updDie d (entered m)).cyc).wakeIdle d) := by
  have hdie : (s.updDie d (entered m)).die d = { s.die d with mailbox := [m] } := (die_updDie s d _).trans (entered_empty hm)
  have hserve := serveMailbox_of_reader (s := s.updDie d (entered m)) hk heven hwait (noReader_updDie hno _) (by rw [hdie]) (by rw [hdie]; exact hw)
  rw [mailboxArrival_of_first hfirst, hserve]

theorem endCycle_of_reader (hk : (k, i) ∈ proctorThreads d) (hodd : k % 2 = 1) (hwait : (s.thread k i).wait = .mailbox a rd)
    (hno : NoReader s d [(k, i)]) (hm : (s.die d).mailbox = m :: rest) (hw : (s.die d).waiting = [])
    (hothers : ∀ e ∈ s.dies, e.1 ≠ d → e.2.mailbox = []) (hout : ∀ e ∈ s.outbox, s.cyc < e.due) : s.endCycle = s.popInto k i a rd s.cyc := by
  have hserve := serveMailbox_of_reader hk hodd hwait hno hm hw
  have hnone := noReader_popInto (i := i) (a := a) (rd := rd) (c := s.cyc) (dieOf_proctor hk ▸ hm) (dieOf_proctor hk ▸ hw) hno
  have hlisted : (d, s.die d) ∈ s.dies := mem_of_getD_ne fun h => by
    have : (s.die d).mailbox = [] := congrArg Die.mailbox h
    rw [hm] at this
    cases this
  unfold State.endCycle
  rw [foldl_settles (b' := s.popInto k i a rd s.cyc) ⟨_, hlisted, ?_⟩ (fun e he => ?_) fun e he => ?_]
  · obtain rfl := dieOf_proctor hk
    exact flush_of_none (by rw [popInto_outbox hm hw, popInto_cyc hm hw]; exact hout)
  · exact (if_neg (by rw [hm]; exact Bool.false_ne_true)).trans hserve
  · by_cases hed : e.1 = d
    · by_cases hempty : e.2.mailbox.isEmpty = true
      · exact .inl (if_pos hempty)
      · exact .inr ((if_neg hempty).trans (hed ▸ hserve))
    · exact .inl (if_pos (by rw [hothers e he hed]; rfl))
  · by_cases hed : e.1 = d
    · rw [hed, serveMailbox_of_noReader hnone (fun _ h => absurd h List.not_mem_nil), ite_self]
    · exact if_pos (by rw [hothers e he hed]; rfl)

end Mailbox

/-! ## The end of a park (R304) -/

section Resume

/-- One stopped thread of a tile whose park ends in cycle `c`. -/
def resumeStep (k c : Nat) (a : State) (i : Nat) : State :=
  let x := a.thread k i
  if x.live && !x.halted && !x.stopped then
    ((a.updThread k i (fun y => { y.resumeLoad with notBefore := max y.notBefore c, stallDone := true, heldFrom := none })).requestFrom k i c).tickSwait k i
  else a

/-- What the end of a park makes of a thread: a running one has its queue back and its stall count passed. -/
def Resumed (c : Nat) (x u : Thread) : Prop :=
  (¬ Running x → u = x) ∧ ∀ n, Running x → x.nested = some n →
    u.q0 = x.trap.epc0.setWidth 18 ∧ u.q1 = x.trap.epc1.setWidth 18 ∧ u.q2 = x.trap.epc2.setWidth 18 ∧ u.n0 = x.trap.tstat.getLsbD 0 ∧
    u.n1 = x.trap.tstat.getLsbD 1 ∧ u.trap = n ∧ u.nested = none ∧ u.stallDone = true ∧ u.regs = x.regs ∧ c ≤ u.notBefore

variable {s : State} {k i c : Nat}

theorem tileResume_of_parked (h : (s.tile k).parked = true) :
    exec (.tileResume k 0) s = .next ((parkThreads 0).foldl (resumeStep k s.cyc) (s.updTile k (fun x => x.unparked false))) := if_pos h

theorem tileResume_of_notParked (h : (s.tile k).parked = false) : exec (.tileResume k 0) s = .next s :=
  if_neg (by rw [if_neg (by decide), h]; decide)

theorem linesAsked_requestFrom (u : State) (k i c : Nat) : LinesAsked u (u.requestFrom k i c) k i := by
  refine linesAsked_foldl (fun a x => ?_) _ u
  exact linesAsked_trans (linesAsked_updThread_refill a k i fun y => x.1 :: y.refill)
    (linesAsked_ite (linesAsked_schedule ..) (linesAsked_schedule ..))

theorem running_iff {x : Thread} : (x.live && !x.halted && !x.stopped) = true ↔ Running x := by simp [Running, and_assoc]

/-- A thread as its reloaded queue, its stall count and the cycle of the resumption leave it. -/
def reloaded (c : Nat) (y : Thread) : Thread := { y.resumeLoad with notBefore := max y.notBefore c, stallDone := true, heldFrom := none }

theorem resumeStep_of_running (a : State) (h : Running (a.thread k i)) :
    resumeStep k c a i = ((a.updThread k i (reloaded c)).requestFrom k i c).tickSwait k i := if_pos (running_iff.mpr h)

theorem resumeStep_of_notRunning (a : State) (h : ¬ Running (a.thread k i)) : resumeStep k c a i = a := if_neg fun hr => h (running_iff.mp hr)

theorem reloaded_of_nested {x : Thread} {n : TrapSet} (h : x.nested = some n) : reloaded c x =
    { x with q0 := x.trap.epc0.setWidth 18, q1 := x.trap.epc1.setWidth 18, q2 := x.trap.epc2.setWidth 18, n0 := x.trap.tstat.getLsbD 0,
             n1 := x.trap.tstat.getLsbD 1, trap := n, nested := none, notBefore := max x.notBefore c, stallDone := true, heldFrom := none } := by
  simp [reloaded, Thread.resumeLoad, h, bit]

theorem requestFrom_thread (a : State) :
    ∃ r, ((a.updThread k i (reloaded c)).requestFrom k i c).thread k i = { reloaded c (a.thread k i) with refill := r } := by
  obtain ⟨_, _, _, hthread, _⟩ := linesAsked_requestFrom (a.updThread k i (reloaded c)) k i c
  rw [thread_updThread] at hthread
  exact ⟨_, hthread⟩

theorem resumed_resumeStep (a : State) : Resumed c (a.thread k i) ((resumeStep k c a i).thread k i) := by
  refine ⟨fun hidle => by rw [resumeStep_of_notRunning a hidle], fun n hrun hn => ?_⟩
  obtain ⟨r, hload⟩ := requestFrom_thread (k := k) (i := i) (c := c) a
  rw [reloaded_of_nested hn] at hload
  rw [resumeStep_of_running a hrun]
  rcases tickSwait_thread ((a.updThread k i (reloaded c)).requestFrom k i c) k i with hsame | hwoken
  · rw [hsame, hload]
    exact ⟨rfl, rfl, rfl, rfl, rfl, rfl, rfl, rfl, rfl, Nat.le_max_right _ _⟩
  · have hlater := hwoken.later
    rw [hload] at hlater
    rw [hwoken.only, hload]
    exact ⟨rfl, rfl, rfl, rfl, rfl, rfl, rfl, rfl, rfl, Nat.le_trans (Nat.le_max_right _ _) hlater⟩

theorem threadWork_resumeStep (a : State) : ThreadWork a (resumeStep k c a i) k i := by
  unfold resumeStep
  dsimp only
  split
  · exact .trans (.trans (.of_onlyThreadAt (onlyThreadAt_updThread ..)) (.of_linesAsked (linesAsked_requestFrom ..)))
      (.of_onlyThreadAt (onlyThreadAt_tickSwait ..))
  · exact .of_onlyThreadAt (onlyThreadAt_refl ..)

/-- R304: the park of the tile's primary threads is over, and each of them resumes. -/
theorem tileResume_resumes (h : (s.tile k).parked = true) : ∃ t, exec (.tileResume k 0) s = .next t ∧ MemoryKept s t ∧
    (t.tile k).parked = false ∧ t.thread k 8 = s.thread k 8 ∧ ∀ i, i < 8 → Resumed s.cyc (s.thread k i) (t.thread k i) := by
  have hthread : ∀ i, (s.updTile k (fun x => x.unparked false)).thread k i = s.thread k i := fun i => by
    rw [State.thread, tile_updTile]
    rfl
  obtain ⟨hin, hout⟩ := foldl_threads (f := resumeStep k s.cyc) (k := k) (R := fun _ => Resumed s.cyc)
    (fun a i => (threadWork_resumeStep a).other) (fun a i => resumed_resumeStep a) (l := parkThreads 0) (by decide)
    (s.updTile k (fun x => x.unparked false))
  refine ⟨_, tileResume_of_parked h, memoryKept_of_mem ?_, ?_, ?_, fun i hi => ?_⟩
  · exact foldl_same State.mem (fun a i => (threadWork_resumeStep a).mem) _ _
  · refine (foldl_same (fun a => (a.tile k).parked) (fun a i => (threadWork_resumeStep a).parked k) _ _).trans ?_
    rw [tile_updTile]
    rfl
  · exact (hout k 8 (.inr (by decide))).trans (hthread 8)
  · rw [← hthread i]
    exact hin i (List.mem_range.mpr hi : i ∈ List.range 8)

end Resume

/-! ## Engines that a reply lets go on (R305, R306, Table 16.6) -/

section Engines

variable {s : State} {id : Nat}

theorem eventsAdded_nudgeBells (s : State) : EventsAdded s s.nudgeBells :=
  .foldl (fun _ _ => .ite (eventsAdded_schedule ..) (.ite (eventsAdded_schedule ..) (.refl _))) _ s

theorem eventsAdded_askRetire (s : State) (k : Nat) : EventsAdded s (s.askRetire k) := .ite (eventsAdded_schedule ..) (.refl s)

theorem eventsAdded_askComplete (s : State) (lid : Nat) : EventsAdded s (s.askComplete lid) := .ite (eventsAdded_schedule ..) (.refl s)

/-! ### Transfers -/

theorem xfer_of_get {x : Xfer} (h : s.xfers.get id = some x) : s.xfer id = x := by rw [State.xfer, h]; rfl

theorem updXfer_of_get {x : Xfer} (h : s.xfers.get id = some x) (f : Xfer → Xfer) :
    s.updXfer id f = { s with xfers := s.xfers.set id (some (f x)) } := by rw [State.updXfer, h]

theorem onlyThreadAt_countHeld (s : State) (id : Nat) : OnlyThreadAt s (s.countHeld id) (s.xfer id).tile (s.xfer id).thread := by
  unfold State.countHeld State.countFrom
  split
  · exact onlyThreadAt_updThread ..
  · exact onlyThreadAt_refl ..

theorem countHeld_xfers (s : State) (id : Nat) : (s.countHeld id).xfers = s.xfers := (congrArg State.xfers (onlyThreadAt_countHeld s id).1 :)
theorem countHeld_mem (s : State) (id : Nat) : (s.countHeld id).mem = s.mem := (congrArg State.mem (onlyThreadAt_countHeld s id).1 :)

theorem engineRetry_transfer {x : Xfer} (h : s.xfers.get id = some x) : exec (.engineRetry 0 id) s =
    .next (if x.verdict = 1 then (s.retryXfer id).nudgeBells else if x.verdict = 2 then (s.countHeld id).finish id 1 else s) := by
  show Host.Outcome.next (s.answerXfer id) = _
  rw [State.answerXfer, h]

theorem engineRetry_noTransfer (h : s.xfers.get id = none) : exec (.engineRetry 0 id) s = .next s := by
  show Host.Outcome.next (s.answerXfer id) = _
  rw [State.answerXfer, h]

/-- A get that the proctor lets go on, in cycle `c`: no ticket, no verdict, and it lands from now on (R42). -/
def letGoOn (c : Nat) (v : Xfer) : Xfer := { v with ticket := 0, verdict := 0, land := if v.kind = .get then c else v.land }

/-- R305: a get whose source is translated lands from the bytes that it has read. -/
theorem retryXfer_of_get {x : Xfer} (h : s.xfers.get id = some x) (hkind : x.kind = .get) (hsegs : x.segs ≠ []) :
    s.retryXfer id = ((s.updXfer id (letGoOn s.cyc)).countHeld id).schedule s.cyc (.getLand id) := by
  unfold State.retryXfer
  dsimp only
  rw [xfer_of_get h, if_pos (by rw [hkind]; decide), if_neg]
  · rfl
  · simp [List.isEmpty_eq_false_iff.mpr hsegs]

theorem engineRetry_goesOn {x : Xfer} (h : s.xfers.get id = some x) (hkind : x.kind = .get) (hsegs : x.segs ≠ []) (hverdict : x.verdict = 1) :
    ∃ t, exec (.engineRetry 0 id) s = .next t ∧ MemoryKept s t ∧ (∃ y, t.xfers.get id = some y ∧ y.ticket = 0) ∧ Due t s.cyc (.getLand id) := by
  have hadded := (eventsAdded_schedule ((s.updXfer id (letGoOn s.cyc)).countHeld id) s.cyc (.getLand id)).trans (eventsAdded_nudgeBells _)
  refine ⟨_, (engineRetry_transfer h).trans (congrArg Host.Outcome.next ((if_pos hverdict).trans (congrArg State.nudgeBells (retryXfer_of_get h hkind hsegs)))),
    memoryKept_of_mem ?_, ⟨letGoOn s.cyc x, ?_, rfl⟩, (eventsAdded_nudgeBells _).due (due_schedule ..)⟩
  · rw [hadded.mem, countHeld_mem, updXfer_of_get h]
  · rw [hadded.xfers, countHeld_xfers, updXfer_of_get h]
    exact Tab.get_set_same ..

theorem settleBatch_mem (s : State) (k t : Nat) : (s.settleBatch k t).mem = s.mem := by
  unfold State.settleBatch
  split
  · split
    · unfold State.deliverW
      dsimp only
      split <;> rfl
    · rfl
  · rfl

theorem stretchBells_mem (s : State) (x : Xfer) : (s.stretchBells x).mem = s.mem :=
  foldl_same State.mem (fun a b => by split <;> rfl) _ _

/-- R215: a transfer that reaches its final state is listed no more, and writes nothing. -/
theorem finish_of_open {x : Xfer} (h : s.xfers.get id = some x) (hfinal : x.final = false) (st : Nat) :
    (s.finish id st).mem = s.mem ∧ (s.finish id st).xfers.get id = none := by
  unfold State.finish
  dsimp only
  rw [xfer_of_get h, if_neg (by rw [h]; exact Bool.false_ne_true), if_neg (by rw [hfinal]; exact Bool.false_ne_true)]
  refine ⟨?_, ?_⟩
  · rw [(eventsAdded_askRetire _ _).mem]
    show (State.nudgeBells _).mem = _
    rw [(eventsAdded_nudgeBells _).mem, stretchBells_mem, settleBatch_mem]
    split <;> rw [updXfer_of_get h] <;> rfl
  · rw [(eventsAdded_askRetire _ _).xfers]
    exact Tab.get_set_same ..

theorem engineRetry_fails {x : Xfer} (h : s.xfers.get id = some x) (hfinal : x.final = false) (hverdict : x.verdict = 2) :
    ∃ t, exec (.engineRetry 0 id) s = .next t ∧ MemoryKept s t ∧ t.xfers.get id = none := by
  obtain ⟨hmem, hgone⟩ := finish_of_open (s := s.countHeld id) (by rw [countHeld_xfers]; exact h) hfinal 1
  refine ⟨_, (engineRetry_transfer h).trans (congrArg Host.Outcome.next ?_), memoryKept_of_mem (hmem.trans (countHeld_mem s id)), hgone⟩
  rw [if_neg (by rw [hverdict]; decide), if_pos hverdict]

/-! ### Stream programs -/

theorem engineRetry_program {key : Nat} (h : s.pslotOf id = some key) : exec (.engineRetry 1 id) s =
    .next (if (s.prog key).st ≠ 3 then s
      else if (s.prog key).verdict = 1 then s.updProg key (fun p => { p with st := 1, verdict := 0, due := s.cyc })
      else if (s.prog key).verdict = 2 then s.failProg key else s) := by
  show Host.Outcome.next (s.answerProg id) = _
  rw [State.answerProg, h]

theorem engineRetry_noProgram (h : s.pslotOf id = none) : exec (.engineRetry 1 id) s = .next s := by
  show Host.Outcome.next (s.answerProg id) = _
  rw [State.answerProg, h]

/-- A program of a failed item (R235, Table 16.6). -/
def failed (p : Prog) : Prog := { p with st := 6, verdict := 0, status := if p.status = 0 then 1 else p.status }

theorem failProg_of_noWindow {key : Nat} (hwrote : (s.prog key).wrote = []) (hmove : s.moveWindow key = []) :
    EventsAdded (s.updProg key failed) (s.failProg key) := by
  unfold State.failProg
  dsimp only
  rw [hwrote, hmove]
  exact (eventsAdded_nudgeBells _).trans (eventsAdded_askComplete _ _)

/-! ### Matrix queues -/

/-- No command of a queue is held for the proctor. -/
def NoneHeld (s : State) (k o : Nat) : Prop := ∀ c ∈ s.mqueue k o, c.stage ≠ 5

variable {k o : Nat}

theorem queue_setQueue (t : Tile) (o : Nat) (q : List MCmd) : (t.setQueue o q).queue o = q := by
  unfold Tile.setQueue Tile.queue
  split <;> rfl

theorem noneHeld_updCmd {n : Nat} {f : MCmd → MCmd} (hf : ∀ c, (f c).stage ≠ 5) (h : NoneHeld s k o) : NoneHeld (s.updCmd k o n f) k o := by
  intro c hc
  rw [State.mqueue, State.updCmd, tile_updTile, queue_setQueue] at hc
  obtain ⟨c', hc', rfl⟩ := List.mem_map.mp hc
  split
  · exact hf c'
  · exact h c' hc'

theorem noneHeld_queueOn (s : State) (k o : Nat) : NoneHeld (s.updTile k (fun t => t.queueOn o)) k o := by
  intro c hc
  rw [State.mqueue, tile_updTile, Tile.queueOn, queue_setQueue] at hc
  obtain ⟨c', _, rfl⟩ := List.mem_map.mp hc
  split
  · exact (by decide : (0 : Nat) ≠ 5)
  · next h => exact h

/-- The stages that may start write no memory and hold no command. -/
structure Advanced (s t : State) (k o : Nat) : Prop where
  mem : t.mem = s.mem
  held : NoneHeld s k o → NoneHeld t k o

theorem Advanced.refl (s : State) (k o : Nat) : Advanced s s k o := ⟨rfl, id⟩

theorem Advanced.trans {t u : State} (h₁ : Advanced s t k o) (h₂ : Advanced t u k o) : Advanced s u k o := ⟨h₂.mem.trans h₁.mem, h₂.held ∘ h₁.held⟩

theorem Advanced.ite {c : Prop} [Decidable c] {t u : State} (ht : Advanced s t k o) (hu : Advanced s u k o) :
    Advanced s (if c then t else u) k o := by split <;> assumption

theorem advanced_start (s : State) (k o n c : Nat) (e : Instr) {f : MCmd → MCmd} (hf : ∀ c, (f c).stage ≠ 5) :
    Advanced s ((s.updCmd k o n f).schedule c e) k o := ⟨rfl, noneHeld_updCmd hf⟩

theorem advanced_advanceFrom (r : List MCmd) (i latch : Nat) (s : State) : Advanced s (advanceFrom k o r i latch s) k o := by
  induction r generalizing i latch s with
  | nil => exact .refl s k o
  | cons c r ih =>
    unfold advanceFrom
    refine .ite (.refl s k o) ?_
    have hmark : ∀ n at_ e, n ≠ 5 → Advanced s ((s.updCmd k o c.id (fun x => { x with stage := n })).schedule at_ e) k o :=
      fun n at_ e hn => advanced_start s k o c.id at_ e fun _ => hn
    cases c.kind with
    | mma op =>
      have hstart : Advanced s (if c.stage = 0 then
          if i ≤ 1 then (s.updCmd k o c.id (fun x => { x with stage := 1 })).schedule (max (max (s.portsFree k o) (c.issued + 1)) latch) (.mmaLatch k o c.id) else s
        else if c.stage = 2 ∧ i = 0 then
          match s.lastOwned k o 4096 (max s.cyc c.latchEnd) (passWork op) with
          | some x => (s.updCmd k o c.id (fun y => { y with stage := 3, due := x })).schedule x (.mmaPass k o c.id 1)
          | none => s
        else s) k o := by
        refine .ite (.ite (hmark 1 _ _ (by decide)) (.refl s k o)) (.ite ?_ (.refl s k o))
        split
        · exact advanced_start s k o _ _ _ fun _ => (by decide : (3 : Nat) ≠ 5)
        · exact .refl s k o
      exact .ite (hstart.trans (ih _ _ _)) hstart
    | mzero => exact .trans (.ite (hmark 1 _ _ (by decide)) (.refl s k o)) (ih _ _ _)
    | mwr => exact .trans (.ite (hmark 1 _ _ (by decide)) (.refl s k o)) (ih _ _ _)
    | msta => exact .trans (.ite (hmark 1 _ _ (by decide)) (.refl s k o)) (ih _ _ _)

theorem engineRetry_matrix (s : State) (id : Nat) :
    ∃ t, exec (.engineRetry 2 id) s = .next t ∧ MemoryKept s t ∧ ∀ c ∈ t.mqueue (id / 2) (id % 2), c.stage ≠ 5 := by
  have hadv := advanced_advanceFrom (k := id / 2) (o := id % 2)
    ((s.updTile (id / 2) (fun t => t.queueOn (id % 2))).mqueue (id / 2) (id % 2)) 0 0 (s.updTile (id / 2) (fun t => t.queueOn (id % 2)))
  exact ⟨_, rfl, memoryKept_of_mem hadv.mem, hadv.held (noneHeld_queueOn s _ _)⟩

end Engines

/-! ## The clauses -/

section Clauses

variable {s : State} {k i line mask since d id a rd key : Nat} {m : Message} {rest : List Message}

theorem lineRefill_writes (h : line ∈ (s.thread k i).refill) : ∃ t, exec (.lineRefill k i line) s = .next t ∧ OnlyThreadAt s t k i ∧
    t.thread k i = { s.thread k i with lines := (t.thread k i).lines, refill := (t.thread k i).refill } ∧ (t.thread k i).hasLine line = true ∧
    line ∉ (t.thread k i).refill ∧ ∀ l, l % (s.thread k i).share ≠ line % (s.thread k i).share → (t.thread k i).hasLine l = (s.thread k i).hasLine l := by
  refine ⟨_, lineRefill_of_asked h, onlyThreadAt_updThread .., ?_⟩
  rw [thread_updThread]
  exact ⟨rfl, hasLine_putLine_same, not_mem_refill_putLine, fun _ => hasLine_putLine_other⟩

theorem fillerFetch_asks : ∃ t, exec (.fillerFetch k line) s = .next t ∧ t = { s with events := t.events } ∧
    if (primaryReads s k).length < 8 then Due t (s.cyc + 6) (.lineRefill k 8 line) else Due t (s.cyc + 16) (.fillerFetch k line) := by
  refine ⟨_, fillerFetch_eq, ?_, ?_⟩
  · exact (EventsAdded.ite (eventsAdded_schedule ..) (eventsAdded_schedule ..)).only
  · split
    · next h => exact due_schedule ..
    · next h => exact due_schedule ..

theorem tickArrival_posts : ∃ t, exec (.tickArrival k mask) s = .next t ∧ t = { s with tiles := t.tiles } ∧
    ∀ i, i < 8 → (t.thread k i).ticks = (s.thread k i).ticks +
      if mask.testBit i = true ∧ (s.tile k).prim ≠ none ∧ i < (s.launchOf k 0).nthr ∧ (s.thread k i).halted = false then 1 else 0 := by
  refine ⟨_, tickArrival_eq, tickArrival_onlyTiles _, fun i hi => ?_⟩
  exact (foldl_threads (R := fun i x y => y.ticks = x.ticks + if mask.testBit i = true ∧ (s.tile k).prim ≠ none ∧
    i < (s.launchOf k 0).nthr ∧ (s.thread k i).halted = false then 1 else 0) (fun a i => (onlyThreadAt_tickStep a).2.2)
    (fun a i => tickStep_ticks a) List.nodup_range s).1 i (List.mem_range.mpr hi)

theorem tickTaken_traps (hticks : (s.thread k i).ticks ≠ 0) (htie : (s.thread k i).tie = true) (hin : (s.thread k i).inTrap = false)
    (hvec : (s.thread k i).tvec ≠ 0#64) : ∃ t, exec (.tickTaken k i) s = .next t ∧ MemoryKept s t ∧
      (t.thread k i).ticks = 0 ∧ (t.thread k i).inTrap = true ∧ (t.thread k i).q0 = (s.thread k i).tvec.setWidth 18 ∧
      (t.thread k i).trap.tcause = 0x0E#64 ∧ (t.thread k i).trap.tval = word (min (s.thread k i).ticks 0xFFFF) ∧
      (t.thread k i).trap.epc0 = (s.thread k i).q0.setWidth 64 ∧ (t.thread k i).trap.tstat.getLsbD 2 = true ∧
      (t.thread k i).regs = (s.thread k i).regs ∧ ∀ j n, j ≠ k ∨ n ≠ i → t.thread j n = s.thread j n := by
  obtain ⟨t, h₁, h₂, hexec, hmem, hother, hthread⟩ := tickTaken_of_pending hticks htie hin hvec
  obtain ⟨hcause, hepc, hstat⟩ := enter_tick (s.thread k i) (s.cyc + (s.thread k i).rot) (word (min (s.thread k i).ticks 0xFFFF))
    ((s.thread k i).tvec.setWidth 18) h₁ h₂
  refine ⟨t, hexec, hmem, ?_⟩
  rw [hthread]
  exact ⟨rfl, rfl, rfl, hcause, rfl, hepc, hstat, rfl, hother⟩

theorem idleWake_ends {u : Nat} (hu : (s.thread k i).wait = .idle u) (hsince : (s.thread k i).waitFrom = since)
    (hnow : (s.die (dieOf k)).mailbox ≠ [] ∨ (u ≠ 0 ∧ u ≤ s.cyc)) :
    ∃ t, exec (.idleWake k i since) s = .next t ∧ OnlyThreadAt s t k i ∧ (t.thread k i).wait = .none := by
  refine ⟨_, (idleWake_of_idle hu).trans (if_pos ⟨hsince, hnow⟩), onlyThreadAt_wake s k i, ?_⟩
  rw [(woken_wake s k i).only]

theorem idleWake_waits {u : Nat} (hu : (s.thread k i).wait = .idle u)
    (hnot : (s.thread k i).waitFrom ≠ since ∨ ((s.die (dieOf k)).mailbox = [] ∧ (u = 0 ∨ s.cyc < u))) :
    exec (.idleWake k i since) s = .next s := by
  refine (idleWake_of_idle hu).trans (if_neg fun ⟨hsince, hnow⟩ => ?_)
  rcases hnot with hother | ⟨hempty, htime⟩
  · exact hother hsince
  · rcases hnow with hmail | hcome
    · exact hmail hempty
    · omega

theorem mailboxArrival_enters (hfirst : FirstPoster s d m) (hno : NoReader s d []) :
    ∃ t, exec (.mailboxArrival d m) s = .next t ∧ t = { s with dies := t.dies, events := t.events } ∧
      ((s.die d).mailbox.length < 1024 → t.die d = { s.die d with mailbox := (s.die d).mailbox ++ [m] }) ∧
      (1024 ≤ (s.die d).mailbox.length → t.die d = { s.die d with waiting := (s.die d).waiting ++ [m] }) ∧
      ∀ e ∈ proctorThreads d, ∀ u, (s.thread e.1 e.2).wait = .idle u → Due t s.cyc (.idleWake e.1 e.2 (s.thread e.1 e.2).waitFrom) := by
  have hadded := eventsAdded_wakeIdle (s.updDie d (entered m)) d
  have hdie : ((s.updDie d (entered m)).wakeIdle d).die d = entered m (s.die d) :=
    (die_of_dies hadded.dies d).trans (die_updDie s d _)
  refine ⟨_, mailboxArrival_of_noReader hfirst hno, ?_, fun hroom => hdie.trans (if_pos hroom), fun hfull => hdie.trans (if_neg (Nat.not_lt.mpr hfull)),
    fun e he u hu => due_wakeIdle (s := s.updDie d (entered m)) he hu⟩
  exact hadded.only.trans (by rw [hadded.dies]; rfl)

/-- What is read of a state after events have been added to it. -/
theorem Popped.eventsAdded {s u t : State} (h : Popped s u d k i a rd m rest) (hadded : EventsAdded u t) : Popped s t d k i a rd m rest := by
  have hdie : t.die d = u.die d := die_of_dies hadded.dies d
  obtain ⟨hmessage, hbytes, hmailbox, hdies, hwait, hread⟩ := h
  exact ⟨messageAt_of_mem hadded.mem hmessage, bytesKept_of_mem rfl hadded.mem hbytes, by rw [hdie, hmailbox], by rw [hdie, hdies],
    by rw [hadded.thread, hwait], by rwa [hadded.thread]⟩

theorem mailboxArrival_read (hfirst : FirstPoster s d m) (hk : (k, i) ∈ proctorThreads d) (hwait : (s.thread k i).wait = .mailbox a rd)
    (hno : NoReader s d [(k, i)]) (hm : (s.die d).mailbox = []) (hw : (s.die d).waiting = []) (ha : a + 32 ≤ 393216) (heven : k % 2 = 0) :
    ∃ t, exec (.mailboxArrival d m) s = .next t ∧ t.die d = s.die d ∧ MessageAt t k a m ∧ BytesKept s t k a 32 ∧ (t.thread k i).wait = .none ∧
      (rd ≠ 0 → ∀ c, s.cyc + 12 ≤ c → (t.thread k i).readAt c 0 ((s.thread k i).phys rd) = (0x8000000000000000#64).setWidth 512) := by
  have hdie : (s.updDie d (entered m)).die d = { s.die d with mailbox := [m] } := (die_updDie s d _).trans (entered_empty hm)
  obtain ⟨hmessage, hbytes, _, hleft, hnone, hread⟩ := (popped_popInto (s := s.updDie d (entered m)) (i := i) (rd := rd) (m := m) (rest := [])
    (dieOf_proctor hk) (by rw [hdie]) (by rw [hdie]; exact hw) ha).eventsAdded (eventsAdded_wakeIdle _ d)
  refine ⟨_, mailboxArrival_of_reader hfirst hk heven hwait hno hm hw, ?_, hmessage, hbytes, hnone, hread⟩
  rw [hleft, hdie]
  generalize s.die d = x at hm hw ⊢
  cases x
  cases hm
  cases hw
  rfl

theorem mailboxArrival_kept (hfirst : FirstPoster s d m) (hno : NoReader s d [(k, i)]) (hm : (s.die d).mailbox = []) (hodd : k % 2 = 1) :
    ∃ t, exec (.mailboxArrival d m) s = .next t ∧ MemoryKept s t ∧ t.tiles = s.tiles ∧ (t.die d).mailbox = [m] := by
  have hadded := eventsAdded_wakeIdle (s.updDie d (entered m)) d
  refine ⟨_, (mailboxArrival_of_first hfirst).trans (by
    rw [serveMailbox_of_noReader (noReader_updDie hno _) (fun e he => by rw [List.mem_singleton.mp he, hodd]; decide)]),
    memoryKept_of_mem hadded.mem, hadded.tiles, ?_⟩
  have hdie : ((s.updDie d (entered m)).wakeIdle d).die d = entered m (s.die d) :=
    (die_of_dies hadded.dies d).trans (die_updDie s d _)
  rw [hdie, entered_empty hm]

theorem cycleEnd_read (h : NoEvent s) (hprog : s.dueProg = none) (hact : s.nextAct = none) (hk : (k, i) ∈ proctorThreads d) (hodd : k % 2 = 1)
    (hwait : (s.thread k i).wait = .mailbox a rd) (hno : NoReader s d [(k, i)]) (hm : (s.die d).mailbox = m :: rest) (hw : (s.die d).waiting = [])
    (hothers : ∀ e ∈ s.dies, e.1 ≠ d → e.2.mailbox = []) (hout : ∀ e ∈ s.outbox, s.cyc < e.due) (ha : a + 32 ≤ 393216) :
    ∃ t, step s = .next t ∧ t.cyc = s.cyc + 1 ∧ MessageAt t k a m ∧ BytesKept s t k a 32 ∧ (t.die d).mailbox = rest ∧ (t.thread k i).wait = .none ∧
      (rd ≠ 0 → ∀ c, s.cyc + 12 ≤ c →
        (t.thread k i).readAt c 0 ((s.thread k i).phys rd) = (0x8000000000000000#64 + word rest.length).setWidth 512) := by
  obtain ⟨hmessage, hbytes, hmailbox, _, hnone, hread⟩ := popped_popInto (i := i) (rd := rd) (dieOf_proctor hk) hm hw ha
  refine ⟨_, step_of_cycleEnd h hprog hact, rfl, ?_⟩
  rw [endCycle_of_reader hk hodd hwait hno hm hw hothers hout]
  exact ⟨hmessage, hbytes, hmailbox, hnone, hread⟩

theorem engineRetry_again (h : s.pslotOf id = some key) (hst : (s.prog key).st = 3) (hverdict : (s.prog key).verdict = 1) :
    ∃ t, exec (.engineRetry 1 id) s = .next t ∧ t = { s with progs := t.progs } ∧
      t.prog key = { s.prog key with st := 1, verdict := 0, due := s.cyc } ∧ ∀ j, j ≠ key → t.prog j = s.prog j :=
  ⟨_, (engineRetry_program h).trans (by rw [if_neg (fun hne => hne hst), if_pos hverdict]), rfl, prog_updProg .., fun _ hj => prog_updProg_other s _ hj⟩

theorem engineRetry_ends (h : s.pslotOf id = some key) (hst : (s.prog key).st = 3) (hverdict : (s.prog key).verdict = 2)
    (hwrote : (s.prog key).wrote = []) (hmove : s.moveWindow key = []) :
    ∃ t, exec (.engineRetry 1 id) s = .next t ∧ MemoryKept s t ∧ (t.prog key).st = 6 ∧
      (t.prog key).status = if (s.prog key).status = 0 then 1 else (s.prog key).status := by
  have hadded := failProg_of_noWindow hwrote hmove
  have hprog : (s.failProg key).prog key = failed (s.prog key) := (congrArg (fun x => Tab.get x key) hadded.progs).trans (prog_updProg s key _)
  refine ⟨_, (engineRetry_program h).trans (by rw [if_neg (fun hne => hne hst), if_neg (by rw [hverdict]; decide), if_pos hverdict]),
    memoryKept_of_mem hadded.mem, ?_, ?_⟩
  · rw [hprog]; rfl
  · rw [hprog]; rfl

theorem engineRetry_waits (h : s.xfers.get id = none ∨ ∃ x, s.xfers.get id = some x ∧ x.verdict = 0) : exec (.engineRetry 0 id) s = .next s := by
  obtain hnone | ⟨x, hx, hverdict⟩ := h
  · exact engineRetry_noTransfer hnone
  · rw [engineRetry_transfer hx, hverdict]
    rfl

end Clauses

/-- Settles O54: every event answers a state, and clause by clause what the states are. -/
theorem fetchAndProctorEvents : Obligations.FetchAndProctorEvents := by
  unfold Obligations.FetchAndProctorEvents
  refine ⟨fun _ _ _ => exec_answers _, fun _ _ => exec_answers _, fun _ _ => exec_answers _, fun _ _ => exec_answers _,
    fun _ _ _ => exec_answers _, fun _ _ => exec_answers _, fun _ _ => exec_answers _, fun _ _ => exec_answers _,
    fun k i line s => ⟨lineRefill_writes, lineRefill_of_notAsked⟩, fun k line s => fillerFetch_asks, fun k mask s => tickArrival_posts,
    fun k i s => ⟨tickTaken_traps, tickTaken_of_none⟩,
    fun k i since s => ⟨fun u => idleWake_ends, fun u => idleWake_waits, idleWake_of_noIdle⟩,
    fun d m s hfirst => ⟨mailboxArrival_enters hfirst, fun k i a rd hk hwait hno hm hw ha =>
      ⟨mailboxArrival_read hfirst hk hwait hno hm hw ha, mailboxArrival_kept hfirst hno hm⟩⟩,
    fun d k i a rd m rest s => cycleEnd_read,
    fun k s => ⟨fun hparked => ?_, tileResume_of_notParked⟩,
    fun id s => ⟨fun x => engineRetry_goesOn, fun x => engineRetry_fails, engineRetry_waits,
      fun key h => ⟨engineRetry_again h, engineRetry_ends h, fun hst => (engineRetry_program h).trans (by rw [if_pos hst])⟩,
      engineRetry_noProgram, engineRetry_matrix s id⟩⟩
  exact tileResume_resumes hparked

end Sys2Proof.Proofs.FetchAndProctors
